-- ==== Sys2Proof/Word.lean ====
section
/-! DEFINITION. The word types of the C9 and their plainest arithmetic (00_scope.md notation, R102). -/

namespace Sys2Proof

/-- A byte (R86: memory is byte addressed and little-endian). -/
abbrev Byte := BitVec 8
/-- A 32-bit lane or scalar word (R102). -/
abbrev Word := BitVec 32
/-- A 64-bit pair or address (R70, R71, R125). -/
abbrev DWord := BitVec 64
/-- One bit a lane, lane n at bit n: am0 is bits [31:0], am1 [63:32], am2 [95:64] (R37). -/
abbrev Mask := BitVec 96
/-- The number in a 7-bit register field (R69, R71). -/
abbrev Reg := BitVec 7

/-- Lanes of a group (R37). -/
abbrev nLanes : Nat := 96

/-- Field [hi:lo] of a natural number read as bits. -/
def bitField (w hi lo : Nat) : Nat := w / 2 ^ lo % 2 ^ (hi + 1 - lo)

/-- The pair value with `hi` in bits [63:32] and `lo` in bits [31:0] (R70, R71). -/
def pairOf (hi lo : Word) : DWord := hi ++ lo

/-- Bits [31:0] of a 64-bit value. -/
def loWord (x : DWord) : Word := x.setWidth 32

/-- Bits [63:32] of a 64-bit value. -/
def hiWord (x : DWord) : Word := (x >>> 32).setWidth 32

end Sys2Proof
end

