-- ==== Sys2Proof/Config.lean ====
section
/-! DEFINITION. What an implementation fixes and the free values: the values the manual calls undefined (R1) or leaves
to the device. A free value is a constant with no body, so nothing can be proved about which value it is. -/

namespace Sys2Proof.Config

/-- The four special functions whose result bits R108 leaves to the device within a bound. -/
inductive SpecialFn where
  | rcp | rsq | ex2 | lg2
  deriving DecidableEq, Repr

/-- The byte that an undefined location (R1) holds: by the undefining event's nonce and the location. Log entry 2. -/
opaque freeByte : Nat → Nat → Byte

/-- A free yes-or-no choice of the device, by nonce: whether an atomic runs in L1 or at its home slice (R143). Log entry 2. -/
opaque freeBool : Nat → Bool

/-- The turn of a lane among the lanes of one VATOM that name one location (R142), by nonce. Log entry 10. -/
opaque laneTurn : Nat → Nat → Nat

/-- The bits of the C9's own evaluation of a special function (R108); used only within the bound of R108. Log entry 2. -/
opaque specialBits : SpecialFn → Word → Word

/-- The SHA-384 measurement of a firmware stage of a package (R275). Log entry 2. -/
opaque measurement : Nat → Nat → BitVec 384

/-- A signature of an attestation report by one of the package's two identity keys (R275): by package, key and what the report covers. Log
entry 2. -/
opaque signature {α : Type} : Nat → Nat → α → List (BitVec 8)

/-- What the management block's scan of internal state gives a host (R276): by nonce and the number read. Log entry 82. -/
opaque scan : Nat → Nat → BitVec 32

/-- How many firmware stages the attestation report measures (R275). Log entry 2. -/
opaque firmwareStages : Nat

/-- Groups a partition holds (01_device.md, R41). -/
def slotsPerPartition : Nat := 8
/-- Partitions of a core (R8, 01_device.md). -/
def partitionsPerCore : Nat := 32
/-- Split entries of a partition (R41). -/
def splitEntriesPerPartition : Nat := 16
/-- Vector register bytes of a partition (R76). -/
def partitionRegisterBytes : Nat := 131072
/-- Bytes of a core's scratchpad window (R132). -/
def scratchBytes : Nat := 2097152
/-- Bytes of a scratchpad slice (R132). -/
def sliceBytes : Nat := 262144
/-- Devices that a pod of 1,024 packages can present (R4, R13). -/
def devices : Nat := 8192
/-- Words of a sequencer's instruction cache of 16 KiB (R8). -/
def seqCacheWords : Nat := 4096
/-- Bytes of a weight-buffer quarter (R174). -/
def wbufQuarterBytes : Nat := 4194304
/-- Accumulator rows of a quarter (R174). -/
def accQuarterRows : Nat := 256
/-- Format records for each quarter held (R180). -/
def recordsPerQuarter : Nat := 16
/-- Fork queue entries of a quad (R174). -/
def forkQueueEntries : Nat := 8
/-- Ended programs that a quad's fate record keeps (R179). -/
def fateEntries : Nat := 64
/-- Tasks that one global queue of a VF holds (R199). -/
def taskQueueEntries : Nat := 1024
/-- Entries of a core's task queue (R203). -/
def coreQueueEntries : Nat := 64
/-- Forwarding-buffer entries of a core (R63). -/
def forwardEntriesPerCore : Nat := 64
/-- Spill entries of the FE die (R63). -/
def spillEntries : Nat := 4096
/-- Spill entries reserved for the oldest unfinished item (R63). -/
def spillReserved : Nat := 4
/-- Remote operations a group may hold unacknowledged (R252). -/
def remoteEntries : Nat := 64
/-- Entries of a core's TLB (R126). -/
def tlbEntries : Nat := 2048
/-- Entries of the cairn directory and of the key table (R4, R211). -/
def directoryEntries : Nat := 65536
/-- Triples that an IO die's window memory holds (R255). -/
def triplesPerIoDie : Nat := 16384
/-- Packets a window may have outstanding (R255). -/
def windowSize : Nat := 1024
/-- Flits a port's retry buffer holds (R255). -/
def retryBufferFlits : Nat := 2048
/-- Ticks of 10 ns after which an unacknowledged packet is replayed (R258). -/
def replayTicks : Nat := 2000
/-- Ticks without a route after which a remote operation is stranded (R259). -/
def strandTicks : Nat := 1000000
/-- Ticks of one second, the window of the DEGRADED rule (R254). -/
def degradeTicks : Nat := 100000000
/-- HBM bytes of one compute die: two stacks of 48 GB (R4, R8), read as powers of two. Log entry 7. -/
def hbmBytesPerDie : Nat := 2 * 48 * 2 ^ 30

end Sys2Proof.Config
end

