-- ==== Sys2Proof/Syntax.lean ====
section
/-! DEFINITION. The instructions of the C9 (R93, R94) and the steps of its other agents (95_what_each_step_holds.md):
one constructor for each row of spec/opcode_table.json. -/

namespace Sys2Proof

/-- Element type of an L-set integer instruction, by fn code 0-3 (R363). -/
inductive ElemTy where
  | i32 | n32 | i16x2 | i8x4
  deriving DecidableEq, Repr

/-- A vector source operand (R69): a register, a forwarding port, `zero`, `lane`, or the trailing literal. -/
inductive VSrc where
  | reg (n : Reg)
  | port (p : BitVec 2)
  | zero
  | lane
  | lit (w : Word)
  deriving DecidableEq, Repr

/-- Operand B of the UR format (R92): a scalar register or the trailing literal. -/
inductive SSrc where
  | reg (n : Reg)
  | lit (w : Word)
  deriving DecidableEq, Repr

/-- Binary L-set operands: keep bits, destination field, two sources (R90). -/
structure VBin where
  keepA : Bool
  keepB : Bool
  vd : Reg
  a : VSrc
  b : VSrc
  deriving DecidableEq, Repr

/-- Unary L-set operands; vb holds 124 (R93). -/
structure VUn where
  keepA : Bool
  keepB : Bool
  vd : Reg
  a : VSrc
  deriving DecidableEq, Repr

/-- Integer compare conditions (R95). -/
inductive Cond where
  | eq | ne | lt | le | gt | ge
  deriving DecidableEq, Repr

/-- Float compare conditions (R95). -/
inductive FCond where
  | eq | ne | lt | le | gt | ge | uo | ord
  deriving DecidableEq, Repr

/-- Sign pattern of VFMA and SFMA (R93, R331): none, `.np`, `.nc`, `.npc`. -/
inductive SignPat where
  | pp | np | nc | npc
  deriving DecidableEq, Repr

/-- VTAG's functions (R411). -/
inductive TagFn where
  | read | toU | toA | toG
  deriving DecidableEq, Repr

/-- VVOTE's functions (R413). -/
inductive VoteFn where
  | ballot | any | all | count
  deriving DecidableEq, Repr

/-- Format codes 0-9 of the convert, pack and unpack words (R95). -/
inductive Fmt where
  | i32 | n32 | f32 | bf16 | e4m3 | hs4 | i16 | i8 | n16 | n8
  deriving DecidableEq, Repr

/-- Rounding modes (R95). -/
inductive Rm where
  | rn | rz | rd | ru
  deriving DecidableEq, Repr

/-- VSHFL's modes (R95). -/
inductive ShflMode where
  | idx | up | down | xor | rot
  deriving DecidableEq, Repr

/-- Reduction operations (R95). -/
inductive RedOp where
  | add | min | max | and | or | xor | fadd | fmin | fmax
  deriving DecidableEq, Repr

/-- Atomic operation codes 0-11 (R95). -/
inductive Aop where
  | add | min | max | nmin | nmax | and | or | xor | exch | cas | fadd | ld
  deriving DecidableEq, Repr

/-- Orderings of the UM format (R92). -/
inductive Ord4 where
  | none | acq | rel | acqrel
  deriving DecidableEq, Repr

/-- Scopes 0-4 (R92, R149). -/
inductive Scope where
  | core | quad | die | pkg | pod
  deriving DecidableEq, Repr

/-- Memory widths of the LM format (R90). -/
inductive Width where
  | w8 | w16 | w32 | w64
  deriving DecidableEq, Repr

/-- LM operands: width, data register, offset vector, base pair, sign extension and cache policy (R90, R91). -/
structure LmOp where
  width : Width
  vd : Reg
  off : VSrc
  pair : BitVec 6
  sx : Bool
  policy : BitVec 2
  deriving DecidableEq, Repr

/-- UM operands (R92, R326). -/
structure UmOp where
  sd : Reg
  pair : BitVec 6
  ord : Ord4
  scope : Scope
  off : BitVec 7
  deriving DecidableEq, Repr

/-- Scalar three-operand form of R323: destination, source, operand B and the `.64` bit. -/
structure SOp where
  w64 : Bool
  sd : Reg
  sa : Reg
  b : SSrc
  deriving DecidableEq, Repr

/-- The VATOM control word and its data fields (R367). -/
structure VAtomOp where
  w64 : Bool
  keepA : Bool
  keepB : Bool
  vd : Reg
  off : VSrc
  data : VSrc
  ret : Bool
  rsp : Bool
  aop : Aop
  ord : Ord4
  scope : Scope
  base : BitVec 6
  cmpv : Reg
  deriving DecidableEq, Repr

/-- The SATOM control word (R327). -/
structure SAtomCw where
  rsp : Bool
  aop : Aop
  w64 : Bool
  sb : Reg
  sc : Reg
  deriving DecidableEq, Repr

/-- Conditions of BCC (R286): ≠ 0, = 0, < 0, ≥ 0. -/
inductive BccCond where
  | ne | eq | lt | ge
  deriving DecidableEq, Repr

/-- Asynchronous-work counters (R79). -/
inductive Counter where
  | cpy | msg | pbl
  deriving DecidableEq, Repr

/-- Conditions of SCMP (R330). -/
inductive SCond where
  | eq | ne | lt | le | gt | ge | ltN | geN
  deriving DecidableEq, Repr

/-- Barrier levels (R96). -/
inductive BarLevel where
  | grp | block | quad | grid | pod
  deriving DecidableEq, Repr

/-- CPY's direction (R138). -/
inductive CpyKind where
  | g2s | s2g | s2s
  deriving DecidableEq, Repr

/-- CPY's transpose form (R298). -/
inductive CpyTr where
  | none | t8 | t16
  deriving DecidableEq, Repr

/-- Lifetime class of a cairn (R222). -/
inductive Life where
  | launch | stream | tenant
  deriving DecidableEq, Repr

/-- CHAND's target (R293). -/
inductive ChandKind where
  | succ (i : BitVec 3)
  | task (sb : Reg)
  | core (c : BitVec 8)
  deriving DecidableEq, Repr

/-- Weight formats (R180). -/
inductive WFmt where
  | fp8 | hs4 | bf16
  deriving DecidableEq, Repr

/-- Drain formats of MDRN (R122). -/
inductive DFmt where
  | f32 | bf16 | f8
  deriving DecidableEq, Repr

/-- Presentation modes (R13). -/
inductive Mode where
  | whole | halves | dies
  deriving DecidableEq, Repr

/-- A field of the policy that the PF or system software sets for a VF (R272), or for its package (R13), pod (R261) or images (R34). -/
inductive PolicyField where
  | coreSet (coords : List Nat)
  | slices (coord : Nat) (idx : List Nat)
  | quarters (quad : Nat) (idx : List Nat)
  | scopeMax (s : Scope)
  | descTable (base : DWord) (count : Nat)
  | ptRoot (a : DWord)
  | thandler (a : DWord)
  | debugTemplate (dbgctl : Word) (bpa : List Word) (bpm : List Mask) (wpa : List DWord) (wpl : List Word) (host : Bool)
  | directoryShare (n : Nat)
  | mirrorArea (base : DWord) (size : Nat)
  | balance (t : Nat)
  | cairnBalance (t : Nat)
  | triple (dstPkg dstVf : Nat)
  | dropTriple (dstPkg : Nat)
  | region (base : DWord) (size : Nat) (scope : Scope)
  | mode (m : Mode)
  | podLaunch (number : Nat) (pkgs : List Nat)
  | image (desc : Nat) (addr : DWord) (size : Nat)
  | coord8 (desc : Nat) (addr : DWord) (index : Nat)
  | link (port peerPkg peerPort : Nat)
  deriving DecidableEq, Repr

/-- What the dispatcher places (R51, R64, R203, R209). -/
inductive DispatchTarget where
  | launch (lid : Nat)
  | task (uid : Nat)
  | node (lid node : Nat)
  deriving DecidableEq, Repr

/-- What the host debug interface reaches: a group (R237), or the management block's scan of a package (R276). -/
inductive DebugTarget where
  | group (gid : Nat)
  | scan (pkg : Nat)
  deriving DecidableEq, Repr

/-- A host access over PCIe: device memory (R167) or a BAR0 register of a VF (R267). -/
inductive HostAccess where
  | read (dev addr len : Nat)
  | write (dev addr : Nat) (bytes : List Byte)
  | barRead (vf off : Nat)
  | barWrite (vf off : Nat) (v : DWord)
  deriving DecidableEq, Repr

/-- A link check's outcome for one flit (R254): good at retry n (1-8), or bad after the 8th retry. -/
inductive FlitOutcome where
  | goodAt (retry : Nat)
  | bad
  deriving DecidableEq, Repr

/-- One constructor for each row of spec/opcode_table.json: the encoded instructions in the table's order, then the
steps of the device, system software and the host. Identifiers of the second part: `vf` is package × 256 + VF number,
`core` is package × 256 + logical coordinate (R5), `quad` is package × 64 + bits [7:2] of the coordinate, `dev` is
package × 8 + device index of the presentation mode (R13). -/
inductive Instr where
  -- L-set integer (R363)
  | vadd (t : ElemTy) (o : VBin)
  | vsub (t : ElemTy) (o : VBin)
  | vmul (t : ElemTy) (o : VBin)
  | vmulh (natural : Bool) (o : VBin)
  | vmad (t : ElemTy) (o : VBin)
  | vmin (t : ElemTy) (nat : Bool) (o : VBin)
  | vmax (t : ElemTy) (nat : Bool) (o : VBin)
  | vabs (t : ElemTy) (o : VUn)
  | vand (o : VBin)
  | vor (o : VBin)
  | vxor (o : VBin)
  | vshl (t : ElemTy) (o : VBin)
  | vshr (t : ElemTy) (o : VBin)
  | vsar (t : ElemTy) (o : VBin)
  | vclz (t : ElemTy) (o : VUn)
  | vpopc (t : ElemTy) (o : VUn)
  | vbfx (sx : Bool) (o : VBin)
  | vbfi (o : VBin)
  | vcmp (c : Cond) (t : ElemTy) (nat : Bool) (o : VBin)
  | vsel (mask : Reg) (o : VBin)
  | vmov (o : VUn)
  | vbcast (keepA keepB : Bool) (vd sa : Reg)
  | vtag (f : TagFn) (o : VUn)
  -- L-set float (R375)
  | vfadd (o : VBin)
  | vfsub (o : VBin)
  | vfmul (o : VBin)
  | vfma (p : SignPat) (o : VBin)
  | vfmin (o : VBin)
  | vfmax (o : VBin)
  | vfcmp (c : FCond) (o : VBin)
  | vfrcp (o : VUn)
  | vfrsq (o : VUn)
  | vfex2 (o : VUn)
  | vflg2 (o : VUn)
  -- L-set conversions and lane movement
  | vcvt (elem : BitVec 2) (scl nosat : Bool) (rm : Rm) (dst src : Fmt) (o : VBin)
  | vpack (nosat : Bool) (rm : Rm) (dst : Fmt) (o : VBin)
  | vunpk (part : BitVec 2) (src : Fmt) (o : VUn)
  | vbperm (hi : Bool) (o : VBin)
  | vshfl (m : ShflMode) (delta : Reg) (o : VBin)
  | vscan (op : RedOp) (t : ElemTy) (nat excl : Bool) (o : VUn)
  | vred (op : RedOp) (t : ElemTy) (nat : Bool) (o : VUn)
  | vvote (f : VoteFn) (o : VUn)
  -- L-set memory
  | vld (o : LmOp)
  | vst (o : LmOp)
  | vlds (o : LmOp)
  | vsts (o : LmOp)
  | vatom (o : VAtomOp)
  -- U-set integer (R323)
  | sadd (o : SOp)
  | ssub (o : SOp)
  | smul (o : SOp)
  | smulh (natural : Bool) (o : SOp)
  | sand (o : SOp)
  | sor (o : SOp)
  | sxor (o : SOp)
  | sshl (o : SOp)
  | sshr (o : SOp)
  | ssar (o : SOp)
  | smin (natural : Bool) (o : SOp)
  | smax (natural : Bool) (o : SOp)
  | scmp (c : SCond) (sd sa : Reg) (b : SSrc)
  | ssel (o : SOp)
  | smov (w64 : Bool) (sd : Reg) (b : SSrc)
  | smovi (sd : Reg) (imm : BitVec 18)
  | sclz (w64 : Bool) (sd sa : Reg)
  | spopc (w64 : Bool) (sd sa : Reg)
  | sbfx (sx : Bool) (sd sa : Reg) (b : SSrc)
  | sfadd (sd sa : Reg) (b : SSrc)
  | sfmul (sd sa : Reg) (b : SSrc)
  | sfma (p : SignPat) (sd sa : Reg) (b : SSrc)
  -- U-set memory (R326)
  | sld (o : UmOp)
  | sst (o : UmOp)
  | slds (o : UmOp)
  | ssts (o : UmOp)
  | satom (o : UmOp) (c : SAtomCw)
  | slr (o : UmOp)
  | ssc (o : UmOp)
  | fence (ord : Ord4) (scope : Scope)
  -- control
  | bra (off : BitVec 25)
  | bcc (c : BccCond) (sa : Reg) (off : BitVec 16)
  | bdiv (clr : Bool) (sa : Reg) (off : BitVec 16)
  | call (off : BitVec 25)
  | ret
  | exit
  | nop
  | yield (c : Option Counter) (sa : Reg) (off : BitVec 16)
  | waitc (c : Counter) (b : SSrc)
  | bkpt (code : BitVec 25)
  | trap (code : BitVec 25)
  | tret
  -- system
  | srd (sd : Reg) (b : SSrc)
  | swr (sa : Reg) (b : SSrc)
  | clk (tb : Bool) (sd : Reg)
  -- groups together
  | regrp (first count : Reg)
  | bar (l : BarLevel) (id : BitVec 4)
  | bara (l : BarLevel) (id : BitVec 4) (sd : Reg)
  | bard (l : BarLevel) (id : BitVec 4)
  | barw (l : BarLevel) (id : BitVec 4) (sa : Reg)
  | fsend (port : BitVec 2)
  -- asynchronous work
  | cpy (k : CpyKind) (sh : Bool) (tr : CpyTr) (trows tcols : Byte) (sd sa sb : Reg)
  | publ (sa : Reg)
  | mqput (core : Byte) (queue : BitVec 4) (len : BitVec 5) (sd sa : Reg)
  | mqget (queue : BitVec 4) (len : BitVec 5) (sd : Reg)
  | mqfree (core : Byte) (queue : BitVec 4) (sa : Reg)
  | mfork (narg : BitVec 4) (off : BitVec 25) (sd sa : Reg)
  | mrdv (sa : Reg)
  | tsub (nb spm : Bool) (sd sa : Reg)
  | temit (nb : Bool) (succ : BitVec 3) (sd va : Reg)
  | spawn (off : BitVec 25) (sd sa : Reg)
  | krel (b : SSrc)
  -- cairns (R213)
  | cnew (size : BitVec 10) (life : Life) (mir : Bool) (sd sa : Reg)
  | copen (nomove : Bool) (sd sa : Reg)
  | chand (k : ChandKind) (sd sa : Reg)
  | cdrop (free : Bool) (sd sa : Reg)
  | cinfo (sync : Bool) (sd sa : Reg)
  -- sequencer family (R183)
  | mres (fmt : WFmt) (sp ts : Bool) (sd sa : Reg)
  | mwld (len : BitVec 24) (sa sb : Reg)
  | mldw (blk : BitVec 12) (sa : Reg)
  | mma (mm1 acc : BitVec 10) (sa sb : Reg)
  | mdist (mm1 acc : BitVec 10) (sd sa sb : Reg)
  | mtopk (mm1 acc : BitVec 10) (km1 : BitVec 4) (min : Bool) (sa sb : Reg)
  | mdrn (mm1 acc : BitVec 10) (fmt : DFmt) (sh dst : Bool) (sa sb : Reg)
  | mzero (regs : BitVec 16)
  -- host queues and launches
  | doorbellWrite (vf q : Nat) (tail : Word)
  | launch (vf q : Nat)
  | graphLaunch (vf q : Nat)
  | launchComplete (lid : Nat)
  | terminationWave (lid : Nat)
  | blockDispatch (t : DispatchTarget) (cores : List Nat)
  | admissionRound (pkg : Nat)
  | queueDepthExchange (pkg : Nat)
  | flushTimeout (lid node : Nat)
  -- steps inside a group's life
  | yieldTimeout (gid split : Nat)
  | pendingWriteComplete (gid : Nat)
  | contextRelease (gid : Nat)
  | splitMerge (gid a b : Nat)
  | deferralRejoin (gid split : Nat)
  | forwardArrival (lid item port : Nat)
  | trapEntry (gid : Nat)
  | nestedTrap (gid : Nat) (cause : Byte)
  -- writes of system registers with a behaviour of their own (R230)
  | tkillWrite (v : Word)
  | barecntWrite (level id : Nat) (v : Word)
  | portstatWrite (port : Nat) (v : Word)
  | portlaneWrite (port lane : Nat) (v : Word)
  | frameWrite (w : Nat) (v : Word)
  | mqcfgWrite (q : Nat) (v : Word)
  | cpystatWrite (v : Word)
  | systemRegisterWrite (n : BitVec 16) (v : Word)
  | pcBreakpoint (gid split : Nat)
  -- errors, pre-emption
  | shadowRetry (gid split : Nat) (lanes : List Nat) (first second : List Word)
  | scrubError (dev addr : Nat)
  | preemption (gid : Nat)
  | resumption (gid : Nat) (places : List (Nat × Nat × Nat))
  | sequencerPreemption (quad : Nat)
  | sequencerResumption (quad serial : Nat)
  -- completions of asynchronous work
  | copyComplete (id : Nat)
  | messageAppend (id : Nat)
  | publSwap (id : Nat)
  | cairnMoveComplete (vf : Nat) (name : DWord)
  | cairnWritebackComplete (id : Nat)
  -- matrix engine
  | sequencerProgramStart (quad : Nat)
  | sequencerProgramEnd (quad : Nat)
  | mwldComplete (quad op : Nat)
  | weightPlaneLoaded (quad op : Nat)
  | engineRingSlot (quad op : Nat)
  -- fabric
  | flitCheckFail (pkg port : Nat) (o : FlitOutcome)
  | packetArrival (flight : Nat)
  | replayTimeout (win : Nat)
  | routeTableChange (pkg dst : Nat) (ports : List Nat)
  | linkReturn (pkg port : Nat)
  | strandTimeout (win : Nat)
  | strandResolution (win : Nat) (reachable : Bool)
  | podBarrierBreak (number : Nat) (pkg : Nat)
  | ctlReset (peer vf : Nat)
  | functionLevelReset (vf : Nat)
  -- reset, trust, policy, power, host
  | coldReset (pkg : Nat)
  | wipeComplete (pkg : Nat)
  | firmwareBoot (pkg : Nat) (rsaOk slhOk : Bool)
  | attestationRequest (vf : Nat) (nonce : List Byte)
  | deployCommand (pkg : Nat) (rsaOk slhOk : Bool)
  | unlockCommand (pkg : Nat) (tokenOk : Bool)
  | relockCommand (pkg : Nat)
  | decommissionCommand (pkg : Nat) (signed : Bool)
  | policyWrite (vf : Nat) (f : PolicyField)
  | tlbInvalidation (core vf : Nat)
  | hbmWipe (dev addr len : Nat)
  | quadRemap (pkg die quad : Nat)
  | powerStateEntry (pkg : Nat)
  | powerStateExit (pkg : Nat)
  | hostDebugAccess (target : DebugTarget) (n : BitVec 16) (write : Option Word)
  | hostMemoryAccess (a : HostAccess)
  | hostQueueDestroy (vf q : Nat)
  deriving DecidableEq, Repr

end Sys2Proof
end

