-- ==== Sys2Proof/WellFormed.lean ====
section
/-! DEFINITION. Which instruction terms an encoding can stand for: the static limits of R69-R71, R87, R93-R97 and of the
reference entries (steps 2 and 5 of R98). A group-dependent limit (the `.regs` count, declared ports and barriers, the
sequencer's 64 registers) is checked by the machine, not here. -/

namespace Sys2Proof

/-- A vector destination field names v0-v119 (R69). -/
def dstOk (d : Reg) : Bool := d.toNat < 120

/-- A vector source: a register below 120, a special code, or a literal where `lit` allows one (R69, R87). -/
def VSrc.ok (lit : Bool) : VSrc → Bool
  | .reg n => n.toNat < 120
  | .lit _ => lit
  | _ => true

/-- Two literals share the one trailing word (R27). -/
def sameLit : VSrc → VSrc → Bool
  | .lit x, .lit y => x == y
  | _, _ => true

/-- An LR binary instruction's sources (R27, R69). -/
def VBin.srcOk (o : VBin) : Bool := o.a.ok true && o.b.ok true && sameLit o.a o.b

/-- An LR binary instruction with a vector destination. -/
def VBin.ok (o : VBin) : Bool := dstOk o.vd && o.srcOk

/-- An LX binary instruction's sources hold no literal (R87). -/
def VBin.lxSrcOk (o : VBin) : Bool := o.a.ok false && o.b.ok false

/-- An LX binary instruction with a vector destination. -/
def VBin.lxOk (o : VBin) : Bool := dstOk o.vd && o.lxSrcOk

/-- An LR unary instruction with a vector destination. -/
def VUn.ok (o : VUn) : Bool := dstOk o.vd && o.a.ok true

/-- An LX unary instruction with a vector destination. -/
def VUn.lxOk (o : VUn) : Bool := dstOk o.vd && o.a.ok false

/-- A packed element type (R102). -/
def ElemTy.packed : ElemTy → Bool
  | .i16x2 | .i8x4 => true
  | _ => false

/-- NAT applies to packed types only (R95). -/
def natOk (nat : Bool) (t : ElemTy) : Bool := !nat || t.packed

/-- A register number is even (R70, R71). -/
def Reg.even (r : Reg) : Bool := r.toNat % 2 == 0

/-- A base of three scalar registers (R21). -/
def tripleOk (r : Reg) : Bool := r.toNat ≤ 125

/-- Elements per lane of a packed format; 1 for the 32-bit formats (R95, R374). -/
def Fmt.elems : Fmt → Nat
  | .i32 | .n32 | .f32 => 1
  | .bf16 | .i16 | .n16 => 2
  | .e4m3 | .i8 | .n8 => 4
  | .hs4 => 8

/-- A 32-bit format (R374). -/
def Fmt.isWide (f : Fmt) : Bool := f.elems == 1

/-- The 48 legal conversions: different formats, one of them 32-bit (R374). -/
def cvtPairOk (dst src : Fmt) : Bool := dst != src && (dst.isWide || src.isWide)

/-- ELEM's limit: below the packed side's elements per lane; 0 when both sides are 32-bit (R374). -/
def cvtElemOk (elem : BitVec 2) (dst src : Fmt) : Bool :=
  elem.toNat < (if dst.isWide then src.elems else dst.elems)

/-- Whether a reduction operation is a float one (R95). -/
def RedOp.isFloat : RedOp → Bool
  | .fadd | .fmin | .fmax => true
  | _ => false

/-- The limits of the reduction word (R400). -/
def redOk (op : RedOp) (t : ElemTy) (nat : Bool) : Bool :=
  (!op.isFloat || t == .i32) && (!nat || ((op == .min || op == .max) && t.packed))

/-- LM limits: data register, offset, sign extension and policy (R90, R91, R387). -/
def LmOp.ok (load scratch : Bool) (o : LmOp) : Bool :=
  dstOk o.vd && o.off.ok false
    && (!o.sx || (load && (o.width == .w8 || o.width == .w16)))
    && (!scratch || o.policy == 0)
    && (o.width != .w64 || Reg.even o.vd)

/-- VATOM's limits (R367). -/
def VAtomOp.ok (o : VAtomOp) : Bool :=
  dstOk o.vd && o.off.ok false
    && (match o.data with
        | .reg n => o.aop != .ld && n.toNat < 120 && (!o.w64 || Reg.even n)
        | .zero => o.aop == .ld
        | _ => false)
    && (o.ret || o.vd == 0) && (o.aop != .ld || o.ret)
    && (!o.w64 || (Reg.even o.vd && Reg.even o.cmpv && o.aop != .fadd))
    && (o.aop == .cas || o.cmpv == 0) && o.cmpv.toNat < 120
    && (!o.rsp || o.ord == .acq || o.ord == .acqrel)

/-- Operand B of a `.64` form is an even pair or a literal (R71, R88). -/
def SSrc.ok (w64 : Bool) : SSrc → Bool
  | .reg n => !w64 || Reg.even n
  | .lit _ => true

/-- The limits of R323. -/
def SOp.ok (o : SOp) : Bool := (!o.w64 || (Reg.even o.sd && Reg.even o.sa)) && o.b.ok o.w64

/-- Orderings a scalar load or SLR accepts (R326). -/
def Ord4.loadOk (o : Ord4) : Bool := o == .none || o == .acq
/-- Orderings a scalar store or SSC accepts (R326). -/
def Ord4.storeOk (o : Ord4) : Bool := o == .none || o == .rel

/-- SATOM's limits (R327). -/
def satomOk (o : UmOp) (c : SAtomCw) : Bool :=
  (!c.w64 || (Reg.even o.sd && o.sd.toNat ≤ 122 && Reg.even c.sb && Reg.even c.sc && c.aop != .fadd))
    && (c.aop != .ld || c.sb == 0) && (c.aop == .cas || c.sc == 0)
    && (!c.rsp || o.ord == .acq || o.ord == .acqrel)

/-- The barrier family's level and id (R96, R281). -/
def barOk (isBar : Bool) (l : BarLevel) (id : BitVec 4) : Bool :=
  if l == .grp then isBar && id == 0 else true

/-- CPY's limits (R298). -/
def cpyOk (k : CpyKind) (sh : Bool) (tr : CpyTr) (trows tcols : Byte) (sa sb : Reg) : Bool :=
  Reg.even sa && Reg.even sb && (!sh || k == .s2g)
    && (if tr == .none then trows == 0 && tcols == 0 else trows != 0 && tcols != 0)

/-- The cairn family's register limits (R213). -/
def cairnOk (sd sa : Reg) : Bool := Reg.even sd && sd.toNat ≤ 122 && Reg.even sa

/-- A sequencer register field names s0-s63 (R175). -/
def seqReg (r : Reg) : Bool := r.toNat < 64

/-- A ring operand: a multiple of 4, at most 60 (R187). -/
def ringReg (r : Reg) : Bool := r.toNat % 4 == 0 && r.toNat ≤ 60

/-- The row word's accumulator range (R95). -/
def rowsOk (mm1 acc : BitVec 10) : Bool := acc.toNat + mm1.toNat ≤ 1023

/-- A VF's number with its package: 1,024 packages of 256 VFs (R4, R253). -/
def vfOk (vf : Nat) : Bool := vf < 1024 * 256
/-- A package number of a pod (01_device.md, R253). -/
def pkgOk (p : Nat) : Bool := p < 1024
/-- A core's number with its package. -/
def coreOk (c : Nat) : Bool := c < 1024 * 256
/-- A quad's number with its package. -/
def quadOk (q : Nat) : Bool := q < 1024 * 64
/-- A device's number with its package (R13). -/
def devOk (d : Nat) : Bool := d < 1024 * 8

/-- The static limits of each instruction and the number ranges of each device step. -/
def Instr.wf : Instr → Bool
  | .vadd _ o | .vsub _ o | .vmul _ o | .vmulh _ o | .vmad _ o => o.ok
  | .vmin t n o | .vmax t n o => natOk n t && o.lxOk
  | .vabs t o => t != .n32 && o.ok
  | .vand o | .vor o | .vxor o => o.ok
  | .vshl _ o | .vshr _ o => o.ok
  | .vsar t o => t != .n32 && o.ok
  | .vclz _ o | .vpopc _ o => o.ok
  | .vbfx _ o | .vbfi o => o.ok
  | .vcmp _ t n o => natOk n t && tripleOk o.vd && o.lxSrcOk
  | .vsel m o => tripleOk m && o.lxOk
  | .vmov o => o.ok
  | .vbcast _ _ vd _ => dstOk vd
  | .vtag .read o => match o.a with | .reg n => n.toNat < 120 | _ => false
  | .vtag _ o => o.ok
  | .vfadd o | .vfsub o | .vfmul o | .vfma _ o | .vfmin o | .vfmax o => o.ok
  | .vfcmp _ o => tripleOk o.vd && o.lxSrcOk
  | .vfrcp o | .vfrsq o | .vfex2 o | .vflg2 o => o.ok
  | .vcvt e scl _ _ dst src o => cvtPairOk dst src && cvtElemOk e dst src && (scl || o.b == .zero) && o.lxOk
  | .vpack _ _ dst o => !dst.isWide && o.lxOk
  | .vunpk p src o => !src.isWide && p.toNat < src.elems && o.lxOk
  | .vbperm _ o => dstOk o.vd && o.a.ok false
      && (match o.b with | .reg n => n.toNat % 4 == 0 && n.toNat ≤ 116 | _ => false)
  | .vshfl m d o => o.lxOk && (if m == .idx then d == 0 else o.b == .zero && d.toNat ≤ 95)
  | .vscan op t n _ o => redOk op t n && o.lxOk
  | .vred op t n o => redOk op t n && o.a.ok false
  | .vvote f o => (f != .ballot || tripleOk o.vd) && o.a.ok true
  | .vld o => o.ok true false
  | .vst o => o.ok false false
  | .vlds o => o.ok true true
  | .vsts o => o.ok false true
  | .vatom o => o.ok
  | .sadd o | .ssub o | .smul o | .smulh _ o | .sand o | .sor o | .sxor o | .sshl o | .sshr o | .ssar o
  | .smin _ o | .smax _ o | .ssel o => o.ok
  | .scmp .. => true
  | .smov w sd b => (!w || Reg.even sd) && b.ok w
  | .smovi .. => true
  | .sclz w sd sa | .spopc w sd sa => !w || (Reg.even sd && Reg.even sa)
  | .sbfx .. | .sfadd .. | .sfmul .. | .sfma .. => true
  | .sld o | .slds o | .slr o => o.ord.loadOk
  | .sst o | .ssts o => o.ord.storeOk
  | .satom o c => satomOk o c
  | .ssc o => o.ord.storeOk && Reg.even o.sd && o.sd.toNat ≤ 122
  | .fence ord _ => ord != .none
  | .bra _ | .bcc .. => true
  | .bdiv _ sa _ => tripleOk sa
  | .call _ | .ret | .exit | .nop => true
  | .yield c sa _ => c.isSome || sa == 0
  | .waitc .. | .bkpt _ | .trap _ | .tret | .srd .. | .swr .. => true
  | .clk _ sd => Reg.even sd && sd.toNat ≤ 122
  | .regrp f n => f.toNat ≤ 119 && 1 ≤ n.toNat && n.toNat ≤ 120
  | .bar l i => barOk true l i
  | .bara l i sd => barOk false l i && sd.toNat ≤ 124
  | .bard l i => barOk false l i
  | .barw l i _ => barOk false l i
  | .fsend _ => true
  | .cpy k sh tr r c _ sa sb => cpyOk k sh tr r c sa sb
  | .publ sa => Reg.even sa
  | .mqput _ _ len sd sa => 1 ≤ len.toNat && len.toNat ≤ 16 && sd.toNat ≤ 124 && sa.toNat + len.toNat ≤ 125
  | .mqget _ len sd => 1 ≤ len.toNat && len.toNat ≤ 16 && sd.toNat + len.toNat ≤ 125
  | .mqfree .. => true
  | .mfork n _ sd sa => n.toNat ≤ 8 && sd.toNat ≤ 124 && sa.toNat + n.toNat ≤ 125
  | .mrdv _ => true
  | .tsub _ _ sd sa => Reg.even sa && sd.toNat ≤ 124
  | .temit nb s sd va => s.toNat ≤ 5 && (nb || sd == 0) && sd.toNat ≤ 124 && va.toNat ≤ 119
  | .spawn _ sd sa => sa.toNat ≤ 117 && sd.toNat ≤ 124
  | .krel _ => true
  | .cnew _ _ _ sd sa | .copen _ sd sa | .cdrop _ sd sa | .cinfo _ sd sa => cairnOk sd sa
  | .chand k sd sa => cairnOk sd sa && (match k with | .succ i => i.toNat ≤ 5 | _ => true)
  | .mres _ _ _ sd sa => seqReg sd && seqReg sa
  | .mwld len sa sb => 1 ≤ len.toNat && len.toNat ≤ 65536 && Reg.even sa && seqReg sa && seqReg sb
  | .mldw _ sa => seqReg sa
  | .mma m a sa sb => rowsOk m a && ringReg sa && seqReg sb
  | .mdist m a sd sa sb => rowsOk m a && ringReg sa && seqReg sb && seqReg sd
  | .mtopk m a _ _ sa sb => rowsOk m a && ringReg sa && seqReg sb
  | .mdrn m a f sh dst sa sb => rowsOk m a && seqReg sb && (f == .f8 || sb == 0) && (!sh || dst)
      && (if dst then Reg.even sa && seqReg sa else ringReg sa)
  | .mzero _ => true
  | .doorbellWrite vf q _ | .launch vf q | .graphLaunch vf q | .hostQueueDestroy vf q => vfOk vf && q < 64
  | .launchComplete _ | .terminationWave _ => true
  | .blockDispatch _ cs => cs.all coreOk && cs.length ≤ 256
  | .admissionRound p | .queueDepthExchange p => pkgOk p
  | .flushTimeout _ n => n < 4096
  | .yieldTimeout _ s | .deferralRejoin _ s | .pcBreakpoint _ s => s < 4
  | .pendingWriteComplete _ | .contextRelease _ | .trapEntry _ => true
  | .splitMerge _ a b => a < b && b < 4
  | .forwardArrival _ _ p => p < 4
  | .nestedTrap _ c => 1 ≤ c.toNat && c.toNat ≤ 0x14
  | .tkillWrite _ | .cpystatWrite _ | .systemRegisterWrite .. => true
  | .barecntWrite l i _ => 1 ≤ l && l ≤ 4 && i < 16
  | .portstatWrite p _ => p < 4
  | .portlaneWrite p n _ => p < 4 && n < 96
  | .frameWrite w _ => w < 32768
  | .mqcfgWrite q _ => q < 16
  | .shadowRetry _ s l a b => s < 4 && l.all (fun n => decide (n < 96)) && a.length == l.length && b.length == l.length
  | .scrubError d _ => devOk d
  | .preemption _ => true
  | .resumption _ ps => ps.all fun p => p.2.1 < 32 && p.2.2 < 8
  | .sequencerPreemption q | .sequencerResumption q _ => quadOk q
  | .copyComplete _ | .messageAppend _ | .publSwap _ | .cairnWritebackComplete _ => true
  | .cairnMoveComplete vf _ => vfOk vf
  | .sequencerProgramStart q | .sequencerProgramEnd q => quadOk q
  | .mwldComplete q _ | .weightPlaneLoaded q _ | .engineRingSlot q _ => quadOk q
  | .flitCheckFail p n o => pkgOk p && n < 16 && (match o with | .goodAt r => 1 ≤ r && r ≤ 8 | .bad => true)
  | .packetArrival _ | .replayTimeout _ | .strandTimeout _ | .strandResolution .. => true
  | .routeTableChange p d ports => pkgOk p && pkgOk d && ports.all (· < 16)
  | .linkReturn p n => pkgOk p && n < 16
  | .podBarrierBreak _ p => pkgOk p
  | .ctlReset p vf => pkgOk p && vfOk vf
  | .functionLevelReset vf => vfOk vf
  | .coldReset p | .wipeComplete p | .firmwareBoot p _ _ | .deployCommand p _ _ | .unlockCommand p _
  | .relockCommand p | .decommissionCommand p _ | .powerStateEntry p | .powerStateExit p => pkgOk p
  | .attestationRequest vf n => vfOk vf && n.length ≤ 64
  | .policyWrite vf _ => vfOk vf
  | .tlbInvalidation c vf => coreOk c && vfOk vf
  | .hbmWipe d _ _ => devOk d
  | .quadRemap p d q => pkgOk p && d < 8 && q < 4
  | .hostDebugAccess .. | .hostMemoryAccess _ => true

end Sys2Proof
end

