-- ==== Sys2Proof/Decode.lean ====
section
/-! DEFINITION. Decoding and encoding of instruction words (R86-R99 and the reference entries). `parse` pulls the fields
out; `decodeWords` accepts what `parse` read only when its encoding is the words given, so that every bit that must be
zero is checked, and only when it is well formed. -/

namespace Sys2Proof

/-- Why words are refused. Each is the ILLEGAL trap of R98; the name says which check refused them. -/
inductive DecodeError where
  /-- the major opcode is reserved (step 2) -/
  | reservedMajor
  /-- an fn, sub or kind value that R93 or R94 does not list (step 2) -/
  | unlistedFunction
  /-- code 126 in a field that names a vector operand (step 2) -/
  | code126
  /-- a control-word code outside its table (step 5) -/
  | badControl
  /-- a field that must be zero or hold a fixed code does not (step 5) -/
  | mustBeZero
  /-- a register or operand limit (step 5) -/
  | operandLimit
  /-- the bytes end before the instruction does -/
  | truncated
  deriving DecidableEq, Repr

/-! ### Codes of the small fields -/

def ElemTy.code : ElemTy → Nat | .i32 => 0 | .n32 => 1 | .i16x2 => 2 | .i8x4 => 3
def ElemTy.ofCode : Nat → ElemTy | 0 => .i32 | 1 => .n32 | 2 => .i16x2 | _ => .i8x4
def boolCode (b : Bool) : Nat := if b then 1 else 0
def boolOf (n : Nat) : Bool := n == 1

/-- The 7-bit code of a vector source (R69). -/
def VSrc.code : VSrc → Nat
  | .reg n => n.toNat | .port p => 120 + p.toNat | .zero => 124 | .lane => 125 | .lit _ => 127

/-- The vector source of a 7-bit code, with the trailing word for code 127; code 126 names none (R69). -/
def VSrc.ofCode (c : Nat) (w1 : Word) : Option VSrc :=
  if c < 120 then some (.reg (BitVec.ofNat 7 c))
  else if c < 124 then some (.port (BitVec.ofNat 2 (c - 120)))
  else if c = 124 then some .zero
  else if c = 125 then some .lane
  else if c = 126 then none
  else some (.lit w1)

/-- The trailing word of a source, if it is a literal (R27). -/
def VSrc.litWord : VSrc → List Nat
  | .lit w => [w.toNat]
  | _ => []

def SSrc.code : SSrc → Nat | .reg n => n.toNat | .lit _ => 0
def SSrc.isLit : SSrc → Nat | .reg _ => 0 | .lit _ => 1
def SSrc.litWord : SSrc → List Nat | .reg _ => [] | .lit w => [w.toNat]

def Cond.code : Cond → Nat | .eq => 0 | .ne => 1 | .lt => 2 | .le => 3 | .gt => 4 | .ge => 5
def Cond.ofCode : Nat → Option Cond
  | 0 => some .eq | 1 => some .ne | 2 => some .lt | 3 => some .le | 4 => some .gt | 5 => some .ge | _ => none
def FCond.code : FCond → Nat | .eq => 0 | .ne => 1 | .lt => 2 | .le => 3 | .gt => 4 | .ge => 5 | .uo => 6 | .ord => 7
def FCond.ofCode : Nat → Option FCond
  | 0 => some .eq | 1 => some .ne | 2 => some .lt | 3 => some .le | 4 => some .gt | 5 => some .ge | 6 => some .uo
  | 7 => some .ord | _ => none
def SignPat.code : SignPat → Nat | .pp => 0 | .np => 1 | .nc => 2 | .npc => 3
def SignPat.ofCode : Nat → SignPat | 0 => .pp | 1 => .np | 2 => .nc | _ => .npc
def TagFn.code : TagFn → Nat | .read => 0 | .toU => 1 | .toA => 2 | .toG => 3
def TagFn.ofCode : Nat → TagFn | 0 => .read | 1 => .toU | 2 => .toA | _ => .toG
def VoteFn.code : VoteFn → Nat | .ballot => 0 | .any => 1 | .all => 2 | .count => 3
def VoteFn.ofCode : Nat → VoteFn | 0 => .ballot | 1 => .any | 2 => .all | _ => .count
def Fmt.code : Fmt → Nat
  | .i32 => 0 | .n32 => 1 | .f32 => 2 | .bf16 => 3 | .e4m3 => 4 | .hs4 => 5 | .i16 => 6 | .i8 => 7 | .n16 => 8 | .n8 => 9
def Fmt.ofCode : Nat → Option Fmt
  | 0 => some .i32 | 1 => some .n32 | 2 => some .f32 | 3 => some .bf16 | 4 => some .e4m3 | 5 => some .hs4
  | 6 => some .i16 | 7 => some .i8 | 8 => some .n16 | 9 => some .n8 | _ => none
def Rm.code : Rm → Nat | .rn => 0 | .rz => 1 | .rd => 2 | .ru => 3
def Rm.ofCode : Nat → Rm | 0 => .rn | 1 => .rz | 2 => .rd | _ => .ru
def ShflMode.code : ShflMode → Nat | .idx => 0 | .up => 1 | .down => 2 | .xor => 3 | .rot => 4
def ShflMode.ofCode : Nat → Option ShflMode
  | 0 => some .idx | 1 => some .up | 2 => some .down | 3 => some .xor | 4 => some .rot | _ => none
def RedOp.code : RedOp → Nat
  | .add => 0 | .min => 1 | .max => 2 | .and => 3 | .or => 4 | .xor => 5 | .fadd => 6 | .fmin => 7 | .fmax => 8
def RedOp.ofCode : Nat → Option RedOp
  | 0 => some .add | 1 => some .min | 2 => some .max | 3 => some .and | 4 => some .or | 5 => some .xor
  | 6 => some .fadd | 7 => some .fmin | 8 => some .fmax | _ => none
def Aop.code : Aop → Nat
  | .add => 0 | .min => 1 | .max => 2 | .nmin => 3 | .nmax => 4 | .and => 5 | .or => 6 | .xor => 7 | .exch => 8
  | .cas => 9 | .fadd => 10 | .ld => 11
def Aop.ofCode : Nat → Option Aop
  | 0 => some .add | 1 => some .min | 2 => some .max | 3 => some .nmin | 4 => some .nmax | 5 => some .and
  | 6 => some .or | 7 => some .xor | 8 => some .exch | 9 => some .cas | 10 => some .fadd | 11 => some .ld | _ => none
def Ord4.code : Ord4 → Nat | .none => 0 | .acq => 1 | .rel => 2 | .acqrel => 3
def Ord4.ofCode : Nat → Ord4 | 0 => .none | 1 => .acq | 2 => .rel | _ => .acqrel
def Scope.code : Scope → Nat | .core => 0 | .quad => 1 | .die => 2 | .pkg => 3 | .pod => 4
def Scope.ofCode : Nat → Option Scope
  | 0 => some .core | 1 => some .quad | 2 => some .die | 3 => some .pkg | 4 => some .pod | _ => none
def Width.code : Width → Nat | .w8 => 0 | .w16 => 1 | .w32 => 2 | .w64 => 3
def Width.ofCode : Nat → Width | 0 => .w8 | 1 => .w16 | 2 => .w32 | _ => .w64
def BccCond.code : BccCond → Nat | .ne => 0 | .eq => 1 | .lt => 2 | .ge => 3
def BccCond.ofCode : Nat → BccCond | 0 => .ne | 1 => .eq | 2 => .lt | _ => .ge
def Counter.code : Counter → Nat | .cpy => 0 | .msg => 1 | .pbl => 2
def Counter.ofCode : Nat → Option Counter | 0 => some .cpy | 1 => some .msg | 2 => some .pbl | _ => none
def yieldCode : Option Counter → Nat | some c => c.code | none => 3
def SCond.code : SCond → Nat | .eq => 0 | .ne => 1 | .lt => 2 | .le => 3 | .gt => 4 | .ge => 5 | .ltN => 6 | .geN => 7
def SCond.ofCode : Nat → SCond
  | 0 => .eq | 1 => .ne | 2 => .lt | 3 => .le | 4 => .gt | 5 => .ge | 6 => .ltN | _ => .geN
def BarLevel.code : BarLevel → Nat | .grp => 0 | .block => 1 | .quad => 2 | .grid => 3 | .pod => 4
def BarLevel.ofCode : Nat → Option BarLevel
  | 0 => some .grp | 1 => some .block | 2 => some .quad | 3 => some .grid | 4 => some .pod | _ => none
def CpyKind.code : CpyKind → Nat | .g2s => 0 | .s2g => 1 | .s2s => 2
def CpyKind.ofCode : Nat → Option CpyKind | 0 => some .g2s | 1 => some .s2g | 2 => some .s2s | _ => none
def CpyTr.code : CpyTr → Nat | .none => 0 | .t8 => 1 | .t16 => 2
def CpyTr.ofCode : Nat → Option CpyTr | 0 => some .none | 1 => some .t8 | 2 => some .t16 | _ => none
def Life.code : Life → Nat | .launch => 0 | .stream => 1 | .tenant => 2
def Life.ofCode : Nat → Option Life | 0 => some .launch | 1 => some .stream | 2 => some .tenant | _ => none
def WFmt.code : WFmt → Nat | .fp8 => 0 | .hs4 => 1 | .bf16 => 2
def WFmt.ofCode : Nat → Option WFmt | 0 => some .fp8 | 1 => some .hs4 | 2 => some .bf16 | _ => none
def DFmt.code : DFmt → Nat | .f32 => 0 | .bf16 => 1 | .f8 => 2
def DFmt.ofCode : Nat → Option DFmt | 0 => some .f32 | 1 => some .bf16 | 2 => some .f8 | _ => none

/-! ### Word layouts (R90, R92) -/

/-- LR, and the first word of LX (R90). -/
def encLR (op fn : Nat) (ka kb : Bool) (vd va vb : Nat) : Nat :=
  op * 2 ^ 25 + fn * 2 ^ 23 + boolCode ka * 2 ^ 22 + boolCode kb * 2 ^ 21 + vd * 2 ^ 14 + va * 2 ^ 7 + vb

/-- LM (R90). -/
def encLM (op : Nat) (o : LmOp) : Nat :=
  op * 2 ^ 25 + o.width.code * 2 ^ 23 + o.vd.toNat * 2 ^ 16 + o.off.code * 2 ^ 9 + o.pair.toNat * 2 ^ 3
    + boolCode o.sx * 2 ^ 2 + o.policy.toNat

/-- UR (R92). -/
def encUR (op l sub sd sa sb : Nat) : Nat :=
  2 ^ 31 + op * 2 ^ 25 + l * 2 ^ 24 + sub * 2 ^ 21 + sd * 2 ^ 14 + sa * 2 ^ 7 + sb

/-- UM (R92). -/
def encUM (op : Nat) (o : UmOp) : Nat :=
  2 ^ 31 + op * 2 ^ 25 + o.sd.toNat * 2 ^ 18 + o.pair.toNat * 2 ^ 12 + o.ord.code * 2 ^ 10 + o.scope.code * 2 ^ 7
    + o.off.toNat

/-- UB (R92). -/
def encUB (op sa cc off : Nat) : Nat := 2 ^ 31 + op * 2 ^ 25 + sa * 2 ^ 18 + cc * 2 ^ 16 + off

/-- UJ and UN (R92). -/
def encUJ (op code : Nat) : Nat := 2 ^ 31 + op * 2 ^ 25 + code

/-- An LR binary instruction with its literal. -/
def encBin (op fn : Nat) (o : VBin) : List Nat :=
  encLR op fn o.keepA o.keepB o.vd.toNat o.a.code o.b.code ::
    (match o.a.litWord with | [] => o.b.litWord | l => l)

/-- An LR unary instruction: vb holds 124 (R93). -/
def encUn (op fn : Nat) (o : VUn) : List Nat :=
  encLR op fn o.keepA o.keepB o.vd.toNat o.a.code 124 :: o.a.litWord

/-- An LX instruction with its control word (R93). -/
def encBinX (op fn : Nat) (o : VBin) (cw : Nat) : List Nat :=
  [encLR op fn o.keepA o.keepB o.vd.toNat o.a.code o.b.code, cw]

/-- A unary LX instruction with its control word. -/
def encUnX (op fn : Nat) (o : VUn) (cw : Nat) : List Nat :=
  [encLR op fn o.keepA o.keepB o.vd.toNat o.a.code 124, cw]

/-- A scalar three-operand instruction (R323). -/
def encS (op sub : Nat) (sd sa : Reg) (b : SSrc) : List Nat :=
  encUR op b.isLit sub sd.toNat sa.toNat b.code :: b.litWord

/-- The row word (R95, R304). -/
def encRow (mm1 acc : BitVec 10) (low : Nat) : Nat := mm1.toNat * 2 ^ 22 + acc.toNat * 2 ^ 12 + low

/-- The words of an instruction, first word first; a step of another agent has no encoding. -/
def encode : Instr → List Nat
  | .vadd t o => encBin 0x01 t.code o
  | .vsub t o => encBin 0x02 t.code o
  | .vmul t o => encBin 0x03 t.code o
  | .vmulh n o => encBin 0x04 (boolCode n) o
  | .vmad t o => encBin 0x05 t.code o
  | .vmin t n o => encBinX 0x06 t.code o (boolCode n * 2 ^ 4)
  | .vmax t n o => encBinX 0x07 t.code o (boolCode n * 2 ^ 4)
  | .vabs t o => encUn 0x08 t.code o
  | .vand o => encBin 0x09 0 o
  | .vor o => encBin 0x0A 0 o
  | .vxor o => encBin 0x0B 0 o
  | .vshl t o => encBin 0x0C t.code o
  | .vshr t o => encBin 0x0D t.code o
  | .vsar t o => encBin 0x0E t.code o
  | .vclz t o => encUn 0x0F t.code o
  | .vpopc t o => encUn 0x10 t.code o
  | .vbfx sx o => encBin 0x11 (boolCode sx) o
  | .vbfi o => encBin 0x12 0 o
  | .vcmp c t n o => encBinX 0x13 t.code o (boolCode n * 2 ^ 4 + c.code)
  | .vsel m o => encBinX 0x14 0 o m.toNat
  | .vmov o => encUn 0x15 0 o
  | .vbcast ka kb vd sa => [encLR 0x16 0 ka kb vd.toNat sa.toNat 124]
  | .vtag f o => encUn 0x17 f.code o
  | .vfadd o => encBin 0x18 0 o
  | .vfsub o => encBin 0x19 0 o
  | .vfmul o => encBin 0x1A 0 o
  | .vfma p o => encBin 0x1B p.code o
  | .vfmin o => encBin 0x1C 0 o
  | .vfmax o => encBin 0x1D 0 o
  | .vfcmp c o => encBinX 0x1E 0 o c.code
  | .vfrcp o => encUn 0x1F 0 o
  | .vfrsq o => encUn 0x20 0 o
  | .vfex2 o => encUn 0x21 0 o
  | .vflg2 o => encUn 0x22 0 o
  | .vcvt e scl ns rm dst src o => encBinX 0x23 0 o (e.toNat * 2 ^ 12 + boolCode scl * 2 ^ 11 + boolCode ns * 2 ^ 10
      + rm.code * 2 ^ 8 + dst.code * 2 ^ 4 + src.code)
  | .vpack ns rm dst o => encBinX 0x24 0 o (boolCode ns * 2 ^ 10 + rm.code * 2 ^ 8 + dst.code)
  | .vunpk p src o => encUnX 0x25 0 o (p.toNat * 2 ^ 4 + src.code)
  | .vbperm hi o => encBinX 0x26 0 o (boolCode hi)
  | .vshfl m d o => encBinX 0x27 0 o (m.code * 2 ^ 8 + d.toNat)
  | .vscan op t n x o => encUnX 0x28 t.code o (boolCode n * 2 ^ 5 + boolCode x * 2 ^ 4 + op.code)
  | .vred op t n o => encUnX 0x29 t.code o (boolCode n * 2 ^ 5 + op.code)
  | .vvote f o => encUn 0x2A f.code o
  | .vld o => [encLM 0x30 o]
  | .vst o => [encLM 0x31 o]
  | .vlds o => [encLM 0x32 o]
  | .vsts o => [encLM 0x33 o]
  | .vatom o => [encLR 0x34 (if o.w64 then 3 else 2) o.keepA o.keepB o.vd.toNat o.off.code o.data.code,
      boolCode o.ret * 2 ^ 25 + boolCode o.rsp * 2 ^ 24 + o.aop.code * 2 ^ 20 + o.ord.code * 2 ^ 18
        + o.scope.code * 2 ^ 15 + o.base.toNat * 2 ^ 9 + o.cmpv.toNat]
  | .sadd o => encS 0x01 (boolCode o.w64) o.sd o.sa o.b
  | .ssub o => encS 0x02 (boolCode o.w64) o.sd o.sa o.b
  | .smul o => encS 0x03 (boolCode o.w64) o.sd o.sa o.b
  | .smulh n o => encS 0x04 (boolCode n * 2 + boolCode o.w64) o.sd o.sa o.b
  | .sand o => encS 0x05 (boolCode o.w64) o.sd o.sa o.b
  | .sor o => encS 0x06 (boolCode o.w64) o.sd o.sa o.b
  | .sxor o => encS 0x07 (boolCode o.w64) o.sd o.sa o.b
  | .sshl o => encS 0x08 (boolCode o.w64) o.sd o.sa o.b
  | .sshr o => encS 0x09 (boolCode o.w64) o.sd o.sa o.b
  | .ssar o => encS 0x0A (boolCode o.w64) o.sd o.sa o.b
  | .smin n o => encS 0x0B (boolCode n * 2 + boolCode o.w64) o.sd o.sa o.b
  | .smax n o => encS 0x0C (boolCode n * 2 + boolCode o.w64) o.sd o.sa o.b
  | .scmp c sd sa b => encS 0x0D c.code sd sa b
  | .ssel o => encS 0x0E (boolCode o.w64) o.sd o.sa o.b
  | .smov w sd b => encS 0x0F (boolCode w) sd 0 b
  | .smovi sd imm => [2 ^ 31 + 0x10 * 2 ^ 25 + sd.toNat * 2 ^ 18 + imm.toNat]
  | .sclz w sd sa => [encUR 0x11 0 (boolCode w) sd.toNat sa.toNat 0]
  | .spopc w sd sa => [encUR 0x12 0 (boolCode w) sd.toNat sa.toNat 0]
  | .sbfx sx sd sa b => encS 0x13 (boolCode sx) sd sa b
  | .sfadd sd sa b => encS 0x14 0 sd sa b
  | .sfmul sd sa b => encS 0x15 0 sd sa b
  | .sfma p sd sa b => encS 0x16 p.code sd sa b
  | .sld o => [encUM 0x18 o]
  | .sst o => [encUM 0x19 o]
  | .slds o => [encUM 0x1A o]
  | .ssts o => [encUM 0x1B o]
  | .satom o c => [encUM 0x1C o, boolCode c.rsp * 2 ^ 24 + c.aop.code * 2 ^ 20 + boolCode c.w64 * 2 ^ 19
      + c.sb.toNat * 2 ^ 7 + c.sc.toNat]
  | .slr o => [encUM 0x1D o]
  | .ssc o => [encUM 0x1E o]
  | .fence ord sc => [encUM 0x1F { sd := 0, pair := 0, ord := ord, scope := sc, off := 0 }]
  | .bra off => [encUJ 0x20 off.toNat]
  | .bcc c sa off => [encUB 0x21 sa.toNat c.code off.toNat]
  | .bdiv clr sa off => [encUB 0x22 sa.toNat (boolCode clr) off.toNat]
  | .call off => [encUJ 0x23 off.toNat]
  | .ret => [encUJ 0x24 0]
  | .exit => [encUJ 0x25 0]
  | .nop => [encUJ 0x26 0]
  | .yield c sa off => [encUB 0x27 sa.toNat (yieldCode c) off.toNat]
  | .waitc c b => encS 0x28 c.code 0 0 b
  | .bkpt code => [encUJ 0x29 code.toNat]
  | .trap code => [encUJ 0x2A code.toNat]
  | .tret => [encUJ 0x2B 0]
  | .srd sd b => encS 0x2C 0 sd 0 b
  | .swr sa b => encS 0x2D 0 0 sa b
  | .clk tb sd => [encUR 0x2E 0 (boolCode tb) sd.toNat 0 0]
  | .regrp f n => [encUR 0x2F 0 0 0 f.toNat n.toNat]
  | .bar l i => [encUR 0x30 0 0 0 0 (l.code * 2 ^ 4 + i.toNat)]
  | .bara l i sd => [encUR 0x30 0 1 sd.toNat 0 (l.code * 2 ^ 4 + i.toNat)]
  | .bard l i => [encUR 0x30 0 2 0 0 (l.code * 2 ^ 4 + i.toNat)]
  | .barw l i sa => [encUR 0x30 0 3 0 sa.toNat (l.code * 2 ^ 4 + i.toNat)]
  | .fsend p => [encUR 0x31 0 p.toNat 0 0 0]
  | .cpy k sh tr r c sd sa sb => [encUR 0x32 0 k.code sd.toNat sa.toNat sb.toNat,
      boolCode sh * 2 ^ 31 + tr.code * 2 ^ 29 + r.toNat * 2 ^ 8 + c.toNat]
  | .publ sa => [encUR 0x33 0 0 0 sa.toNat 0]
  | .mqput core q len sd sa => [encUR 0x34 0 0 sd.toNat sa.toNat 0, core.toNat * 2 ^ 24 + q.toNat * 2 ^ 16 + len.toNat]
  | .mqget q len sd => [encUR 0x35 0 0 sd.toNat 0 0, q.toNat * 2 ^ 16 + len.toNat]
  | .mqfree core q sa => [encUR 0x36 0 0 0 sa.toNat 0, core.toNat * 2 ^ 24 + q.toNat * 2 ^ 16]
  | .mfork n off sd sa => [encUR 0x37 0 0 sd.toNat sa.toNat 0, n.toNat * 2 ^ 28 + off.toNat]
  | .mrdv sa => [encUR 0x38 0 0 0 sa.toNat 0]
  | .tsub nb spm sd sa => [encUR 0x39 0 0 sd.toNat sa.toNat 0, boolCode nb * 2 + boolCode spm]
  | .temit nb s sd va => [encUR 0x3A 0 0 sd.toNat va.toNat 0, boolCode nb * 2 ^ 31 + s.toNat]
  | .spawn off sd sa => [encUR 0x3B 0 0 sd.toNat sa.toNat 0, off.toNat]
  | .krel b => encS 0x3C 0 0 0 b
  | .cnew size life mir sd sa => [encUR 0x3D 0 0 sd.toNat sa.toNat 0,
      size.toNat * 2 ^ 16 + life.code * 2 ^ 14 + boolCode mir * 2 ^ 13]
  | .copen nm sd sa => [encUR 0x3D 0 1 sd.toNat sa.toNat 0, boolCode nm]
  | .chand (.succ i) sd sa => [encUR 0x3D 0 2 sd.toNat sa.toNat 0, i.toNat]
  | .chand (.task sb) sd sa => [encUR 0x3D 0 2 sd.toNat sa.toNat sb.toNat, 2 ^ 22]
  | .chand (.core c) sd sa => [encUR 0x3D 0 2 sd.toNat sa.toNat 0, c.toNat * 2 ^ 24 + 2 * 2 ^ 22]
  | .cdrop f sd sa => [encUR 0x3D 0 3 sd.toNat sa.toNat 0, boolCode f]
  | .cinfo s sd sa => [encUR 0x3D 0 4 sd.toNat sa.toNat 0, boolCode s]
  | .mres fmt sp ts sd sa => [encUR 0x3E 0 0 sd.toNat sa.toNat 0, fmt.code * 2 ^ 30 + boolCode sp * 2 ^ 29 + boolCode ts * 2 ^ 28]
  | .mwld len sa sb => [encUR 0x3E 0 1 0 sa.toNat sb.toNat, len.toNat]
  | .mldw blk sa => [encUR 0x3E 0 2 0 sa.toNat 0, blk.toNat]
  | .mma m a sa sb => [encUR 0x3E 0 3 0 sa.toNat sb.toNat, encRow m a 0]
  | .mdist m a sd sa sb => [encUR 0x3E 0 4 sd.toNat sa.toNat sb.toNat, encRow m a 0]
  | .mtopk m a k mn sa sb => [encUR 0x3E 0 5 0 sa.toNat sb.toNat, encRow m a (k.toNat * 2 ^ 8 + boolCode mn * 2 ^ 7)]
  | .mdrn m a f sh dst sa sb => [encUR 0x3E 0 6 0 sa.toNat sb.toNat,
      encRow m a (f.code * 2 ^ 10 + boolCode sh * 2 ^ 9 + boolCode dst * 2 ^ 8)]
  | .mzero regs => [encUR 0x3E 0 7 0 0 0, regs.toNat]
  | _ => []

/-! ### Trailing words and the checks of step 2 (R86, R98) -/

/-- Field of a first word. -/
def fieldOf (w hi lo : Nat) : Nat := bitField w hi lo

/-- The major opcode, [30:25] (R90, R92). -/
def majorOf (w : Nat) : Nat := bitField w 30 25

/-- Whether the first word is an L-set one: bit 31 is 0. -/
def isLset (w : Nat) : Bool := bitField w 31 31 == 0

/-- The LX majors of R93, which take a control word. -/
def lxMajors : List Nat := [0x06, 0x07, 0x13, 0x14, 0x1E, 0x23, 0x24, 0x25, 0x26, 0x27, 0x28, 0x29, 0x34]
/-- The LM majors of R93. -/
def lmMajors : List Nat := [0x30, 0x31, 0x32, 0x33]
/-- The U-set majors of R94 that take a control word. -/
def cwMajors : List Nat := [0x1C, 0x32, 0x34, 0x35, 0x36, 0x37, 0x39, 0x3A, 0x3B, 0x3D, 0x3E]
/-- The U-set majors of R94 in UR format without a control word. -/
def urMajors : List Nat :=
  [0x01, 0x02, 0x03, 0x04, 0x05, 0x06, 0x07, 0x08, 0x09, 0x0A, 0x0B, 0x0C, 0x0D, 0x0E, 0x0F, 0x11, 0x12, 0x13, 0x14,
   0x15, 0x16, 0x28, 0x2C, 0x2D, 0x2E, 0x2F, 0x30, 0x31, 0x33, 0x38, 0x3C]
/-- The U-set majors with no word of their own (R94). -/
def uReserved : List Nat := [0x00, 0x17, 0x3F]

/-- Whether a trailing word follows the first word (R86). -/
def hasTrailing (w : Nat) : Bool :=
  let op := majorOf w
  if isLset w then
    lxMajors.contains op
      || (!lmMajors.contains op && op ≤ 0x2A
          && ((bitField w 13 7 == 127 && op != 0x16) || bitField w 6 0 == 127))
  else cwMajors.contains op || (urMajors.contains op && bitField w 24 24 == 1)

/-- The fn codes an L-set major lists (R93); none for a reserved major. -/
def lFns (op : Nat) : List Nat :=
  if [0x01, 0x02, 0x03, 0x05, 0x06, 0x07, 0x0C, 0x0D, 0x0F, 0x10, 0x13, 0x17, 0x1B, 0x28, 0x29, 0x2A].contains op
    || lmMajors.contains op then [0, 1, 2, 3]
  else if op == 0x04 || op == 0x11 then [0, 1]
  else if op == 0x08 || op == 0x0E then [0, 2, 3]
  else if op == 0x34 then [2, 3]
  else if [0x09, 0x0A, 0x0B, 0x12, 0x14, 0x15, 0x16, 0x18, 0x19, 0x1A, 0x1C, 0x1D, 0x1E, 0x1F, 0x20, 0x21, 0x22, 0x23,
      0x24, 0x25, 0x26, 0x27].contains op then [0]
  else []

/-- The sub codes a U-set UR major lists (R94); none for a major in another format. -/
def uSubs (op : Nat) : List Nat :=
  if [0x01, 0x02, 0x03, 0x05, 0x06, 0x07, 0x08, 0x09, 0x0A, 0x0E, 0x0F, 0x11, 0x12, 0x13, 0x2E].contains op then [0, 1]
  else if [0x04, 0x0B, 0x0C, 0x16, 0x30, 0x31].contains op then [0, 1, 2, 3]
  else if op == 0x0D || op == 0x3E then [0, 1, 2, 3, 4, 5, 6, 7]
  else if op == 0x28 || op == 0x32 then [0, 1, 2]
  else if op == 0x3D then [0, 1, 2, 3, 4]
  else [0]

/-- The 7-bit fields of an L-set word that name vector operands (R69, R93). -/
def vectorFields (w : Nat) : List Nat :=
  let op := majorOf w
  if lmMajors.contains op then [bitField w 22 16, bitField w 15 9]
  else
    let scalarDst := op == 0x13 || op == 0x1E || op == 0x29 || op == 0x2A || (op == 0x17 && bitField w 24 23 == 0)
    (if scalarDst then [] else [bitField w 20 14]) ++ (if op == 0x16 then [] else [bitField w 13 7]) ++ [bitField w 6 0]

/-- Step 2 of R98: the first word alone. Checks that R98's table does not name stand where their bits are complete: BDIV cc 2 and 3 here,
UM scope 5 to 7 and an ord that is not accepted with the operands, at step 5 (DESIGN CHOICE, log entry 72). -/
def step2 (w : Nat) : Option DecodeError :=
  let op := majorOf w
  if isLset w then
    if lFns op == [] then some .reservedMajor
    else if !(lFns op).contains (bitField w 24 23) then some .unlistedFunction
    else if (vectorFields w).contains 126 then some .code126
    else none
  else if uReserved.contains op then some .reservedMajor
  else if (urMajors.contains op || (cwMajors.contains op && op != 0x1C)) && !(uSubs op).contains (bitField w 23 21) then
    some .unlistedFunction
  else if op == 0x1F && bitField w 11 10 == 0 then some .unlistedFunction
  else if op == 0x22 && 2 ≤ bitField w 17 16 then some .unlistedFunction
  else if [0x24, 0x25, 0x26, 0x2B].contains op && bitField w 24 0 != 0 then some .mustBeZero
  else none

/-! ### Parsing -/

/-- A 7-bit register field. -/
def regField (w hi : Nat) : Reg := BitVec.ofNat 7 (bitField w hi (hi - 6))

/-- LR and LX binary operands. -/
def parseBin (w : Nat) (w1 : Word) : Except DecodeError VBin :=
  match VSrc.ofCode (bitField w 13 7) w1, VSrc.ofCode (bitField w 6 0) w1 with
  | some a, some b => .ok { keepA := boolOf (bitField w 22 22), keepB := boolOf (bitField w 21 21), vd := regField w 20, a := a, b := b }
  | _, _ => .error .code126

/-- LR and LX unary operands. -/
def parseUn (w : Nat) (w1 : Word) : Except DecodeError VUn :=
  match VSrc.ofCode (bitField w 13 7) w1 with
  | some a => .ok { keepA := boolOf (bitField w 22 22), keepB := boolOf (bitField w 21 21), vd := regField w 20, a := a }
  | none => .error .code126

/-- LM operands. -/
def parseLM (w : Nat) : Except DecodeError LmOp :=
  match VSrc.ofCode (bitField w 15 9) 0 with
  | some off => .ok { width := .ofCode (bitField w 24 23), vd := regField w 22, off := off,
                      pair := BitVec.ofNat 6 (bitField w 8 3), sx := boolOf (bitField w 2 2), policy := BitVec.ofNat 2 (bitField w 1 0) }
  | none => .error .code126

/-- UM operands. -/
def parseUM (w : Nat) : Except DecodeError UmOp :=
  match Scope.ofCode (bitField w 9 7) with
  | some sc => .ok { sd := regField w 24, pair := BitVec.ofNat 6 (bitField w 17 12), ord := .ofCode (bitField w 11 10),
                     scope := sc, off := BitVec.ofNat 7 (bitField w 6 0) }
  | none => .error .badControl

/-- Operand B of UR (R92). -/
def parseB (w : Nat) (w1 : Word) : SSrc :=
  if bitField w 24 24 == 1 then .lit w1 else .reg (regField w 6)

/-- The operands of R323. -/
def parseS (w : Nat) (w1 : Word) : SOp :=
  { w64 := boolOf (bitField w 21 21), sd := regField w 20, sa := regField w 13, b := parseB w w1 }

/-- A control-word code that must be in its table. -/
def orBad {α : Type} : Option α → Except DecodeError α
  | some x => .ok x
  | none => .error .badControl

/-- The L-set majors (R93). -/
def parseL (w c : Nat) (w1 : Word) : Except DecodeError Instr :=
  let fn := bitField w 24 23
  let t := ElemTy.ofCode fn
  let nat4 := boolOf (bitField c 4 4)
  match majorOf w with
  | 0x01 => (Instr.vadd t) <$> parseBin w w1
  | 0x02 => (Instr.vsub t) <$> parseBin w w1
  | 0x03 => (Instr.vmul t) <$> parseBin w w1
  | 0x04 => (Instr.vmulh (boolOf fn)) <$> parseBin w w1
  | 0x05 => (Instr.vmad t) <$> parseBin w w1
  | 0x06 => (Instr.vmin t nat4) <$> parseBin w w1
  | 0x07 => (Instr.vmax t nat4) <$> parseBin w w1
  | 0x08 => (Instr.vabs t) <$> parseUn w w1
  | 0x09 => Instr.vand <$> parseBin w w1
  | 0x0A => Instr.vor <$> parseBin w w1
  | 0x0B => Instr.vxor <$> parseBin w w1
  | 0x0C => (Instr.vshl t) <$> parseBin w w1
  | 0x0D => (Instr.vshr t) <$> parseBin w w1
  | 0x0E => (Instr.vsar t) <$> parseBin w w1
  | 0x0F => (Instr.vclz t) <$> parseUn w w1
  | 0x10 => (Instr.vpopc t) <$> parseUn w w1
  | 0x11 => (Instr.vbfx (boolOf fn)) <$> parseBin w w1
  | 0x12 => Instr.vbfi <$> parseBin w w1
  | 0x13 => do .ok (.vcmp (← orBad (Cond.ofCode (bitField c 3 0))) t nat4 (← parseBin w w1))
  | 0x14 => (Instr.vsel (BitVec.ofNat 7 (bitField c 6 0))) <$> parseBin w w1
  | 0x15 => Instr.vmov <$> parseUn w w1
  | 0x16 => .ok (.vbcast (boolOf (bitField w 22 22)) (boolOf (bitField w 21 21)) (regField w 20) (regField w 13))
  | 0x17 => (Instr.vtag (.ofCode fn)) <$> parseUn w w1
  | 0x18 => Instr.vfadd <$> parseBin w w1
  | 0x19 => Instr.vfsub <$> parseBin w w1
  | 0x1A => Instr.vfmul <$> parseBin w w1
  | 0x1B => (Instr.vfma (.ofCode fn)) <$> parseBin w w1
  | 0x1C => Instr.vfmin <$> parseBin w w1
  | 0x1D => Instr.vfmax <$> parseBin w w1
  | 0x1E => do .ok (.vfcmp (← orBad (FCond.ofCode (bitField c 3 0))) (← parseBin w w1))
  | 0x1F => Instr.vfrcp <$> parseUn w w1
  | 0x20 => Instr.vfrsq <$> parseUn w w1
  | 0x21 => Instr.vfex2 <$> parseUn w w1
  | 0x22 => Instr.vflg2 <$> parseUn w w1
  | 0x23 => do .ok (.vcvt (BitVec.ofNat 2 (bitField c 13 12)) (boolOf (bitField c 11 11)) (boolOf (bitField c 10 10))
      (.ofCode (bitField c 9 8)) (← orBad (Fmt.ofCode (bitField c 7 4))) (← orBad (Fmt.ofCode (bitField c 3 0)))
      (← parseBin w w1))
  | 0x24 => do .ok (.vpack (boolOf (bitField c 10 10)) (.ofCode (bitField c 9 8)) (← orBad (Fmt.ofCode (bitField c 3 0)))
      (← parseBin w w1))
  | 0x25 => do .ok (.vunpk (BitVec.ofNat 2 (bitField c 5 4)) (← orBad (Fmt.ofCode (bitField c 3 0))) (← parseUn w w1))
  | 0x26 => (Instr.vbperm (boolOf (bitField c 1 0))) <$> parseBin w w1
  | 0x27 => do .ok (.vshfl (← orBad (ShflMode.ofCode (bitField c 10 8))) (BitVec.ofNat 7 (bitField c 6 0)) (← parseBin w w1))
  | 0x28 => do .ok (.vscan (← orBad (RedOp.ofCode (bitField c 3 0))) t (boolOf (bitField c 5 5)) nat4 (← parseUn w w1))
  | 0x29 => do .ok (.vred (← orBad (RedOp.ofCode (bitField c 3 0))) t (boolOf (bitField c 5 5)) (← parseUn w w1))
  | 0x2A => (Instr.vvote (.ofCode fn)) <$> parseUn w w1
  | 0x30 => Instr.vld <$> parseLM w
  | 0x31 => Instr.vst <$> parseLM w
  | 0x32 => Instr.vlds <$> parseLM w
  | 0x33 => Instr.vsts <$> parseLM w
  | 0x34 => do
    let b ← parseBin w w1
    let a ← orBad (Aop.ofCode (bitField c 23 20))
    let sc ← orBad (Scope.ofCode (bitField c 17 15))
    .ok (.vatom { w64 := boolOf (fn - 2), keepA := b.keepA, keepB := b.keepB, vd := b.vd, off := b.a, data := b.b,
                  ret := boolOf (bitField c 25 25), rsp := boolOf (bitField c 24 24), aop := a,
                  ord := .ofCode (bitField c 19 18), scope := sc, base := BitVec.ofNat 6 (bitField c 14 9),
                  cmpv := BitVec.ofNat 7 (bitField c 6 0) })
  | _ => .error .reservedMajor

/-- The first half of the U-set majors (R94): scalar work, memory, control. -/
def parseU1 (w c : Nat) (w1 : Word) : Except DecodeError Instr :=
  let sub := bitField w 23 21
  let sd := regField w 20
  let sa := regField w 13
  let b := parseB w w1
  let s := parseS w w1
  let nat := boolOf (bitField w 22 22)
  match majorOf w with
  | 0x01 => .ok (.sadd s)
  | 0x02 => .ok (.ssub s)
  | 0x03 => .ok (.smul s)
  | 0x04 => .ok (.smulh nat s)
  | 0x05 => .ok (.sand s)
  | 0x06 => .ok (.sor s)
  | 0x07 => .ok (.sxor s)
  | 0x08 => .ok (.sshl s)
  | 0x09 => .ok (.sshr s)
  | 0x0A => .ok (.ssar s)
  | 0x0B => .ok (.smin nat s)
  | 0x0C => .ok (.smax nat s)
  | 0x0D => .ok (.scmp (.ofCode sub) sd sa b)
  | 0x0E => .ok (.ssel s)
  | 0x0F => .ok (.smov (boolOf (bitField w 21 21)) sd b)
  | 0x10 => .ok (.smovi (regField w 24) (BitVec.ofNat 18 (bitField w 17 0)))
  | 0x11 => .ok (.sclz (boolOf (bitField w 21 21)) sd sa)
  | 0x12 => .ok (.spopc (boolOf (bitField w 21 21)) sd sa)
  | 0x13 => .ok (.sbfx (boolOf sub) sd sa b)
  | 0x14 => .ok (.sfadd sd sa b)
  | 0x15 => .ok (.sfmul sd sa b)
  | 0x16 => .ok (.sfma (.ofCode sub) sd sa b)
  | 0x18 => Instr.sld <$> parseUM w
  | 0x19 => Instr.sst <$> parseUM w
  | 0x1A => Instr.slds <$> parseUM w
  | 0x1B => Instr.ssts <$> parseUM w
  | 0x1C => do
    let o ← parseUM w
    let a ← orBad (Aop.ofCode (bitField c 23 20))
    .ok (.satom o { rsp := boolOf (bitField c 24 24), aop := a, w64 := boolOf (bitField c 19 19),
                    sb := BitVec.ofNat 7 (bitField c 13 7), sc := BitVec.ofNat 7 (bitField c 6 0) })
  | 0x1D => Instr.slr <$> parseUM w
  | 0x1E => Instr.ssc <$> parseUM w
  | 0x1F => (fun o : UmOp => Instr.fence o.ord o.scope) <$> parseUM w
  | 0x20 => .ok (.bra (BitVec.ofNat 25 (bitField w 24 0)))
  | 0x21 => .ok (.bcc (.ofCode (bitField w 17 16)) (regField w 24) (BitVec.ofNat 16 (bitField w 15 0)))
  | 0x22 => .ok (.bdiv (boolOf (bitField w 17 16)) (regField w 24) (BitVec.ofNat 16 (bitField w 15 0)))
  | 0x23 => .ok (.call (BitVec.ofNat 25 (bitField w 24 0)))
  | 0x24 => .ok .ret
  | 0x25 => .ok .exit
  | 0x26 => .ok .nop
  | 0x27 => .ok (.yield (Counter.ofCode (bitField w 17 16)) (regField w 24) (BitVec.ofNat 16 (bitField w 15 0)))
  | 0x28 => do .ok (.waitc (← (match Counter.ofCode sub with | some k => .ok k | none => .error .unlistedFunction)) b)
  | _ => .error .reservedMajor

/-- The second half of the U-set majors (R94): system, group and asynchronous work, the sequencer family. A barrier LEVEL of 5 to 7 is refused here, at
step 5 of R98, and so is REGRP's count by `Instr.wf` (DESIGN CHOICE, log entry 72: the table of R98 names no step for them). -/
def parseU2 (w c : Nat) (w1 : Word) : Except DecodeError Instr :=
  let sub := bitField w 23 21
  let sd := regField w 20
  let sa := regField w 13
  let sb := regField w 6
  let b := parseB w w1
  let id := BitVec.ofNat 4 (bitField w 3 0)
  let q := BitVec.ofNat 4 (bitField c 19 16)
  let len := BitVec.ofNat 5 (bitField c 4 0)
  let core := BitVec.ofNat 8 (bitField c 31 24)
  let off := BitVec.ofNat 25 (bitField c 24 0)
  let mm1 := BitVec.ofNat 10 (bitField c 31 22)
  let acc := BitVec.ofNat 10 (bitField c 21 12)
  match majorOf w with
  | 0x29 => .ok (.bkpt (BitVec.ofNat 25 (bitField w 24 0)))
  | 0x2A => .ok (.trap (BitVec.ofNat 25 (bitField w 24 0)))
  | 0x2B => .ok .tret
  | 0x2C => .ok (.srd sd b)
  | 0x2D => .ok (.swr sa b)
  | 0x2E => .ok (.clk (boolOf sub) sd)
  | 0x2F => .ok (.regrp sa sb)
  | 0x30 => do
    let l ← orBad (BarLevel.ofCode (bitField w 6 4))
    .ok (match bitField w 22 21 with
      | 0 => .bar l id | 1 => .bara l id sd | 2 => .bard l id | _ => .barw l id sa)
  | 0x31 => .ok (.fsend (BitVec.ofNat 2 (bitField w 22 21)))
  | 0x32 => do
    let k ← (match CpyKind.ofCode sub with | some k => .ok k | none => .error .unlistedFunction)
    .ok (.cpy k (boolOf (bitField c 31 31)) (← orBad (CpyTr.ofCode (bitField c 30 29)))
      (BitVec.ofNat 8 (bitField c 15 8)) (BitVec.ofNat 8 (bitField c 7 0)) sd sa sb)
  | 0x33 => .ok (.publ sa)
  | 0x34 => .ok (.mqput core q len sd sa)
  | 0x35 => .ok (.mqget q len sd)
  | 0x36 => .ok (.mqfree core q sa)
  | 0x37 => .ok (.mfork (BitVec.ofNat 4 (bitField c 31 28)) off sd sa)
  | 0x38 => .ok (.mrdv sa)
  | 0x39 => .ok (.tsub (boolOf (bitField c 1 1)) (boolOf (bitField c 0 0)) sd sa)
  | 0x3A => .ok (.temit (boolOf (bitField c 31 31)) (BitVec.ofNat 3 (bitField c 2 0)) sd sa)
  | 0x3B => .ok (.spawn off sd sa)
  | 0x3C => .ok (.krel b)
  | 0x3D => match sub with
    | 0 => do .ok (.cnew (BitVec.ofNat 10 (bitField c 25 16)) (← orBad (Life.ofCode (bitField c 15 14))) (boolOf (bitField c 13 13)) sd sa)
    | 1 => .ok (.copen (boolOf (bitField c 0 0)) sd sa)
    | 2 => match bitField c 23 22 with
      | 0 => .ok (.chand (.succ (BitVec.ofNat 3 (bitField c 2 0))) sd sa)
      | 1 => .ok (.chand (.task sb) sd sa)
      | 2 => .ok (.chand (.core core) sd sa)
      | _ => .error .badControl
    | 3 => .ok (.cdrop (boolOf (bitField c 0 0)) sd sa)
    | 4 => .ok (.cinfo (boolOf (bitField c 0 0)) sd sa)
    | _ => .error .unlistedFunction
  | 0x3E => match sub with
    | 0 => do .ok (.mres (← orBad (WFmt.ofCode (bitField c 31 30))) (boolOf (bitField c 29 29)) (boolOf (bitField c 28 28)) sd sa)
    | 1 => .ok (.mwld (BitVec.ofNat 24 (bitField c 23 0)) sa sb)
    | 2 => .ok (.mldw (BitVec.ofNat 12 (bitField c 11 0)) sa)
    | 3 => .ok (.mma mm1 acc sa sb)
    | 4 => .ok (.mdist mm1 acc sd sa sb)
    | 5 => .ok (.mtopk mm1 acc (BitVec.ofNat 4 (bitField c 11 8)) (boolOf (bitField c 7 7)) sa sb)
    | 6 => do .ok (.mdrn mm1 acc (← orBad (DFmt.ofCode (bitField c 11 10))) (boolOf (bitField c 9 9)) (boolOf (bitField c 8 8)) sa sb)
    | _ => .ok (.mzero (BitVec.ofNat 16 (bitField c 15 0)))
  | _ => .error .reservedMajor

/-- The instruction the fields name, before the checks of step 5; `c` is the trailing word, 0 when there is none. -/
def parse (w c : Nat) : Except DecodeError Instr :=
  if isLset w then parseL w c (BitVec.ofNat 32 c)
  else if majorOf w ≤ 0x28 then parseU1 w c (BitVec.ofNat 32 c)
  else parseU2 w c (BitVec.ofNat 32 c)

/-- Decoding of a first word and its trailing word (R98 steps 2 and 5); both below 2^32. -/
def decodeWords (w c : Nat) : Except DecodeError Instr :=
  match step2 w with
  | some e => .error e
  | none =>
    match parse w c with
    | .error e => .error e
    | .ok i =>
      if encode i != (if hasTrailing w then [w, c] else [w]) then .error .mustBeZero
      else if !i.wf then .error .operandLimit
      else .ok i

/-- The value of little-endian bytes (R86). -/
def leNat : List Byte → Nat
  | [] => 0
  | b :: bs => b.toNat + 256 * leNat bs

/-- The `n` little-endian bytes of a value. -/
def leBytes : Nat → Nat → List Byte
  | 0, _ => []
  | n + 1, v => BitVec.ofNat 8 v :: leBytes n (v / 256)

/-- Decoding of instruction bytes: the instruction and the bytes after its last word (R86). -/
def decode (bs : List Byte) : Except DecodeError (Instr × List Byte) :=
  if bs.length < 4 then .error .truncated
  else
    let w := leNat (bs.take 4)
    if hasTrailing w then
      if bs.length < 8 then .error .truncated
      else (fun i => (i, bs.drop 8)) <$> decodeWords w (leNat ((bs.drop 4).take 4))
    else (fun i => (i, bs.drop 4)) <$> decodeWords w 0

/-- The bytes of an instruction, each word little-endian (R86). -/
def encodeBytes (i : Instr) : List Byte := (encode i).flatMap (leBytes 4)

/-- The instruction's length in bytes: its first word and at most one trailing word (R86). -/
def Instr.len (i : Instr) : Nat := 4 * (encode i).length

/-- The instruction the decoder reads from bits `w`, bit 0 the least significant of the first word; bits above `nbits`
are zero, so that a shorter table row is followed by a trailing word of zeros. -/
def decodeTableWord (nbits w : Nat) : Option Instr :=
  match decode (leBytes 8 (w % 2 ^ nbits)) with
  | .ok (i, _) => some i
  | .error _ => none

end Sys2Proof
end

