-- ==== Sys2Proof/Machine/Numbers.lean ====
section
/-! DEFINITION. The number formats and roundings of 06_number_formats.md: exact values and one rounding. -/

namespace Sys2Proof.Machine

/-- A value exact: NaN, an infinity, or ±m × 2^e, where m = 0 keeps its sign (R104, R105). -/
inductive ExactVal where
  | nan
  | inf (neg : Bool)
  | fin (neg : Bool) (m : Nat) (e : Int)
  deriving DecidableEq, Repr

/-- 2^e for a natural or negative e, the latter as 0: used where e is not negative. -/
def pow2 (e : Int) : Nat := 2 ^ e.toNat

/-- ±m × 2^e rounded to a whole number of 2^q, under a rounding mode (R95, R105). -/
def roundAt (q : Int) (rm : Rm) (neg : Bool) (m : Nat) (e : Int) : Nat :=
  if q ≤ e then m * pow2 (e - q)
  else
    let d := pow2 (q - e)
    let n := m / d
    let r := m % d
    match rm with
    | .rz => n
    | .rn => if 2 * r < d then n else if 2 * r = d then n + n % 2 else n + 1
    | .rd => if r ≠ 0 ∧ neg then n + 1 else n
    | .ru => if r ≠ 0 ∧ !neg then n + 1 else n

/-- The exponent of the unit in the last place of a `p`-bit format whose least unit is 2^qmin, for m × 2^e. -/
def unitExp (p : Nat) (qmin : Int) (m : Nat) (e : Int) : Int := max (Nat.log2 m + 1 - (p : Int) + e) qmin

/-- The bits of n × 2^q in a format of `p` significant bits and `w` exponent bits, n ≤ 2^p, without sign; infinity where the
exponent overflows. -/
def packFin (p w : Nat) (qmin : Int) (n : Nat) (q : Int) : Nat :=
  let (n, q) := if n = 2 ^ p then (2 ^ (p - 1), q + 1) else (n, q)
  if n < 2 ^ (p - 1) then n
  else
    let be := (q - qmin).toNat + 1
    if 2 ^ w - 1 ≤ be then (2 ^ w - 1) * 2 ^ (p - 1) else be * 2 ^ (p - 1) + (n - 2 ^ (p - 1))

/-- Rounding into a binary format of `p` significant bits and 8 exponent bits: FP32 (24) and BF16 (8) (R105, R109). A finite
value too large becomes infinite under rn, and the largest finite value where the mode rounds it toward zero. -/
def packBin (p : Nat) (qmin : Int) (rm : Rm) : ExactVal → Nat
  | .nan => 255 * 2 ^ (p - 1) + 2 ^ (p - 2)
  | .inf neg => neg.toNat * 2 ^ (p + 7) + 255 * 2 ^ (p - 1)
  | .fin neg m e =>
    let s := neg.toNat * 2 ^ (p + 7)
    if m = 0 then s
    else
      let q := unitExp p qmin m e
      let b := packFin p 8 qmin (roundAt q rm neg m e) q
      let away := match rm with | .rn => true | .rz => false | .rd => neg | .ru => !neg
      if 255 * 2 ^ (p - 1) ≤ b ∧ !away then s + 255 * 2 ^ (p - 1) - 1 else s + b

/-- FP32 bits of an exact value (R104, R105). -/
def toF32 (rm : Rm) (x : ExactVal) : Word := BitVec.ofNat 32 (packBin 24 (-149) rm x)

/-- `round_rne` of R101. -/
def roundRne (x : ExactVal) : Word := toF32 .rn x

/-- The value of a binary format's bits: `p` significant bits, 8 exponent bits (R104, R109). -/
def ofBin (p : Nat) (qmin : Int) (b : Nat) : ExactVal :=
  let neg := b / 2 ^ (p + 7) % 2 = 1
  let e := b / 2 ^ (p - 1) % 256
  let f := b % 2 ^ (p - 1)
  if e = 255 then if f = 0 then .inf neg else .nan
  else if e = 0 then .fin neg f qmin
  else .fin neg (f + 2 ^ (p - 1)) (qmin + e - 1)

/-- The value of an FP32 word (R104). -/
def ofF32 (w : Word) : ExactVal := ofBin 24 (-149) w.toNat

/-- `canon_nan` (R107). -/
def canonNan : Word := 0x7FC00000

/-- An FP32 word is subnormal (R104). -/
def isSubnormal (w : Word) : Bool := w.toNat / 2 ^ 23 % 256 = 0 && w.toNat % 2 ^ 23 != 0

/-- A flush of a subnormal word to zero of its sign, when `ftz` holds (R106). -/
def flush (ftz : Bool) (w : Word) : Word := if ftz && isSubnormal w then w &&& 0x80000000 else w

/-- The exact sum; `rd` is the mode in which an exact zero sum is −0 (R105). -/
def ExactVal.add (rd : Bool) : ExactVal → ExactVal → ExactVal
  | .nan, _ | _, .nan => .nan
  | .inf a, .inf b => if a = b then .inf a else .nan
  | .inf a, _ | _, .inf a => .inf a
  | .fin a m e, .fin b n f =>
    let q := min e f
    let x : Int := (if a then -1 else 1) * (m * pow2 (e - q))
    let y : Int := (if b then -1 else 1) * (n * pow2 (f - q))
    let z := x + y
    if z = 0 then .fin (if m = 0 ∧ n = 0 ∧ a = b then a else rd) 0 q else .fin (z < 0) z.natAbs q

/-- The exact product (R105). -/
def ExactVal.mul : ExactVal → ExactVal → ExactVal
  | .nan, _ | _, .nan => .nan
  | .inf a, .inf b => .inf (a != b)
  | .inf a, .fin b m _ | .fin b m _, .inf a => if m = 0 then .nan else .inf (a != b)
  | .fin a m e, .fin b n f => .fin (a != b) (m * n) (e + f)

/-- The value with its sign changed; a NaN stays a NaN. -/
def ExactVal.neg : ExactVal → ExactVal
  | .nan => .nan
  | .inf a => .inf !a
  | .fin a m e => .fin (!a) m e

/-- A value is a NaN. -/
def ExactVal.isNan : ExactVal → Bool
  | .nan => true
  | _ => false

/-- An order of finite values, infinities at the ends: the key is compared as an integer at a common exponent. -/
def ExactVal.lt : ExactVal → ExactVal → Bool
  | .nan, _ | _, .nan => false
  | .inf a, .inf b => a && !b
  | .inf a, .fin .. => a
  | .fin .., .inf b => !b
  | .fin a m e, .fin b n f =>
    let q := min e f
    decide ((if a then -1 else 1) * ((m * pow2 (e - q) : Nat) : Int) < (if b then -1 else 1) * ((n * pow2 (f - q) : Nat) : Int))

/-- Equality as numbers: −0 equals +0, a NaN equals nothing (R107). -/
def ExactVal.eq (x y : ExactVal) : Bool := !x.isNan && !y.isNan && !x.lt y && !y.lt x

/-- FP32 add, subtract, multiply and fused multiply-add with one rounding, on words already flushed (R105, R107). -/
def fAdd (x y : Word) : Word := roundRne ((ofF32 x).add false (ofF32 y))
def fSub (x y : Word) : Word := roundRne ((ofF32 x).add false (ofF32 y).neg)
def fMul (x y : Word) : Word := roundRne ((ofF32 x).mul (ofF32 y))
/-- The sign pattern negates the product (`np`, `npc`) and the addend (`nc`, `npc`) (R380, R331). -/
def fmaExact (p : SignPat) (x y z : Word) : ExactVal :=
  let prod := (ofF32 x).mul (ofF32 y)
  let prod := if p = .np ∨ p = .npc then prod.neg else prod
  let c := if p = .nc ∨ p = .npc then (ofF32 z).neg else ofF32 z
  prod.add false c
def fFma (p : SignPat) (x y z : Word) : Word := roundRne (fmaExact p x y z)

/-- FP32 minimum and maximum: the other operand for one NaN, −0 below +0 (R107). -/
def fMin (x y : Word) : Word :=
  match ofF32 x, ofF32 y with
  | .nan, .nan => canonNan
  | .nan, _ => y
  | _, .nan => x
  | a, b => if a.lt b then x else if b.lt a then y else x ||| (y &&& 0x80000000)
def fMax (x y : Word) : Word :=
  match ofF32 x, ofF32 y with
  | .nan, .nan => canonNan
  | .nan, _ => y
  | _, .nan => x
  | a, b => if b.lt a then x else if a.lt b then y else if x.msb then y else x

/-- The value of a signed element of `w` bits. -/
def sInt (w n : Nat) : Int := if n < 2 ^ (w - 1) then n else (n : Int) - 2 ^ w

/-- An integer as an exact value. -/
def ExactVal.ofInt (i : Int) : ExactVal := .fin (i < 0) i.natAbs 0

/-- An E4M3 byte's value (R110). -/
def ofE4m3 (b : Nat) : ExactVal :=
  let neg := b / 128 % 2 = 1
  let e := b / 8 % 16
  let m := b % 8
  if e = 15 ∧ m = 7 then .nan
  else if e = 0 then .fin neg m (-9)
  else .fin neg (m + 8) ((e : Int) - 10)

/-- An HS4 code's value n + 0.5 (R112). -/
def ofHs4 (b : Nat) : ExactVal := let n := 2 * sInt 4 (b % 16) + 1; .fin (n < 0) n.natAbs (-1)

/-- Bits of an element of each format (R95, R102). -/
def Fmt.width : Fmt → Nat
  | .i32 | .n32 | .f32 => 32
  | .bf16 | .i16 | .n16 => 16
  | .e4m3 | .i8 | .n8 => 8
  | .hs4 => 4

/-- The exact value of an element's bits (R102, R104, R109, R110, R112). -/
def ofFmt (f : Fmt) (b : Nat) : ExactVal :=
  match f with
  | .i32 | .i16 | .i8 => ExactVal.ofInt (sInt (Fmt.width f) b)
  | .n32 | .n16 | .n8 => ExactVal.ofInt b
  | .f32 => ofBin 24 (-149) b
  | .bf16 => ofBin 8 (-133) b
  | .e4m3 => ofE4m3 b
  | .hs4 => ofHs4 b

/-- Rounding to E4M3 (R111). -/
def packE4m3 (rm : Rm) (nosat : Bool) : ExactVal → Nat
  | .nan => 0x7F
  | .inf neg => if nosat then 0x7F else neg.toNat * 128 + 0x7E
  | .fin neg m e =>
    if m = 0 then neg.toNat * 128
    else
      let q := unitExp 4 (-9) m e
      let n := roundAt q rm neg m e
      if 448 * pow2 (-q) < n * pow2 q then (if nosat then 0x7F else neg.toNat * 128 + 0x7E)
      else neg.toNat * 128 + packFin 4 5 (-9) n q

/-- The floor of ±m × 2^e. -/
def floorInt (neg : Bool) (m : Nat) (e : Int) : Int :=
  let n := roundAt 0 .rd neg m e
  if neg then -n else n

/-- The code of an HS4 level, clamped to the grid (R113). -/
def clampHs4 (n : Int) : Nat := ((max (-8) (min 7 n)) % 16).toNat

/-- Rounding to HS4 (R113). For ±m × 2^e, rd is the floor of x − 1/2 and ru its ceiling. -/
def packHs4 (rm : Rm) : ExactVal → Nat
  | .nan => 0
  | .inf neg => if neg then 8 else 7
  | .fin neg m e =>
    let fl := floorInt neg m e
    let whole : Bool := e ≥ 0 ∨ m % pow2 (-e) = 0
    let half := ExactVal.add false (.fin neg m e) (.fin true 1 (-1))
    let (down, up) : Int × Int := match half with
      | .fin n2 m2 e2 => (floorInt n2 m2 e2, -(floorInt (!n2) m2 e2))
      | _ => (0, 0)
    match rm with
    | .rn => clampHs4 (if whole then (if fl % 2 = 0 then fl else fl - 1) else fl)
    | .rd => clampHs4 down
    | .ru => clampHs4 up
    | .rz => if down = -1 ∧ up ≤ 0 then clampHs4 (if neg then -1 else 0) else clampHs4 (if neg then up else down)

/-- Rounding to an integer format, saturating (R114). -/
def packInt (lo hi : Int) (rm : Rm) : ExactVal → Int
  | .nan => 0
  | .inf neg => if neg then lo else hi
  | .fin neg m e => let n : Int := roundAt 0 rm neg m e; max lo (min hi (if neg then -n else n))

/-- The least and greatest value of an integer format (R102). -/
def Fmt.range (f : Fmt) : Int × Int :=
  match f with
  | .i32 | .i16 | .i8 => (-(2 ^ (Fmt.width f - 1)), 2 ^ (Fmt.width f - 1) - 1)
  | _ => (0, 2 ^ Fmt.width f - 1)

/-- An exact value converted to an element's bits (R109, R111, R113, R114). -/
def packFmt (f : Fmt) (rm : Rm) (nosat : Bool) (x : ExactVal) : Nat :=
  match f with
  | .f32 => packBin 24 (-149) rm x
  | .bf16 => packBin 8 (-133) rm x
  | .e4m3 => packE4m3 rm nosat x
  | .hs4 => packHs4 rm x
  | f => let r := Fmt.range f; (packInt r.1 r.2 rm x % 2 ^ Fmt.width f).toNat

end Sys2Proof.Machine
end

