-- ==== Sys2Proof/Machine/State.lean ====
section
/-! DEFINITION. The state of a pod of C9 packages as plain data (INVENTORY.md, State), why a step stops, and the state
after reset. A table is a list of numbered records in rising order of number; a number that is not listed has the record
its lookup names (State.reset lists nothing). -/

namespace Sys2Proof.Machine

/-- A table: records by number, numbers strictly rising. -/
abbrev Table (α : Type) := List (Nat × α)

/-- Bytes by address: what is written and not zero, strictly rising; and the ranges (first, past the last, nonce) that are
undefined (R1) since they were last written. An address in neither reads as zero (R148). -/
structure Mem where
  cells : List Host.Cell := []
  undef : List (Nat × Nat × Nat) := []
  deriving DecidableEq, Repr

/-- A vector register: its tag and the payload held (R72). A general payload lists lanes 0 to 95. -/
inductive VReg where
  | u (w : Word)
  | a (b d : Word)
  | g (ws : List Word)
  deriving DecidableEq, Repr

/-- A barrier above grp: level 1 block, 2 quad, 3 grid, 4 pod; the block, task or launch it belongs to; the quad (level 2,
else 0); its id (R53). -/
structure BarKey where
  level : Nat
  owner : Nat
  sub : Nat
  id : Nat
  deriving DecidableEq, Repr

/-- A hardware barrier (R54). `members` and `arrived` list groups; `doneAt` is the clk of its last completion (R57). Of a pod barrier,
`parts` counts the parts of the pod launch that are still to be accepted (R261), and `late` lists the retired groups, with their VFs, whose
drops wait as releases at pod scope do (R58). -/
structure Barrier where
  phase : Word := 0
  expected : Nat := 0
  count : Nat := 0
  drops : Nat := 0
  members : List Nat := []
  arrived : List Nat := []
  broken : Bool := false
  doneAt : Option Nat := none
  parts : Nat := 0
  late : List (Nat × Nat) := []
  deriving DecidableEq, Repr

/-- A register that the scoreboard tracks (R78): vector, scalar, or word i of split k's mask. -/
inductive RegRef where
  | v (n : Nat)
  | s (n : Nat)
  | am (k i : Nat)
  deriving DecidableEq, Repr

/-- What an instruction waits for when its split is to issue it again (R50, R78, R85). -/
inductive Again where
  /-- Writes of registers, before the instruction has read any (R78). -/
  | regs (l : List RegRef)
  /-- The values of ports, before it has read any (R60). -/
  | port (ps : List Nat)
  /-- A release at pod scope, at issue: the acknowledgements of the group's remote operations, and the VF's stores in flight
  (R159, R252). -/
  | acks
  /-- At issue: the remote operations of a VF in flight (R154, R156, R162, R163, R165). -/
  | applied (vf : Nat)
  /-- A U-set remote operation, at issue: a free entry (R252). -/
  | entry
  /-- An engine's or a packet's access to a remote page, at issue: the VF's remote operations in flight there (R160, R251). -/
  | flight (home : Nat)
  /-- FSEND: an entry for the value (R63); EXIT, with 4: entries for the group's unsent values (R62). -/
  | send (p : Nat)
  /-- CPY, MQPUT and PUBL: the group's counter below 255 (R79). -/
  | count (c : Counter)
  /-- TSUB: room in the global queue of a priority (R199). -/
  | tasks (prio : Nat)
  /-- TEMIT: free records of a node (R208). -/
  | emit (launch node n : Nat)
  /-- KREL and EXIT: the acknowledgements of the group's remote operations (R252). -/
  | release
  /-- MFORK: room in the fork queue (R178). -/
  | fork
  /-- MRDV: the end of a program of the quad, and what it left: VF, cause and PC (R179). -/
  | rdv (serial : Nat) (fate : Option (Nat × Nat × Word))
  /-- A request under a cairn's name, and the pair it will write (R214). -/
  | cairn (name : DWord) (sd : Nat)
  /-- MQGET: an entry of a queue (R312). -/
  | queue (q : Nat)
  /-- MQGET: its queue was disabled meanwhile (R312). -/
  | gone
  deriving DecidableEq, Repr

/-- What a split waits for (R85). -/
inductive Wait where
  | none
  /-- BAR and BARW: until the phase differs (R55). -/
  | bar (k : BarKey) (phase : Word)
  | barGrp
  | regrp (first count : Nat)
  /-- WAITC and YIELD (`parked`) on a counter: until at most `t` operations are outstanding (R80, R81). -/
  | counter (c : Counter) (t : Nat) (parked : Bool)
  /-- YIELD without a counter, since a clk (R81). -/
  | yield (since : Nat)
  /-- The instruction issues again. -/
  | again (why : Again)
  /-- COPEN, until the move or restore of the cairn ends (R216). -/
  | move (name : DWord) (sd : Nat)
  /-- CDROP, CHAND and CINFO.sync, until the write-back is done (R219). -/
  | writeback (id sd : Nat)
  /-- A remote instruction, until its lanes are sent and its replies have arrived (R252). -/
  | replies
  deriving DecidableEq, Repr

/-- An instruction that has issued and waits, the registers and the mask that it read when it issued, and its place in the order of issue
(R78, R101). -/
structure Held where
  stamp : Nat
  instr : Instr
  sregs : List Word
  vregs : List VReg
  mask : Mask
  deriving DecidableEq, Repr

/-- A split (R41): pc bits [31:0], its bank of am0-am2, what it waits for, where it goes on when the wait ends, the clk
since which it has been ready (R50), whether its next instruction is exempt from breakpoints (R234), what an instruction that
waits has read, the place in the order of issue of an instruction that waits (R228; 0 otherwise), and the place and the PC of a completed
instruction whose STEP is still to be raised (R241). -/
structure Split where
  pc : Word
  mask : Mask
  wait : Wait := .none
  cont : Word := 0
  since : Nat := 0
  exempt : Bool := false
  held : Option Held := none
  stamp : Nat := 0
  due : Option (Nat × Word) := none
  deriving DecidableEq, Repr

/-- A deferral entry (R43). -/
structure Defer where
  owner : Nat
  addr : Word
  mask : Mask
  deriving DecidableEq, Repr

/-- A value received on a forwarding port (R60, R62, R230). -/
inductive PortVal where
  | arrived (v : VReg)
  | poisoned (lanes : List Word)
  | defaulted (w : Word)
  deriving DecidableEq, Repr

/-- A trap as recorded (R230): cause, split, lane (127 when none), address, TCODE and the PC of the instruction; `order` is the
instruction's place in the order of issue (R228); `fate` the quad and the serial of the program whose cause an MRDV's trap delivers
(R177). -/
structure TrapInfo where
  cause : Nat
  split : Nat := 0
  lane : Nat := 127
  addr : DWord := 0
  code : Word := 0
  pc : Word := 0
  order : Nat := 0
  fate : Option (Nat × Nat) := none
  deriving DecidableEq, Repr

/-- Trap mode (R229, R234): the record, the nested record, and the flat frame as words (R84, R85). `tvalid` lists the
splits valid at entry, `exited` the lanes that had exited, `splits` the splits as they stood at entry, `rewritten` those whose PC in the
frame was written since (R361), `known` counts the outcomes of stranded operations that were reported by the last entry (R260). -/
structure TrapMode where
  info : TrapInfo
  nest : Nat := 0
  ncause : Nat := 0
  npc : Word := 0
  frame : List Word
  tvalid : List Nat
  exited : Mask
  splits : Table Split
  rewritten : List Nat := []
  known : Nat := 0
  deriving DecidableEq, Repr

/-- An entry of the stranded-operation report (R260); `op` is the operation's place in the order of issue. -/
structure FlEntry where
  op : Nat
  applied : Bool
  kind : Nat
  w64 : Bool
  dst : Nat
  addr : DWord
  val : DWord
  lane : Nat
  deriving DecidableEq, Repr

/-- Breakpoints, watchpoints and DBGCTL of a context (R230, R236-R240). -/
structure Debug where
  ctl : Word := 0
  bpa : List Word := [0, 0, 0, 0]
  bpm : List Mask := [0, 0, 0, 0]
  wpa : List DWord := [0, 0, 0, 0]
  wpl : List Word := [0, 0, 0, 0]
  deriving DecidableEq, Repr

/-- What becomes of a group's context. -/
inductive Residence where
  | resident | preempted (saved : List Word) | retired
  deriving DecidableEq, Repr

/-- Where the result of a remote instruction goes (R252). -/
inductive RDest where
  | none
  | vec (vd : Nat) (w : Width) (sx : Bool)
  | scal (sd : Nat) (w64 : Bool)
  | ssc (sd : Nat)
  deriving DecidableEq, Repr

/-- One lane of a remote instruction: the operation's kind (0 read, 1 write, 2 atomic, 3 SLR, 4 SSC), its size in bytes,
virtual and physical addresses, home package and operands. `lane` is 127 for a U-set instruction; `acq` marks an acquire (R154), `rsp`
one that promotes, `rel` a release at core scope (R165), `strong` an ordered or atomic operation at pod scope (R153). -/
structure RLane where
  lane : Nat
  kind : Nat
  size : Nat
  va : DWord
  pa : Nat
  home : Nat
  op : Aop := .ld
  d : Nat := 0
  c : Nat := 0
  acq : Bool := false
  rsp : Bool := false
  rel : Bool := false
  strong : Bool := false
  deriving DecidableEq, Repr

/-- A remote instruction of a split (R252): the lanes that wait for a free entry, the identifiers of the operations that it waits
for, the values that have arrived by lane (local lanes too), its destination, its place in the order of issue (R228), the bytes
its lanes have read (R130), and whether an operation of it was reported stranded (R260). -/
structure RInstr where
  split : Nat
  unsent : List RLane
  waiting : List Nat
  values : Table Nat
  dest : RDest
  stamp : Nat := 0
  seen : List (Nat × Byte) := []
  lost : Bool := false
  deriving DecidableEq, Repr

/-- A group of 96 lanes and its context (R37-R50, R69-R85). Scalar registers s0-s124; the masks are the splits'. -/
structure Group where
  core : Nat
  part : Nat
  slot : Nat
  vf : Nat
  launch : Nat
  task : Option Nat := none
  node : Option Nat := none
  block : Option Nat := none
  gidx : Nat := 0
  item : Option Nat := none
  count : Nat
  budget : Nat
  vregs : List VReg
  sregs : List Word
  window : Word
  splits : Table Split
  defer : List Defer := []
  exited : Mask := 0
  gmode : Word := 0
  sent : List Nat := []
  reserv : Option Nat := none
  busy : List RegRef := []
  cache : List (Bool × Nat) := []
  copyErr : Bool := false
  succ : List Word := []
  trap : Option TrapMode := none
  pend : Option TrapInfo := none
  fl : List FlEntry := []
  rinstr : List RInstr := []
  dbg : Debug := {}
  life : Residence := .resident
  kept : Nat := 0
  deriving DecidableEq, Repr

/-- A declared forwarding port (R59, R266): scalar source, source register, distance, default from payload, payload word,
literal default. -/
structure PortDecl where
  scalar : Bool
  src : Nat
  k : Nat
  fromPayload : Bool
  word : Nat
  lit : Word
  deriving DecidableEq, Repr

/-- A kernel descriptor as read from the descriptor table (R266). `kind`: 0 plain, 1 ordered, 2 node. -/
structure Kernel where
  entry : DWord
  kind : Nat
  count : Nat
  budget : Nat
  lanes : Nat
  bars : Nat
  qbars : Nat
  gbars : Nat
  pbars : Nat
  grid : Nat
  scratch : Nat
  ports : List (Option PortDecl)
  coalesce : Nat
  queue : Nat
  record : Nat
  timeout : Nat
  succ : List Nat
  deriving DecidableEq, Repr

/-- A block (R51): its launch or task, index, and on each core its allocation (core, window offset, bytes). `left` lists
its groups that have not retired; `spans`: it was placed on more than one core; `cores`: those it was placed on. -/
structure Block where
  launch : Nat
  task : Option Nat
  vf : Nat
  index : Nat
  places : List (Nat × Nat × Nat)
  left : List Nat
  spans : Bool := false
  cores : List Nat := []
  deriving DecidableEq, Repr

/-- A graph node (R206-R209): kernel, queued records (append clk, words). -/
structure Node where
  kernel : Kernel
  queue : List (Nat × List Word) := []
  deriving DecidableEq, Repr

/-- An entry of a launch's fault record: cause, core coordinate, PC; by a group's kill (R235) or by a sequencer's (R177). -/
structure FaultRec where
  cause : Nat
  core : Nat
  pc : Word
  byKill : Bool
  deriving DecidableEq, Repr

/-- What a termination wave sums (R210): records appended and taken, groups started and retired, operations. -/
structure Sums where
  appended : Nat
  taken : Nat
  started : Nat
  retired : Nat
  ops : Nat
  deriving DecidableEq, Repr

/-- Where a launch finds an image that carries COORD8 entries (R34): in memory, or in one of the loader's copies beside it. -/
structure ImageUse where
  base : Nat
  size : Nat
  copy : Option Nat
  deriving DecidableEq, Repr

/-- A launch (R52, R268, R269). `next` is the next block or item to place; `first` the index of its first descriptor; `images`
where it finds those of its images that carry COORD8 entries (R34); `lostOps` the outcomes of stranded operations of its retired groups (R260). -/
structure Launch where
  vf : Nat
  queue : Nat
  graph : Bool
  slot : Nat := 0
  kernel : Kernel
  payload : List Word
  prio : Nat
  done : DWord
  podl : Nat
  next : Nat := 0
  first : Nat := 0
  images : List ImageUse := []
  nodes : List Node := []
  killed : Bool := false
  fablost : Bool := false
  lostOps : List FlEntry := []
  fault : Option FaultRec := none
  sums : Sums := ⟨0, 0, 0, 0, 0⟩
  wave : Option Sums := none
  ended : Bool := false
  deriving DecidableEq, Repr

/-- Where a task stands (R199-R205). -/
inductive TaskAt where
  | waiting
  | queued (core : Nat)
  | running
  | retired
  deriving DecidableEq, Repr

/-- A task (R196-R205, R243). `keys` are those of the packet, `held` those not yet released; EXCL is the Bool. -/
structure Task where
  vf : Nat
  launch : Nat
  handle : Word
  kernel : Kernel
  kind : Nat
  keys : List (Nat × Bool)
  held : List (Nat × Bool) := []
  rounds : Nat := 0
  retry : Bool
  aff : Option DWord
  pin : Bool
  prio : Nat
  succ : List Word
  payload : List Word
  place : TaskAt := .waiting
  next : Nat := 0
  attempts : Nat := 0
  opened : Bool := false
  deriving DecidableEq, Repr

/-- The target of a hand (R218). -/
inductive Hand where
  | node (launch node : Nat)
  | task (uid : Nat)
  | core (c : Nat)
  deriving DecidableEq, Repr

/-- A move or restore in progress (R217): the new core and offset, the group and split whose COPEN waits for it, and the cairn's bytes as it began. -/
structure Move where
  core : Nat
  off : Nat
  opener : Option (Nat × Nat)
  restore : Bool
  bytes : List Byte := []
  deriving DecidableEq, Repr

/-- A cairn (R211). `opens` lists the groups that hold an open, with repeats; `topens` the tasks. -/
structure Cairn where
  vf : Nat
  name : DWord
  holder : Nat
  off : Nat
  size : Nat
  life : Life
  mir : Bool
  launch : Nat
  queue : Nat
  opens : List Nat := []
  topens : List Nat := []
  drop : Bool := false
  hand : Option Hand := none
  moving : Option Move := none
  lost : Bool := false
  restorable : Bool := false
  mirror : List Byte := []
  deriving DecidableEq, Repr

/-- Who gives up its opens as it ends: a retired group, or a task (R212, R220). -/
inductive Leaver where
  | group (gid : Nat)
  | task (uid : Nat)
  deriving DecidableEq, Repr

/-- A write-back in progress (R219): the cairn, its bytes, the instruction that completes with it (group, split, sd, value), and
the close that follows, with FREE or without; or the ended group or task whose close follows (R212). -/
structure Writeback where
  vf : Nat
  name : DWord
  bytes : List Byte
  waiter : Option (Nat × Nat × Nat × Word)
  close : Option Bool := none
  leaver : Option Leaver := none
  deriving DecidableEq, Repr

/-- A copy in flight (R138, log entry 13): its core and block, the address and the key of each source and destination byte in
order, the keys as of issue; the destination's bytes at issue; the positions whose source or destination a program wrote meanwhile,
and those whose destination a drain wrote (R299); whether it breaks a rule whatever its addresses (R140), and whether R132 allowed its ranges as of issue; whether it writes the shadow,
and of which regions (R146). -/
structure Copy where
  gid : Nat
  task : Option Nat
  launch : Nat
  vf : Nat
  core : Nat
  block : Option Nat
  fromScratch : Bool
  toScratch : Bool
  addrs : List (DWord × DWord)
  srcs : List (Option Nat)
  dsts : List (Option Nat)
  old : List Byte
  dirty : List Nat := []
  raced : List Nat := []
  faults : Bool
  srcOk : Bool := true
  dstOk : Bool := true
  sh : Bool := false
  regions : List DWord := []
  finished : Bool := false
  deriving DecidableEq, Repr

/-- A message on its way (R136). -/
structure Msg where
  gid : Nat
  task : Option Nat
  launch : Nat
  core : Nat
  queue : Nat
  words : List Word
  finished : Bool := false
  deriving DecidableEq, Repr

/-- A publish in progress (R147): the region's base, and the program serials (by quad) it waits for. -/
structure Pub where
  gid : Nat
  core : Nat
  task : Option Nat
  launch : Nat
  vf : Nat
  base : DWord
  progs : List (Nat × Nat)
  finished : Bool := false
  deriving DecidableEq, Repr

/-- A message queue (R134): configuration, entries from the head, credits of the quad's four cores. -/
structure MQueue where
  cfg : Word := 0
  entries : List (List Word) := []
  credits : List Nat := [0, 0, 0, 0]
  deriving DecidableEq, Repr

/-- A weight range with its format record (R180). -/
structure WRange where
  vf : Nat
  base : Nat
  bytes : Nat
  fmt : WFmt
  sp : Bool
  ts : Bool
  deriving DecidableEq, Repr

/-- A loaded weight plane (R186): the tenant, its range and block, and the block's bytes as loaded (data, metadata, scales). -/
structure Plane where
  range : WRange
  blk : Nat
  bytes : List Byte
  deriving DecidableEq, Repr

/-- What an engine operation does (R183-R191). A row instruction holds the rows done and the destination registers. -/
inductive EngKind where
  | mwld (src : DWord) (dst len : Nat)
  | mldw (base blk : Nat)
  | mma
  | mdist (norm : Nat)
  | mtopk (k : Nat) (min : Bool) (base : Word)
  | mdrn (fmt : DFmt) (sh : Bool) (scale : Word) (dst : Option DWord)
  | mzero (regs : Nat)
  | release (base sd : Nat)
  deriving DecidableEq, Repr

/-- An engine operation issued and not complete (R176): rows in all, first accumulator row and rows done; the four ring
words and the ring's register; the plane that MMA and MDIST use. `mldw` is the MLDW whose plane a row operation uses; of an
MLDW, the one before it. `uses` holds the BASEs of the ranges it uses (R184); of an MWLD, `keys` its source in parts of 256 bytes and `dirty`
the bytes written since it was issued (R317). -/
structure EngOp where
  kind : EngKind
  pc : Word
  rows : Nat := 0
  acc : Nat := 0
  row : Nat := 0
  ring : List Word := []
  sa : Nat := 0
  plane : Option Plane := none
  mldw : Option Nat := none
  uses : List Nat := []
  keys : List Nat := []
  dirty : List Nat := []
  deriving DecidableEq, Repr

/-- A sequencer program (R176, R178): where it came from, its registers, operations and plane; `loads` lists the parts of 256 bytes that
its MWLDs have loaded: source key, offset in the weight buffer, and the bytes whose source was written since (R317). -/
structure Prog where
  serial : Nat
  gid : Nat
  launch : Nat
  task : Option Nat
  vf : Nat
  core : Nat
  window : Word
  pc : Word
  sregs : List Word
  ops : Table EngOp := []
  plane : Option Plane := none
  lastLoad : Option Nat := none
  loads : List (Nat × Nat × List Nat) := []
  nextOp : Nat := 0
  stopped : Option (Nat × Word) := none
  ending : Bool := false
  deriving DecidableEq, Repr

/-- An ended program in the fate record (R179). -/
structure Fate where
  serial : Nat
  vf : Nat
  launch : Nat
  core : Nat
  cause : Nat
  pc : Word
  told : Bool := false
  deriving DecidableEq, Repr

/-- A quad's sequencer and engine (R174-R179), with the sequencer's own instruction cache (R8). -/
structure Quad where
  forks : Nat := 0
  queue : List Prog := []
  running : Option Prog := none
  saved : List Prog := []
  fates : List Fate := []
  ranges : List WRange := []
  icache : Table Word := []
  deriving DecidableEq, Repr

/-- The check state of an accumulator row (R194): C and S exact, block updates, and MDIST's mark; or the row is undefined (R1). -/
structure RowCheck where
  c : ExactVal := .fin false 0 0
  s : ExactVal := .fin false 0 0
  updates : Nat := 0
  mdist : Bool := false
  undef : Bool := false
  deriving DecidableEq, Repr

/-- A value sent on a port and held for its receiver (R63). `spilled`: in the FE die's pool; `arrived`: the receiver may read it
(R60). -/
structure Fwd where
  launch : Nat
  item : Nat
  port : Nat
  val : PortVal
  spilled : Bool
  arrived : Bool := false
  deriving DecidableEq, Repr

/-- A core (R126, R230, R245, R100). TLB entries: (VF, virtual page, page bytes, entry); icache: (address, word). -/
structure Core where
  sdccnt : Nat := 0
  atomloc : Word := 0
  atomhome : Word := 0
  lost : Bool := false
  tlb : List (Nat × Nat × Nat × Nat) := []
  icache : Table Word := []
  deriving DecidableEq, Repr

/-- A host queue (R267). -/
structure HostQ where
  base : DWord := 0
  cfg : Word := 0
  tail : Word := 0
  head : Word := 0
  deriving DecidableEq, Repr

/-- A publishable region (R146) and which backing is the front (R147). -/
structure Region where
  base : DWord
  size : Nat
  scope : Scope
  flipped : Bool := false
  deriving DecidableEq, Repr

/-- A code or data image that carries COORD8 entries (R34, log entry 76): the descriptors whose kernels use it, its lines of 256 bytes by 57-bit address,
its entries (offset, core index), its bytes as the loader first found them, and each placement that has been loaded: the bytes of its entries, and the
copy that holds it, or memory. -/
structure Image where
  descs : List Nat
  base : Nat
  size : Nat
  coords : List (Nat × Nat) := []
  file : List Byte := []
  loaded : List (List Byte × Option Nat) := []
  deriving DecidableEq, Repr

/-- A virtual function: its policy (R272) and BAR0 registers (R267). `images` lists its images that carry COORD8
entries (R34). -/
structure Vf where
  coreSet : List Nat := []
  slices : Table (List Nat) := []
  quarters : Table (List Nat) := []
  scopeMax : Scope := .core
  descBase : DWord := 0
  descCount : Nat := 0
  ptRoot : DWord := 0
  thandler : DWord := 0
  debug : Debug := {}
  debugHost : Bool := false
  dirShare : Nat := 0
  mirrorBase : DWord := 0
  mirrorSize : Nat := 0
  t : Nat := 8
  t2 : Nat := 16
  triples : List (Nat × Nat) := []
  regions : List Region := []
  images : List Image := []
  queues : Table HostQ := []
  baddb : Bool := false
  demote : Word := 0
  tolns : Word := 0
  serial : Nat := 0
  reserve : Option Nat := none
  deriving DecidableEq, Repr

/-- A Hyvis port (R254) and the package and port at the other end of its link. `degradeAt` holds the ticks of the DEGRADED rises
within the last second. -/
structure Port where
  lost : Bool := false
  transient : Word := 0
  degraded : Word := 0
  degradeAt : List Nat := []
  peer : Option (Nat × Nat) := none
  deriving DecidableEq, Repr

/-- A route of a package toward a destination, by port, and its failed mark (R258). -/
structure Route where
  dst : Nat
  port : Nat
  failed : Bool := false
  deriving DecidableEq, Repr

/-- Life-cycle states (R276). -/
inductive LifeCycle where
  | manufacturing | deployed | debugUnlocked | decommissioned
  deriving DecidableEq, Repr

/-- Power states (R274). -/
inductive Power where
  | active | idleWarm | idleCold | parked
  deriving DecidableEq, Repr

/-- A package. `badQuads` lists (die, physical quad) that is defective or lost (R270). `exitAt` is the clk at which a power-state
exit under way ends. `epoch` is the clk of its cold reset (R11). `counts` holds the cycle counter of each die as of `runFrom`, the
clk since which they count; none while they stand still (R12). `cut` holds the packages to which no route works, with the clk since
which (R262). -/
structure Pkg where
  mode : Mode := .whole
  life : LifeCycle := .deployed
  wiping : Bool := true
  booted : Bool := false
  bootfail : Bool := false
  power : Power := .active
  exitAt : Option Nat := none
  epoch : Nat := 0
  counts : List DWord := List.replicate 8 0
  runFrom : Option Nat := some 0
  badQuads : List (Nat × Nat) := []
  ports : Table Port := []
  routes : List Route := []
  cut : Table Nat := []
  lost : Bool := false
  deriving DecidableEq, Repr

/-- What a packet carries (R253, R255-R257, R261, R263). -/
inductive Body where
  | req (op : Nat) (l : RLane)
  | rsp (op : Nat) (value : Nat)
  | arrive (k : BarKey) (gid : Nat)
  | dropOut (k : BarKey) (phase : Word) (count : Bool)
  | ack (h : Nat)
  | ctl (pkg vf : Nat)
  deriving DecidableEq, Repr

/-- A window's triple (R255): source and destination package and VF, class 0 REQ, 1 RSP, 2 SYNC. -/
structure Triple where
  srcPkg : Nat
  srcVf : Nat
  dstPkg : Nat
  dstVf : Nat
  cls : Nat
  deriving DecidableEq, Repr

/-- A window (R255, R256): the source's next number, packets held (number, clk sent, port, body), packets that wait; the
destination's H and packets held early. `again` lists the numbers held that are still to be replayed (R258); `closed`: by stranding (R259),
as `stranded` tells, or by a reset (R263). -/
structure Win where
  triple : Triple
  next : Nat := 0
  held : List (Nat × Nat × Nat × Body) := []
  queue : List Body := []
  h : Nat := 0xFFFF
  early : List (Nat × Body) := []
  again : List Nat := []
  stranded : Bool := false
  closed : Bool := false
  deriving DecidableEq, Repr

/-- A packet on the wire: the package that sent it, its window, number and the port it left by (R253). An acknowledgement names the
window it acknowledges. -/
structure Flight where
  src : Nat
  triple : Triple
  seq : Nat
  port : Nat
  body : Body
  deriving DecidableEq, Repr

/-- A remote operation not yet acknowledged (R252): issuing group, launch, split, lane and core; whether it was applied at the
destination and its reply (R257). -/
structure ROp where
  gid : Nat
  task : Option Nat
  launch : Nat
  vf : Nat
  split : Nat
  lane : RLane
  core : Nat := 0
  applied : Bool := false
  reply : Nat := 0
  deriving DecidableEq, Repr

/-- Events that the device logs to system software (R235, R243, R245, R246). -/
inductive LogEvent where
  | taskRequeued (uid cause : Nat)
  | sdc (core : Nat)
  | coreLoss (core : Nat)
  | scrub (dev addr : Nat)
  | packageLost (pkg : Nat)
  deriving DecidableEq, Repr

/-- What the host or system software was told: bytes or registers read, reports and refusals. -/
inductive HostMsg where
  | bytes (bs : List Byte)
  | value (v : Nat)
  | busy
  | refused
  | report (pkg : Nat) (life : LifeCycle) (vf : Nat) (policy : Vf) (nonce : List Byte) (measures : List (BitVec 384))
      (signatures : List (List Byte))
  deriving DecidableEq, Repr

/-- Who issues the instruction being executed. -/
inductive Issuer where
  | none
  | group (gid split : Nat)
  | seq (quad : Nat)
  deriving DecidableEq, Repr

/-- Who moves next: a step of the device, system software or the host, a split, a sequencer, or nobody. -/
inductive Mover where
  | event (i : Instr)
  | split (gid n : Nat)
  | seq (quad : Nat)
  | idle
  deriving DecidableEq, Repr

/-- One turn of the run: the clk that pass and then who moves. -/
structure Turn where
  clks : Nat
  mover : Mover
  deriving DecidableEq, Repr

/-- The fields of a packet header (R253). -/
structure Header where
  srcPkg : Nat
  dstPkg : Nat
  srcVf : Nat
  dstVf : Nat
  cls : Nat
  seq : Nat
  kind : Nat
  flits : Nat
  len : Nat
  addr : Nat
  deriving DecidableEq, Repr

/-- The machine. `lineCore` is the core that last performed a core-scope release on a line, kept at its home slice (R165);
`written` lists parts of memory before a write: first key, past the last, the next id at the write, and the bytes (R100); `issued` the clk of the last issue of
each partition (core × 32 + partition), and `pipe` the clk from which its vector pipe is free (R38, R50); `trace` the headers that each
package has sent, as its management block's trace buffer shows them (R253); `pods` the packages of each pod launch and those whose part has
been accepted (R261); `resets` the peer packages and VFs whose windows a function-level reset has yet to restart (R263). `bad` lists memory bytes
with an uncorrectable error not yet consumed (R246). Keys: devices package × 8 + device, cores and VFs package × 256 + number, quads
package × 64 + number. -/
structure State where
  now : Nat
  fresh : Nat
  nextId : Nat
  agenda : List Turn
  cur : Issuer
  mem : Mem
  bad : List Nat
  lineCore : Table Nat
  written : List (Nat × Nat × Nat × Mem)
  issued : Table Nat
  pipe : Table Nat
  trace : Table (List (BitVec 128))
  resets : List (Nat × Nat)
  scratch : Mem
  wbuf : Mem
  wdup : Mem
  acc : Mem
  rows : Table RowCheck
  pkgs : Table Pkg
  vfs : Table Vf
  cores : Table Core
  quads : Table Quad
  queues : Table MQueue
  launches : Table Launch
  blocks : Table Block
  tasks : Table Task
  groups : Table Group
  barriers : List (BarKey × Barrier)
  fwds : List Fwd
  cairns : List Cairn
  copies : Table Copy
  msgs : Table Msg
  pubs : Table Pub
  wbacks : Table Writeback
  wins : Table Win
  flights : Table Flight
  rops : Table ROp
  pods : Table (List Nat × List Nat)
  syslog : List LogEvent
  host : List HostMsg
  deriving DecidableEq, Repr

/-- Why the machine stops. -/
inductive Fault where
  /-- A translated address that no HBM stack of its device holds, raised by any access. The spec gives such an access no
  effect. Safe: the device would go on. -/
  | noMemory (addr : Nat)
  deriving DecidableEq, Repr

/-- Why an instruction is refused. -/
inductive Refusal where
  /-- The instruction has no meaning in this model. Safe. -/
  | notModelled (mnemonic : String)
  /-- An encoded instruction executed when no split and no sequencer issues it: never in a run. Safe. -/
  | noIssuer
  deriving DecidableEq, Repr

/-- The machine right after cold reset: every memory is zero (R148) and its wipe is under way, the time base is 0 (R11),
no tenant has a policy, no work exists. Log entry 4 names the values that the spec does not give. -/
def State.reset : State where
  now := 0
  fresh := 0
  nextId := 0
  agenda := []
  cur := .none
  mem := {}
  bad := []
  lineCore := []
  written := []
  issued := []
  pipe := []
  trace := []
  resets := []
  scratch := {}
  wbuf := {}
  wdup := {}
  acc := {}
  rows := []
  pkgs := []
  vfs := []
  cores := []
  quads := []
  queues := []
  launches := []
  blocks := []
  tasks := []
  groups := []
  barriers := []
  fwds := []
  cairns := []
  copies := []
  msgs := []
  pubs := []
  wbacks := []
  wins := []
  flights := []
  rops := []
  pods := []
  syslog := []
  host := []

end Sys2Proof.Machine
end

