-- ==== Sys2Proof/Machine/Tables.lean ====
section
/-! DEFINITION. The operations over tables and over memories. A write keeps both in their one canonical form. -/

namespace Sys2Proof.Machine

/-- The record with number `k`. -/
def tget (k : Nat) : Table α → Option α
  | [] => none
  | (j, x) :: t => if j = k then some x else tget k t

/-- The record with number `k`, or `d`. -/
def tgetD (k : Nat) (d : α) (t : Table α) : α := (tget k t).getD d

/-- The table with record `k` set to `x`, in rising order. -/
def tset (k : Nat) (x : α) : Table α → Table α
  | [] => [(k, x)]
  | (j, y) :: t => if j < k then (j, y) :: tset k x t else if j = k then (k, x) :: t else (k, x) :: (j, y) :: t

/-- The table without record `k`. -/
def tdel (k : Nat) (t : Table α) : Table α := t.filter fun p => p.1 != k

/-- The table with record `k`, where there is one, changed by `f`. -/
def tmod (k : Nat) (f : α → α) (t : Table α) : Table α := t.map fun p => if p.1 = k then (p.1, f p.2) else p

/-- The table with the records at which `p` holds. -/
def tfilter (p : Nat → α → Bool) (t : Table α) : Table α := t.filter fun x => p x.1 x.2

/-- How many records satisfy `p`. -/
def tcount (p : α → Bool) (t : Table α) : Nat := (t.filter fun x => p x.2).length

/-- A table's numbers rise strictly. -/
def tableOk : Table α → Bool
  | [] => true
  | [_] => true
  | (j, _) :: (k, y) :: t => decide (j < k) && tableOk ((k, y) :: t)

/-- The first element at which `p` holds, replaced by `f` of it. -/
def modFirst (p : α → Bool) (f : α → α) : List α → List α
  | [] => []
  | x :: xs => if p x then f x :: xs else x :: modFirst p f xs

/-- The list without its first element at which `p` holds. -/
def dropFirst (p : α → Bool) : List α → List α
  | [] => []
  | x :: xs => if p x then xs else x :: dropFirst p xs

/-- The element of least measure, the first of equals. -/
def leastBy (f : α → Nat) : List α → Option α
  | [] => none
  | x :: xs => match leastBy f xs with
    | none => some x
    | some y => if f x ≤ f y then some x else some y

/-- Insertion by rising measure, before equals. -/
def insertBy (f : α → Nat) (x : α) : List α → List α
  | [] => [x]
  | y :: ys => if f x ≤ f y then x :: y :: ys else y :: insertBy f x ys

/-- The list in rising order of a measure, equals in their order. -/
def sortBy (f : α → Nat) : List α → List α
  | [] => []
  | x :: xs => insertBy f x (sortBy f xs)

/-- The byte listed at `a`, else zero. -/
def cellAt (a : Nat) : List Host.Cell → Byte
  | [] => 0
  | (j, b) :: t => if j = a then b else cellAt a t

/-- The nonce of the undefined range that holds `a`. -/
def undefAt (a : Nat) : List (Nat × Nat × Nat) → Option Nat
  | [] => none
  | (l, h, n) :: t => if l ≤ a ∧ a < h then some n else undefAt a t

/-- One byte of a memory (R1, R148): an undefined byte is a free value of the event that made it so. -/
def Mem.get (m : Mem) (a : Nat) : Byte :=
  match undefAt a m.undef with
  | some n => Config.freeByte n a
  | none => cellAt a m.cells

/-- A byte of a memory is undefined (R1). -/
def Mem.undefinedAt (m : Mem) (a : Nat) : Bool := (undefAt a m.undef).isSome

/-- The ranges without `lo` to `hi` − 1. -/
def cutRanges (lo hi : Nat) : List (Nat × Nat × Nat) → List (Nat × Nat × Nat)
  | [] => []
  | (l, h, n) :: t =>
    (if l < min h lo then [(l, min h lo, n)] else []) ++ (if max l hi < h then [(max l hi, h, n)] else []) ++ cutRanges lo hi t

/-- The cells with `a` holding `b`; a zero is not listed. -/
def putCell (a : Nat) (b : Byte) : List Host.Cell → List Host.Cell
  | [] => if b = 0 then [] else [(a, b)]
  | (j, c) :: t =>
    if j < a then (j, c) :: putCell a b t
    else
      let rest := if j = a then t else (j, c) :: t
      if b = 0 then rest else (a, b) :: rest

/-- A memory after a write of one byte. -/
def Mem.put (m : Mem) (a : Nat) (b : Byte) : Mem :=
  { cells := putCell a b m.cells, undef := cutRanges a (a + 1) m.undef }

/-- A memory after the bytes `bs` are written from `a` on. -/
def Mem.putAll (m : Mem) (a : Nat) : List Byte → Mem
  | [] => m
  | b :: bs => (m.put a b).putAll (a + 1) bs

/-- `n` bytes from `a` on. -/
def Mem.bytes (m : Mem) : Nat → Nat → List Byte
  | _, 0 => []
  | a, n + 1 => m.get a :: m.bytes (a + 1) n

/-- The little-endian value of `n` bytes at `a` (R102). -/
def Mem.read (m : Mem) : Nat → Nat → Nat
  | _, 0 => 0
  | a, n + 1 => (m.get a).toNat + 256 * m.read (a + 1) n

/-- A memory after the `n` low bytes of `v` are written at `a`, little-endian. -/
def Mem.write (m : Mem) : Nat → Nat → Nat → Mem
  | _, 0, _ => m
  | a, n + 1, v => (m.put a (BitVec.ofNat 8 v)).write (a + 1) n (v / 256)

/-- A memory after `len` bytes from `a` on are written zero (R148). -/
def Mem.zero (m : Mem) (a len : Nat) : Mem :=
  { cells := m.cells.filter fun c => c.1 < a || a + len ≤ c.1, undef := cutRanges a (a + len) m.undef }

/-- A range put into the list of ranges in rising order. -/
def putRange (r : Nat × Nat × Nat) : List (Nat × Nat × Nat) → List (Nat × Nat × Nat)
  | [] => [r]
  | s :: t => if s.1 < r.1 then s :: putRange r t else r :: s :: t

/-- A memory after `len` bytes from `a` on have become undefined by event `n` (R1). -/
def Mem.undefine (m : Mem) (a len n : Nat) : Mem :=
  if len = 0 then m
  else { cells := m.cells.filter fun c => c.1 < a || a + len ≤ c.1,
         undef := putRange (a, a + len, n) (cutRanges a (a + len) m.undef) }

/-- A memory in which single bytes have become undefined (R1). -/
def Mem.undefAll (m : Mem) (nonce : Nat) (keys : List Nat) : Mem := keys.foldl (fun m k => m.undefine k 1 nonce) m

/-- The part of a memory from `lo` to `hi` − 1. -/
def Mem.part (m : Mem) (lo hi : Nat) : Mem :=
  { cells := m.cells.filter fun c => lo ≤ c.1 && c.1 < hi,
    undef := (m.undef.map fun r => (max lo r.1, min hi r.2.1, r.2.2)).filter fun r => r.1 < r.2.1 }

/-- Cells rise strictly and none is zero. -/
def cellsOk : List Host.Cell → Bool
  | [] => true
  | [c] => c.2 != 0
  | c :: d :: t => c.2 != 0 && decide (c.1 < d.1) && cellsOk (d :: t)

/-- Ranges are not empty, rise and do not overlap. -/
def rangesOk : List (Nat × Nat × Nat) → Bool
  | [] => true
  | [r] => decide (r.1 < r.2.1)
  | r :: s :: t => decide (r.1 < r.2.1) && decide (r.2.1 ≤ s.1) && rangesOk (s :: t)

/-- The canonical form of a memory: equal memories are equal data. -/
def Mem.wf (m : Mem) : Bool :=
  cellsOk m.cells && rangesOk m.undef && m.cells.all fun c => (undefAt c.1 m.undef).isNone

/-- The canonical form of every memory of the machine. -/
def Memory.wf (s : State) : Bool := s.mem.wf && s.scratch.wf && s.wbuf.wf && s.wdup.wf && s.acc.wf

end Sys2Proof.Machine
end

