-- ==== Sys2Proof/Machine/Access.lean ====
section
/-! DEFINITION. Places and tenants, translation (R125-R128, R273), the scratch rules (R132) and the accesses to memory. -/

namespace Sys2Proof

/-- Bytes of a row that MMA and MDIST consume (R188). -/
def WFmt.rowBytes : WFmt → Nat
  | .bf16 => 256
  | _ => 528

/-- Bytes of an element that MDRN writes (R191). -/
def DFmt.bytes : DFmt → Nat
  | .f32 => 4 | .bf16 => 2 | .f8 => 1

end Sys2Proof

namespace Sys2Proof.Machine

/-- Lookups of the machine's tables; an unlisted record has its reset value. -/
def State.pkg (s : State) (p : Nat) : Pkg := tgetD p {} s.pkgs
def State.vf (s : State) (v : Nat) : Vf := tgetD v {} s.vfs
def State.coreAt (s : State) (c : Nat) : Core := tgetD c {} s.cores
def State.quad (s : State) (q : Nat) : Quad := tgetD q {} s.quads
def State.queue (s : State) (k : Nat) : MQueue := tgetD k {} s.queues
def State.group? (s : State) (g : Nat) : Option Group := tget g s.groups
def State.setGroup (s : State) (gid : Nat) (g : Group) : State := { s with groups := tset gid g s.groups }
def State.modGroup (s : State) (gid : Nat) (f : Group → Group) : State := { s with groups := tmod gid f s.groups }
def State.setPkg (s : State) (p : Nat) (x : Pkg) : State := { s with pkgs := tset p x s.pkgs }
def State.setVf (s : State) (v : Nat) (x : Vf) : State := { s with vfs := tset v x s.vfs }
def State.setCore (s : State) (c : Nat) (x : Core) : State := { s with cores := tset c x s.cores }
def State.setQuad (s : State) (q : Nat) (x : Quad) : State := { s with quads := tset q x s.quads }
def State.setQueue (s : State) (k : Nat) (x : MQueue) : State := { s with queues := tset k x s.queues }

/-- The package of a core or of a VF. -/
def pkgOf (n : Nat) : Nat := n / 256
/-- The logical coordinate of a core (R5). -/
def coordOf (core : Nat) : Nat := core % 256
/-- The quad of a core: package × 64 + coordinate [7:2]. -/
def quadOf (core : Nat) : Nat := pkgOf core * 64 + coordOf core / 4
/-- The package of a quad. -/
def quadPkg (q : Nat) : Nat := q / 64
/-- A core of a quad, by CROW, CCOL. -/
def quadCore (q i : Nat) : Nat := quadPkg q * 256 + q % 64 * 4 + i
/-- The die index of a core: row × 4 + column (R4, R5). -/
def dieOf (core : Nat) : Nat := coordOf core / 32

/-- The device of its package that a die belongs to (R13). -/
def devIndex (m : Mode) (die : Nat) : Nat :=
  match m with
  | .whole => 0
  | .halves => die / 4
  | .dies => die

/-- The device of a core: package × 8 + index. -/
def State.devOf (s : State) (core : Nat) : Nat := pkgOf core * 8 + devIndex (s.pkg (pkgOf core)).mode (dieOf core)

/-- A VF's device: that of its core set. -/
def State.vfDev (s : State) (v : Nat) : Nat :=
  match (s.vf v).coreSet with
  | c :: _ => s.devOf (pkgOf v * 256 + c)
  | [] => pkgOf v * 8

/-- Devices of a package, and dies of a device (R13). -/
def Mode.devices : Mode → Nat
  | .whole => 1 | .halves => 2 | .dies => 8
def Mode.diesPerDevice : Mode → Nat
  | .whole => 8 | .halves => 4 | .dies => 1

/-- HBM bytes of a device (R4, R8, R13); none where the package does not present it. -/
def State.devBytes (s : State) (dev : Nat) : Nat :=
  let m := (s.pkg (dev / 8)).mode
  if dev < Config.devices ∧ dev % 8 < Mode.devices m then Config.hbmBytesPerDie * Mode.diesPerDevice m else 0

/-- A coordinate names a core: its quad position is 0-3 and a working physical quad stands behind it, and the core is not
lost (R5, R270). -/
def State.coreExists (s : State) (core : Nat) : Bool :=
  let p := s.pkg (pkgOf core)
  let bad := (p.badQuads.filter fun x => x.1 == dieOf core).length
  coordOf core / 4 % 8 < 4 && coordOf core / 4 % 8 + bad < 5 && !(s.coreAt core).lost

/-- The cores a VF may use now (R14, R270, R272): those of its core set on its device without the lost ones, in rising order, as
full numbers. -/
def State.coreSet (s : State) (v : Nat) : List Nat :=
  ((s.vf v).coreSet.map fun c => pkgOf v * 256 + c).filter fun c => s.coreExists c && s.devOf c == s.vfDev v

/-- The stack of its package that holds a physical address of a device: 4 KiB interleaved over the device's stacks, in ascending
number (R4, R13). -/
def stackOf (m : Mode) (dev pa : Nat) : Nat :=
  match m with
  | .whole => bitField pa 15 12
  | .halves => dev % 8 * 8 + bitField pa 14 12
  | .dies => dev % 8 * 2 + bitField pa 12 12

/-- The die that owns a stack (R4). -/
def stackDie (stack : Nat) : Nat := stack / 2

/-- Scope codes 0-4 (R92). -/
def Scope.num : Scope → Nat
  | .core => 0 | .quad => 1 | .die => 2 | .pkg => 3 | .pod => 4

/-- The widest scope at which a VF's instruction of scope `sc` acts (R14, R166). -/
def State.allowed (s : State) (v : Nat) (sc : Scope) : Scope :=
  let lim := if Scope.num (s.vf v).scopeMax < Scope.num sc then (s.vf v).scopeMax else sc
  if lim = .pkg ∧ (s.pkg (pkgOf v)).mode = .dies then .die else lim

/-- One count of SCOPEDEMOTE when an instruction of scope `sc` is demoted (R14, R166). -/
def State.demote (s : State) (v : Nat) (sc : Scope) : State :=
  if s.allowed v sc = sc then s
  else { s with vfs := tset v { s.vf v with demote := (s.vf v).demote + 1 } s.vfs }

/-- A translation: physical address of the byte, home package, publishable, permissions, page bytes (R273); or, in a copy of an image, its number, with
the byte's own address (R34). -/
structure Leaf where
  pa : Nat
  home : Nat
  pub : Bool
  x : Bool
  w : Bool
  r : Bool
  page : Nat
  copy : Option Nat := none
  deriving DecidableEq, Repr

/-- A device's byte in `State.mem`. -/
def memKey (dev pa : Nat) : Nat := dev * 2 ^ 57 + pa

/-- A byte of the loader's copy `n` of images in `State.mem`, by its 57-bit address: beyond the devices' memories (R34, log entry 76). -/
def copyKey (n va : Nat) : Nat := memKey (Config.devices + n) va


/-- A page-table leaf read as a translation of `va`, for a page of `size` bytes. -/
def leafOf (e va size : Nat) : Leaf where
  pa := bitField e 56 16 * 65536 / size * size + va % size
  home := bitField e 15 6
  pub := bitField e 5 5 = 1
  x := bitField e 4 4 = 1
  w := bitField e 3 3 = 1
  r := bitField e 2 2 = 1
  page := size

/-- The walk from a table of level `lvl` at `base` (R273). Result: the leaf entry and the page bytes. -/
def walkFrom (m : Mem) (dev va : Nat) : Nat → Nat → Option (Nat × Nat)
  | 0, base =>
    let e := m.read (memKey dev (base + 8 * bitField va 20 16)) 8
    if bitField e 63 57 = 0 ∧ bitField e 1 0 = 3 then some (e, 65536) else none
  | l + 1, base =>
    let e := m.read (memKey dev (base + 8 * bitField va (29 + 9 * l) (21 + 9 * l))) 8
    if bitField e 63 57 ≠ 0 ∨ bitField e 0 0 = 0 then none
    else if bitField e 1 1 = 1 then
      if l = 0 then some (e, 2 ^ 21) else if l = 1 then some (e, 2 ^ 30) else none
    else walkFrom m dev va l (bitField e 56 16 * 65536)

/-- The entry that a core holds for a page of the VF in its TLB (R126). -/
def tlbLookup (v va : Nat) : List (Nat × Nat × Nat × Nat) → Option (Nat × Nat)
  | [] => none
  | (w, vp, size, e) :: t => if w = v ∧ vp = va / size then some (e, size) else tlbLookup v va t

/-- Translation of `va` for a VF on a core (R126, R128, R273): where the TLB holds an entry that the table no longer has,
either may be used. -/
def State.translate (s : State) (core v va : Nat) : Option Leaf :=
  let fromTable := walkFrom s.mem (s.devOf core) va 4 (s.vf v).ptRoot.toNat
  let held := tlbLookup v va (s.coreAt core).tlb
  let e := match held with
    | none => fromTable
    | some h => if some h = fromTable then fromTable else if Config.freeBool s.fresh then some h else fromTable
  e.map fun x => leafOf x.1 va x.2

/-- The TLB after a use of the translation of `va` (R126). -/
def State.tlbFill (s : State) (core v va : Nat) : State :=
  match tlbLookup v va (s.coreAt core).tlb with
  | some _ => s
  | none =>
    match walkFrom s.mem (s.devOf core) va 4 (s.vf v).ptRoot.toNat with
    | none => s
    | some (e, size) =>
      let c := s.coreAt core
      s.setCore core { c with tlb := ((v, va / size, size, e) :: c.tlb).take Config.tlbEntries }

/-- The publishable region of a VF that holds `va` (R146). -/
def State.region (s : State) (v va : Nat) : Option Region :=
  (s.vf v).regions.find? fun r => r.base.toNat % 2 ^ 57 ≤ va && va < r.base.toNat % 2 ^ 57 + r.size

/-- The physical address of the front backing, or of the shadow (R146, R273). -/
def State.backing (s : State) (v va : Nat) (shadow : Bool) (l : Leaf) : Nat :=
  let flipped := match s.region v va with | some r => r.flipped | none => false
  if l.pub && (flipped != shadow) then l.pa + l.page else l.pa

/-- Why an access is not made: a trap cause, or no memory behind a translated address. -/
inductive AccessErr where
  | cause (c : Nat)
  | hole (pa : Nat)
  deriving DecidableEq, Repr

def causeILLEGAL : Nat := 0x01
def causePRIV : Nat := 0x02
def causeALIGN : Nat := 0x03
def causeXLATE : Nat := 0x04
def causePROT : Nat := 0x05
def causeTAGBUDGET : Nat := 0x06
def causeFWDTWICE : Nat := 0x07
def causeBKPT : Nat := 0x08
def causeWATCH : Nat := 0x09
def causeSTEP : Nat := 0x0A
def causeTRAPI : Nat := 0x0B
def causeFWDPOISON : Nat := 0x0C
def causeSEQCTX : Nat := 0x0D
def causeBARBUSY : Nat := 0x0E
def causeFABLOST : Nat := 0x0F
def causeMCHK : Nat := 0x10
def causeUCE : Nat := 0x11
def causeSCRATCH : Nat := 0x12
def causeREGRPX : Nat := 0x13
def causeQFULL : Nat := 0x14

/-- Bits [63:56] of an address are all equal (R101 `ea`, R125). -/
def canonical (a : DWord) : Bool := a.toNat / 2 ^ 56 = 0 || a.toNat / 2 ^ 56 = 255

/-- The 57 implemented bits of a canonical address (R125). -/
def va57 (a : DWord) : Nat := a.toNat % 2 ^ 57

/-- The device whose memory holds a page of a VF: the core's own, or that of the VF's peer on the home package (R250, R255). -/
def State.homeDev (s : State) (core v home : Nat) : Nat :=
  if home = pkgOf v then s.devOf core
  else match (s.vf v).triples.find? fun t => t.1 == home with
    | some t => s.vfDev (home * 256 + t.2)
    | none => home * 8

/-- Whether an access wants read, write or execute permission (R127). -/
inductive Need where
  | read | write | exec
  deriving DecidableEq, Repr

/-- The copy in which a launch of a VF finds the byte of an image at a 57-bit address; none where memory holds it, as in a publishable region, or where no
image with COORD8 entries lies there (R34, log entry 76). -/
def State.imageCopy (s : State) (v launch va : Nat) : Option Nat :=
  if (s.region v va).isSome then none
  else (tget launch s.launches).bind fun l => l.images.findSome? fun u => if u.base ≤ va ∧ va < u.base + u.size then u.copy else none

/-- The home package of the byte that a launch of a VF finds at an address (R34, R250). -/
def State.homeOf (s : State) (core v launch : Nat) (a : DWord) : Option Nat :=
  (s.translate core v (va57 a)).map fun l => if (s.imageCopy v launch (va57 a)).isSome then pkgOf v else l.home

/-- Translation and permission of one address, step 4 of R127, for an access of a launch to the front or to the shadow backing; a byte of one of the
loader's copies of an image lies in the VF's own package (R34). -/
def State.checkPage (s : State) (core v launch : Nat) (a : DWord) (need : Need) (shadow : Bool) : Except AccessErr Leaf :=
  match s.translate core v (va57 a) with
  | none => .error (.cause causeXLATE)
  | some l =>
    let ok := match need with | .read => l.r | .write => l.r && l.w | .exec => l.x
    if !ok then .error (.cause causePROT)
    else if shadow && (!l.pub || (s.region v (va57 a)).isNone) then .error (.cause causePROT)
    else match s.imageCopy v launch (va57 a) with
    | some n => .ok { l with pa := va57 a, home := pkgOf v, copy := some n }
    | none =>
      let pa := s.backing v (va57 a) shadow l
      if l.home ≠ pkgOf v ∧ !(s.vf v).triples.any (fun t => t.1 == l.home) then .error (.cause causePROT)
      else if s.devBytes (s.homeDev core v l.home) ≤ pa then .error (.hole pa) else .ok { l with pa := pa }

/-- A byte of a translated page in `State.mem`. -/
def State.leafKey (s : State) (core v : Nat) (l : Leaf) : Nat :=
  match l.copy with
  | some n => copyKey n l.pa
  | none => memKey (s.homeDev core v l.home) l.pa

/-- The checks of R127 on a global access of `size` bytes, in their order. -/
def State.checkGlobal (s : State) (core v launch : Nat) (a : DWord) (size : Nat) (need : Need) : Except AccessErr Leaf :=
  if !canonical a then .error (.cause causeXLATE)
  else if a.toNat % size ≠ 0 then .error (.cause causeALIGN)
  else s.checkPage core v launch a need false

/-- The allocation of a block on a core: window offset and bytes (R132). -/
def Block.alloc (b : Block) (core : Nat) : Option (Nat × Nat) :=
  (b.places.find? fun p => p.1 == core).map fun p => p.2

/-- The allocation of a group's block on its core; none for a group made by SPAWN (R68, R132). -/
def State.alloc (s : State) (block : Option Nat) (core : Nat) : Option (Nat × Nat) :=
  match block with
  | none => none
  | some b => (tget b s.blocks).bind fun x => x.alloc core

/-- The window offset of a scratch access of `size` bytes (R132); an address above 32 bits breaks the rule (R125). -/
def State.scratchOff (s : State) (block : Option Nat) (core v : Nat) (a : DWord) (size : Nat) : Option Nat :=
  let al := s.alloc block core
  if a.toNat < 2 ^ 31 then
    match al with
    | some (base, n) => if a.toNat + size ≤ n then some (base + a.toNat) else none
    | none => none
  else if 2 ^ 31 ≤ a.toNat ∧ a.toNat < 2 ^ 31 + 2 ^ 21 then
    let off := a.toNat - 2 ^ 31
    let own := match al with | some (base, n) => base ≤ off && off + size ≤ base + n | none => false
    let inCairn := s.cairns.any fun k => k.vf == v && k.holder == core && !k.lost && !k.restorable
      && (!k.opens.isEmpty || !k.topens.isEmpty) && k.off ≤ off && off + size ≤ k.off + k.size
    if own || inCairn then some off else none
  else none

/-- A byte of a core's scratchpad in `State.scratch`. -/
def scratchKey (core off : Nat) : Nat := core * 2 ^ 21 + off

/-- The checks of R127 on a scratch access. -/
def State.checkScratch (s : State) (block : Option Nat) (core v : Nat) (a : DWord) (size : Nat) : Except AccessErr Nat :=
  match s.scratchOff block core v a size with
  | none => .error (.cause causeSCRATCH)
  | some off => if a.toNat % size ≠ 0 then .error (.cause causeALIGN) else .ok (scratchKey core off)

/-- Every reservation on the lines of `n` bytes at `a` is cleared (R144). -/
def State.clearLines (s : State) (a n : Nat) : State :=
  { s with groups := s.groups.map fun p =>
      match p.2.reserv with
      | some l => if a / 128 ≤ l ∧ l ≤ (a + n - 1) / 128 then (p.1, { p.2 with reserv := none }) else p
      | none => p }

/-- Two byte ranges share a byte. -/
def overlap (a n b m : Nat) : Bool := decide (a < b + m) && decide (b < a + n)

/-- A key of a list lies in the `n` bytes at `key`. -/
def keyHit (key n : Nat) (k : Option Nat) : Bool := match k with | some x => decide (key ≤ x) && decide (x < key + n) | none => false

/-- The positions of a copy whose source, or with `both` whose destination, the `n` bytes at `key` hold become dirty (R140). -/
def Copy.touch (c : Copy) (scratch both : Bool) (key n : Nat) : Copy :=
  { c with dirty := c.dirty ++ (List.range c.dsts.length).filter fun i =>
      (c.fromScratch == scratch && keyHit key n (c.srcs.getD i none))
        || (both && c.toScratch == scratch && keyHit key n (c.dsts.getD i none)) }

/-- The positions of an MWLD's source bytes that the `n` bytes at `key` hold become dirty (R317). -/
def EngOp.touch (o : EngOp) (key n : Nat) : EngOp :=
  let hit := o.keys.zipIdx.filter fun x => decide (key < x.1 + 256) && decide (x.1 < key + n)
  { o with dirty := o.dirty ++ hit.flatMap fun x => (List.range 256).filterMap fun j =>
      if key ≤ x.1 + j ∧ x.1 + j < key + n then some (256 * x.2 + j) else none }

/-- The bytes of a part of 256 bytes at `part` that the `n` bytes at `key` hold. -/
def bytesHit (part key n : Nat) : List Nat := (List.range 256).filter fun j => decide (key ≤ part + j) && decide (part + j < key + n)

/-- A quad after a write of `n` bytes of global memory at `key`. -/
def Quad.touch (q : Quad) (key n : Nat) : Quad :=
  let f (p : Prog) : Prog := { p with
    ops := p.ops.map fun o => (o.1, o.2.touch key n),
    loads := p.loads.map fun x => if overlap x.1 256 key n then (x.1, x.2.1, x.2.2 ++ bytesHit x.1 key n) else x }
  { q with running := q.running.map f, saved := q.saved.map f }

/-- The words of memory that `n` bytes at `key` lie in, as they are before a write, for fetches that may still see them (R100). -/
def State.wordsBefore (s : State) (key n : Nat) : List (Nat × Nat × Nat × Mem) :=
  if n = 0 then []
  else
    let lo := key / 4 * 4
    let hi := (key + n - 1) / 4 * 4 + 4
    [(lo, hi, s.nextId, Mem.putAll {} lo (s.mem.bytes lo (hi - lo)))]

/-- The words at some keys of memory are noted as they are now, for fetches that may still see them (R100). -/
def State.noteKeys (s : State) (keys : List Nat) : State :=
  match leastBy id keys with
  | none => s
  | some lo =>
    let lo := lo / 4 * 4
    let hi := keys.foldl max 0 / 4 * 4 + 4
    { s with written := (lo, hi, s.nextId, s.mem.part lo hi) :: s.written }

/-- The bytes among `n` at `key` that a copy in flight is to write. -/
def State.inCopy (s : State) (scratch : Bool) (key n : Nat) : List Nat :=
  s.copies.flatMap fun c => if c.2.toScratch == scratch then (c.2.dsts.filter (keyHit key n)).filterMap id else []

/-- Word i of a list of words. -/
def wordAt (ws : List Word) (i : Nat) : Nat := (ws.getD i 0).toNat

/-- Fields of a ring (R187): core of the quad, row format, offset of slot 0, slot stride in bytes, slots, position and lap. -/
def ringCore (r : List Word) : Nat := bitField (wordAt r 0) 31 30
def ringAfmt (r : List Word) : Nat := bitField (wordAt r 0) 29 28
def ringBase (r : List Word) : Nat := bitField (wordAt r 0) 20 0
def ringStride (r : List Word) : Nat := 64 * bitField (wordAt r 1) 31 16
def ringSlots (r : List Word) : Nat := bitField (wordAt r 1) 15 0
def ringPos (r : List Word) : Nat := wordAt r 2
def ringLap (r : List Word) : Word := r.getD 3 0

/-- The key of the header of the ring's next slot (R187). -/
def slotKey (q : Nat) (r : List Word) : Nat := scratchKey (quadCore q (ringCore r)) (ringBase r + ringStride r * ringPos r)

/-- The ring after one slot (R187). -/
def ringNext (r : List Word) : List Word :=
  if ringPos r + 1 = ringSlots r then (r.set 2 0).set 3 (ringLap r + 1) else r.set 2 (BitVec.ofNat 32 (ringPos r + 1))

/-- The header that a ring operation waits for (R141). -/
def EngOp.header (o : EngOp) : Word :=
  2 * ringLap o.ring + (match o.kind with | .mma | .mdist _ => 1 | _ => 0)

/-- A row instruction writes the slots of its ring: it is the producer (R187). -/
def EngOp.produces (o : EngOp) : Bool := match o.kind with | .mtopk .. | .mdrn .. => true | _ => false

/-- Payload bytes of a slot (R188, R190, R191). -/
def EngOp.payload (o : EngOp) : Nat :=
  match o.kind with
  | .mma | .mdist _ => if ringAfmt o.ring = 2 then WFmt.rowBytes .bf16 else WFmt.rowBytes .fp8
  | .mtopk k .. => 8 * k
  | .mdrn fmt .. => 512 * fmt.bytes
  | _ => 0

/-- Where in its slot a byte of the scratchpads lies, in its header or its payload, if a row instruction of quad `q` is still to take the slot and it is
the engine's turn there (R141, R187). -/
def EngOp.slotTurn (o : EngOp) (s : State) (q byte : Nat) : Option Nat :=
  let r := o.ring
  let base := scratchKey (quadCore q (ringCore r)) (ringBase r)
  let slot := (byte - base) / ringStride r
  let off := (byte - base) % ringStride r
  let lap := ringLap r + (if slot < ringPos r then 1 else 0)
  if r.isEmpty || byte < base || ringStride r == 0 || ringSlots r ≤ slot || (4 ≤ off && off < 64) || 64 + o.payload ≤ off
      || o.rows - o.row ≤ (slot + ringSlots r - ringPos r) % ringSlots r then none
  else if BitVec.ofNat 32 (s.scratch.read (base + ringStride r * slot) 4) = 2 * lap + (if o.produces then 0 else 1) then some off else none

/-- The row instructions with rings that programs have issued and that are not complete, by quad. -/
def State.ringOps (s : State) : List (Nat × EngOp) :=
  s.quads.flatMap fun q => (q.2.running.toList ++ q.2.saved).flatMap fun p =>
    p.ops.filterMap fun o => if o.2.ring.isEmpty then none else some (q.1, o.2)

/-- The bytes among `n` at `key` of slots whose turn is an engine's: a program must not write them (R141). -/
def State.engineBytes (s : State) (key n : Nat) : List Nat :=
  ((List.range n).map (key + ·)).filter fun k => s.ringOps.any fun o => (o.2.slotTurn s o.1 k).isSome

/-- The bytes among `n` at `key` of slots that an engine is still to write: a program must not read them (R141). -/
def State.emptyBytes (s : State) (key n : Nat) : List Nat :=
  ((List.range n).map (key + ·)).filter fun k => s.ringOps.any fun o => o.2.produces && (o.2.slotTurn s o.1 k).any fun off => decide (64 ≤ off)

/-- The bytes among `n` at `key` that are undefined once a program has stored to them: a copy in flight is to write them (R140), or the turn at
their slot is an engine's (R3, R141). -/
def State.claimed (s : State) (scratch : Bool) (key n : Nat) : List Nat :=
  s.inCopy scratch key n ++ (if scratch then s.engineBytes key n else [])

/-- The machine after the bytes `bs` are written to global memory (R102, R144); a byte written holds no error, and one that a copy in flight
is to write is undefined (R140). -/
def State.storeMem (s : State) (key : Nat) (bs : List Byte) : State :=
  let s := if bs.isEmpty then s else s.clearLines key bs.length
  { s with
    written := s.wordsBefore key bs.length ++ s.written,
    mem := (s.mem.putAll key bs).undefAll s.fresh (s.inCopy false key bs.length),
    bad := s.bad.filter fun x => x < key || key + bs.length ≤ x,
    copies := s.copies.map fun c => (c.1, c.2.touch false true key bs.length),
    quads := s.quads.map fun q => (q.1, q.2.touch key bs.length) }

/-- The machine after the bytes `bs` are written to a scratchpad; one that a copy in flight is to write is undefined (R140). -/
def State.storeScratch (s : State) (key : Nat) (bs : List Byte) : State :=
  { s with scratch := (s.scratch.putAll key bs).undefAll s.fresh (s.inCopy true key bs.length),
           copies := s.copies.map fun c => (c.1, c.2.touch true true key bs.length) }

/-- The machine after `n` bytes of global memory at `key`, none of them a copy's or a program's write, have become undefined (R1). -/
def State.undefMem (s : State) (key n : Nat) : State :=
  if n = 0 then s
  else
    let s := (s.noteKeys [key, key + n - 1]).clearLines key n
    { s with
      mem := s.mem.undefine key n s.fresh,
      fresh := s.fresh + 1,
      bad := s.bad.filter fun x => x < key || key + n ≤ x,
      copies := s.copies.map fun c => (c.1, c.2.touch false false key n),
      quads := s.quads.map fun q => (q.1, q.2.touch key n) }

/-- The machine after `n` bytes of a scratchpad have become undefined (R1). -/
def State.undefScratch (s : State) (key n : Nat) : State :=
  { s with scratch := s.scratch.undefine key n s.fresh, copies := s.copies.map fun c => (c.1, c.2.touch true true key n), fresh := s.fresh + 1 }

/-- The machine after `n` bytes of a scratchpad are written zero (R215). -/
def State.zeroScratch (s : State) (key n : Nat) : State :=
  { s with scratch := s.scratch.zero key n, copies := s.copies.map fun c => (c.1, c.2.touch true true key n) }

/-- A value of `size` bytes of a scratchpad, as a program reads it (R3, R141). -/
def State.readScratch (s : State) (key size : Nat) : Nat :=
  match s.emptyBytes key size with
  | [] => s.scratch.read key size
  | ks => (s.scratch.undefAll s.fresh ks).read key size

/-- A value of `size` bytes that a program writes to a scratchpad (R3, R141). -/
def State.writeScratch (s : State) (key size v : Nat) : State :=
  let t := s.storeScratch key (leBytes size v)
  match s.engineBytes key size with
  | [] => t
  | ks => { t with scratch := t.scratch.undefAll s.fresh ks }

/-- Whether a read of `n` bytes meets an uncorrectable error (R246). -/
def State.badAt (s : State) (key n : Nat) : Bool := s.bad.any fun x => key ≤ x && x < key + n

/-- Bytes of a core's 2 MiB window lie in the tenant's slices (R132). -/
def State.inSlices (s : State) (v core off n : Nat) : Bool :=
  let sl := tgetD (coordOf core) [] (s.vf v).slices
  decide (off + n ≤ Config.scratchBytes)
    && (List.range 8).all fun i =>
      sl.contains i || decide (off + n ≤ i * Config.sliceBytes) || decide ((i + 1) * Config.sliceBytes ≤ off)

/-- The bytes of an enabled queue on its core: offset and length (R134). -/
def MQueue.range (q : MQueue) : Option (Nat × Nat) :=
  if q.cfg.msb then some (bitField q.cfg.toNat 14 0 * 64, 2 ^ bitField q.cfg.toNat 30 27 * 64) else none

/-- Bytes of a core's window lie in no block allocation, enabled queue or cairn (R134, R215). -/
def State.scratchFree (s : State) (core off n : Nat) : Bool :=
  (s.blocks.all fun b => b.2.places.all fun p => p.1 != core || !overlap off n p.2.1 p.2.2)
    && (s.queues.all fun q => q.1 / 16 != core || (match q.2.range with | some (o, m) => !overlap off n o m | none => true))
    && (s.cairns.all fun k => (k.lost || k.restorable || k.holder != core || !overlap off n k.off k.size)
        && (match k.moving with | some m => m.core != core || !overlap off n m.off k.size | none => true))

/-- The lowest multiple of 256 with `n` free bytes of the tenant's slices on a core (R215), from step `i` of `fuel` steps. -/
def State.findScratch (s : State) (v core n : Nat) : Nat → Nat → Option Nat
  | 0, _ => none
  | f + 1, i =>
    if s.inSlices v core (i * 256) n && s.scratchFree core (i * 256) n then some (i * 256) else s.findScratch v core n f (i + 1)

/-- Room for `n` bytes on a core; no bytes need no room. -/
def State.scratchRoom (s : State) (v core n : Nat) : Option Nat :=
  if n = 0 then some 0 else s.findScratch v core n (Config.scratchBytes / 256) 0

/-- Byte `off` of a tenant's joined weight-buffer quarters as a byte of the quad's buffer (R174). -/
def State.wbufKey (s : State) (v q off : Nat) : Option Nat :=
  ((tgetD (q % 64) [] (s.vf v).quarters)[off / Config.wbufQuarterBytes]?).map fun i =>
    q * 2 ^ 24 + i * Config.wbufQuarterBytes + off % Config.wbufQuarterBytes

/-- Bytes of a tenant's weight-buffer space on a quad. -/
def State.wbufSpace (s : State) (v q : Nat) : Nat := (tgetD (q % 64) [] (s.vf v).quarters).length * Config.wbufQuarterBytes

/-- Row `r` of a tenant's joined accumulator quarters as a row of the pod (R174). -/
def State.accRow (s : State) (v q r : Nat) : Option Nat :=
  ((tgetD (q % 64) [] (s.vf v).quarters)[r / Config.accQuarterRows]?).map fun i =>
    q * 1024 + i * Config.accQuarterRows + r % Config.accQuarterRows

end Sys2Proof.Machine
end

