-- ==== Sys2Proof/Machine/Operands.lean ====
section
/-! DEFINITION. Operand forms: which registers an instruction names, and the reading and writing of scalar and vector
operands (R60, R69-R71, R101). -/

namespace Sys2Proof

/-- Consecutive register numbers. -/
def regsFrom (n : Nat) : Nat → List Nat
  | 0 => []
  | k + 1 => n :: regsFrom (n + 1) k

/-- The registers a vector source names. -/
def VSrc.regs : VSrc → List Nat
  | .reg n => [n.toNat]
  | _ => []

/-- The port a vector source names. -/
def VSrc.ports : VSrc → List Nat
  | .port p => [p.toNat]
  | _ => []

/-- The register of operand B. -/
def SSrc.regs (w64 : Bool) : SSrc → List Nat
  | .reg n => regsFrom n.toNat (if w64 then 2 else 1)
  | .lit _ => []

/-- The registers of the scalar three-operand form. -/
def SOp.regs (o : SOp) : List Nat :=
  let k := if o.w64 then 2 else 1
  regsFrom o.sd.toNat k ++ regsFrom o.sa.toNat k ++ o.b.regs o.w64

end Sys2Proof

namespace Sys2Proof.Machine

/-- What an instruction sees at issue (R101): who issues it, the group (for a sequencer, one that holds its registers), the
address and length of the instruction, the activity mask, and, of one that has read its operands and waits, its place in the order
of issue; its registers and mask are then those that it read (R78). -/
structure Ctx where
  who : Issuer
  g : Group
  pc : Word
  len : Nat
  mask : Mask
  held : Option Nat := none
  deriving DecidableEq, Repr

/-- What an instruction does: it completes; completes with the split at `pc`; has already moved the machine on; waits (and
then goes on at `cont`); has read its operands and is to try again; raises a cause with its lane, address and TCODE, at the
instruction or after it; or finds no memory. -/
inductive Act where
  | done (s : State)
  | goto (s : State) (pc : Word)
  | away (s : State)
  | wait (w : Wait) (cont : Word) (s : State)
  | hold (why : Again) (s : State)
  | trap (cause lane : Nat) (addr : DWord) (code : Word)
  | trapAfter (cause : Nat) (code : Word)
  | stop (f : Fault)
  deriving DecidableEq, Repr

/-- The issuer is a sequencer (R175). -/
def Ctx.seq (c : Ctx) : Bool := match c.who with | .seq _ => true | _ => false

/-- The instruction after this one (R86); past the last word of the window, its first one (DESIGN CHOICE, log entry 70: R83 names only
transfers). -/
def Ctx.next (c : Ctx) : Word := c.pc + BitVec.ofNat 32 c.len

/-- Lane n is active (R37, R101). -/
def laneOn (m : Mask) (n : Nat) : Bool := m.getLsbD n

/-- The lanes of a group in rising order. -/
def lanes : List Nat := List.range nLanes

/-- The active lanes in rising order. -/
def Ctx.active (c : Ctx) : List Nat := lanes.filter (laneOn c.mask)

/-- Word i of a mask: am_i (R37). -/
def maskWord (m : Mask) (i : Nat) : Word := (m >>> (32 * i)).setWidth 32

/-- The mask whose words are given. -/
def maskOf (a b c : Word) : Mask := (c ++ b) ++ a

/-- The value of `sreg(i)` (R71, R101). -/
def Ctx.s (c : Ctx) (n : Nat) : Word := if c.seq || n < 125 then c.g.sregs.getD n 0 else maskWord c.mask (n - 125)

/-- The value of `spair(i)` (R101). -/
def Ctx.pair (c : Ctx) (n : Nat) : DWord := pairOf (c.s (n + 1)) (c.s n)

/-- `operand_b()` without `.64` (R101). -/
def Ctx.b (c : Ctx) : SSrc → Word
  | .reg n => c.s n.toNat
  | .lit w => w

/-- `operand_b()` with `.64`: a literal is sign-extended (R88, R101). -/
def Ctx.b64 (c : Ctx) : SSrc → DWord
  | .reg n => c.pair n.toNat
  | .lit w => w.signExtend 64

/-- The lanes that another split, a deferral entry or EXIT holds, which a mask write leaves alone (R46). -/
def Group.held (g : Group) (k : Nat) : Mask :=
  let others := g.splits.foldl (fun m p => if p.1 = k then m else m ||| p.2.mask) 0
  g.defer.foldl (fun m d => m ||| d.mask) (others ||| g.exited)

/-- The mask of split `k` after a write of `x` to am_i (R46). -/
def Group.maskAfter (g : Group) (k i : Nat) (old : Mask) (x : Word) : Mask :=
  let sel : Mask := (0xFFFFFFFF : Mask) <<< (32 * i)
  (old &&& ~~~sel) ||| ((x.setWidth 96 <<< (32 * i)) &&& sel &&& ~~~(g.held k))

/-- `write_sreg(n, x)` by split `k` of a group (R46, R47, R101). -/
def Group.setS (g : Group) (k n : Nat) (x : Word) : Group :=
  if n < 125 then { g with sregs := g.sregs.set n x }
  else { g with splits := tmod k (fun sp => { sp with mask := g.maskAfter k (n - 125) sp.mask x }) g.splits }

/-- `write_sreg(n, x)` by the issuer (R101, R175). -/
def Ctx.setS (c : Ctx) (n : Nat) (x : Word) (s : State) : State :=
  match c.who with
  | .none => s
  | .group gid k => s.modGroup gid fun g => g.setS k n x
  | .seq q =>
    let qd := s.quad q
    s.setQuad q { qd with running := qd.running.map fun p => { p with sregs := p.sregs.set n x } }

/-- Both words of a pair written, the low word first (R71). -/
def Ctx.setPair (c : Ctx) (n : Nat) (x : DWord) (s : State) : State := c.setS (n + 1) (hiWord x) (c.setS n (loWord x) s)

/-- Words written to consecutive scalar registers. -/
def Ctx.setWords (c : Ctx) (n : Nat) : List Word → State → State
  | [], s => s
  | w :: ws, s => c.setWords (n + 1) ws (c.setS n w s)

/-- Lane n of a vector register (R72). -/
def VReg.lane : VReg → Nat → Word
  | .u w, _ => w
  | .a b d, n => b + d * BitVec.ofNat 32 n
  | .g ws, n => ws.getD n 0

/-- A register's tag code (R72). -/
def VReg.tag : VReg → Nat
  | .u _ => 0
  | .a .. => 1
  | .g _ => 2

/-- Vector register n of a group. -/
def Group.v (g : Group) (n : Nat) : VReg := g.vregs.getD n (.u 0)

/-- The declared port p of the group's ordered grid (R59, R60). -/
def State.portDecl (s : State) (g : Group) (p : Nat) : Option PortDecl :=
  match g.item, tget g.launch s.launches with
  | some _, some l => l.kernel.ports.getD p none
  | _, _ => none

/-- The graph launch and node that a node handle names for a VF (R198): the latest launch placed in the slot. -/
def State.nodeOf (s : State) (v : Nat) (h : Word) : Option (Nat × Launch × Nat) :=
  if bitField h.toNat 31 30 ≠ 1 then none
  else match s.launches.reverse.find? fun l => l.2.graph && l.2.vf == v && l.2.slot == bitField h.toNat 29 16 with
    | some (id, l) => if bitField h.toNat 15 0 < l.nodes.length then some (id, l, bitField h.toNat 15 0) else none
    | none => none

/-- What item `i` finds on port p: the default below the distance, else the value sent to it, once it has come (R60). -/
def State.portVal (s : State) (g : Group) (p : Nat) : Option PortVal :=
  match g.item, s.portDecl g p, tget g.launch s.launches with
  | some i, some d, some l =>
    if i < d.k then some (.defaulted (if d.fromPayload then l.payload.getD d.word 0 else d.lit))
    else (s.fwds.find? fun f => f.launch == g.launch && f.item == i && f.port == p && f.arrived).map Fwd.val
  | _, _, _ => none

/-- The value read through a port that has arrived (R60, R233). -/
def PortVal.reg : PortVal → VReg
  | .arrived v => v
  | .poisoned l => .g l
  | .defaulted w => .u w

/-- A vector source as a register value with its tag (R60, R69). -/
def Ctx.src (c : Ctx) (s : State) : VSrc → VReg
  | .reg n => c.g.v n.toNat
  | .port p => ((s.portVal c.g p.toNat).map PortVal.reg).getD (.u 0)
  | .zero => .u 0
  | .lane => .a 0 1
  | .lit w => .u w

/-- The vector registers an instruction names (R69); each must lie below the `.regs` count. -/
def vFields : Instr → List Nat
  | .vadd _ o | .vsub _ o | .vmul _ o | .vmulh _ o | .vmad _ o | .vmin _ _ o | .vmax _ _ o | .vand o | .vor o | .vxor o
  | .vshl _ o | .vshr _ o | .vsar _ o | .vbfx _ o | .vbfi o | .vsel _ o | .vfadd o | .vfsub o | .vfmul o | .vfma _ o
  | .vfmin o | .vfmax o | .vcvt _ _ _ _ _ _ o | .vpack _ _ _ o | .vshfl _ _ o => o.vd.toNat :: (o.a.regs ++ o.b.regs)
  | .vbperm _ o => o.vd.toNat :: (o.a.regs ++ (o.b.regs.flatMap fun n => regsFrom n 4))
  | .vabs _ o | .vclz _ o | .vpopc _ o | .vmov o | .vfrcp o | .vfrsq o | .vfex2 o | .vflg2 o | .vunpk _ _ o
  | .vscan _ _ _ _ o => o.vd.toNat :: o.a.regs
  | .vtag f o => if f = .read then o.a.regs else o.vd.toNat :: o.a.regs
  | .vbcast _ _ vd _ => [vd.toNat]
  | .vcmp _ _ _ o | .vfcmp _ o => o.a.regs ++ o.b.regs
  | .vred _ _ _ o | .vvote _ o => o.a.regs
  | .vld o | .vst o | .vlds o | .vsts o => regsFrom o.vd.toNat (if o.width = .w64 then 2 else 1) ++ o.off.regs
  | .vatom o =>
    let k := if o.w64 then 2 else 1
    (if o.ret then regsFrom o.vd.toNat k else []) ++ o.off.regs ++ (o.data.regs.flatMap fun n => regsFrom n k)
      ++ (if o.aop = .cas then regsFrom o.cmpv.toNat k else [])
  | .regrp f n => regsFrom f.toNat n.toNat
  | .temit _ _ _ va => [va.toNat]
  | _ => []

/-- The forwarding ports an instruction reads (R60). -/
def vPorts : Instr → List Nat
  | .vadd _ o | .vsub _ o | .vmul _ o | .vmulh _ o | .vmad _ o | .vmin _ _ o | .vmax _ _ o | .vand o | .vor o | .vxor o
  | .vshl _ o | .vshr _ o | .vsar _ o | .vbfx _ o | .vbfi o | .vsel _ o | .vfadd o | .vfsub o | .vfmul o | .vfma _ o
  | .vfmin o | .vfmax o | .vcvt _ _ _ _ _ _ o | .vpack _ _ _ o | .vshfl _ _ o | .vbperm _ o | .vcmp _ _ _ o | .vfcmp _ o =>
    o.a.ports ++ o.b.ports
  | .vabs _ o | .vclz _ o | .vpopc _ o | .vmov o | .vfrcp o | .vfrsq o | .vfex2 o | .vflg2 o | .vunpk _ _ o
  | .vscan _ _ _ _ o | .vtag _ o | .vred _ _ _ o | .vvote _ o => o.a.ports
  | .vld o | .vst o | .vlds o | .vsts o => o.off.ports
  | .vatom o => o.off.ports
  | _ => []

/-- The scalar registers an instruction names (R71), for the scoreboard (R78) and a sequencer's limit (R175); a field that must be zero names
none. -/
def sFields : Instr → List Nat
  | .vcmp _ _ _ o | .vfcmp _ o => regsFrom o.vd.toNat 3
  | .vred _ _ _ o => [o.vd.toNat]
  | .vvote f o => if f = .ballot then regsFrom o.vd.toNat 3 else [o.vd.toNat]
  | .vtag f o => if f = .read then [o.vd.toNat] else []
  | .vbcast _ _ _ sa => [sa.toNat]
  | .vsel m _ => regsFrom m.toNat 3
  | .vld o | .vst o | .vlds o | .vsts o => regsFrom (2 * o.pair.toNat) 2
  | .vatom o => regsFrom (2 * o.base.toNat) 2
  | .sadd o | .ssub o | .smul o | .smulh _ o | .sand o | .sor o | .sxor o | .sshl o | .sshr o | .ssar o | .smin _ o
  | .smax _ o | .ssel o => o.regs
  | .scmp _ sd sa b | .sbfx _ sd sa b | .sfadd sd sa b | .sfmul sd sa b | .sfma _ sd sa b =>
    sd.toNat :: sa.toNat :: b.regs false
  | .smov w sd b => regsFrom sd.toNat (if w then 2 else 1) ++ b.regs w
  | .smovi sd _ => [sd.toNat]
  | .sclz w sd sa | .spopc w sd sa =>
    let k := if w then 2 else 1
    regsFrom sd.toNat k ++ regsFrom sa.toNat k
  | .sld o | .sst o | .slds o | .ssts o | .slr o => o.sd.toNat :: regsFrom (2 * o.pair.toNat) 2
  | .ssc o => regsFrom o.sd.toNat 2 ++ regsFrom (2 * o.pair.toNat) 2
  | .satom o c =>
    let k := if c.w64 then 2 else 1
    regsFrom o.sd.toNat k ++ regsFrom (2 * o.pair.toNat) 2 ++ (if c.aop = .ld then [] else regsFrom c.sb.toNat k)
      ++ (if c.aop = .cas then regsFrom c.sc.toNat k else [])
  | .bcc _ sa _ => [sa.toNat]
  | .bdiv _ sa _ => regsFrom sa.toNat 3
  | .yield c sa _ => if c.isSome then [sa.toNat] else []
  | .waitc _ b => b.regs false
  | .srd sd b => sd.toNat :: b.regs false
  | .swr sa b => sa.toNat :: b.regs false
  | .clk _ sd => regsFrom sd.toNat 2
  | .bara _ _ sd => [sd.toNat]
  | .barw _ _ sa => [sa.toNat]
  | .cpy _ _ _ _ _ sd sa sb => sd.toNat :: (regsFrom sa.toNat 2 ++ regsFrom sb.toNat 2)
  | .publ sa => regsFrom sa.toNat 2
  | .mqput _ _ len sd sa => sd.toNat :: regsFrom sa.toNat len.toNat
  | .mqget _ len sd => regsFrom sd.toNat len.toNat
  | .mqfree _ _ sa => [sa.toNat]
  | .mfork n _ sd sa => sd.toNat :: regsFrom sa.toNat n.toNat
  | .mrdv sa => [sa.toNat]
  | .tsub _ _ sd sa => sd.toNat :: regsFrom sa.toNat 2
  | .temit nb _ sd _ => if nb then [sd.toNat] else []
  | .spawn _ sd sa => sd.toNat :: regsFrom sa.toNat 8
  | .krel b => b.regs false
  | .cnew _ _ _ sd sa | .copen _ sd sa | .cdrop _ sd sa | .cinfo _ sd sa => regsFrom sd.toNat 2 ++ regsFrom sa.toNat 2
  | .chand k sd sa => regsFrom sd.toNat 2 ++ regsFrom sa.toNat 2 ++ (match k with | .task sb => [sb.toNat] | _ => [])
  | .mres _ _ _ sd sa => [sd.toNat, sa.toNat]
  | .mwld _ sa sb => sb.toNat :: regsFrom sa.toNat 2
  | .mldw _ sa => [sa.toNat]
  | .mma _ _ sa sb => sb.toNat :: regsFrom sa.toNat 4
  | .mdist _ _ sd sa sb => sd.toNat :: sb.toNat :: regsFrom sa.toNat 4
  | .mtopk _ _ _ _ sa sb => sb.toNat :: regsFrom sa.toNat 4
  | .mdrn _ _ f _ dst sa sb => (if f = .f8 then [sb.toNat] else []) ++ regsFrom sa.toNat (if dst then 2 else 4)
  | .call _ => [119]
  | .ret => [119]
  | _ => []

/-- The vector registers an instruction writes (R77). -/
def vDests : Instr → List Nat
  | .vadd _ o | .vsub _ o | .vmul _ o | .vmulh _ o | .vmad _ o | .vmin _ _ o | .vmax _ _ o | .vand o | .vor o | .vxor o
  | .vshl _ o | .vshr _ o | .vsar _ o | .vbfx _ o | .vbfi o | .vsel _ o | .vfadd o | .vfsub o | .vfmul o | .vfma _ o
  | .vfmin o | .vfmax o | .vcvt _ _ _ _ _ _ o | .vpack _ _ _ o | .vshfl _ _ o | .vbperm _ o => [o.vd.toNat]
  | .vabs _ o | .vclz _ o | .vpopc _ o | .vmov o | .vfrcp o | .vfrsq o | .vfex2 o | .vflg2 o | .vunpk _ _ o
  | .vscan _ _ _ _ o => [o.vd.toNat]
  | .vtag f o => if f = .read then [] else [o.vd.toNat]
  | .vbcast _ _ vd _ => [vd.toNat]
  | .vld o | .vlds o => regsFrom o.vd.toNat (if o.width = .w64 then 2 else 1)
  | .vatom o => if o.ret then regsFrom o.vd.toNat (if o.w64 then 2 else 1) else []
  | _ => []

/-- The scalar registers that an instruction writes as it issues or later (R71). -/
def sDests : Instr → List Nat
  | .vcmp _ _ _ o | .vfcmp _ o => regsFrom o.vd.toNat 3
  | .vred _ _ _ o => [o.vd.toNat]
  | .vvote f o => if f = .ballot then regsFrom o.vd.toNat 3 else [o.vd.toNat]
  | .vtag f o => if f = .read then [o.vd.toNat] else []
  | .sadd o | .ssub o | .smul o | .smulh _ o | .sand o | .sor o | .sxor o | .sshl o | .sshr o | .ssar o | .smin _ o
  | .smax _ o | .ssel o => regsFrom o.sd.toNat (if o.w64 then 2 else 1)
  | .scmp _ sd _ _ | .sbfx _ sd _ _ | .sfadd sd _ _ | .sfmul sd _ _ | .sfma _ sd _ _ | .smovi sd _ | .srd sd _ => [sd.toNat]
  | .smov w sd _ | .sclz w sd _ | .spopc w sd _ => regsFrom sd.toNat (if w then 2 else 1)
  | .sld o | .slds o | .slr o => [o.sd.toNat]
  | .ssc o => [o.sd.toNat + 1]
  | .satom o c => regsFrom o.sd.toNat (if c.w64 then 2 else 1)
  | .clk _ sd => regsFrom sd.toNat 2
  | .bara _ _ sd | .mqput _ _ _ sd _ | .mfork _ _ sd _ | .tsub _ _ sd _ | .spawn _ sd _ => [sd.toNat]
  | .temit nb _ sd _ => if nb then [sd.toNat] else []
  | .mqget _ len sd => regsFrom sd.toNat len.toNat
  | .cnew _ _ _ sd _ | .copen _ sd _ | .cdrop _ sd _ | .cinfo _ sd _ | .chand _ sd _ => regsFrom sd.toNat 2
  | .call _ => [119]
  | _ => []

/-- The registers that an instruction reads beside those it names: the records of TEMIT, the source of FSEND's port, and what SPAWN
copies (R61, R68, R208). -/
def implied (s : State) (g : Group) : Instr → List RegRef
  | .temit _ succ _ va =>
    match (g.succ[succ.toNat]?).bind (s.nodeOf g.vf) with
    | some (_, l, n) => (regsFrom va.toNat (((l.nodes[n]?).map fun x => x.kernel.record / 4).getD 0)).map .v
    | none => []
  | .fsend p => match s.portDecl g p.toNat with | some d => [if d.scalar then .s d.src else .v d.src] | none => []
  | .spawn .. => [.s 120, .s 122, .s 123]
  | _ => []

/-- A scalar register, or a word of split `k`'s mask, as the scoreboard knows it (R78). -/
def scalarRef (k n : Nat) : RegRef := if n < 125 then .s n else .am k (n - 125)

/-- The words of other splits' masks that a write of `k`'s mask follows: of two splits that claim a lane, the one that issued first takes it,
so that a later write waits for an earlier one that is pending (R46; log entry 107). -/
def claims (g : Group) (k : Nat) (i : Instr) : List RegRef :=
  ((sDests i).filter (125 ≤ ·)).flatMap fun n => (g.splits.filter fun p => p.1 != k).map fun p => .am p.1 (n - 125)

/-- The instruction belongs to the L-set (R90). -/
def isVector (i : Instr) : Bool :=
  match i with
  | .vadd .. | .vsub .. | .vmul .. | .vmulh .. | .vmad .. | .vmin .. | .vmax .. | .vabs .. | .vand .. | .vor .. | .vxor ..
  | .vshl .. | .vshr .. | .vsar .. | .vclz .. | .vpopc .. | .vbfx .. | .vbfi .. | .vcmp .. | .vsel .. | .vmov .. | .vbcast ..
  | .vtag .. | .vfadd .. | .vfsub .. | .vfmul .. | .vfma .. | .vfmin .. | .vfmax .. | .vfcmp .. | .vfrcp .. | .vfrsq ..
  | .vfex2 .. | .vflg2 .. | .vcvt .. | .vpack .. | .vunpk .. | .vbperm .. | .vshfl .. | .vscan .. | .vred .. | .vvote ..
  | .vld .. | .vst .. | .vlds .. | .vsts .. | .vatom .. => true
  | _ => false

/-- The instruction reads the split's mask (R37, R154, R208). -/
def readsMask (i : Instr) : Bool :=
  match i with
  | .sld .. | .sst .. | .slds .. | .ssts .. | .slr .. | .ssc .. | .satom .. | .bdiv .. | .temit .. => true
  | i => isVector i

/-- A member of the sequencer family (R183). -/
def isEngine (i : Instr) : Bool :=
  match i with
  | .mres .. | .mwld .. | .mldw .. | .mma .. | .mdist .. | .mtopk .. | .mdrn .. | .mzero .. => true
  | _ => false

/-- An instruction that a sequencer may execute (R99, R175). -/
def seqAllowed (i : Instr) : Bool :=
  match i with
  | .sadd .. | .ssub .. | .smul .. | .smulh .. | .sand .. | .sor .. | .sxor .. | .sshl .. | .sshr .. | .ssar .. | .smin ..
  | .smax .. | .scmp .. | .ssel .. | .smov .. | .smovi .. | .sclz .. | .spopc .. | .sbfx .. | .sfadd .. | .sfmul .. | .sfma ..
  | .sld .. | .sst .. | .satom .. | .fence .. | .bra .. | .bcc .. | .call .. | .ret | .exit | .nop | .waitc .. | .bkpt ..
  | .trap .. | .tret | .srd .. | .swr .. | .clk .. => true
  | i => isEngine i

end Sys2Proof.Machine
end

