-- ==== Sys2Proof/Machine/Flags.lean ====
section
/-! DEFINITION. What a result carries besides its value: shape tags (R72-R74), the general budget (R75), kept operands (R77)
and the conditions that compares and votes compute (R95, R286, R330). The C9 has no arithmetic flags (R103, R105). -/

namespace Sys2Proof

open Machine

/-- An order or equality condition on two integers (R95). -/
def Cond.holds (c : Cond) (a b : Int) : Bool :=
  match c with
  | .eq => a == b | .ne => a != b | .lt => decide (a < b) | .le => decide (a ≤ b) | .gt => decide (b < a) | .ge => decide (b ≤ a)

/-- A float compare condition (R107, R377). -/
def FCond.holds (c : FCond) (x y : ExactVal) : Bool :=
  let un := x.isNan || y.isNan
  match c with
  | .eq => x.eq y
  | .ne => !x.eq y
  | .lt => x.lt y
  | .le => x.lt y || x.eq y
  | .gt => y.lt x
  | .ge => y.lt x || x.eq y
  | .uo => un
  | .ord => !un

/-- SCMP's condition (R330). -/
def SCond.holds (c : SCond) (a b : Word) : Bool :=
  match c with
  | .eq => a == b | .ne => a != b | .lt => a.slt b | .le => a.sle b | .gt => b.slt a | .ge => b.sle a
  | .ltN => a.ult b | .geN => b.ule a

/-- BCC's condition (R286). -/
def BccCond.holds (c : BccCond) (a : Word) : Bool :=
  match c with
  | .ne => a != 0 | .eq => a == 0 | .lt => a.msb | .ge => !a.msb

end Sys2Proof

namespace Sys2Proof.Machine

/-- Every lane is active. -/
def fullMask : Mask := BitVec.allOnes 96

/-- A destination register after an instruction (R73): general where some lane is inactive, those lanes keeping their value;
else `shaped`, where a row of R73 gives the payload; else uniform when every source is; else general. -/
def packReg (m : Mask) (old : VReg) (allU : Bool) (shaped : Option VReg) (f : Nat → Word) : VReg :=
  if m ≠ fullMask then .g (lanes.map fun n => if laneOn m n then f n else old.lane n)
  else match shaped with
    | some r => r
    | none => if allU then .u (f 0) else .g (lanes.map f)

/-- A destination that is general whatever its sources: loads, VSCAN, VSEL (R73). -/
def packGeneral (m : Mask) (old : VReg) (f : Nat → Word) : VReg :=
  .g (lanes.map fun n => if laneOn m n then f n else old.lane n)

/-- Every register is uniform. -/
def allUniform (l : List VReg) : Bool := l.all fun r => r.tag == 0

/-- The affine rows of R73 for a sum or difference. -/
def shapeAdd (sub : Bool) (x y : VReg) : Option VReg :=
  let f (p q : Word) := if sub then p - q else p + q
  match x, y with
  | .a b d, .a c e => some (.a (f b c) (f d e))
  | .a b d, .u w => some (.a (f b w) (f d 0))
  | .u w, .a b d => some (.a (f w b) (f 0 d))
  | _, _ => none

/-- The affine row of R73 for a product. -/
def shapeMul (x y : VReg) : Option VReg :=
  match x, y with
  | .a b d, .u w | .u w, .a b d => some (.a (b * w) (d * w))
  | _, _ => none

/-- The affine row of R73 for a left shift; the count is the low five bits (R103). -/
def shapeShl (x y : VReg) : Option VReg :=
  match x, y with
  | .a b d, .u w => some (.a (b <<< (w.toNat % 32)) (d <<< (w.toNat % 32)))
  | _, _ => none

/-- A register's values under a requested tag: 0 U, 1 A, 2 G; with the source's tag where the request cannot hold (R74). -/
def retag (t : Nat) (r : VReg) : VReg :=
  let w0 := r.lane 0
  let d := r.lane 1 - w0
  match t with
  | 0 => if lanes.all fun n => r.lane n == w0 then .u w0 else r
  | 1 => if lanes.all fun n => r.lane n == w0 + d * BitVec.ofNat 32 n then .a w0 d else r
  | _ => .g (lanes.map r.lane)

/-- General registers among those given (R75). -/
def generalCount (l : List VReg) : Nat := (l.filter fun r => r.tag == 2).length

/-- Vector registers with new values. -/
def setRegs : List (Nat × VReg) → List VReg → List VReg
  | [], l => l
  | (n, r) :: t, l => setRegs t (l.set n r)

/-- The operand-cache entries that a group keeps after an instruction: the registers its keep bits name (R77). -/
def keepFields (i : Instr) : List (Bool × Nat) :=
  let two (ka kb : Bool) (a b : VSrc) := (if ka then a.regs.map (true, ·) else []) ++ (if kb then b.regs.map (false, ·) else [])
  match i with
  | .vadd _ o | .vsub _ o | .vmul _ o | .vmulh _ o | .vmad _ o | .vmin _ _ o | .vmax _ _ o | .vand o | .vor o | .vxor o
  | .vshl _ o | .vshr _ o | .vsar _ o | .vbfx _ o | .vbfi o | .vcmp _ _ _ o | .vsel _ o | .vfadd o | .vfsub o | .vfmul o
  | .vfma _ o | .vfmin o | .vfmax o | .vfcmp _ o | .vcvt _ _ _ _ _ _ o | .vpack _ _ _ o | .vbperm _ o | .vshfl _ _ o =>
    two o.keepA o.keepB o.a o.b
  | .vabs _ o | .vclz _ o | .vpopc _ o | .vmov o | .vtag _ o | .vfrcp o | .vfrsq o | .vfex2 o | .vflg2 o | .vunpk _ _ o
  | .vscan _ _ _ _ o | .vred _ _ _ o | .vvote _ o => two o.keepA o.keepB o.a .zero
  | .vatom o => two o.keepA o.keepB o.off o.data
  | _ => []

/-- The operand cache after an L-set instruction that wrote the registers `wrote` (R77). -/
def cacheAfter (i : Instr) (wrote : List Nat) : List (Bool × Nat) := (keepFields i).filter fun k => !wrote.contains k.2

/-- The mask of the lanes at which `p` holds. -/
def maskWhere (p : Nat → Bool) : Mask := lanes.foldl (fun m n => if p n then m ||| ((1 : Mask) <<< n) else m) 0

end Sys2Proof.Machine
end

