-- ==== Sys2Proof/Machine/Links.lean ====
section
/-! DEFINITION. Sending over the Hyvis fabric: routes, windows and packets (R253-R258). -/

namespace Sys2Proof.Machine

/-- A port of a package is linked and in service (R4, R254). -/
def Pkg.portUp (p : Pkg) (n : Nat) : Bool := let x := tgetD n {} p.ports; x.peer.isSome && !x.lost

/-- The port of the first route toward a destination that is neither failed nor lost (R258). -/
def State.routeTo (s : State) (src dst : Nat) : Option Nat :=
  ((s.pkg src).routes.find? fun r => r.dst == dst && !r.failed && (s.pkg src).portUp r.port).map Route.port

/-- The window of a triple (R255). -/
def State.winOf (s : State) (t : Triple) : Option (Nat × Win) := s.wins.find? fun w => w.2.triple == t

/-- Payload bytes of a packet (R253): the operands of a request that writes, the value of a reply; else none. -/
def Body.len : Body → Nat
  | .req _ l => if l.kind = 1 ∨ l.kind = 4 then l.size else if l.kind = 2 then l.size * (if l.op = .cas then 2 else 1) else 0
  | .rsp _ _ => 8
  | _ => 0

/-- Flits of a packet: a header of 16 bytes and its payload, in flits of 64 bytes (R253). -/
def Body.flits (b : Body) : Nat := (16 + b.len + 63) / 64

/-- KIND of a packet (log entry 23). -/
def Body.code : Body → Nat
  | .req _ l => l.kind
  | .rsp .. => 5
  | .arrive .. => 6
  | .dropOut .. => 7
  | .ack _ => 8
  | .ctl .. => 9

/-- ADDR of a packet: the physical address at the destination, or the barrier's id (R253). -/
def Body.addr : Body → Nat
  | .req _ l => l.pa % 2 ^ 57
  | .arrive k _ | .dropOut k _ _ => k.id
  | _ => 0

/-- The header of a packet (R253); an acknowledgement goes the other way, in class RSP, and a CTL packet carries no SEQ. -/
def Flight.header (f : Flight) : Header :=
  let t := f.triple
  let base : Header := { srcPkg := t.srcPkg, dstPkg := t.dstPkg, srcVf := t.srcVf % 256, dstVf := t.dstVf % 256, cls := t.cls, seq := f.seq,
                         kind := f.body.code, flits := f.body.flits, len := f.body.len, addr := f.body.addr }
  match f.body with
  | .ack h => { base with srcPkg := t.dstPkg, dstPkg := t.srcPkg, srcVf := t.dstVf % 256, dstVf := t.srcVf % 256, cls := 1, seq := h }
  | .ctl .. => { base with cls := 3, seq := 0 }
  | _ => base

/-- The 128 bits of a packet header (R253). -/
def Header.bits (h : Header) : BitVec 128 :=
  BitVec.ofNat 128 (h.srcPkg % 2 ^ 10 * 2 ^ 118 + h.dstPkg % 2 ^ 10 * 2 ^ 108 + h.srcVf % 2 ^ 8 * 2 ^ 100 + h.dstVf % 2 ^ 8 * 2 ^ 92
    + h.cls % 4 * 2 ^ 90 + h.seq % 2 ^ 16 * 2 ^ 74 + h.kind % 16 * 2 ^ 70 + h.flits % 8 * 2 ^ 67 + h.len % 2 ^ 9 * 2 ^ 58 + h.addr % 2 ^ 57)

/-- A packet goes on the wire, and its header into the trace buffer of the package that sends it (R253). -/
def State.fly (s : State) (f : Flight) : State :=
  { s with flights := tset s.nextId f s.flights, nextId := s.nextId + 1,
           trace := tset f.src (tgetD f.src [] s.trace ++ [f.header.bits]) s.trace }

/-- Flits that a port's retry buffer holds (R253, R255). -/
def State.portHeld (s : State) (pkg port : Nat) : Nat :=
  s.wins.foldl (fun n w => if w.2.triple.srcPkg = pkg then
    w.2.held.foldl (fun n h => if h.2.2.1 = port then n + h.2.2.2.flits else n) n else n) 0

/-- Numbers sent and not acknowledged: the oldest one still held, or the next (R255). -/
def Win.oldest (w : Win) : Nat := match w.held with | h :: _ => h.1 | [] => w.next

/-- A port's retry buffer has room for a packet (R255). -/
def State.portRoom (s : State) (pkg port : Nat) (b : Body) : Bool := decide (s.portHeld pkg port + b.flits ≤ Config.retryBufferFlits)

/-- A packet that waits for its replay goes on the wire by a port, whose retry buffer holds it from then on (R255, R258). -/
def State.resend (s : State) (id : Nat) (w : Win) (port : Nat) (h : Nat × Nat × Nat × Body) : State :=
  { s with wins := tset id { w with
      again := w.again.filter (· != h.1),
      held := w.held.map fun (x : Nat × Nat × Nat × Body) => if x.1 = h.1 then (x.1, s.now, port, x.2.2.2) else x } s.wins }.fly ⟨w.triple.srcPkg, w.triple, h.1, port, h.2.2.2⟩

/-- The packets of a window that are to be replayed are sent again in order, at most `n`, by a route that works and while the port's retry
buffer has room (R255, R258). -/
def State.replayWin (s : State) (id : Nat) : Nat → State
  | 0 => s
  | n + 1 =>
    match tget id s.wins with
    | none => s
    | some w =>
      match w.held.find? fun h => w.again.contains h.1, s.routeTo w.triple.srcPkg w.triple.dstPkg with
      | some h, some port =>
        if w.closed || !(h.2.2.1 == port || s.portRoom w.triple.srcPkg port h.2.2.2) then s
        else State.replayWin (s.resend id w port h) id n
      | _, _ => s

/-- Packets of a window that may leave now are sent, at most `n` (R255): each is numbered, held and put on the wire; none passes
held ones that are still to be replayed (R258). -/
def State.pump (s : State) (id : Nat) : Nat → State
  | 0 => s
  | n + 1 =>
    match tget id s.wins with
    | none => s
    | some w =>
      match w.queue with
      | [] => s
      | b :: rest =>
        if w.closed || !w.again.isEmpty || Config.windowSize ≤ (w.next + 65536 - w.oldest) % 65536 then s
        else match s.routeTo w.triple.srcPkg w.triple.dstPkg with
          | none => s
          | some port =>
            if !s.portRoom w.triple.srcPkg port b then s
            else
              let w' := { w with queue := rest, next := (w.next + 1) % 65536, held := w.held ++ [(w.next, s.now, port, b)] }
              State.pump ({ s with wins := tset id w' s.wins }.fly ⟨w.triple.srcPkg, w.triple, w.next, port, b⟩) id n

/-- A function-level reset of a VF at one end of a triple has not reached the other end yet (R263). -/
def State.resetting (s : State) (t : Triple) : Bool :=
  s.resets.any fun r => (t.srcPkg == pkgOf r.2 && t.srcVf == r.2 && t.dstPkg == r.1) || (t.dstPkg == pkgOf r.2 && t.dstVf == r.2 && t.srcPkg == r.1)

/-- A packet handed to its window (R255), which is closed while a reset of its VF is on the way (R263). -/
def State.send (s : State) (t : Triple) (b : Body) : State :=
  match s.winOf t with
  | some (id, w) => State.pump { s with wins := tset id { w with queue := w.queue ++ [b] } s.wins } id (w.queue.length + 1)
  | none =>
    State.pump { s with wins := tset s.nextId { triple := t, queue := [b], closed := s.resetting t } s.wins, nextId := s.nextId + 1 } s.nextId 1

/-- A packet outside the windows: an acknowledgement of window `t` from its destination, or a CTL reset (R253, R256). Without
a route it is not sent; the source's replay draws it again. -/
def State.sendLoose (s : State) (from' to' : Nat) (t : Triple) (b : Body) : State :=
  match s.routeTo from' to' with
  | none => s
  | some port => s.fly ⟨from', t, 0, port, b⟩

/-- Whether a VF may reach a package: a triple is assigned (R255). -/
def State.hasTriple (s : State) (v dstPkg : Nat) : Bool := (s.vf v).triples.any fun t => t.1 == dstPkg

/-- The VF at the destination of a triple (R255). -/
def State.peerVf (s : State) (v dstPkg : Nat) : Nat :=
  match (s.vf v).triples.find? fun t => t.1 == dstPkg with
  | some t => dstPkg * 256 + t.2
  | none => dstPkg * 256

/-- Remote operations of a group that are not acknowledged (R252). -/
def State.ropCount (s : State) (gid : Nat) : Nat := tcount (fun r => r.gid == gid) s.rops

/-- A VF's remote operations that are on their way to a package and not applied there (R252). -/
def State.inFlight (s : State) (v home : Nat) : Bool := s.rops.any fun r => r.2.vf == v && r.2.lane.home == home && !r.2.applied

/-- Every remote operation of a VF has been applied. -/
def State.allApplied (s : State) (v : Nat) : Bool := s.rops.all fun r => r.2.vf != v || r.2.applied

/-- A package takes packets: it is not lost, its firmware has booted, and it is neither being wiped nor decommissioned (R148, R259, R275, R276). -/
def Pkg.takes (p : Pkg) : Bool := !p.lost && p.booted && !p.wiping && p.life != .decommissioned

/-- A VF's accesses can reach a package: its own; or one to which a route works, which takes packets, and to which no window of the VF's requests is
closed (R250, R258, R259, R263; log entry 11). -/
def State.reaches (s : State) (v home : Nat) : Bool :=
  home == pkgOf v || ((s.routeTo (pkgOf v) home).isSome && (s.pkg home).takes
    && !(s.resetting ⟨pkgOf v, v, home, s.peerVf v home, 0⟩ || (s.winOf ⟨pkgOf v, v, home, s.peerVf v home, 0⟩).any fun w => w.2.closed))

/-- A page homed on a package cannot be reached now by an agent of a VF that holds no remote entries: the package cannot be reached, or operations of
the VF are in flight there (R160, R250, R251; log entry 11). -/
def State.shut (s : State) (v home : Nat) : Bool := home != pkgOf v && (s.inFlight v home || !s.reaches v home)

/-- What a release at pod scope of a group waits for (R159, R252): every remote operation of the group is acknowledged, and those
of the VF's other groups are applied. -/
def State.podReady (s : State) (v gid : Nat) : Bool :=
  s.ropCount gid == 0 && s.allApplied v

/-- One remote operation is sent: an entry of the group is taken and its packet handed to the REQ window (R252, R255). -/
def State.sendOp (s : State) (gid k : Nat) (g : Group) (l : RLane) : State :=
  let id := s.nextId
  let s := { s with nextId := id + 1, rops := tset id { gid := gid, task := g.task, launch := g.launch, vf := g.vf, split := k, lane := l, core := g.core } s.rops }
  s.send ⟨pkgOf g.vf, g.vf, l.home, s.peerVf g.vf l.home, 0⟩ (.req id l)

/-- The lanes of a remote instruction that find a free entry are sent, in order; it waits for the replies where it returns a value, or
is an acquire (R154, R165, R252). -/
def State.sendLanes (s : State) (gid : Nat) (g : Group) (r : RInstr) : List RLane → State × RInstr
  | [] => (s, { r with unsent := [] })
  | l :: ls =>
    if Config.remoteEntries ≤ s.ropCount gid then (s, { r with unsent := l :: ls })
    else
      let returns := r.dest != .none || l.acq
      State.sendLanes (s.sendOp gid r.split g l) gid g { r with waiting := if returns then r.waiting ++ [s.nextId] else r.waiting } ls

end Sys2Proof.Machine
end

