-- ==== Sys2Proof/Machine/Groups.lean ====
section
/-! DEFINITION. What ends a group and what that sets off: barriers (R53-R57), forwarding ports (R59-R63), closes of cairns
(R212, R218, R219), keys of tasks (R201), retirement (R48, R56, R62, R82) and kills (R235, R243). -/

namespace Sys2Proof.Machine

/-- The barrier with a key. -/
def State.barrier (s : State) (k : BarKey) : Option Barrier := (s.barriers.find? fun b => b.1 == k).map fun b => b.2

/-- A split stands at `pc` and waits for nothing. -/
def Split.rest (sp : Split) (pc : Word) : Split := { sp with pc := pc, wait := .none, held := none, stamp := 0 }

/-- Split `k` of a group is stepped (R238, R241); never in trap mode (R234). -/
def Group.stepped (g : Group) (k : Nat) : Bool :=
  let ctl := g.dbg.ctl.toNat
  g.trap.isNone && bitField ctl 31 31 == 1 && (bitField ctl 30 30 == 1 || bitField ctl 29 28 == k)

/-- A split goes on at `pc` after it has completed the instruction at `own`; its next one can first issue in clk `now` (R50). Its STEP is due
where it is stepped (R241). -/
def Group.complete (g : Group) (k : Nat) (own pc : Word) (now : Nat) : Group :=
  { g with splits := tmod k (fun sp =>
      { sp.rest pc with since := now, due := if g.stepped k then some (sp.stamp, own) else none }) g.splits }

/-- The waits of a resident group on a barrier whose phase is no longer theirs end (R281). -/
def Group.wakeBar (g : Group) (k : BarKey) (phase : Word) (now : Nat) : Group :=
  if g.life ≠ .resident then g
  else (g.splits.filter fun p => match p.2.wait with | .bar j q => j == k && q != phase | _ => false).foldl
    (fun g p => g.complete p.1 p.2.pc p.2.cont now) g

/-- The machine with a declared barrier changed; waits on it end in the clk in which its phase changes (R281). The splits that it releases
count as ready from that clk, though their partition may have issued in it (DESIGN CHOICE, log entry 97). -/
def State.setBarrier (s : State) (k : BarKey) (b : Barrier) : State :=
  let t : State := { s with barriers := s.barriers.map fun x => if x.1 = k then (k, b) else x }
  if (s.barrier k).any fun a => a.phase != b.phase then
    { t with groups := s.groups.map fun p => (p.1, p.2.wakeBar k b.phase s.now) }
  else t

/-- The phase completes at clk `now` (R54). -/
def Barrier.complete (b : Barrier) (now : Nat) : Barrier :=
  { b with phase := b.phase + 1, count := 0, expected := b.expected - b.drops, drops := 0, arrived := [], doneAt := some now }

/-- The phase completes if every expected arrival has come; a barrier that expects none completes no phase (R54, R56), nor does a pod barrier
whose parts have not all been accepted (R261). -/
def Barrier.settle (b : Barrier) (now : Nat) : Barrier :=
  if b.expected ≠ 0 ∧ b.count = b.expected ∧ b.parts = 0 ∧ !b.broken then b.complete now else b

/-- An arrival reaches the barrier (R54). -/
def Barrier.count1 (b : Barrier) : Barrier := { b with count := b.count + 1 }

/-- `arrive()` of R281 for a group. -/
def Barrier.arrive (b : Barrier) (gid now : Nat) : Barrier :=
  if b.members.contains gid && !b.arrived.contains gid then { b.count1 with arrived := gid :: b.arrived }.settle now else b

/-- BARD's steps for a group (R284); in the clk in which a phase completed the drop belongs to that phase, and E falls from the
next one on (R57). -/
def Barrier.dropMember (b : Barrier) (gid now : Nat) : Barrier :=
  if !b.members.contains gid then b
  else
    let rest := b.members.filter (· != gid)
    if b.doneAt = some now ∧ !b.arrived.contains gid then { b with expected := b.expected - 1, members := rest }.settle now
    else
      let b := if b.arrived.contains gid then b else { b.count1 with arrived := gid :: b.arrived }
      { b with drops := b.drops + 1, members := rest }.settle now

/-- A drop sent in phase `p` reaches a pod barrier (R54, R261): with its arrival when it counts one; where that phase has
completed since, E falls at once. -/
def Barrier.dropSent (b : Barrier) (p : Word) (count : Bool) (now : Nat) : Barrier :=
  if b.phase = p then { (if count then b.count1 else b) with drops := b.drops + 1 }.settle now
  else { b with expected := b.expected - 1 }.settle now

/-- The home package of a pod barrier: the lowest of its set (R261). -/
def State.podHome (s : State) (number : Nat) : Nat :=
  match tget number s.pods with
  | some (ps, _) => ps.foldl min 1023
  | none => 0

/-- An arrival or a drop at a barrier by a group of VF `v` (R54, R261): a pod barrier homed on another package is told by a SYNC packet. -/
def State.barStep (s : State) (k : BarKey) (gid v : Nat) (drop : Bool) : State :=
  match s.barrier k with
  | none => s
  | some b =>
    let home := s.podHome k.owner
    if k.level = 4 ∧ home ≠ pkgOf v then
      if !b.members.contains gid then s
      else
        let t : Triple := ⟨pkgOf v, v, home, s.peerVf v home, 2⟩
        let first := !b.arrived.contains gid
        let s := s.setBarrier k { b with arrived := if first then gid :: b.arrived else b.arrived,
                                         members := if drop then b.members.filter (· != gid) else b.members }
        if drop then s.send t (.dropOut k b.phase first) else if first then s.send t (.arrive k gid) else s
    else s.setBarrier k (if drop then b.dropMember gid s.now else b.arrive gid s.now)

/-- A retired group's drop at a pod barrier is a release at pod scope like any (R58): until what such a release waits for has come, it is kept
for the barrier. -/
def State.dropLate (s : State) (k : BarKey) (gid v : Nat) : State :=
  { s with barriers := s.barriers.map fun b => if b.1 = k then (k, { b.2 with late := b.2.late ++ [(gid, v)] }) else b }

/-- BARD on every barrier of which a retiring group is a member (R56, R58). -/
def State.dropAll (s : State) (gid : Nat) (g : Group) : State :=
  s.barriers.foldl (fun s x =>
    if !x.2.members.contains gid then s
    else if x.1.level == 4 && !s.podReady g.vf gid then s.dropLate x.1 gid g.vf
    else s.barStep x.1 gid g.vf true) s

/-- A retired group's drop waits no more. -/
def State.notLate (s : State) (k : BarKey) (d : Nat × Nat) : State :=
  { s with barriers := s.barriers.map fun b => if b.1 = k then (k, { b.2 with late := b.2.late.filter (· != d) }) else b }

/-- The drops at pod barriers that have waited and need wait no more (R58, R252). -/
def State.settleLate (s : State) : State :=
  s.barriers.foldl (fun s x => (x.2.late.filter fun d => s.podReady d.2 d.1).foldl (fun s d =>
    (s.notLate x.1 d).barStep x.1 d.1 d.2 true) s) s

/-- The owner of a block's barriers; a group made by SPAWN has no block, and so no barrier (R68). -/
def blockOwner : Option Nat → Nat
  | some b => b + 1
  | none => 0

/-- The key of the barrier that LEVEL and ID name for a group; none where the id is not declared (R53, R281). -/
def State.barKey (s : State) (g : Group) (level id : Nat) : Option BarKey :=
  match tget g.launch s.launches with
  | none => none
  | some l =>
    let kern := match g.task with
      | some t => (tget t s.tasks).map Task.kernel |>.getD l.kernel
      | none => match g.node with | some n => (l.nodes[n]?).map Node.kernel |>.getD l.kernel | none => l.kernel
    let owner := g.task.getD g.launch
    match level with
    | 1 => if id < kern.bars then some ⟨1, blockOwner g.block, 0, id⟩ else none
    | 2 => if id < kern.qbars then some ⟨2, owner, quadOf g.core, id⟩ else none
    | 3 => if id < kern.gbars then some ⟨3, owner, 0, id⟩ else none
    | 4 => if id < kern.pbars then some ⟨4, l.podl, 0, id⟩ else none
    | _ => none

/-- The kernel that a group runs. -/
def State.kernelOf (s : State) (g : Group) : Option Kernel :=
  (tget g.launch s.launches).map fun l => match g.task with
    | some t => (tget t s.tasks).map Task.kernel |>.getD l.kernel
    | none => match g.node with | some n => (l.nodes[n]?).map Node.kernel |>.getD l.kernel | none => l.kernel

/-- The core of the group that runs an item, if it has been dispatched (R63). -/
def State.itemCore (s : State) (lid item : Nat) : Option Nat :=
  (s.groups.find? fun p => p.2.launch == lid && p.2.item == some item && p.2.life != .retired).map fun p => p.2.core

/-- Forwarding entries held on a core (R63). -/
def State.fwdHeld (s : State) (core : Nat) : Nat :=
  (s.fwds.filter fun f => !f.spilled && s.itemCore f.launch f.item == some core).length

/-- Forwarding entries held in the pool of a package's FE die (R63). -/
def State.fwdPool (s : State) (pkg : Nat) : Nat :=
  (s.fwds.filter fun f => f.spilled && ((tget f.launch s.launches).any fun l => pkgOf l.vf == pkg)).length

/-- The receiver of a value stands on a core with a free entry (R63). -/
def State.coreEntry (s : State) (lid target : Nat) : Bool :=
  (s.itemCore lid target).any fun c => decide (s.fwdHeld c < Config.forwardEntriesPerCore)

/-- The oldest unfinished item of an ordered launch (R63). -/
def State.oldestItem (s : State) (lid : Nat) : Option Nat :=
  leastBy id ((s.groups.filter fun p => p.2.launch == lid && p.2.life != .retired).filterMap fun p => p.2.item)

/-- An item of a launch has retired: it was dispatched, and no group runs it (R63). -/
def State.itemOver (s : State) (lid : Nat) (l : Launch) (item : Nat) : Bool := decide (item < l.next) && (s.itemCore lid item).isNone

/-- Whether a send finds a buffer entry; one of the oldest unfinished item always does, in the pool if not on the core (R63, R65). -/
def State.fwdRoom (s : State) (g : Group) (item target : Nat) : Bool :=
  match tget g.launch s.launches with
  | none => false
  | some l =>
    decide (l.kernel.grid ≤ target) || s.itemOver g.launch l target || s.oldestItem g.launch == some item
      || (match s.itemCore g.launch target with
        | some _ => s.coreEntry g.launch target
        | none => decide (s.fwdPool (pkgOf g.vf) < Config.spillEntries - Config.spillReserved))

/-- A value sent on a port to its receiver; one beyond the grid is discarded, and one for an item that has retired holds no entry (R61, R63). -/
def State.fwdSend (s : State) (g : Group) (target p : Nat) (v : PortVal) : State :=
  match tget g.launch s.launches with
  | none => s
  | some l =>
    if l.kernel.grid ≤ target || s.itemOver g.launch l target then s
    else { s with fwds := s.fwds ++ [{ launch := g.launch, item := target, port := p, val := v, spilled := !s.coreEntry g.launch target }] }

/-- The tag byte of register i of a frame (R84). -/
def frameTag (f : List Word) (i : Nat) : Nat := (f.getD (192 + i / 4) 0).toNat / 256 ^ (i % 4) % 256

/-- The register of a payload of 96 words at `w`, laid out by a tag (R84, R234); none where the payload does not satisfy it. -/
def payloadReg (f : List Word) (w tag : Nat) : Option VReg :=
  let r : VReg := .g ((f.drop w).take 96)
  if tag = 2 then some r else if tag < 2 then (let q := retag tag r; if q.tag = tag then some q else none) else none

/-- A vector register as a frame holds it, with its tag; general where the payload does not satisfy the tag (R62, R234). -/
def frameReg (f : List Word) (i : Nat) : VReg :=
  (payloadReg f (224 + 96 * i) (frameTag f i)).getD (.g (lanes.map fun n => f.getD (224 + 96 * i + n) 0))

/-- The value of a port's source register (R61); in trap mode, as the frame holds it (R62). -/
def Group.portSource (g : Group) (d : PortDecl) : VReg :=
  match g.trap with
  | none => if d.scalar then .u (g.sregs.getD d.src 0) else g.v d.src
  | some t => if d.scalar then .u (t.frame.getD (64 + d.src) 0) else frameReg t.frame d.src

/-- The declared ports of an item that it has not sent (R62). -/
def State.unsent (s : State) (g : Group) : List Nat :=
  (List.range 4).filter fun p => (s.portDecl g p).isSome && !g.sent.contains p

/-- The sends of R62: values at retirement, poison at a kill. The poison of a killed item takes a buffer entry as a value does, but never
waits for one, so that it may stand beyond the pool's size (DESIGN CHOICE, log entry 84: R62 and R63 do not say). -/
def State.sendRest (s : State) (g : Group) (poison : Bool) : State :=
  (s.unsent g).foldl (fun s p =>
    match s.portDecl g p, g.item with
    | some d, some i => s.fwdSend g (i + d.k) p (if poison then .poisoned (lanes.map fun _ => 0) else .arrived (g.portSource d))
    | _, _ => s) s

/-- The cairn with a name (R211). -/
def State.cairn (s : State) (v : Nat) (name : DWord) : Option Cairn := s.cairns.find? fun k => k.vf == v && k.name == name

/-- The machine with a cairn replaced. -/
def State.setCairn (s : State) (k : Cairn) : State :=
  { s with cairns := s.cairns.map fun x => if x.vf = k.vf ∧ x.name = k.name then k else x }

/-- The machine without a cairn; its bytes return to the VF's slices (R219), and no write-back of it is left. -/
def State.delCairn (s : State) (k : Cairn) : State :=
  { s with
    cairns := s.cairns.filter fun x => !(x.vf == k.vf && x.name == k.name),
    wbacks := s.wbacks.filter fun w => !(w.2.vf == k.vf && w.2.name == k.name && w.2.waiter.isNone) }

/-- A request to the directory under a name is not yet over: the cairn moves, or an instruction or a close waits for its write-back (R214). -/
def State.cairnBusy (s : State) (v : Nat) (name : DWord) : Bool :=
  ((s.cairn v name).bind Cairn.moving).isSome || s.wbacks.any fun w => w.2.vf == v && w.2.name == name && (w.2.waiter.isSome || w.2.leaver.isSome)

/-- A cairn is closed everywhere. -/
def Cairn.closed (k : Cairn) : Bool := k.opens.isEmpty && k.topens.isEmpty

/-- The bytes of a cairn. -/
def State.cairnBytes (s : State) (k : Cairn) : List Byte := s.scratch.bytes (scratchKey k.holder k.off) k.size

/-- The bytes that a move or a write-back carries, from those as it began and as it ends: a byte written meanwhile, by an access that does not happen before
what caused it, with its old or its new value (R224). -/
def State.carried (s : State) (old now : List Byte) : List Byte :=
  if old.length ≠ now.length then old
  else (old.zip now).zipIdx.map fun x => if x.1.1 = x.1.2 then x.1.1 else if (Config.freeByte s.fresh x.2).getLsbD 0 then x.1.2 else x.1.1

/-- A move of a cairn begins, if the new core has room (R217). -/
def State.beginMove (s : State) (k : Cairn) (core : Nat) (opener : Option (Nat × Nat)) (restore : Bool) : Option State :=
  (s.scratchRoom k.vf core k.size).map fun off => s.setCairn { k with moving := some ⟨core, off, opener, restore, s.cairnBytes k⟩ }

/-- What follows a close: the cairn is freed at its last close with the drop requested (R219), or a KIND 2 hand moves it at
its first close everywhere (R218). -/
def State.afterClose (s : State) (k : Cairn) : State :=
  let s := s.setCairn k
  if !k.closed then s
  else if k.drop then s.delCairn k
  else match k.hand with
    | some (.core c) =>
      if c = k.holder then s.setCairn { k with hand := none }
      else (s.beginMove k c none false).getD s
    | _ => s

/-- A write-back of a mirrored cairn begins (R219), for an instruction that waits for it or for none, and a close after it. -/
def State.writeBack (s : State) (k : Cairn) (w : Option (Nat × Nat × Nat × Word)) (close : Option Bool) (leaver : Option Leaver := none) :
    State :=
  { s with wbacks := tset s.nextId ⟨k.vf, k.name, s.cairnBytes k, w, close, leaver⟩ s.wbacks, nextId := s.nextId + 1 }

/-- A cairn without one open of an ended group, or without that of a task (R212, R220). -/
def Cairn.without (k : Cairn) : Leaver → Cairn
  | .group g => { k with opens := k.opens.erase g }
  | .task u => { k with topens := k.topens.erase u }

/-- Opens that an ended group or a task holds of a cairn. -/
def Cairn.heldBy (k : Cairn) : Leaver → Nat
  | .group g => k.opens.count g
  | .task u => k.topens.count u

/-- The opens that an ended group or a task holds of a cairn are closed as by CDROPs without FREE (R212): of a mirrored cairn, one after each
write-back (R219, R292). -/
def State.leaveCairn (s : State) (k : Cairn) (l : Leaver) : State :=
  if k.heldBy l = 0 then s
  else if k.mir && !k.lost && !k.restorable then s.writeBack k none none (some l)
  else s.afterClose ((List.range (k.heldBy l)).foldl (fun k _ => k.without l) k)

/-- Every open that a group holds is closed (R212). -/
def State.closeOpens (s : State) (gid : Nat) : State := s.cairns.foldl (fun s k => s.leaveCairn k (.group gid)) s

/-- A task's own open is closed and hands to it end (R218, R220). -/
def State.closeTask (s : State) (uid : Nat) : State :=
  s.cairns.foldl (fun s k =>
    let k' : Cairn := if k.hand = some (.task uid) then { k with hand := none } else k
    (if k'.hand = k.hand then s else s.setCairn k').leaveCairn k' (.task uid)) s

/-- The task has nothing left: its groups have retired, all its blocks were placed, and no operation or program of it is
under way (R201). -/
def State.taskOver (s : State) (uid : Nat) (t : Task) : Bool :=
  t.place == .running && t.next == (if t.kind = 0 then 1 else t.kernel.grid)
    && s.groups.all (fun p => p.2.task != some uid || p.2.life == .retired)
    && s.copies.all (fun p => p.2.task != some uid) && s.msgs.all (fun p => p.2.task != some uid)
    && s.pubs.all (fun p => p.2.task != some uid) && s.rops.all (fun p => p.2.task != some uid)
    && s.quads.all (fun q => (q.2.running.toList ++ q.2.queue ++ q.2.saved).all fun p => p.task != some uid)

/-- Every task that is over retires and gives up its keys (R201). -/
def State.settleTasks (s : State) : State :=
  s.tasks.foldl (fun s x =>
    if s.taskOver x.1 x.2 then
      ({ s with tasks := tset x.1 { x.2 with held := [], place := .retired } s.tasks,
                barriers := s.barriers.filter fun b => !((b.1.level == 2 || b.1.level == 3) && b.1.owner == x.1) }).closeTask x.1
    else s) s

/-- A group leaves its block; the allocation on a core is freed with the block's last group there (R133). -/
def State.leaveBlock (s : State) (gid : Nat) (g : Group) : State :=
  match g.block with
  | none => s
  | some bid =>
    match tget bid s.blocks with
    | none => s
    | some b =>
      let left := b.left.filter (· != gid)
      if left.isEmpty then
        { s with blocks := tdel bid s.blocks, barriers := s.barriers.filter fun x => !(x.1.level == 1 && x.1.owner == blockOwner (some bid)) }
      else
        let onCore := left.any fun i => (tget i s.groups).any fun h => h.core == g.core
        { s with blocks := tset bid { b with left := left, places := if onCore then b.places else b.places.filter fun p => p.1 != g.core } s.blocks }

/-- Split entries that a group of `n` splits holds (R41): at least one, and in trap mode those of the splits in its frame (R231); once it has retired, those
that it held then (R82). -/
def Group.entries (g : Group) (n : Nat) : Nat :=
  match g.life with
  | .preempted _ => 0
  | .retired => max 1 g.kept
  | _ => max 1 (max n (match g.trap with | some t => t.tvalid.length | none => 0))

/-- The remote instructions of a group that retires whose register writes are still pending (R82); lanes not sent are not. -/
def Group.lastWrites (g : Group) : List RInstr :=
  (g.rinstr.filter fun r => r.dest != .none && !r.waiting.isEmpty).map fun r => { r with unsent := [] }

/-- Retirement of a group (R48, R56, R62, R82, R212): the context itself is released later, when no write is pending. -/
def State.retire (s : State) (gid : Nat) (poison : Bool) : State :=
  match s.group? gid with
  | none => s
  | some g =>
    if g.life = .retired then s
    else
      let s := s.sendRest g poison
      let s := s.dropAll gid g
      let s := s.closeOpens gid
      let s := s.setGroup gid { g with
        life := .retired, kept := g.entries g.splits.length, splits := [], defer := [], reserv := none, trap := none, pend := none, rinstr := g.lastWrites }
      let s := s.leaveBlock gid g
      let s := { s with
        launches := tmod g.launch (fun l => { l with sums := { l.sums with retired := l.sums.retired + 1 } }) s.launches,
        fwds := s.fwds.filter fun f => !(f.launch == g.launch && some f.item == g.item) }
      s.settleTasks

/-- The groups that a kill of `gid` takes: those of its task, else of its block, else itself (R235). -/
def State.killSet (s : State) (gid : Nat) (g : Group) : List Nat :=
  let mates (p : Group → Bool) := (s.groups.filter fun x => p x.2 && x.2.life != .retired).map fun x => x.1
  match g.task, g.block with
  | some t, _ => mates fun h => h.task == some t
  | none, some b => mates fun h => h.block == some b
  | none, none => [gid]

/-- A task killed with UCE or MCHK goes back to its core's queue, at most twice (R243); it has not retired, so that hands to it and
its own open stand (R218, R220). -/
def Task.again (t : Task) (core : Nat) : Task := { t with attempts := t.attempts + 1, place := .queued core, next := 0, opened := false }

/-- The kill of a group (R235): the others it takes retire with it, and the launch's fault record keeps the first kill. A kill
that R243 answers by re-queuing the task is only logged; the attempt's quad and grid barriers go (R53). -/
def State.kill (s : State) (gid cause : Nat) (pc : Word) : State :=
  match s.group? gid with
  | none => s
  | some g =>
    if g.life = .retired then s else
    let t := g.task.bind fun u => (tget u s.tasks).map fun t => (u, t)
    let requeue := match t with
      | some (_, t) => t.retry && (cause == causeUCE || cause == causeMCHK) && t.attempts < 2
      | none => false
    let s := match requeue, t with
      | true, some (u, t) =>
        { s with
          tasks := tset u (t.again g.core) s.tasks, syslog := s.syslog ++ [LogEvent.taskRequeued u cause],
          barriers := s.barriers.filter fun b => !((b.1.level == 2 || b.1.level == 3) && b.1.owner == u) }
      | _, _ =>
        { s with
          launches := tmod g.launch (fun l =>
            match l.fault with
            | some f => if f.byKill then { l with killed := true } else { l with killed := true, fault := some ⟨cause, coordOf g.core, pc, true⟩ }
            | none => { l with killed := true, fault := some ⟨cause, coordOf g.core, pc, true⟩ }) s.launches,
          tasks := match t with
            | some (u, t) => tset u { t with next := if t.kind = 0 then 1 else t.kernel.grid, place := .running } s.tasks
            | none => s.tasks }
    (s.killSet gid g).foldl (fun s i => s.retire i true) s

end Sys2Proof.Machine
end

