-- ==== Sys2Proof/Machine/Engine.lean ====
section
/-! DEFINITION. The matrix engine's storage and its operations' order (R174, R176, R180-R182), shared by a sequencer's
instructions and by the engine's own steps. -/

namespace Sys2Proof.Machine

/-- The registers that an engine operation is to write (R176, R184, R187). -/
def EngOp.dests (o : EngOp) : List Nat :=
  match o.kind with
  | .release _ sd => [sd]
  | _ => if o.ring.isEmpty then [] else [o.sa + 2, o.sa + 3]

/-- The accumulator regions of 64 rows that an operation touches (R176). -/
def EngOp.regions (o : EngOp) : List Nat :=
  match o.kind with
  | .mma | .mdist _ | .mtopk .. | .mdrn .. => (List.range 16).filter fun i => o.acc / 64 ≤ i && i ≤ (o.acc + o.rows - 1) / 64
  | .mzero regs => (List.range 16).filter fun i => regs.testBit i
  | _ => []

/-- An operation writes the accumulator. -/
def EngOp.writesAcc (o : EngOp) : Bool :=
  match o.kind with
  | .mma | .mdist _ | .mzero _ => true
  | _ => false

/-- Two operations touch a common region and one writes it (R176). -/
def EngOp.conflicts (o p : EngOp) : Bool := (o.writesAcc || p.writesAcc) && o.regions.any p.regions.contains

/-- The operations of a program issued before operation `id`. -/
def Prog.before (p : Prog) (id : Nat) : List EngOp := (p.ops.filter fun o => o.1 < id).map fun o => o.2

/-- The words of accumulator row `row` of the pod. -/
def State.accVals (s : State) (row : Nat) : List Word :=
  (List.range 512).map fun j => BitVec.ofNat 32 (s.acc.read (row * 2048 + 4 * j) 4)

/-- An accumulator row written. -/
def State.setAcc (s : State) (row : Nat) (ws : List Word) : State :=
  { s with acc := s.acc.putAll (row * 2048) (ws.flatMap fun w => leBytes 4 w.toNat) }

/-- Bytes of a tenant's weight-buffer space on a quad, from the buffer or from its second copy (R182). -/
def State.wbufBytes (s : State) (dup : Bool) (v q off n : Nat) : List Byte :=
  (List.range n).map fun i => match s.wbufKey v q (off + i) with
    | some k => (if dup then s.wdup else s.wbuf).get k
    | none => 0

/-- Bytes of a tenant's weight-buffer space that are undefined (R1). -/
def State.wbufUndefined (s : State) (v q off n : Nat) : List Bool :=
  (List.range n).map fun i => (s.wbufKey v q (off + i)).any s.wbuf.undefinedAt

/-- Bytes of a tenant's weight-buffer space become undefined with their second copy, which stays a copy (R1, R182). -/
def State.wbufUndefine (s : State) (v q off n : Nat) : State :=
  (List.range 4).foldl (fun s j =>
    let lo := max off (j * Config.wbufQuarterBytes)
    let hi := min (off + n) ((j + 1) * Config.wbufQuarterBytes)
    match s.wbufKey v q lo with
    | some k => { s with wbuf := s.wbuf.undefine k (hi - lo) s.fresh, wdup := s.wdup.undefine k (hi - lo) s.fresh }
    | none => s) { s with fresh := s.fresh + 1 }

/-- Bytes written to a tenant's weight-buffer space and to the second copy (R182), from offset `off` on. -/
def State.wbufWrite (s : State) (v q off : Nat) : List Byte → State
  | [] => s
  | b :: bs => match s.wbufKey v q off with
    | some k => State.wbufWrite { s with wbuf := s.wbuf.put k b, wdup := s.wdup.put k b } v q (off + 1) bs
    | none => s

/-- Rows of a tenant's accumulator space become undefined (R177); no check reads them until they are zeroed (R1, R194). -/
def State.rowsUndefine (s : State) (v q first n : Nat) : State :=
  (List.range n).foldl (fun s i => match s.accRow v q (first + i) with
    | some r => { s with acc := s.acc.undefine (r * 2048) 2048 s.fresh, rows := tset r { tgetD r {} s.rows with undef := true } s.rows }
    | none => s) { s with fresh := s.fresh + 1 }

/-- K of a format's block, and bytes of its data, metadata and scale area (R181). -/
def WRange.dims (r : WRange) : Nat × Nat × Nat × Nat :=
  let (k, dense, spd, meta') : Nat × Nat × Nat × Nat := match r.fmt with
    | .fp8 => (512, 262144, 131072, 32768)
    | .hs4 => (1024, 262144, 131072, 65536)
    | .bf16 => (128, 131072, 65536, 8192)
  (k, (if r.sp then spd else dense), (if r.sp then meta' else 0), (if r.ts then 256 else 0))

/-- The stride of a range's blocks (R181). -/
def WRange.stride (r : WRange) : Nat := let (_, d, m, t) := r.dims; d + m + t

/-- The range that holds `n` bytes of a tenant's space at `off`. -/
def Quad.rangeOf (qd : Quad) (v off n : Nat) : Option WRange :=
  qd.ranges.find? fun r => r.vf == v && decide (r.base ≤ off) && decide (off + n ≤ r.base + r.bytes)

/-- Regions cleared (R192). -/
def State.zeroRegions (s : State) (v q regs : Nat) : State :=
  (List.range 1024).foldl (fun s r =>
    if regs.testBit (r / 64) then
      match s.accRow v q r with
      | some row => { s with acc := s.acc.zero (row * 2048) 2048, rows := tdel row s.rows }
      | none => s
    else s) s

/-- The running program of a quad, changed. -/
def State.modProg (s : State) (q : Nat) (f : Prog → Prog) : State :=
  let qd := s.quad q
  s.setQuad q { qd with running := qd.running.map f }

/-- Weight-buffer bytes whose source was written after their MWLD and before EXIT are undefined (R317). -/
def State.settleLoads (s : State) (q : Nat) : State :=
  match (s.quad q).running with
  | none => s
  | some p =>
    let s := p.loads.foldl (fun (s : State) x => x.2.2.eraseDups.foldl (fun s i => s.wbufUndefine p.vf q (x.2.1 + i) 1) s) s
    s.modProg q fun p => { p with loads := p.loads.map fun x => (x.1, x.2.1, []) }

/-- MZERO and a release take effect as soon as the operations they follow are complete (R176, R184); at most `n` of them. -/
def State.settleOps (s : State) (q : Nat) : Nat → State
  | 0 => s
  | n + 1 =>
    match (s.quad q).running with
    | none => s
    | some p =>
      let ready := p.ops.find? fun o => match o.2.kind with
        | .mzero _ => (p.before o.1).all fun e => !e.conflicts o.2
        | .release base _ => (p.before o.1).all fun e => !e.uses.contains base
        | _ => false
      match ready with
      | none => s
      | some (id, o) =>
        let s := match o.kind with
          | .mzero regs => s.zeroRegions p.vf q regs
          | .release base sd =>
            let qd := s.quad q
            let mine (r : WRange) : Bool := r.vf == p.vf && r.base == base
            let found := qd.ranges.any mine
            (s.setQuad q { qd with ranges := qd.ranges.filter fun r => !mine r }).modProg q fun p =>
              { p with sregs := p.sregs.set sd (if found then 0 else 0xFFFFFFFF) }
          | _ => s
        State.settleOps (s.modProg q fun p => { p with ops := tdel id p.ops }) q n

/-- An operation of a running program is complete. -/
def State.dropOp (s : State) (q id : Nat) : State :=
  let s := s.modProg q fun p => { p with ops := tdel id p.ops }
  s.settleOps q (((s.quad q).running.map fun p => p.ops.length).getD 0)

/-- What a killed program's abandoned operation would have written is undefined (R177). -/
def State.abandon (s : State) (q : Nat) (p : Prog) (o : EngOp) : State :=
  match o.kind with
  | .mwld _ dst len => s.wbufUndefine p.vf q dst len
  | .mma | .mdist _ => s.rowsUndefine p.vf q (o.acc + o.row) (o.rows - o.row)
  | .mzero _ => o.regions.foldl (fun s r => s.rowsUndefine p.vf q (64 * r) 64) s
  | _ => s

/-- A cause in an engine operation (R177): it and the operations issued after it are abandoned, and the program's ticket will
hold the cause and the operation's PC. -/
def State.killOp (s : State) (q id cause : Nat) : State :=
  match (s.quad q).running with
  | none => s
  | some p =>
    match tget id p.ops with
    | none => s
    | some o =>
      let s := (p.ops.filter fun x => id ≤ x.1).foldl (fun s x => s.abandon q p x.2) s
      let s := s.modProg q fun p => { p with ops := p.ops.filter fun x => x.1 < id, stopped := some (cause, o.pc) }
      s.settleOps q p.ops.length

/-- The cause of an ended program has been delivered by an MRDV (R177). -/
def Quad.tell (qd : Quad) (serial : Nat) : Quad :=
  { qd with fates := qd.fates.map fun x => if x.serial = serial then { x with told := true } else x }

/-- The trap that delivers a program's cause is entered (R177, R179). -/
def State.tellFate (s : State) (info : TrapInfo) : State :=
  match info.fate with
  | some (q, serial) => s.setQuad q ((s.quad q).tell serial)
  | none => s

/-- A killed program's cause that no MRDV delivered goes to its launch's fault record, when that holds no entry (R177). -/
def State.fateToLaunch (s : State) (f : Fate) : State :=
  if f.cause = 0 ∨ f.told then s
  else { s with launches := tmod f.launch (fun l =>
    match l.fault with
    | none => { l with fault := some ⟨f.cause, coordOf f.core, f.pc, false⟩ }
    | some _ => l) s.launches }

/-- The fate record with one more ended program (R179). -/
def State.pushFate (s : State) (q : Nat) (f : Fate) : State :=
  let qd := s.quad q
  let fates := qd.fates ++ [f]
  let excess := fates.length - Config.fateEntries
  (fates.take excess).foldl State.fateToLaunch (s.setQuad q { qd with fates := fates.drop excess })

/-- A split waits in MRDV for the program of a serial, whose end it has not seen. -/
def Split.awaits (sp : Split) (serial : Nat) : Bool := sp.wait == .again (.rdv serial none)

/-- Every split that waits for a program's end takes note of it at once (R179). -/
def Group.seeEnd (g : Group) (q : Nat) (f : Fate) : Group :=
  if quadOf g.core ≠ q then g
  else
    let see (t : Table Split) : Table Split := t.map fun p =>
      if p.2.awaits f.serial then (p.1, { p.2 with wait := .again (.rdv f.serial (some (f.vf, f.cause, f.pc))) }) else p
    { g with splits := see g.splits, trap := g.trap.map fun t => { t with splits := see t.splits } }

/-- A program ends once it has reached EXIT or was killed and its operations are complete (R176, R177): its cause is delivered to
the groups that wait for it (R179). -/
def State.endProg (s : State) (q : Nat) : State :=
  match (s.quad q).running with
  | none => s
  | some p =>
    if p.ops.isEmpty && (p.ending || p.stopped.isSome) then
      let s := s.settleLoads q
      let c := p.stopped.getD (0, 0)
      let f : Fate := ⟨p.serial, p.vf, p.launch, p.core, c.1, c.2, false⟩
      let s := (s.setQuad q { s.quad q with running := none }).pushFate q f
      let s : State := { s with groups := s.groups.map fun g => (g.1, g.2.seeEnd q f) }
      s.settleTasks
    else s

end Sys2Proof.Machine
end

