-- ==== Sys2Proof/Machine/Ops.lean ====
section
/-! DEFINITION. The shared operations of a step: taking a trap and returning from one (R227-R235, R361), completing an
instruction (R241), REGRP's completion (R49, R66, R67), and issuing an instruction with the checks common to all (R98). -/

namespace Sys2Proof.Machine

/-- The lowest number of a table's records. -/
def firstKey (t : Table α) : Nat := match t with | (k, _) :: _ => k | [] => 0

/-- A group's counter: its operations of a kind that are not counted down (R79). -/
def State.counter (s : State) (gid : Nat) : Counter → Nat
  | .cpy => tcount (fun x => x.gid == gid) s.copies
  | .msg => tcount (fun x => x.gid == gid) s.msgs
  | .pbl => tcount (fun x => x.gid == gid) s.pubs

/-- The wait kind of SSTATE (R85); a wait for the replies of a remote instruction is a counter wait too (DESIGN CHOICE, log entry 71:
R252 classifies only the wait for an entry). -/
def Wait.kind : Wait → Nat
  | .none | .again (.regs _) => 0
  | .bar .. | .barGrp => 1
  | .again (.port _) | .again (.send _) => 2
  | .counter _ _ false | .replies | .again .acks | .again (.applied _) | .again .entry | .again (.flight _) | .again .release | .again (.count _)
  | .again (.tasks _) | .again (.emit ..) | .again (.queue _) | .again .gone => 3
  | .regrp .. | .move .. | .writeback .. | .again .fork | .again (.rdv ..) | .again (.cairn ..) => 4
  | .yield _ | .counter _ _ true => 5

/-- The three words of a mask, am0 first. -/
def maskWords (m : Mask) : List Word := [maskWord m 0, maskWord m 1, maskWord m 2]

/-- Tag bytes of a register file, 0xFF beyond the count, as 32 words (R84). -/
def tagWords (l : List VReg) : List Word :=
  (List.range 32).map fun j =>
    let t (i : Nat) : Nat := match l[4 * j + i]? with | some r => r.tag | none => 0xFF
    BitVec.ofNat 32 (t 0 + 256 * t 1 + 65536 * t 2 + 16777216 * t 3)

/-- The header of R85 as 64 words; `trapping` is the split of wait kind 6. The words of a split that does not exist and of an entry of the
deferral stack not in use are zero (DESIGN CHOICE, log entry 99: R85 gives them no value). -/
def headerWords (s : State) (gid : Nat) (g : Group) (trapping : Option Nat) (cbytes : Nat) : List Word :=
  let sp (k : Nat) : List Word := match tget k g.splits with
    | some x => x.pc :: maskWords x.mask
    | none => [0, 0, 0, 0]
  let st (k : Nat) : Word := match tget k g.splits with
    | some x => BitVec.ofNat 32 (2 ^ 31 + (if trapping = some k then 6 else x.wait.kind) * 2 ^ 28)
    | none => 0
  let df (e : Nat) : List Word := match g.defer[e]? with
    | some d => d.addr :: maskWords d.mask
    | none => [0, 0, 0, 0]
  let owners := (List.range 8).foldl (fun n e => n + (match g.defer[e]? with | some d => d.owner * 2 ^ (4 + 2 * e) | none => 0)) 0
  [0, g.window] ++ (sp 0 ++ sp 1 ++ sp 2 ++ sp 3) ++ [st 0, st 1, st 2, st 3]
    ++ (List.range 8).flatMap df
    ++ [BitVec.ofNat 32 (g.defer.length + owners), g.gmode,
        BitVec.ofNat 32 (g.sent.foldl (fun n p => n + 2 ^ p) 0),
        BitVec.ofNat 32 (s.counter gid .cpy + 256 * s.counter gid .msg + 65536 * s.counter gid .pbl),
        BitVec.ofNat 32 (g.count + 256 * g.budget + 65536 * generalCount g.vregs),
        BitVec.ofNat 32 cbytes, 0, 0, 0, 0]

/-- s0-s124 and the three mask slots as zero (R84). -/
def scalarWords (g : Group) : List Word := g.sregs ++ [0, 0, 0]

/-- The flat frame of R229. -/
def flatFrame (s : State) (gid : Nat) (g : Group) (k : Nat) : List Word :=
  headerWords s gid g (some k) 0 ++ scalarWords g ++ tagWords g.vregs ++ g.vregs.flatMap fun r => lanes.map r.lane

/-- The context in which the handler starts (R229). -/
def Group.handler (g : Group) (entry : DWord) (now : Nat) : Group :=
  { g with
    splits := [(0, { pc := loWord entry, mask := fullMask, since := now })], defer := [], exited := 0, window := hiWord entry,
    sregs := List.replicate 125 0, vregs := List.replicate g.count (.u 0), gmode := 0, reserv := none, cache := [], pend := none,
    busy := [], rinstr := [] }

/-- Trap entry (R229): the frame is written and the handler starts, or, with THANDLER 0, the group is killed (R235). -/
def State.enterTrap (s : State) (gid : Nat) (info : TrapInfo) : State :=
  match s.group? gid with
  | none => s
  | some g =>
    let entry := (s.vf g.vf).thandler
    let s := s.tellFate info
    if entry = 0 then s.kill gid info.cause info.pc
    else
      let t : TrapMode := { info := info, frame := flatFrame s gid g info.split, tvalid := g.splits.map fun p => p.1,
                            exited := g.exited, splits := g.splits, known := g.fl.length }
      s.setGroup gid { g.handler entry s.now with trap := some t }

/-- A trap raised by the handler's own instruction (R234): the handler restarts, or the fourth kills the group. -/
def State.nested (s : State) (gid : Nat) (cause : Nat) (pc : Word) : State :=
  match s.group? gid with
  | none => s
  | some g =>
    match g.trap with
    | none => s
    | some t =>
      if 4 ≤ t.nest + 1 then s.kill gid cause pc
      else s.setGroup gid { g.handler (s.vf g.vf).thandler s.now with trap := some { t with
        nest := t.nest + 1, ncause := cause, npc := pc, known := if cause = causeFABLOST then g.fl.length else t.known } }

/-- A split has a request to the cairn directory under way (R291). -/
def Split.asking (sp : Split) : Bool := match sp.wait with | .move .. | .writeback .. | .again (.cairn ..) => true | _ => false

/-- No register write, no reply and no request to the cairn directory of another split is outstanding (R228, R291). -/
def Group.drained (g : Group) (k : Nat) : Bool :=
  g.busy.isEmpty && g.rinstr.all (fun r => r.split == k) && g.splits.all fun p => p.1 == k || !p.2.asking

/-- The split of a recorded trap that gives way to one whose instruction issued earlier (R228): it stands on its instruction
again, or, of a completed one, its STEP is still to be raised. -/
def Split.cancelled (sp : Split) (p : TrapInfo) : Split :=
  if p.cause = causeSTEP then { sp with due := some (p.order, p.pc) } else sp.rest p.pc

/-- The splits of a group with a STEP due: place in the order of issue, split, PC of the instruction, PC of the split. -/
def Group.dues (g : Group) (now : Nat) : List (Nat × Nat × Word × Word) :=
  g.splits.filterMap fun p => p.2.due.map fun d => (if d.1 = 0 then now else d.1, p.1, d.2, p.2.pc)

/-- A STEP is due in the group of an instruction that issued before the one at `order` (R228, R241). -/
def Group.dueBefore (g : Group) (now order : Nat) : Bool := (g.dues now).any fun d => decide (d.1 < order)

/-- A cause raised at split `k`, whose PC in the frame is `pc` (R227, R228). In trap mode it is nested. While another trap is
pending, or a STEP is due, the one whose instruction issued first is kept and the other is cancelled. Entry follows once the scoreboard has
drained. -/
def State.raise (s : State) (gid : Nat) (info : TrapInfo) (pc : Word) : State :=
  match s.group? gid with
  | none => s
  | some g =>
    let info := if info.order = 0 then { info with order := s.nextId } else info
    let stop (pc : Word) (g : Group) : Group :=
      { g with splits := tmod info.split (fun sp => sp.rest pc) g.splits, rinstr := g.rinstr.filter fun r => r.split != info.split }
    if g.trap.isSome then (s.tellFate info).nested gid info.cause info.pc
    else match g.pend with
      | some p =>
        if p.order ≤ info.order then s.setGroup gid (stop info.pc g)
        else s.setGroup gid (stop pc { g with splits := tmod p.split (fun sp => sp.cancelled p) g.splits, pend := some info })
      | none =>
        if g.dueBefore s.nextId info.order then s.setGroup gid (stop info.pc g)
        else
          let g := stop pc g
          if g.drained info.split then (s.setGroup gid g).enterTrap gid info
          else s.setGroup gid { g with pend := some info }

/-- Word w of a frame. -/
def frameWord (f : List Word) (w : Nat) : Nat := (f.getD w 0).toNat

/-- Mask at words w to w + 2 of a frame. -/
def frameMask (f : List Word) (w : Nat) : Mask := maskOf (f.getD w 0) (f.getD (w + 1) 0) (f.getD (w + 2) 0)

/-- The valid splits of a frame. -/
def frameSplits (f : List Word) : List Nat := (List.range 4).filter fun k => frameWord f (18 + k) / 2 ^ 31 % 2 == 1

/-- Entries of a frame's deferral stack. -/
def frameDefers (f : List Word) : List Defer :=
  (List.range (frameWord f 54 % 16)).map fun e =>
    ⟨bitField (frameWord f 54) (5 + 2 * e) (4 + 2 * e), f.getD (22 + 4 * e) 0, frameMask f (23 + 4 * e)⟩

/-- Masks share no lane. -/
def disjointMasks : List Mask → Bool
  | [] => true
  | m :: ms => (ms.all fun n => m &&& n == 0) && disjointMasks ms

/-- The checks of TRET (R234). -/
def tretOk (g : Group) (f : List Word) : Bool :=
  let v := frameSplits f
  let ds := frameDefers f
  let regs := (List.range g.count).map fun i => payloadReg f (224 + 96 * i) (frameTag f i)
  !v.isEmpty && v.all (fun k => frameWord f (2 + 4 * k) % 4 == 0)
    && disjointMasks ((v.map fun k => frameMask f (3 + 4 * k)) ++ ds.map Defer.mask)
    && frameWord f 54 % 16 ≤ 8 && ds.all (fun d => v.contains d.owner)
    && regs.all Option.isSome && generalCount (regs.filterMap fun r => r) ≤ g.budget

/-- Outcomes of stranded operations that a handler's registers show (R260): those known at the entry, at most 64, if it is one for FABLOST. -/
def Group.shown (g : Group) : Nat :=
  match g.trap with
  | some t => if t.info.cause = causeFABLOST ∨ t.ncause = causeFABLOST then min Config.remoteEntries (min t.known g.fl.length) else 0
  | none => 0

/-- Outcomes of stranded operations are to be reported that no entry knew (R260). -/
def Group.fabDue (g : Group) : Bool := match g.trap with | none => !g.fl.isEmpty | some t => decide (t.known < g.fl.length)

/-- The group rebuilt from its frame (R234, R361): waits go on where the PC was not rewritten; the outcomes that the handler was shown are reported
(R260). -/
def Group.leaveTrap (g : Group) (t : TrapMode) (now : Nat) : Group :=
  let f := t.frame
  let sp (k : Nat) : Split :=
    let pc := f.getD (2 + 4 * k) 0
    let mask := frameMask f (3 + 4 * k) &&& ~~~t.exited
    match tget k t.splits with
    | some x =>
      if !t.rewritten.contains k ∧ t.info.split ≠ k then
        if x.wait.kind ≠ 0 then { x with pc := pc, mask := mask, since := now + 1, exempt := true }
        else { pc := pc, mask := mask, since := now + 1, exempt := true, due := x.due }
      else { pc := pc, mask := mask, since := now + 1, exempt := true }
    | none => { pc := pc, mask := mask, since := now + 1, exempt := true }
  let splits := (frameSplits f).map fun k => (k, sp k)
  { g with
    splits := splits,
    defer := (frameDefers f).map fun d => { d with mask := d.mask &&& ~~~t.exited },
    exited := t.exited, window := f.getD 1 0, gmode := f.getD 55 0 &&& 1,
    sregs := (f.drop 64).take 125,
    vregs := (List.range g.count).map fun i => (payloadReg f (224 + 96 * i) (frameTag f i)).getD (.u 0),
    rinstr := g.rinstr.filter fun r => splits.any fun x => x.1 == r.split && x.2.wait == .replies,
    cache := [], trap := none,
    fl := g.fl.drop g.shown }

/-- The first STEP that is due in a group is raised (R241); while another trap is pending, only where its instruction issued earlier
(R228). -/
def State.stepDue (s : State) (gid : Nat) : State :=
  match s.group? gid with
  | none => s
  | some g => match leastBy (fun d => d.1) (g.dues s.nextId) with
    | none => s
    | some (order, k, own, pc) =>
      if g.trap.isSome || g.pend.any fun p => decide (p.order ≤ order) then s
      else (s.setGroup gid { g with splits := tmod k (fun sp => { sp with due := none }) g.splits }).raise gid
        { cause := causeSTEP, split := k, pc := own, order := order } pc

/-- A split goes on at `pc`, ready from clk `since`, after it has completed the instruction at `own` (R50, R241). -/
def State.finishFrom (s : State) (gid k : Nat) (own pc : Word) (since : Nat) : State :=
  (s.modGroup gid fun g => g.complete k own pc since).stepDue gid

/-- A split goes on at `pc` after the instruction at its PC, ready from clk `since`. -/
def State.finishAt (s : State) (gid k : Nat) (pc : Word) (since : Nat) : State :=
  match (s.group? gid).bind fun g => tget k g.splits with
  | none => s
  | some sp => s.finishFrom gid k sp.pc pc since

/-- A split whose wait has ended goes on at `pc`: it could issue in this clk. -/
def State.finish (s : State) (gid k : Nat) (pc : Word) : State := s.finishAt gid k pc s.now

/-- An instruction that waits so has not issued: it has read nothing (R78, R252). -/
def Wait.early : Wait → Bool
  | .again (.regs _) | .again (.port _) | .again .acks | .again (.applied _) | .again .entry | .again (.flight _) => true
  | _ => false

/-- A split waits (R50). An instruction that issues has used up an exemption (R234) and has its place in the order of issue (R228); one that had
issued before keeps both. -/
def State.waitOn (s : State) (gid k : Nat) (w : Wait) (cont : Word) : State :=
  let t := s.modGroup gid fun g => { g with splits := tmod k (fun sp =>
    { sp with wait := w, cont := cont, exempt := sp.exempt && (w.early || sp.held.isSome), held := none,
              stamp := if sp.held.isSome then sp.stamp else if w.early then 0 else s.nextId }) g.splits }
  if w.early then t else { t with nextId := s.nextId + 1 }

/-- BAR.grp completes when every split waits at a BAR.grp or a REGRP, one at a BAR.grp, and no deferral entry is held (R49). The partition has
issued in this clk. -/
def State.settleGrp (s : State) (gid : Nat) : State :=
  match s.group? gid with
  | none => s
  | some g =>
    let atGrp (sp : Split) : Bool := sp.wait == .barGrp
    let atRegrp (sp : Split) : Bool := match sp.wait with | .regrp .. => true | _ => false
    if g.defer.isEmpty && g.splits.all (fun p => atGrp p.2 || atRegrp p.2) then
      ((s.modGroup gid fun g => (g.splits.filter fun p => atGrp p.2).foldl (fun g p => g.complete p.1 p.2.pc p.2.cont (s.now + 1)) g)).stepDue gid
    else s

/-- A participant has arrived at REGRP: its splits wait there and it holds no deferral entry (R49, R66). -/
def Group.atRegrp (g : Group) : Bool :=
  g.life == .resident && g.trap.isNone && g.pend.isNone && g.defer.isEmpty && !g.splits.isEmpty
    && g.splits.all fun p => match p.2.wait with | .regrp .. => true | _ => false

/-- The range that a participant's REGRP names, and its address. -/
def Group.regrpAt (g : Group) : List (Nat × Nat × Word) :=
  g.splits.filterMap fun p => match p.2.wait with | .regrp f n => some (f, n, p.2.pc) | _ => none

/-- The active lanes of a group over its splits. -/
def Group.activeMask (g : Group) : Mask := g.splits.foldl (fun m p => m ||| p.2.mask) 0

/-- A survivor of REGRP (R66): lane j takes the j-th of `src`, a list of (group, lane); its one split keeps the lowest number that the
group had (DESIGN CHOICE, log entry 66). -/
def Group.packed (g : Group) (first n : Nat) (src : List (Group × Nat)) : Group :=
  let mask := maskWhere (· < src.length)
  let newReg (i : Nat) : VReg :=
    .g (lanes.map fun j => match src[j]? with | some (h, l) => (h.v i).lane l | none => (g.v i).lane j)
  let k := firstKey g.splits
  { g with
    vregs := setRegs ((regsFrom first n).map fun i => (i, newReg i)) g.vregs,
    splits := match tget k g.splits with | some sp => [(k, { sp with mask := mask })] | none => [],
    exited := ~~~mask,
    cache := g.cache.filter fun e => !(regsFrom first n).contains e.2 }

/-- REGRP's completion for the participants of a block on a core (R66, R67), given in order of group index; a participant retires
once its remote operations are acknowledged (R252). A trap is recorded at each participant's lowest split (DESIGN CHOICE, log entry 67: R67
names none). The survivors' splits count as ready from the clk of the completion, though their partition may have issued in it (DESIGN CHOICE, log entry
97). -/
def State.regrpDone (s : State) (ps : List (Nat × Group)) : State :=
  let trapAll (cause : Nat) := ps.foldl (fun s p =>
    let k := firstKey p.2.splits
    match tget k p.2.splits with
    | some sp => s.raise p.1 { cause := cause, split := k, pc := sp.pc } sp.pc
    | none => s) s
  let ranges := ps.flatMap fun p => p.2.regrpAt
  match ranges with
  | [] => s
  | (first, n, _) :: _ =>
    if ranges.any (fun r => r.1 != first || r.2.1 != n)
        || ps.any (fun p => match p.2.regrpAt with | [] => false | r :: rs => rs.any fun q => q.2.2 != r.2.2) then
      trapAll causeREGRPX
    else
      let listed := ps.flatMap fun p => (lanes.filter (laneOn p.2.activeMask)).map fun l => (p.2, l)
      let m := (listed.length + 95) / 96
      let next := (ps.take m).zipIdx.map fun (p, i) => (p.1, p.2.packed first n ((listed.drop (96 * i)).take 96))
      if next.any (fun p => p.2.budget < generalCount p.2.vregs) then trapAll causeTAGBUDGET
      else if (ps.drop m).any (fun p => s.ropCount p.1 != 0) then s
      else
        let s := (ps.drop m).foldl (fun s p => s.retire p.1 false) s
        let s := next.foldl (fun s p => s.setGroup p.1 p.2) s
        next.foldl (fun s p => match p.2.splits with
          | (k, sp) :: _ => s.finish p.1 k sp.cont
          | [] => s) s

/-- REGRP completes on a core of a block once every participant that has not retired has arrived (R66). -/
def State.settleRegrp (s : State) (block : Option Nat) (core : Nat) : State :=
  match block with
  | none => s
  | some b =>
    let ps := sortBy (fun p => p.2.gidx) (s.groups.filter fun p => p.2.block == some b && p.2.core == core && p.2.life != .retired)
    if !ps.isEmpty && ps.all (fun p => p.2.atRegrp) then s.regrpDone ps else s

/-- Retirement by EXIT, with what it may complete for the block (R48, R66). -/
def State.retireGroup (s : State) (gid : Nat) : State :=
  match s.group? gid with
  | none => s
  | some g => (s.retire gid false).settleRegrp g.block g.core

/-- A sequencer program is killed (R177): its ticket will hold the cause and the PC once its earlier operations are complete. -/
def State.killProg (s : State) (q cause : Nat) (pc : Word) : State :=
  s.modProg q fun p => if p.stopped.isSome then p else { p with stopped := some (cause, pc) }

/-- Another split waits for what `f` tells and issued before `stamp`: it goes first (R208, R214, R302, R312). While a trap of its group is
pending, only its requests to the cairn directory go on (R228, R291). -/
def State.ahead (s : State) (stamp : Nat) (f : Group → Again → Bool) : Bool :=
  s.groups.any fun p => p.2.life == .resident && p.2.splits.any fun x => match x.2.wait, x.2.held with
    | .again w, some h => (p.2.pend.isNone || x.2.asking) && f p.2 w && decide (h.stamp < stamp)
    | _, _ => false

/-- The instruction's place in the order of issue. -/
def Ctx.stamp (c : Ctx) (s : State) : Nat := c.held.getD s.nextId

/-- A cause raised by the issuer's instruction at `c.pc`; the frame's PC is `pc` (R177, R227). -/
def Ctx.raise (c : Ctx) (cause lane : Nat) (addr : DWord) (code pc : Word) (s : State) : State :=
  match c.who with
  | .none => s
  | .group gid k => s.raise gid { cause := cause, split := k, lane := lane, addr := addr, code := code, pc := c.pc, order := c.held.getD 0 } pc
  | .seq q => s.killProg q cause c.pc

/-- A group's operand cache after an instruction has issued (R77): an L-set one leaves the registers that its keep bits name, any other drops
what it writes. -/
def Group.keeps (g : Group) (i : Instr) : Group :=
  { g with cache := if isVector i then cacheAfter i (vDests i) else g.cache.filter fun e => !(vDests i).contains e.2 }

/-- The issuer's instruction is complete and it goes on at `pc`. One that issues now has used up an exemption (R234), and the next can issue in the
clk that follows (R50); one that has waited ends its wait. -/
def Ctx.finish (c : Ctx) (i : Instr) (pc : Word) (s : State) : State :=
  match c.who with
  | .none => s
  | .group gid k =>
    let s := s.modGroup gid fun g =>
      { g.keeps i with splits := tmod k (fun sp => { sp with exempt := sp.exempt && c.held.isSome, stamp := if c.held.isSome then sp.stamp else 0 }) g.splits }
    s.finishAt gid k pc (if c.held.isSome then s.now else s.now + 1)
  | .seq q => s.modProg q fun p => { p with pc := pc }

/-- An instruction that has read its operands waits, and keeps them and its place in the order of issue (R78). -/
def Ctx.keep (c : Ctx) (i : Instr) (w : Wait) (s : State) : State :=
  match c.who with
  | .group gid k =>
    let h : Held := { stamp := c.held.getD s.nextId, instr := i, sregs := c.g.sregs, vregs := c.g.vregs, mask := c.mask }
    (s.waitOn gid k w c.next).modGroup gid fun g => { g with splits := tmod k (fun sp => { sp with held := some h }) g.splits }
  | _ => s

/-- What becomes of the machine by an instruction's act. -/
def Ctx.settle (c : Ctx) (i : Instr) (s : State) : Act → Host.Outcome State Fault Refusal
  | .done t => .next (c.finish i c.next t)
  | .goto t pc => .next (c.finish i pc t)
  | .away t => .next t
  | .wait w cont t => .next (match c.who, w with
    | .group _ _, .move .. => c.keep i w t
    | .group gid k, .replies => (t.modGroup gid fun g => g.keeps i).waitOn gid k w cont
    | .group gid k, _ => t.waitOn gid k w cont
    | _, _ => t)
  | .hold why t => .next (c.keep i (.again why) t)
  | .trap cause lane addr code => .next (c.raise cause lane addr code c.pc s)
  | .trapAfter cause code => .next (c.raise cause 127 0 code c.next s)
  | .stop f => .fault f

/-- The act of an instruction that waits before it has issued, or, where it had issued before, waits on with what it has read. -/
def Ctx.late (c : Ctx) (w : Again) (s : State) : Act := if c.held.isSome then .hold w s else .wait (.again w) c.next s

/-- A trap without lane, address and code. -/
def trapAct (cause : Nat) : Act := .trap cause 127 0 0

/-- The registers that an instruction which waits after its issue is still to write (R78): those of the cairn family are the pair of its wait
(R214). -/
def heldDests (i : Instr) : List Nat :=
  match i with
  | .mqget _ len sd => regsFrom sd.toNat len.toNat
  | .mqput _ _ _ sd _ | .mfork _ _ sd _ | .tsub _ _ sd _ => [sd.toNat]
  | _ => []

/-- The registers whose writes a wait keeps pending (R47, R78, R214). -/
def Split.pending (k : Nat) (sp : Split) : List RegRef :=
  match sp.wait, sp.held with
  | .move _ sd, _ | .writeback _ sd, _ | .again (.cairn _ sd), _ => [scalarRef k sd, scalarRef k (sd + 1)]
  | .again _, some h => (heldDests h.instr).map (scalarRef k)
  | _, _ => []

/-- The registers that a remote instruction is to write (R78, R252). -/
def RInstr.pending (r : RInstr) : List RegRef :=
  match r.dest with
  | .none => []
  | .vec vd w _ => (regsFrom vd (if w = .w64 then 2 else 1)).map .v
  | .scal sd w64 => (regsFrom sd (if w64 then 2 else 1)).map (scalarRef r.split)
  | .ssc sd => [scalarRef r.split (sd + 1)]

/-- The registers with a write pending, as split `k` finds them (R78). -/
def Group.pending (g : Group) (k : Nat) : List RegRef :=
  g.busy ++ g.rinstr.flatMap RInstr.pending ++ g.splits.flatMap fun p => if p.1 = k then [] else p.2.pending p.1

/-- The registers that an instruction of split `k` reads and writes, and those it must follow (R46, R78). -/
def uses (s : State) (g : Group) (k : Nat) (i : Instr) : List RegRef :=
  (vFields i).map .v ++ (sFields i).map (scalarRef k) ++ implied s g i ++ claims g k i
    ++ (if readsMask i then [.am k 0, .am k 1, .am k 2] else [])

/-- The split that issues. -/
def Ctx.split (c : Ctx) : Nat := match c.who with | .group _ k => k | _ => 0

/-- The checks common to the instructions of a group (R98, R69, R78, R60, R62): none where the instruction may go on. One that has
read its operands has passed those of the scoreboard and the ports. -/
def groupCheck (s : State) (c : Ctx) (i : Instr) : Option Act :=
  if isEngine i then some (trapAct causeSEQCTX)
  else if !i.wf || (vFields i).any (fun n => c.g.count ≤ n) || (vPorts i).any (fun p => (s.portDecl c.g p).isNone) then
    some (trapAct causeILLEGAL)
  else if c.held.isSome then none
  else if (uses s c.g c.split i).any (c.g.pending c.split).contains then
    some (.wait (.again (.regs (uses s c.g c.split i))) c.next s)
  else if (vPorts i).any (fun p => (s.portVal c.g p).isNone) then some (.wait (.again (.port (vPorts i))) c.next s)
  else match (vPorts i).find? (fun p => match s.portVal c.g p with | some (.poisoned _) => true | _ => false) with
    | some p => some (.trap causeFWDPOISON 127 0 (BitVec.ofNat 32 p))
    | none => none

/-- The registers that a sequencer's instruction names: CALL and RET name s63 there (R175). -/
def seqFields (i : Instr) : List Nat := match i with | .call _ | .ret => [63] | i => sFields i

/-- The checks common to a sequencer's instructions (R99, R175, R176): the registers it names are not those that an engine
operation is to write. -/
def seqCheck (s : State) (c : Ctx) (p : Prog) (i : Instr) : Option Act :=
  if !seqAllowed i then some (trapAct causeSEQCTX)
  else if !i.wf || (seqFields i).any (64 ≤ ·) then some (trapAct causeILLEGAL)
  else if p.ops.any (fun o => o.2.dests.any (seqFields i).contains) then
    some (.wait (.again (.regs [])) c.next s)
  else none

/-- A sequencer's program seen as the issuer of an instruction (R175): its registers, no mask, FTZ 0. -/
def Prog.asGroup (p : Prog) : Group :=
  { core := p.core, part := 0, slot := 0, vf := p.vf, launch := p.launch, task := p.task, count := 0, budget := 0,
    vregs := [], sregs := p.sregs, window := p.window, splits := [], defer := [] }

/-- The issuer's view of its instruction: none where nobody issues. -/
def State.ctx (s : State) (len : Nat) : Option Ctx :=
  match s.cur with
  | .none => none
  | .group gid k =>
    match s.group? gid with
    | none => none
    | some g => (tget k g.splits).map fun sp => match sp.wait, sp.held with
      | .again _, some h => { who := .group gid k, g := { g with sregs := h.sregs, vregs := h.vregs }, pc := sp.pc, len := len,
                              mask := h.mask, held := some h.stamp }
      | _, _ => { who := .group gid k, g := g, pc := sp.pc, len := len, mask := sp.mask }
  | .seq q => (s.quad q).running.map fun p => { who := .seq q, g := p.asGroup, pc := p.pc, len := len, mask := fullMask }

/-- The check of an instruction by its issuer (R98). -/
def State.check (s : State) (c : Ctx) (i : Instr) : Option Act :=
  match c.who with
  | .seq q => match (s.quad q).running with | some p => seqCheck s c p i | none => none
  | _ => groupCheck s c i

/-- The issue of an encoded instruction: the common checks, then its own meaning `body`. -/
def issue (i : Instr) (s : State) (body : Ctx → State → Act) : Host.Outcome State Fault Refusal :=
  match s.ctx i.len with
  | none => .refused .noIssuer
  | some c => c.settle i s ((s.check c i).getD (body c s))

/-- The full address of a transfer by `words` words (R22, R83). -/
def Ctx.target (c : Ctx) (words : Int) : DWord := pairOf c.g.window c.pc + BitVec.ofInt 64 (4 * words)

/-- A transfer of control, with the window check of R83. -/
def Ctx.jump (c : Ctx) (words : Int) (s : State) : Act :=
  let t := c.target words
  if hiWord t = c.g.window then .goto s (loWord t) else trapAct causeXLATE

/-- The vector registers with those general that a remote instruction in flight is to write (R73, R75). -/
def Group.claimed (g : Group) : List VReg :=
  setRegs (g.rinstr.flatMap fun r => match r.dest with
    | .vec vd w _ => (regsFrom vd (if w = .w64 then 2 else 1)).map fun n => (n, .g [])
    | _ => []) g.vregs

/-- A write of vector registers would breach the general budget (R75). -/
def Ctx.over (c : Ctx) (regs : List (Nat × VReg)) : Bool := decide (c.g.budget < generalCount (setRegs regs c.g.claimed))

/-- Vector registers written (R73). -/
def Ctx.putV (c : Ctx) (regs : List (Nat × VReg)) (s : State) : State :=
  match c.who with
  | .group gid _ => s.modGroup gid fun g => { g with vregs := setRegs regs g.vregs }
  | _ => s

/-- Vector registers written under the budget (R73, R75): TAGBUDGET traps before any write. -/
def Ctx.writeV (c : Ctx) (regs : List (Nat × VReg)) (s : State) : Act :=
  if c.over regs then trapAct causeTAGBUDGET else .done (c.putV regs s)

/-- A mask triple written (R21, R46). -/
def Ctx.setTriple (c : Ctx) (n : Nat) (m : Mask) (s : State) : State := c.setWords n (maskWords m) s

/-- The trap of an access error of lane `lane` at address `a`. -/
def accessAct (e : AccessErr) (lane : Nat) (a : DWord) : Act :=
  match e with
  | .cause k => .trap k lane a 0
  | .hole pa => .stop (.noMemory pa)

end Sys2Proof.Machine
end

