-- ==== Sys2Proof/Machine/Fetch.lean ====
section
/-! DEFINITION. The fetch of an instruction (R83, R86, R98 steps 1 to 5, R99, R100). -/

namespace Sys2Proof.Machine

/-- What a fetch gives: the instruction, a cause, no memory, or nothing yet: the page's home cannot be reached now. -/
inductive Fetched where
  | ok (i : Instr) (s : State)
  | cause (c : Nat)
  | hole (pa : Nat)
  | far
  deriving DecidableEq, Repr

/-- The instruction cache of a core, or of its quad's sequencer (R8, R100). -/
def State.icache (s : State) (seq : Bool) (core : Nat) : Table Word :=
  if seq then (s.quad (quadOf core)).icache else (s.coreAt core).icache

/-- A word put into the instruction cache of a core, or of its quad's sequencer, whose 16 KiB then give up their first word when they
are full (R8; log entry 5). -/
def State.cacheWord (s : State) (seq : Bool) (core slot : Nat) (w : Word) : State :=
  if seq then
    let qd := s.quad (quadOf core)
    s.setQuad (quadOf core) { qd with icache := tset slot w (qd.icache.drop (qd.icache.length + 1 - Config.seqCacheWords)) }
  else s.setCore core { s.coreAt core with icache := tset slot w (s.coreAt core).icache }

/-- What a word of code held since a launch was accepted (R100); launches are numbered as they are accepted. -/
def State.wordsSince (s : State) (launch key : Nat) : List Word :=
  (s.written.filter fun x => decide (x.1 ≤ key) && decide (key < x.2.1) && decide (launch < x.2.2.1)).map fun x =>
    BitVec.ofNat 32 (x.2.2.2.read key 4)

/-- The page of an address of code is homed on a package that cannot be reached now (R250, R258; log entry 11). -/
def State.codeFar (s : State) (core v launch : Nat) (a : DWord) : Bool :=
  match s.checkPage core v launch a .exec false with
  | .ok l => !s.reaches v l.home
  | .error _ => false

/-- One word of code as a core or a sequencer fetches it for a launch: where the launch changed the word, an old or the new one
(R100). -/
def State.fetchWord (s : State) (seq : Bool) (core v launch : Nat) (a : DWord) : Except AccessErr (Word × State) :=
  if !canonical a then .error (.cause causeXLATE)
  else match s.checkPage core v launch a .exec false with
    | .error e => .error e
    | .ok l =>
      let key := s.leafKey core v l
      let now := BitVec.ofNat 32 (s.mem.read key 4)
      let slot := launch * 2 ^ 160 + key
      if s.badAt key 4 then .error (.cause causeUCE)
      else match tget slot (s.icache seq core) with
        | some w =>
          .ok (if w = now then w else if Config.freeBool s.fresh then w else now, { s with fresh := s.fresh + 1 })
        | none =>
          let olds := s.wordsSince launch key
          let w := if olds.isEmpty then now else (now :: olds).getD ((Config.freeByte s.fresh key).toNat % (olds.length + 1)) now
          .ok (w, { (s.tlbFill core v (va57 a)).cacheWord seq core slot w with fresh := s.fresh + 1 })

/-- The uncorrectable error that the fetch of an instruction at `a` consumed is gone (R246). -/
def State.fetchedBad (s : State) (core v launch : Nat) (a : DWord) : State :=
  [a, a + 4].foldl (fun s b => match s.checkPage core v launch b .exec false with
    | .ok l => let k := s.leafKey core v l; { s with bad := s.bad.filter fun x => x < k || k + 4 ≤ x }
    | .error _ => s) s

/-- The U-set majors that a sequencer may not execute (R99). -/
def seqBarred : List Nat :=
  [0x1A, 0x1B, 0x1D, 0x1E, 0x22, 0x27, 0x2F, 0x30, 0x31, 0x32, 0x33, 0x34, 0x35, 0x36, 0x37, 0x38, 0x39, 0x3A, 0x3B, 0x3C, 0x3D]

/-- Step 3 of R98 from the first word: the instruction is not allowed in its context (R99). -/
def wrongContext (seq : Bool) (w : Nat) : Bool :=
  if seq then isLset w || seqBarred.contains (majorOf w) else !isLset w && majorOf w == 0x3E

/-- The instruction at an address (R98): the first word, its own checks, the context, the trailing word, the checks of both. -/
def State.fetchInstr (s : State) (seq : Bool) (core v launch : Nat) (a : DWord) : Fetched :=
  if canonical a && s.codeFar core v launch a then .far
  else match s.fetchWord seq core v launch a with
  | .error (.cause c) => .cause c
  | .error (.hole pa) => .hole pa
  | .ok (w, s1) =>
    if (step2 w.toNat).isSome then .cause causeILLEGAL
    else if wrongContext seq w.toNat then .cause causeSEQCTX
    else if hasTrailing w.toNat then
      if canonical (a + 4) && s1.codeFar core v launch (a + 4) then .far
      else match s1.fetchWord seq core v launch (a + 4) with
      | .error (.cause c) => .cause c
      | .error (.hole pa) => .hole pa
      | .ok (x, s2) => match decodeWords w.toNat x.toNat with
        | .ok i => .ok i s2
        | .error _ => .cause causeILLEGAL
    else match decodeWords w.toNat 0 with
      | .ok i => .ok i s1
      | .error _ => .cause causeILLEGAL

end Sys2Proof.Machine
end

