-- ==== Sys2Proof/Machine/Special.lean ====
section
/-! DEFINITION. The special functions of R108: the exact results, and elsewhere the device's own bits (a free value of the
operand) wherever they keep the bound, else a result that keeps it. Log entry 8. -/

namespace Sys2Proof.Machine

/-- The whole square root, bit by bit from bit `b` − 1 down. -/
def isqrtFrom (n : Nat) : Nat → Nat → Nat
  | 0, r => r
  | b + 1, r => isqrtFrom n b (if (r + 2 ^ b) * (r + 2 ^ b) ≤ n then r + 2 ^ b else r)

/-- The whole square root of a number below 2^256. -/
def isqrt (n : Nat) : Nat := isqrtFrom n 128 0

/-- A value is a power of two: its exponent. -/
def powerOf (m : Nat) (e : Int) : Option Int := if m = 2 ^ Nat.log2 m then some (Nat.log2 m + e) else none

/-- 2^k with a sign as FP32. -/
def pow2F32 (neg : Bool) (k : Int) : Word := roundRne (.fin neg 1 k)

/-- The exact results of the table of R108. -/
def specialExact (f : Config.SpecialFn) (x : ExactVal) : Option Word :=
  match f, x with
  | _, .nan => some canonNan
  | .rcp, .inf n => some (roundRne (.fin n 0 0))
  | .rcp, .fin n m e =>
    if m = 0 then some (roundRne (.inf n))
    else match powerOf m e with
      | some k => if -127 ≤ k then some (pow2F32 n (-k)) else none
      | none => none
  | .rsq, .inf n => some (if n then canonNan else 0)
  | .rsq, .fin n m e =>
    if m = 0 then some (roundRne (.inf n)) else if n then some canonNan
    else match powerOf m e with
      | some k => if k % 2 = 0 then some (pow2F32 false (-(k / 2))) else none
      | none => none
  | .ex2, .inf n => some (if n then 0 else roundRne (.inf false))
  | .ex2, .fin n m e =>
    if m = 0 then some (pow2F32 false 0)
    else if !n ∧ (8 < e ∨ 128 ≤ m * pow2 e / pow2 (-e)) then some (roundRne (.inf false))
    else if n ∧ (8 < e ∨ 150 * pow2 (-e) ≤ m * pow2 e) then some 0
    else if 0 ≤ e ∨ m % pow2 (-e) = 0 then some (pow2F32 false (floorInt n m e))
    else none
  | .lg2, .inf n => some (if n then canonNan else roundRne (.inf false))
  | .lg2, .fin n m e =>
    if m = 0 then some (roundRne (.inf true)) else if n then some canonNan
    else (powerOf m e).map fun k => roundRne (ExactVal.ofInt k)

/-- 2^(f / 2^80) × 2^80 from below, bit by bit of `f` from bit `b` − 1 down; `root` is 2^(2^-(80-b)) × 2^80 from below. -/
def exp2From (f : Nat) : Nat → Nat → Nat → Nat
  | 0, _, acc => acc
  | b + 1, root, acc =>
    let root := isqrt (root * 2 ^ 80)
    exp2From f b root (if f / 2 ^ b % 2 = 1 then acc * root / 2 ^ 80 else acc)

/-- The first `b` bits of the logarithm to base 2 of z / 2^240, 1 ≤ z / 2^240 < 2, after the bits `acc`. -/
def log2From : Nat → Nat → Nat → Nat
  | 0, _, acc => acc
  | b + 1, z, acc =>
    let z := z * z / 2 ^ 240
    if 2 ^ 241 ≤ z then log2From b (z / 2) (2 * acc + 1) else log2From b z (2 * acc)

/-- Two values close together, the true result lying between them, for an operand outside the exact results. -/
def specialRange (f : Config.SpecialFn) (neg : Bool) (m : Nat) (e : Int) : ExactVal × ExactVal :=
  match f with
  | .rcp => let q := 2 ^ 160 / m; (.fin neg q (-160 - e), .fin neg (q + 1) (-160 - e))
  | .rsq =>
    let (m, e) := if e % 2 = 0 then (m, e) else (2 * m, e - 1)
    let q := isqrt (2 ^ 200 / m)
    (.fin false q (-100 - e / 2), .fin false (q + 1) (-100 - e / 2))
  | .ex2 =>
    if (Nat.log2 m : Int) + e < -40 then
      (if neg then (.fin false (2 ^ 40 - 1) (-40), .fin false 1 0) else (.fin false 1 0, .fin false (2 ^ 40 + 1) (-40)))
    else
    let i := floorInt neg m e
    let d := ExactVal.add false (.fin neg m e) (ExactVal.ofInt (-i))
    let f := match d with | .fin _ n g => roundAt (-80) .rz false n g | _ => 0
    let l := exp2From f 80 (2 ^ 81) (2 ^ 80)
    (.fin false l (i - 80), .fin false (l + 1024) (i - 80))
  | .lg2 =>
    let k := Nat.log2 m
    let t : Int := log2From 110 (m * 2 ^ 240 / 2 ^ k) 0
    let v := (k + e) * 2 ^ 110 + t
    (.fin (v < 0) v.natAbs (-110), .fin (v + 32 < 0) (v + 32).natAbs (-110))

/-- The exponent of the unit in the last place of FP32 at a value (R108). -/
def ulpExp : ExactVal → Int
  | .fin _ m e => if m = 0 then -149 else unitExp 24 (-149) m e
  | _ => 104

/-- An infinity read as the first value beyond the format's range. -/
def beyond : ExactVal → ExactVal
  | .inf n => .fin n 1 128
  | x => x

/-- A result keeps the bound of R108 for every value between `lo` and `hi`. Where the true result and the returned one lie in two
binades, the bound is measured in the larger unit (DESIGN CHOICE, log entry 65: R108 does not say at which value). -/
def withinBound (f : Config.SpecialFn) (x : ExactVal) (lo hi : ExactVal) (r : Word) : Bool :=
  let v := beyond (ofF32 r)
  let u := max (ulpExp v) (min (ulpExp lo) (ulpExp hi))
  let near : Bool := !x.lt (.fin false 1 (-1)) && !(ExactVal.fin false 2 0).lt x
  let tol : ExactVal := match f with
    | .rcp | .rsq => .fin false 1 u
    | .ex2 => .fin false 2 u
    | .lg2 => if near then .fin false 1 (-22) else .fin false 2 u
  let (a, b) := if lo.lt hi then (lo, hi) else (hi, lo)
  !v.isNan && !a.lt (v.add false tol.neg) && !(v.add false tol).lt b

/-- A special function of an operand already flushed (R108). -/
def special (f : Config.SpecialFn) (x : Word) : Word :=
  match specialExact f (ofF32 x), ofF32 x with
  | some w, _ => w
  | none, .fin neg m e =>
    let (lo, hi) := specialRange f neg m e
    if withinBound f (ofF32 x) lo hi (Config.specialBits f x) then Config.specialBits f x else roundRne lo
  | none, _ => canonNan

end Sys2Proof.Machine
end

