-- ==== Sys2Proof/Machine/VectorInt.lean ====
section
/-! DEFINITION. The L-set integer family (R363, R391), moves, selects and tags. -/

namespace Sys2Proof

/-- Bits of an element (R102). -/
def ElemTy.width : ElemTy → Nat
  | .i32 | .n32 => 32
  | .i16x2 => 16
  | .i8x4 => 8

end Sys2Proof

namespace Sys2Proof.Machine

/-- Element j of width w of a lane (R102). -/
def elem (w j : Nat) (x : Word) : Nat := x.toNat / 2 ^ (w * j) % 2 ^ w

/-- The lane whose element j is `f j` modulo 2^w. -/
def ofElems (w : Nat) (f : Nat → Nat) : Word :=
  BitVec.ofNat 32 ((List.range (32 / w)).foldl (fun n j => n + f j % 2 ^ w * 2 ^ (w * j)) 0)

/-- A function of elements applied to each element; none carries into another (R363). -/
def mapElems (w : Nat) (f : Nat → Nat → Nat → Nat) (a b d : Word) : Word := ofElems w fun j => f (elem w j a) (elem w j b) (elem w j d)

/-- The element type reads its elements as signed (R102, R391). -/
def signedElems (t : ElemTy) (nat : Bool) : Bool := t != .n32 && !nat

/-- The integer that an element stands for. -/
def elemInt (signed : Bool) (w n : Nat) : Int := if signed then sInt w n else n

/-- The smaller or larger element (R391). -/
def elemPick (signed max : Bool) (w a b : Nat) : Nat :=
  if decide (elemInt signed w a < elemInt signed w b) != max then a else b

/-- The count of a shift: the low log2 w bits (R103). -/
def shiftCount (w b : Nat) : Nat := b % w

/-- Arithmetic right shift of a w-bit element. -/
def sarElem (w a c : Nat) : Nat := (sInt w a / 2 ^ c % 2 ^ w).toNat

/-- Leading zero bits of a w-bit value (R372). -/
def clz (w a : Nat) : Nat := if a = 0 then w else w - 1 - Nat.log2 a

/-- Set bits of a w-bit value (R399). -/
def popc : Nat → Nat → Nat
  | 0, _ => 0
  | w + 1, a => a % 2 + popc w (a / 2)

/-- The mould of R363: an operation on the lanes of two sources, and of vd where it is a source too. -/
def vecBin (o : VBin) (vdSource : Bool) (shaped : VReg → VReg → Option VReg) (f : Word → Word → Word → Word) (c : Ctx) (s : State) : Act :=
  let a := c.src s o.a
  let b := c.src s o.b
  let d := c.g.v o.vd.toNat
  c.writeV [(o.vd.toNat, packReg c.mask d (allUniform (if vdSource then [a, b, d] else [a, b])) (shaped a b)
    fun n => f (a.lane n) (b.lane n) (d.lane n))] s

/-- The same mould for unary members. -/
def vecUn (o : VUn) (shaped : VReg → Option VReg) (f : Word → Word) (c : Ctx) (s : State) : Act :=
  let a := c.src s o.a
  c.writeV [(o.vd.toNat, packReg c.mask (c.g.v o.vd.toNat) (allUniform [a]) (shaped a) fun n => f (a.lane n))] s

/-- No affine row applies (R73). -/
def noShape (_ _ : VReg) : Option VReg := none

/-- An affine row that holds for the 32-bit types only (R73). -/
def wideShape (t : ElemTy) (f : VReg → VReg → Option VReg) (a b : VReg) : Option VReg := if t.width = 32 then f a b else none

/-- VADD (R365). -/
def execVadd (t : ElemTy) (o : VBin) (s : State) : Host.Outcome State Fault Refusal :=
  issue (.vadd t o) s (vecBin o false (wideShape t (shapeAdd false)) (mapElems t.width fun a b _ => a + b))

/-- VSUB (R410). -/
def execVsub (t : ElemTy) (o : VBin) (s : State) : Host.Outcome State Fault Refusal :=
  issue (.vsub t o) s (vecBin o false (wideShape t (shapeAdd true)) (mapElems t.width fun a b _ => a + 2 ^ t.width - b))

/-- VMUL (R395). -/
def execVmul (t : ElemTy) (o : VBin) (s : State) : Host.Outcome State Fault Refusal :=
  issue (.vmul t o) s (vecBin o false (wideShape t shapeMul) (mapElems t.width fun a b _ => a * b))

/-- VMULH: the high half of the product (R396). -/
def execVmulh (natural : Bool) (o : VBin) (s : State) : Host.Outcome State Fault Refusal :=
  issue (.vmulh natural o) s (vecBin o false noShape fun a b _ =>
    if natural then BitVec.ofNat 32 (a.toNat * b.toNat / 2 ^ 32) else BitVec.ofInt 32 (a.toInt * b.toInt / 2 ^ 32))

/-- VMAD (R390). -/
def execVmad (t : ElemTy) (o : VBin) (s : State) : Host.Outcome State Fault Refusal :=
  issue (.vmad t o) s (vecBin o true noShape (mapElems t.width fun a b d => a * b + d))

/-- VMIN (R391, R393). -/
def execVmin (t : ElemTy) (nat : Bool) (o : VBin) (s : State) : Host.Outcome State Fault Refusal :=
  issue (.vmin t nat o) s (vecBin o false noShape (mapElems t.width fun a b _ => elemPick (signedElems t nat) false t.width a b))

/-- VMAX (R391, R392). -/
def execVmax (t : ElemTy) (nat : Bool) (o : VBin) (s : State) : Host.Outcome State Fault Refusal :=
  issue (.vmax t nat o) s (vecBin o false noShape (mapElems t.width fun a b _ => elemPick (signedElems t nat) true t.width a b))

/-- VABS: the magnitude modulo 2^w (R364). -/
def execVabs (t : ElemTy) (o : VUn) (s : State) : Host.Outcome State Fault Refusal :=
  issue (.vabs t o) s (vecUn o (fun _ => none) fun a => mapElems t.width (fun x _ _ => (sInt t.width x).natAbs) a 0 0)

/-- VAND (R366). -/
def execVand (o : VBin) (s : State) : Host.Outcome State Fault Refusal :=
  issue (.vand o) s (vecBin o false noShape fun a b _ => a &&& b)

/-- VOR (R397). -/
def execVor (o : VBin) (s : State) : Host.Outcome State Fault Refusal :=
  issue (.vor o) s (vecBin o false noShape fun a b _ => a ||| b)

/-- VXOR (R414). -/
def execVxor (o : VBin) (s : State) : Host.Outcome State Fault Refusal :=
  issue (.vxor o) s (vecBin o false noShape fun a b _ => a ^^^ b)

/-- VSHL (R406). -/
def execVshl (t : ElemTy) (o : VBin) (s : State) : Host.Outcome State Fault Refusal :=
  issue (.vshl t o) s (vecBin o false (wideShape t shapeShl) (mapElems t.width fun a b _ => a * 2 ^ shiftCount t.width b))

/-- VSHR (R407). -/
def execVshr (t : ElemTy) (o : VBin) (s : State) : Host.Outcome State Fault Refusal :=
  issue (.vshr t o) s (vecBin o false noShape (mapElems t.width fun a b _ => a / 2 ^ shiftCount t.width b))

/-- VSAR (R402). -/
def execVsar (t : ElemTy) (o : VBin) (s : State) : Host.Outcome State Fault Refusal :=
  issue (.vsar t o) s (vecBin o false noShape (mapElems t.width fun a b _ => sarElem t.width a (shiftCount t.width b)))

/-- VCLZ (R372). -/
def execVclz (t : ElemTy) (o : VUn) (s : State) : Host.Outcome State Fault Refusal :=
  issue (.vclz t o) s (vecUn o (fun _ => none) fun a => mapElems t.width (fun x _ _ => clz t.width x) a 0 0)

/-- VPOPC (R399). -/
def execVpopc (t : ElemTy) (o : VUn) (s : State) : Host.Outcome State Fault Refusal :=
  issue (.vpopc t o) s (vecUn o (fun _ => none) fun a => mapElems t.width (fun x _ _ => popc t.width x) a 0 0)

/-- The field of width w at p of a word; bits above 31 read as zero (R328, R370). -/
def extractField (sx : Bool) (x b : Word) : Word :=
  let p := b.toNat % 32
  let w := b.toNat / 256 % 32 + 1
  let f := x.toNat / 2 ^ p % 2 ^ w
  if sx then BitVec.ofInt 32 (sInt w f) else BitVec.ofNat 32 f

/-- VBFX (R370). -/
def execVbfx (sx : Bool) (o : VBin) (s : State) : Host.Outcome State Fault Refusal :=
  issue (.vbfx sx o) s (vecBin o false noShape fun a b _ => extractField sx a b)

/-- The low w bits of x placed at p in v; bits above 31 are not written (R369). -/
def insertField (x b v : Word) : Word :=
  let p := b.toNat % 32
  let w := b.toNat / 256 % 32 + 1
  let m : Word := BitVec.ofNat 32 ((2 ^ w - 1) * 2 ^ p)
  (v &&& ~~~m) ||| (BitVec.ofNat 32 (x.toNat * 2 ^ p) &&& m)

/-- VBFI (R369). -/
def execVbfi (o : VBin) (s : State) : Host.Outcome State Fault Refusal :=
  issue (.vbfi o) s (vecBin o true noShape fun a b d => insertField a b d)

/-- A condition holds for every element of two lanes (R373). -/
def allElems (w : Nat) (p : Nat → Nat → Bool) (a b : Word) : Bool := (List.range (32 / w)).all fun j => p (elem w j a) (elem w j b)

/-- VCMP: the mask of the active lanes whose elements all meet the condition (R373). -/
def execVcmp (k : Cond) (t : ElemTy) (nat : Bool) (o : VBin) (s : State) : Host.Outcome State Fault Refusal :=
  issue (.vcmp k t nat o) s fun c s =>
    let a := c.src s o.a
    let b := c.src s o.b
    let e := elemInt (signedElems t nat) t.width
    .done (c.setTriple o.vd.toNat (maskWhere fun n =>
      laneOn c.mask n && allElems t.width (fun x y => k.holds (e x) (e y)) (a.lane n) (b.lane n)) s)

/-- VSEL: by the bits of a triple; always general (R404). -/
def execVsel (mask : Reg) (o : VBin) (s : State) : Host.Outcome State Fault Refusal :=
  issue (.vsel mask o) s fun c s =>
    let m := maskOf (c.s mask.toNat) (c.s (mask.toNat + 1)) (c.s (mask.toNat + 2))
    let a := c.src s o.a
    let b := c.src s o.b
    c.writeV [(o.vd.toNat, packGeneral c.mask (c.g.v o.vd.toNat) fun n => if laneOn m n then a.lane n else b.lane n)] s

/-- VMOV: bits and tag of the source (R394). -/
def execVmov (o : VUn) (s : State) : Host.Outcome State Fault Refusal :=
  issue (.vmov o) s (vecUn o (fun a => some a) fun a => a)

/-- VBCAST (R368). -/
def execVbcast (keepA keepB : Bool) (vd sa : Reg) (s : State) : Host.Outcome State Fault Refusal :=
  issue (.vbcast keepA keepB vd sa) s fun c s =>
    let x := c.s sa.toNat
    c.writeV [(vd.toNat, packReg c.mask (c.g.v vd.toNat) true none fun _ => x)] s

/-- VTAG: the tag read, or a rewrite of all 96 lanes (R74, R411). -/
def execVtag (f : TagFn) (o : VUn) (s : State) : Host.Outcome State Fault Refusal :=
  issue (.vtag f o) s fun c s =>
    let a := c.src s o.a
    match f with
    | .read => .done (c.setS o.vd.toNat (BitVec.ofNat 32 a.tag) s)
    | .toU => c.writeV [(o.vd.toNat, retag 0 a)] s
    | .toA => c.writeV [(o.vd.toNat, retag 1 a)] s
    | .toG => c.writeV [(o.vd.toNat, retag 2 a)] s

end Sys2Proof.Machine
end

