-- ==== Sys2Proof/Machine/VectorFloat.lean ====
section
/-! DEFINITION. The L-set float family and the conversions (R373-R386, R398, R412). -/

namespace Sys2Proof.Machine

/-- GMODE.FTZ of the issuer (R106). -/
def Ctx.ftz (c : Ctx) : Bool := c.g.gmode.getLsbD 0

/-- The mould of R375: sources flushed, the result flushed (R106). -/
def floatBin (o : VBin) (vdSource : Bool) (f : Word → Word → Word → Word) (c : Ctx) (s : State) : Act :=
  let z := flush c.ftz
  vecBin o vdSource noShape (fun a b d => z (f (z a) (z b) (z d))) c s

/-- A NaN written by a float operation is canonical (R107). -/
def canonF (w : Word) : Word := if (ofF32 w).isNan then canonNan else w

/-- VFADD (R376). -/
def execVfadd (o : VBin) (s : State) : Host.Outcome State Fault Refusal := issue (.vfadd o) s (floatBin o false fun a b _ => fAdd a b)

/-- VFSUB (R386). -/
def execVfsub (o : VBin) (s : State) : Host.Outcome State Fault Refusal := issue (.vfsub o) s (floatBin o false fun a b _ => fSub a b)

/-- VFMUL (R383). -/
def execVfmul (o : VBin) (s : State) : Host.Outcome State Fault Refusal := issue (.vfmul o) s (floatBin o false fun a b _ => fMul a b)

/-- VFMA (R380). -/
def execVfma (p : SignPat) (o : VBin) (s : State) : Host.Outcome State Fault Refusal :=
  issue (.vfma p o) s (floatBin o true fun a b d => fFma p a b d)

/-- VFMIN (R382). -/
def execVfmin (o : VBin) (s : State) : Host.Outcome State Fault Refusal := issue (.vfmin o) s (floatBin o false fun a b _ => fMin a b)

/-- VFMAX (R381). -/
def execVfmax (o : VBin) (s : State) : Host.Outcome State Fault Refusal := issue (.vfmax o) s (floatBin o false fun a b _ => fMax a b)

/-- VFCMP (R377). -/
def execVfcmp (k : FCond) (o : VBin) (s : State) : Host.Outcome State Fault Refusal :=
  issue (.vfcmp k o) s fun c s =>
    let a := c.src s o.a
    let b := c.src s o.b
    .done (c.setTriple o.vd.toNat (maskWhere fun n =>
      laneOn c.mask n && k.holds (ofF32 (flush c.ftz (a.lane n))) (ofF32 (flush c.ftz (b.lane n)))) s)

/-- The mould of the special functions (R108, R375). -/
def floatUn (o : VUn) (f : Word → Word) (c : Ctx) (s : State) : Act :=
  vecUn o (fun _ => none) (fun a => flush c.ftz (f (flush c.ftz a))) c s

/-- VFRCP (R384). -/
def execVfrcp (o : VUn) (s : State) : Host.Outcome State Fault Refusal := issue (.vfrcp o) s (floatUn o (special .rcp))

/-- VFRSQ (R385). -/
def execVfrsq (o : VUn) (s : State) : Host.Outcome State Fault Refusal := issue (.vfrsq o) s (floatUn o (special .rsq))

/-- VFEX2 (R378). -/
def execVfex2 (o : VUn) (s : State) : Host.Outcome State Fault Refusal := issue (.vfex2 o) s (floatUn o (special .ex2))

/-- VFLG2 (R379). -/
def execVflg2 (o : VUn) (s : State) : Host.Outcome State Fault Refusal := issue (.vflg2 o) s (floatUn o (special .lg2))

/-- An element of a lane read as a format; FP32 is flushed under FTZ (R106, R374). -/
def readFmt (ftz : Bool) (f : Fmt) (e : Nat) (x : Word) : ExactVal :=
  if f = .f32 then ofF32 (flush ftz x) else ofFmt f (elem (Fmt.width f) e x)

/-- A result in a format; FP32 is flushed under FTZ (R106, R374). -/
def writeFmt (ftz : Bool) (f : Fmt) (rm : Rm) (nosat : Bool) (x : ExactVal) : Nat :=
  if f = .f32 then (flush ftz (toF32 rm x)).toNat else packFmt f rm nosat x

/-- A lane with element e of width w replaced (R114). -/
def putElem (w e : Nat) (v : Nat) (x : Word) : Word :=
  let m : Word := BitVec.ofNat 32 ((2 ^ w - 1) * 2 ^ (w * e))
  (x &&& ~~~m) ||| (BitVec.ofNat 32 (v * 2 ^ (w * e)) &&& m)

/-- VCVT (R114, R115, R374). -/
def execVcvt (e : BitVec 2) (scl nosat : Bool) (rm : Rm) (dst src : Fmt) (o : VBin) (s : State) : Host.Outcome State Fault Refusal :=
  issue (.vcvt e scl nosat rm dst src o) s fun c s =>
    vecBin o (!Fmt.isWide dst) noShape (fun a b d =>
      let x := readFmt c.ftz src (if Fmt.isWide src then 0 else e.toNat) a
      let x := if scl then x.mul (ofF32 (flush c.ftz b)) else x
      let y := writeFmt c.ftz dst rm nosat x
      if Fmt.isWide dst then BitVec.ofNat 32 y else putElem (Fmt.width dst) e.toNat y d) c s

/-- VPACK: two values become elements 0 and 1, older elements move up (R398). -/
def execVpack (nosat : Bool) (rm : Rm) (dst : Fmt) (o : VBin) (s : State) : Host.Outcome State Fault Refusal :=
  issue (.vpack nosat rm dst o) s fun c s =>
    let w := Fmt.width dst
    let src : Fmt := match dst with | .i16 | .i8 | .n16 | .n8 => .i32 | _ => .f32
    vecBin o true noShape (fun a b d =>
      let y (x : Word) := packFmt dst rm nosat (readFmt c.ftz src 0 x)
      putElem w 1 (y b) (putElem w 0 (y a) (BitVec.ofNat 32 (d.toNat * 2 ^ (2 * w))))) c s

/-- VUNPK: one element widened exactly (R412). -/
def execVunpk (part : BitVec 2) (src : Fmt) (o : VUn) (s : State) : Host.Outcome State Fault Refusal :=
  issue (.vunpk part src o) s fun c s =>
    let dst : Fmt := match src with | .i16 | .i8 => .i32 | .n16 | .n8 => .n32 | _ => .f32
    vecUn o (fun _ => none) (fun a => BitVec.ofNat 32 (writeFmt c.ftz dst .rn false (readFmt c.ftz src part.toNat a))) c s

end Sys2Proof.Machine
end

