-- ==== Sys2Proof/Machine/Scalar.lean ====
section
/-! DEFINITION. The U-set integer and float family (R323-R353); it acts whatever the mask. -/

namespace Sys2Proof.Machine

/-- The mould of R323: a 32-bit and a 64-bit function of a and b. -/
def scalarOp (o : SOp) (f : Word → Word → Word) (f64 : DWord → DWord → DWord) (c : Ctx) (s : State) : Act :=
  if o.w64 then .done (c.setPair o.sd.toNat (f64 (c.pair o.sa.toNat) (c.b64 o.b)) s)
  else .done (c.setS o.sd.toNat (f (c.s o.sa.toNat) (c.b o.b)) s)

/-- SADD (R324). -/
def execSadd (o : SOp) (s : State) : Host.Outcome State Fault Refusal := issue (.sadd o) s (scalarOp o (· + ·) (· + ·))
/-- SSUB (R356). -/
def execSsub (o : SOp) (s : State) : Host.Outcome State Fault Refusal := issue (.ssub o) s (scalarOp o (· - ·) (· - ·))
/-- SMUL (R342). -/
def execSmul (o : SOp) (s : State) : Host.Outcome State Fault Refusal := issue (.smul o) s (scalarOp o (· * ·) (· * ·))

/-- The high half of a product of w-bit values (R103). -/
def mulHigh (natural : Bool) (a b : BitVec w) : BitVec w :=
  if natural then BitVec.ofNat w (a.toNat * b.toNat / 2 ^ w) else BitVec.ofInt w (a.toInt * b.toInt / 2 ^ w)

/-- SMULH (R343). -/
def execSmulh (natural : Bool) (o : SOp) (s : State) : Host.Outcome State Fault Refusal :=
  issue (.smulh natural o) s (scalarOp o (mulHigh natural) (mulHigh natural))

/-- SAND (R325). -/
def execSand (o : SOp) (s : State) : Host.Outcome State Fault Refusal := issue (.sand o) s (scalarOp o (· &&& ·) (· &&& ·))
/-- SOR (R344). -/
def execSor (o : SOp) (s : State) : Host.Outcome State Fault Refusal := issue (.sor o) s (scalarOp o (· ||| ·) (· ||| ·))
/-- SXOR (R358). -/
def execSxor (o : SOp) (s : State) : Host.Outcome State Fault Refusal := issue (.sxor o) s (scalarOp o (· ^^^ ·) (· ^^^ ·))

/-- SSHL (R352). -/
def execSshl (o : SOp) (s : State) : Host.Outcome State Fault Refusal :=
  issue (.sshl o) s (scalarOp o (fun a b => a <<< (b.toNat % 32)) (fun a b => a <<< (b.toNat % 64)))
/-- SSHR (R353). -/
def execSshr (o : SOp) (s : State) : Host.Outcome State Fault Refusal :=
  issue (.sshr o) s (scalarOp o (fun a b => a >>> (b.toNat % 32)) (fun a b => a >>> (b.toNat % 64)))
/-- SSAR (R348). -/
def execSsar (o : SOp) (s : State) : Host.Outcome State Fault Refusal :=
  issue (.ssar o) s (scalarOp o (fun a b => a.sshiftRight (b.toNat % 32)) (fun a b => a.sshiftRight (b.toNat % 64)))

/-- a is below b, signed or natural (R323). -/
def below (natural : Bool) (a b : BitVec w) : Bool := if natural then a.ult b else a.slt b

/-- SMIN (R339). -/
def execSmin (natural : Bool) (o : SOp) (s : State) : Host.Outcome State Fault Refusal :=
  issue (.smin natural o) s (scalarOp o (fun a b => if below natural b a then b else a) (fun a b => if below natural b a then b else a))
/-- SMAX (R338). -/
def execSmax (natural : Bool) (o : SOp) (s : State) : Host.Outcome State Fault Refusal :=
  issue (.smax natural o) s (scalarOp o (fun a b => if below natural a b then b else a) (fun a b => if below natural a b then b else a))

/-- SCMP (R330). -/
def execScmp (k : SCond) (sd sa : Reg) (b : SSrc) (s : State) : Host.Outcome State Fault Refusal :=
  issue (.scmp k sd sa b) s fun c s => .done (c.setS sd.toNat (if k.holds (c.s sa.toNat) (c.b b) then 1 else 0) s)

/-- SSEL: sd is the condition, read before it is written (R351). -/
def execSsel (o : SOp) (s : State) : Host.Outcome State Fault Refusal :=
  issue (.ssel o) s fun c s =>
    scalarOp o (fun a b => if c.s o.sd.toNat ≠ 0 then a else b) (fun a b => if c.pair o.sd.toNat ≠ 0 then a else b) c s

/-- SMOV (R340). -/
def execSmov (w64 : Bool) (sd : Reg) (b : SSrc) (s : State) : Host.Outcome State Fault Refusal :=
  issue (.smov w64 sd b) s fun c s =>
    if w64 then .done (c.setPair sd.toNat (c.b64 b) s) else .done (c.setS sd.toNat (c.b b) s)

/-- SMOVI (R341). -/
def execSmovi (sd : Reg) (imm : BitVec 18) (s : State) : Host.Outcome State Fault Refusal :=
  issue (.smovi sd imm) s fun c s => .done (c.setS sd.toNat (imm.signExtend 32) s)

/-- A count of the bits of a word, or of a pair into the pair (R323, R329, R346; log entry 9). -/
def scalarCount (w64 : Bool) (sd sa : Reg) (f : Nat → Nat → Nat) (c : Ctx) (s : State) : Act :=
  if w64 then .done (c.setPair sd.toNat (BitVec.ofNat 64 (f 64 (c.pair sa.toNat).toNat)) s)
  else .done (c.setS sd.toNat (BitVec.ofNat 32 (f 32 (c.s sa.toNat).toNat)) s)

/-- SCLZ (R329). -/
def execSclz (w64 : Bool) (sd sa : Reg) (s : State) : Host.Outcome State Fault Refusal := issue (.sclz w64 sd sa) s (scalarCount w64 sd sa clz)
/-- SPOPC (R346). -/
def execSpopc (w64 : Bool) (sd sa : Reg) (s : State) : Host.Outcome State Fault Refusal := issue (.spopc w64 sd sa) s (scalarCount w64 sd sa popc)

/-- SBFX (R328). -/
def execSbfx (sx : Bool) (sd sa : Reg) (b : SSrc) (s : State) : Host.Outcome State Fault Refusal :=
  issue (.sbfx sx sd sa b) s fun c s => .done (c.setS sd.toNat (extractField sx (c.s sa.toNat) (c.b b)) s)

/-- The mould of R331: sources and result flushed under FTZ. -/
def scalarFloat (sd sa : Reg) (b : SSrc) (f : Word → Word → Word → Word) (c : Ctx) (s : State) : Act :=
  let z := flush c.ftz
  .done (c.setS sd.toNat (z (f (z (c.s sa.toNat)) (z (c.b b)) (z (c.s sd.toNat)))) s)

/-- SFADD (R332). -/
def execSfadd (sd sa : Reg) (b : SSrc) (s : State) : Host.Outcome State Fault Refusal :=
  issue (.sfadd sd sa b) s (scalarFloat sd sa b fun x y _ => fAdd x y)
/-- SFMUL (R334). -/
def execSfmul (sd sa : Reg) (b : SSrc) (s : State) : Host.Outcome State Fault Refusal :=
  issue (.sfmul sd sa b) s (scalarFloat sd sa b fun x y _ => fMul x y)
/-- SFMA (R333). -/
def execSfma (p : SignPat) (sd sa : Reg) (b : SSrc) (s : State) : Host.Outcome State Fault Refusal :=
  issue (.sfma p sd sa b) s (scalarFloat sd sa b (fFma p))

end Sys2Proof.Machine
end

