-- ==== Sys2Proof/Machine/Memory.lean ====
section
/-! DEFINITION. Loads, stores, atomics, reservations and fences (R129-R131, R142-R145, R154, R156, R326, R367, R387), with
watchpoints (R240), uncorrectable errors (R246) and remote operations (R250-R252). -/

namespace Sys2Proof

/-- Bytes of a vector access (R387). -/
def Width.bytes : Width → Nat
  | .w8 => 1 | .w16 => 2 | .w32 => 4 | .w64 => 8

/-- The ordering includes a release. -/
def Ord4.isRel : Ord4 → Bool
  | .rel | .acqrel => true
  | _ => false

/-- The ordering includes an acquire. -/
def Ord4.isAcq : Ord4 → Bool
  | .acq | .acqrel => true
  | _ => false

end Sys2Proof

namespace Sys2Proof.Machine

/-- One access that passed the checks of R127: lane (127 for a U-set instruction), address, key in its memory, physical
address, home package, and whether it is remote (R250). -/
structure LaneAt where
  lane : Nat
  a : DWord
  key : Nat
  pa : Nat
  home : Nat
  remote : Bool
  deriving DecidableEq, Repr

/-- The checks of R127 on one access. -/
def laneCheck (s : State) (g : Group) (scratch : Bool) (size : Nat) (need : Need) (p : Nat × DWord) : Except AccessErr LaneAt :=
  if scratch then
    match s.checkScratch g.block g.core g.vf p.2 size with
    | .ok k => .ok ⟨p.1, p.2, k, 0, pkgOf g.vf, false⟩
    | .error e => .error e
  else
    match s.checkGlobal g.core g.vf g.launch p.2 size need with
    | .ok l => .ok ⟨p.1, p.2, s.leafKey g.core g.vf l, l.pa, l.home, l.home != pkgOf g.vf⟩
    | .error e => .error e

/-- The checks over all lanes: the lowest faulting lane decides, and no lane accesses memory (R127). -/
def laneChecks (s : State) (g : Group) (scratch : Bool) (size : Nat) (need : Need) : List (Nat × DWord) → Except Act (List LaneAt)
  | [] => .ok []
  | p :: ps =>
    match laneCheck s g scratch size need p with
    | .error e => .error (accessAct e p.1 p.2)
    | .ok x => match laneChecks s g scratch size need ps with
      | .error e => .error e
      | .ok xs => .ok (x :: xs)

/-- The lowest watchpoint that an access of a group fires (R240). -/
def watchHit (d : Debug) (rd wr : Bool) (size : Nat) (a : DWord) : Option Nat :=
  (List.range 4).find? fun k =>
    let kind := bitField d.ctl.toNat (9 + 2 * k) (8 + 2 * k)
    let len := 2 ^ ((d.wpl.getD k 0).toNat % 16)
    let base := (d.wpa.getD k 0).toNat / len * len
    ((rd && kind % 2 == 1) || (wr && kind / 2 == 1)) && overlap a.toNat size base len

/-- The trap of the lowest lane that fires a watchpoint; none in trap mode or in a sequencer (R234, R240). -/
def watchAct (c : Ctx) (rd wr : Bool) (size : Nat) (xs : List LaneAt) : Option Act :=
  if c.seq || c.g.trap.isSome then none
  else xs.findSome? fun x => (watchHit c.g.dbg rd wr size x.a).map fun k => .trap causeWATCH x.lane x.a (BitVec.ofNat 32 k)

/-- An uncorrectable error that an access consumes kills its issuer with UCE (R246). -/
def uceAct (c : Ctx) (s : State) (size : Nat) (scratch : Bool) (xs : List LaneAt) : Option Act :=
  if scratch then none
  else (xs.find? fun x => !x.remote && s.badAt x.key size).map fun x =>
    let s := { s with bad := s.bad.filter fun b => b < x.key || x.key + size ≤ b }
    .away (match c.who with
      | .group gid _ => s.kill gid causeUCE c.pc
      | .seq q => s.killProg q causeUCE c.pc
      | .none => s)

/-- The TLB after the accesses (R126). -/
def fillTlb (s : State) (g : Group) (scratch : Bool) (xs : List LaneAt) : State :=
  if scratch then s else xs.foldl (fun s x => s.tlbFill g.core g.vf (va57 x.a)) s

/-- Registers with a write pending (R78); a sequencer's loads complete at once. -/
def Ctx.markBusy (c : Ctx) (rs : List RegRef) (s : State) : State :=
  match c.who with
  | .group gid _ => s.modGroup gid fun g => { g with busy := g.busy ++ rs }
  | _ => s

/-- One access's value read from its memory. -/
def readAt (s : State) (scratch : Bool) (size : Nat) (x : LaneAt) : Nat :=
  if scratch then s.readScratch x.key size else s.mem.read x.key size

/-- One access's value written to its memory (R144). -/
def writeAt (s : State) (scratch : Bool) (size : Nat) (x : LaneAt) (v : Nat) : State :=
  if scratch then s.writeScratch x.key size v else s.storeMem x.key (leBytes size v)

/-- A loaded value extended into a lane (R388). -/
def extendLoad (w : Width) (sx : Bool) (v : Nat) : Word :=
  match w with
  | .w8 => if sx then BitVec.ofInt 32 (sInt 8 v) else BitVec.ofNat 32 v
  | .w16 => if sx then BitVec.ofInt 32 (sInt 16 v) else BitVec.ofNat 32 v
  | _ => BitVec.ofNat 32 v

/-- The destination registers of a load with the values of its lanes; other lanes keep theirs, and the tag is general (R73). -/
def loadRegs (g : Group) (vd : Nat) (w : Width) (sx : Bool) (vals : Table Nat) : List (Nat × VReg) :=
  let reg (d : Nat) (f : Nat → Word) : Nat × VReg :=
    (d, .g (lanes.map fun n => match tget n vals with | some v => f v | none => (g.v d).lane n))
  reg vd (extendLoad w sx) :: (if w = .w64 then [reg (vd + 1) fun v => BitVec.ofNat 32 (v / 2 ^ 32)] else [])

/-- The data registers of a width. -/
def widthRegs (vd : Nat) (w : Width) : List Nat := regsFrom vd (if w = .w64 then 2 else 1)

/-- Lane n of a data register, or of a pair (R408). -/
def storeVal (g : Group) (vd : Nat) (w : Width) (n : Nat) : Nat :=
  ((g.v vd).lane n).toNat + (if w = .w64 then ((g.v (vd + 1)).lane n).toNat * 2 ^ 32 else 0)

/-- A remote instruction starts: its lanes are sent as entries free, and the split waits unless it returns nothing and all of
them have left; a U-set one stalls at issue until an entry is free (R252). -/
def Ctx.remote (c : Ctx) (s0 s : State) (lanes : List RLane) (vals : Table Nat) (dest : RDest) : Act :=
  match c.who with
  | .group gid k =>
    if lanes.any (fun l => l.lane == 127) && Config.remoteEntries ≤ s0.ropCount gid then .wait (.again .entry) c.next s0 else
    let (s, r) := s.sendLanes gid c.g { split := k, unsent := lanes, waiting := [], values := vals, dest := dest, stamp := s.nextId } lanes
    if dest = .none && r.unsent.isEmpty && r.waiting.isEmpty then .done s
    else .wait .replies c.next (s.modGroup gid fun g => { g with rinstr := g.rinstr ++ [r] })
  | _ => .done s

/-- A lane's remote operation (R250). -/
def LaneAt.rlane (x : LaneAt) (kind size : Nat) (op : Aop) (d cmp : Nat) : RLane :=
  { lane := x.lane, kind := kind, size := size, va := x.a, pa := x.key, home := x.home, op := op, d := d, c := cmp }

/-- An instruction is ordered or atomic and acts at pod scope: its accesses form strong pairs with those of other packages (R153). -/
def Ctx.strong (c : Ctx) (ord : Ord4) (sc : Scope) (atomic : Bool) (s : State) : Bool :=
  (ord != .none || atomic) && s.allowed c.g.vf sc == .pod

/-- What an access by the issuer's VF to pages homed on `homes` must not pass (R160, R162, R163): a write, an atomic of the VF in flight to another
package, whose read is still to come; a strong one, the VF's strong writes in flight to another package. -/
def State.behind (s : State) (v : Nat) (strong write : Bool) (homes : List Nat) : Bool :=
  s.rops.any fun r => r.2.vf == v && !r.2.applied && homes.any (· != r.2.lane.home)
    && ((write && r.2.lane.kind == 2) || (strong && r.2.lane.strong && (r.2.lane.kind == 1 || r.2.lane.kind == 2)))

/-- The addresses of the active lanes of an LM instruction (R129). -/
def lmAddrs (c : Ctx) (s : State) (o : LmOp) : List (Nat × DWord) :=
  let off := c.src s o.off
  c.active.map fun n => (n, c.pair (2 * o.pair.toNat) + (off.lane n).signExtend 64)

/-- VLD and VLDS (R388, R389). The registers are written, with their tag, when every lane has its value (R227, R260). -/
def vecLoad (scratch : Bool) (o : LmOp) (c : Ctx) (s : State) : Act :=
  let size := o.width.bytes
  match laneChecks s c.g scratch size .read (lmAddrs c s o) with
  | .error e => e
  | .ok xs =>
    (watchAct c true false size xs).getD <|
    if c.over (loadRegs c.g o.vd.toNat o.width o.sx []) then trapAct causeTAGBUDGET
    else (uceAct c s size scratch xs).getD <|
      let s := fillTlb s c.g scratch xs
      let vals := ((xs.filter fun x => !x.remote).map fun x => (x.lane, readAt s scratch size x))
      let far := xs.filter LaneAt.remote
      if far.isEmpty then
        .done (c.markBusy ((widthRegs o.vd.toNat o.width).map .v) (c.putV (loadRegs c.g o.vd.toNat o.width o.sx vals) s))
      else c.remote s s (far.map fun x => x.rlane 0 size .ld 0 0) vals (.vec o.vd.toNat o.width o.sx)

/-- VST and VSTS (R408, R409): in ascending lane order, so that the highest lane's byte stays (R130). -/
def vecStore (scratch : Bool) (o : LmOp) (c : Ctx) (s : State) : Act :=
  let size := o.width.bytes
  match laneChecks s c.g scratch size .write (lmAddrs c s o) with
  | .error e => e
  | .ok xs =>
    (watchAct c false true size xs).getD <|
    if !scratch && s.behind c.g.vf false true (xs.map LaneAt.home) then .wait (.again (.applied c.g.vf)) c.next s
    else
      let s := fillTlb s c.g scratch xs
      let v (x : LaneAt) := storeVal c.g o.vd.toNat o.width x.lane % 2 ^ (8 * size)
      let t := (xs.filter fun x => !x.remote).foldl (fun s x => writeAt s scratch size x (v x)) s
      let far := xs.filter LaneAt.remote
      if far.isEmpty then .done t else c.remote s t (far.map fun x => x.rlane 1 size .exch (v x) 0) [] .none

/-- VLD (R388). -/
def execVld (o : LmOp) (s : State) : Host.Outcome State Fault Refusal := issue (.vld o) s (vecLoad false o)
/-- VST (R408). -/
def execVst (o : LmOp) (s : State) : Host.Outcome State Fault Refusal := issue (.vst o) s (vecStore false o)
/-- VLDS (R389). -/
def execVlds (o : LmOp) (s : State) : Host.Outcome State Fault Refusal := issue (.vlds o) s (vecLoad true o)
/-- VSTS (R409). -/
def execVsts (o : LmOp) (s : State) : Host.Outcome State Fault Refusal := issue (.vsts o) s (vecStore true o)

/-- The ordering of an instruction at issue (R14, R154, R156, R159, R166, R252): a release at pod scope waits for the group's remote
acknowledgements and the VF's operations in flight; an acquire for the reads of the VF's atomics in flight; a demotion is counted. -/
def Ctx.order (c : Ctx) (ord : Ord4) (sc : Scope) (s : State) : Except Act State :=
  let v := c.g.vf
  let rel := ord.isRel && s.allowed v sc == .pod
  let late := ord.isAcq && s.rops.any fun r => r.2.vf == v && !r.2.applied && r.2.lane.kind == 2
  let why : Option Again := match c.who with
    | .group gid _ => if rel && !s.podReady v gid then some .acks else if late then some (.applied v) else none
    | _ => if (rel && !s.allApplied v) || late then some (.applied v) else none
  match why with
  | some w => .error (.wait (.again w) c.next s)
  | none => .ok (s.demote v sc)

/-- The instruction is a release at core scope (R165); a sequencer's acts at quad scope (R149). -/
def Ctx.coreRelease (c : Ctx) (ord : Ord4) (sc : Scope) (s : State) : Bool := !c.seq && ord.isRel && s.allowed c.g.vf sc == .core

/-- The home slice of a line records the core of a core-scope release that has written it (R165). -/
def Ctx.noteRelease (c : Ctx) (ord : Ord4) (sc : Scope) (wrote : Bool) (key : Nat) (s : State) : State :=
  if wrote && c.coreRelease ord sc s then { s with lineCore := tset (key / 128) c.g.core s.lineCore } else s

/-- The tenant's VF on a package (R255). -/
def State.vfOn (s : State) (v pkg : Nat) : Nat := if pkg = pkgOf v then v else s.peerVf v pkg

/-- An acquire with RSP of line `key` promotes a core-scope release made there by another core: every write that happens before the release
is visible once none of the remote operations of the tenant's VF on that core's package is in flight (R165). The answer is that VF,
where the acquire has to wait. -/
def Ctx.promotes (c : Ctx) (rsp : Bool) (key : Nat) (s : State) : Option Nat :=
  if !rsp then none
  else (tget (key / 128) s.lineCore).bind fun core =>
    let v := s.vfOn c.g.vf (pkgOf core)
    if (c.seq || core != c.g.core) && !s.allApplied v then some v else none

/-- A remote lane of an ordered or atomic instruction (R153, R154, R165). -/
def Ctx.ordered (c : Ctx) (ord : Ord4) (sc : Scope) (atomic : Bool) (s : State) (l : RLane) : RLane :=
  { l with acq := ord.isAcq, rel := c.coreRelease ord sc s, strong := c.strong ord sc atomic s }

/-- The new value of an atomic step; none where it writes nothing (R142). -/
def atomNew (op : Aop) (size old d cmp : Nat) : Option Nat :=
  let w := 8 * size
  match op with
  | .add => some ((old + d) % 2 ^ w)
  | .min => some (if sInt w d < sInt w old then d else old)
  | .max => some (if sInt w old < sInt w d then d else old)
  | .nmin => some (min old d)
  | .nmax => some (max old d)
  | .and => some (old &&& d)
  | .or => some (old ||| d)
  | .xor => some (old ^^^ d)
  | .exch => some d
  | .cas => if old = cmp then some d else none
  | .fadd => some (fAdd (BitVec.ofNat 32 old) (BitVec.ofNat 32 d)).toNat
  | .ld => none

/-- One atomic in a core's count of where atomics run (R143, R230): the place is the device's choice; a remote one runs at its
home. -/
def State.countAtomic (s : State) (core : Nat) (remote : Bool) : State :=
  let k := s.coreAt core
  let home := remote || Config.freeBool s.fresh
  { s with fresh := s.fresh + 1,
           cores := tset core (if home then { k with atomhome := k.atomhome + 1 } else { k with atomloc := k.atomloc + 1 }) s.cores }

/-- One atomic step at a place of this package (R142, R161). -/
def atomStep (s : State) (op : Aop) (size : Nat) (x : LaneAt) (d cmp : Nat) : State :=
  match atomNew op size (readAt s false size x) d cmp with
  | some v => writeAt s false size x v
  | none => s

/-- The atomic steps of lanes, one after the other (R142), with the old values. -/
def atomLanes (op : Aop) (size : Nat) (d cmp : Nat → Nat) : List LaneAt → State → Table Nat → State × Table Nat
  | [], s, vals => (s, vals)
  | x :: xs, s, vals =>
    atomLanes op size d cmp xs (atomStep s op size x (d x.lane) (cmp x.lane)) (tset x.lane (readAt s false size x) vals)

/-- The order in which the lanes of one VATOM act: where two name one location it is not promised (R142; log entry 10). -/
def atomOrder (nonce size : Nat) (xs : List LaneAt) : List LaneAt :=
  if xs.all fun x => xs.all fun y => x.lane == y.lane || x.key + size ≤ y.key || y.key + size ≤ x.key then xs
  else sortBy (fun x => Config.laneTurn nonce x.lane) xs

/-- A destination of VATOM that no lane writes: its lanes keep their values, and it is general (R73, R154, R367). -/
def Ctx.retagOnly (c : Ctx) (o : VAtomOp) (s : State) : Act :=
  if o.ret then c.writeV (loadRegs c.g o.vd.toNat (if o.w64 then .w64 else .w32) false []) s else .done s

/-- VATOM (R142, R154, R165, R166, R367): with no active lane it is a fence of its ordering. An uncorrectable error that one of its lanes consumes, at
whatever home, kills its issuer before any lane writes (R246). -/
def execVatom (o : VAtomOp) (s : State) : Host.Outcome State Fault Refusal :=
  issue (.vatom o) s fun c s =>
    let w : Width := if o.w64 then .w64 else .w32
    let size := w.bytes
    if c.active.isEmpty && o.ord = .none then c.retagOnly o s
    else match c.order o.ord o.scope s with
    | .error e => e
    | .ok t =>
      if c.active.isEmpty then c.retagOnly o t
      else
        let off := c.src s o.off
        let addrs := c.active.map fun n => (n, c.pair (2 * o.base.toNat) + (off.lane n).signExtend 64)
        match laneChecks s c.g false size (if o.aop = .ld then .read else .write) addrs with
        | .error e => e
        | .ok xs =>
          (watchAct c true true size xs).getD <|
          if s.behind c.g.vf (c.strong o.ord o.scope true s) true (xs.map LaneAt.home) then .wait (.again (.applied c.g.vf)) c.next s
          else match (xs.filter fun x => !x.remote).findSome? fun x => c.promotes o.rsp x.key s with
          | some v => .wait (.again (.applied v)) c.next s
          | none =>
            if o.ret && c.over (loadRegs c.g o.vd.toNat w false []) then trapAct causeTAGBUDGET
            else (uceAct c s size false (xs.map fun x => { x with remote := false })).getD <|
            let data := match o.data with | .reg n => n.toNat | _ => 0
            let d (n : Nat) := if o.aop = .ld then 0 else storeVal c.g data w n
            let cmp (n : Nat) := if o.aop = .cas then storeVal c.g o.cmpv.toNat w n else 0
            let t := fillTlb t c.g false xs
            let far := xs.filter LaneAt.remote
            let near := xs.filter fun x => !x.remote
            let t := xs.foldl (fun t x => t.countAtomic c.g.core x.remote) t
            let (t, vals) := atomLanes o.aop size d cmp (atomOrder t.fresh size near) t []
            let wrote (x : LaneAt) : Bool := (atomNew o.aop size ((tget x.lane vals).getD 0) (d x.lane) (cmp x.lane)).isSome
            let t := near.foldl (fun t x => c.noteRelease o.ord o.scope (wrote x) x.key t) t
            if far.isEmpty then
              .done (if o.ret then c.markBusy ((widthRegs o.vd.toNat w).map .v) (c.putV (loadRegs c.g o.vd.toNat w false vals) t) else t)
            else
              let op (x : LaneAt) : RLane := c.ordered o.ord o.scope true s { x.rlane 2 size o.aop (d x.lane) (cmp x.lane) with rsp := o.rsp }
              c.remote s t (far.map op) vals (if o.ret then .vec o.vd.toNat w false else .none)

/-- The address of a UM instruction (R326). -/
def umAddr (c : Ctx) (o : UmOp) (size : Nat) : DWord := c.pair (2 * o.pair.toNat) + (o.off.signExtend 64) * BitVec.ofNat 64 size

/-- What an ordered access of an instruction does to the machine before the access: a plain one orders nothing (R150, R166);
a scratch access wider than quad acts at quad and counts nothing (R131, R166). -/
def umOrder (c : Ctx) (o : UmOp) (scratch atomic : Bool) (s : State) : Except Act State :=
  if o.ord = .none && !atomic then .ok s
  else if scratch && Scope.num o.scope > 1 then (c.order o.ord .quad s).map fun _ => s
  else c.order o.ord o.scope s

/-- The common path of a scalar access (R326): with no active lane it is a fence of its ordering; else the checks of R127,
watchpoints and errors, and then `f` at the checked address, once what it must not pass has been applied (R160, R162, R163); a sequencer holds
no remote entries: it reaches a remote page directly, while a route works and no operation of the VF is in flight there (R160, R175, R251,
R252). -/
def umAccess (o : UmOp) (scratch atomic : Bool) (size : Nat) (need : Need) (rd wr : Bool) (f : LaneAt → State → Act) (c : Ctx) (s : State) : Act :=
  match umOrder c o scratch (atomic && c.mask != 0) s with
  | .error e => e
  | .ok t =>
    if c.mask = 0 then .done t
    else match laneChecks s c.g scratch size need [(127, umAddr c o size)] with
      | .error e => e
      | .ok xs =>
        (watchAct c rd wr size xs).getD <|
        ((if rd then uceAct c s size scratch xs else none)).getD <|
          match xs with
          | x :: _ =>
            if c.seq && x.remote && s.shut c.g.vf x.home then .wait (.again (.flight x.home)) c.next s
            else if !scratch && s.behind c.g.vf (c.strong o.ord o.scope atomic s) wr [x.home] then .wait (.again (.applied c.g.vf)) c.next s
            else f { x with remote := x.remote && !c.seq } (fillTlb t c.g scratch xs)
          | [] => .done t

/-- A loaded word or pair written to sd, whose write is pending (R78). -/
def Ctx.loadS (c : Ctx) (sd : Nat) (w64 : Bool) (v : Nat) (s : State) : State :=
  if w64 then c.markBusy [scalarRef c.split sd, scalarRef c.split (sd + 1)] (c.setPair sd (BitVec.ofNat 64 v) s)
  else c.markBusy [scalarRef c.split sd] (c.setS sd (BitVec.ofNat 32 v) s)

/-- SLD and SLDS (R335, R336). -/
def scalLoad (scratch : Bool) (o : UmOp) (c : Ctx) (s0 : State) : Act :=
  umAccess o scratch false 4 .read true false (fun x s =>
    if x.remote then c.remote s0 s [c.ordered o.ord o.scope false s (x.rlane 0 4 .ld 0 0)] [] (.scal o.sd.toNat false)
    else .done (c.loadS o.sd.toNat false (readAt s scratch 4 x) s)) c s0

/-- SST and SSTS (R354, R355). -/
def scalStore (scratch : Bool) (o : UmOp) (c : Ctx) (s0 : State) : Act :=
  umAccess o scratch false 4 .write false true (fun x s =>
    let v := (c.s o.sd.toNat).toNat
    if x.remote then c.remote s0 s [c.ordered o.ord o.scope false s (x.rlane 1 4 .exch v 0)] [] .none
    else .done (let t := writeAt s scratch 4 x v; if scratch then t else c.noteRelease o.ord o.scope true x.key t)) c s0

/-- SLD (R335). -/
def execSld (o : UmOp) (s : State) : Host.Outcome State Fault Refusal := issue (.sld o) s (scalLoad false o)
/-- SST (R354). -/
def execSst (o : UmOp) (s : State) : Host.Outcome State Fault Refusal := issue (.sst o) s (scalStore false o)
/-- SLDS (R336). -/
def execSlds (o : UmOp) (s : State) : Host.Outcome State Fault Refusal := issue (.slds o) s (scalLoad true o)
/-- SSTS (R355). -/
def execSsts (o : UmOp) (s : State) : Host.Outcome State Fault Refusal := issue (.ssts o) s (scalStore true o)

/-- SATOM (R142, R327). -/
def execSatom (o : UmOp) (k : SAtomCw) (s : State) : Host.Outcome State Fault Refusal :=
  issue (.satom o k) s fun c s0 =>
    let size := if k.w64 then 8 else 4
    let val (n : Reg) : Nat := if k.w64 then (c.pair n.toNat).toNat else (c.s n.toNat).toNat
    umAccess o false true size (if k.aop = .ld then .read else .write) true true (fun x s =>
      let t := s.countAtomic c.g.core (x.home != pkgOf c.g.vf)
      if x.remote then
        c.remote s0 t [c.ordered o.ord o.scope true s { x.rlane 2 size k.aop (val k.sb) (val k.sc) with rsp := k.rsp }] [] (.scal o.sd.toNat k.w64)
      else match c.promotes k.rsp x.key s with
        | some v => .wait (.again (.applied v)) c.next s0
        | none =>
          let old := readAt t false size x
          let wrote := (atomNew k.aop size old (val k.sb) (val k.sc)).isSome
          let u := c.noteRelease o.ord o.scope wrote x.key (atomStep t k.aop size x (val k.sb) (val k.sc))
          .done (c.loadS o.sd.toNat k.w64 old u)) c s0

/-- SLR: the load, and the group's reservation on the line, which the home slice takes with the load (R144, R337). -/
def execSlr (o : UmOp) (s : State) : Host.Outcome State Fault Refusal :=
  issue (.slr o) s fun c s0 =>
    umAccess o false true 4 .read true true (fun x s =>
      if x.remote then c.remote s0 s [c.ordered o.ord o.scope true s (x.rlane 3 4 .ld 0 0)] [] (.scal o.sd.toNat false)
      else
        let s := match c.who with
          | .group gid _ => s.modGroup gid fun g => { g with reserv := some (x.key / 128) }
          | _ => s
        .done (c.loadS o.sd.toNat false (readAt s false 4 x) s)) c s0

/-- SSC: the store if the reservation is intact and covers the line; the reservation is cleared (R145, R349). A remote one is
decided at the home slice. -/
def execSsc (o : UmOp) (s : State) : Host.Outcome State Fault Refusal :=
  issue (.ssc o) s fun c s0 =>
    umAccess o false true 4 .write true true (fun x s =>
      let ok := c.g.reserv = some (x.key / 128)
      let v := (c.s o.sd.toNat).toNat
      if x.remote then c.remote s0 s [c.ordered o.ord o.scope true s (x.rlane 4 4 .exch v 0)] [] (.ssc o.sd.toNat)
      else
        let s := match c.who with
          | .group gid _ => s.modGroup gid fun g => { g with reserv := none }
          | _ => s
        let s := c.noteRelease o.ord o.scope ok x.key (if ok then writeAt s false 4 x v else s)
        .done (c.setS (o.sd.toNat + 1) (if ok then 0 else 1) s)) c s0

/-- FENCE (R156, R301): in one global order of accesses it has no more to do than its ordering at issue. -/
def execFence (ord : Ord4) (sc : Scope) (s : State) : Host.Outcome State Fault Refusal :=
  issue (.fence ord sc) s fun c s => match c.order ord sc s with
    | .error e => e
    | .ok t => .done t

end Sys2Proof.Machine
end

