-- ==== Sys2Proof/Machine/Control.lean ====
section
/-! DEFINITION. Control flow: branches, splits, calls, the end of a program, waits and traps by instruction (R41-R48, R80-R83,
R286-R290, R300, R319, R322, R360, R361, R415, R416). -/

namespace Sys2Proof.Machine

/-- BRA (R289). -/
def execBra (off : BitVec 25) (s : State) : Host.Outcome State Fault Refusal :=
  issue (.bra off) s fun c s => c.jump off.toInt s

/-- BCC: it moves the split whatever its mask (R286). -/
def execBcc (k : BccCond) (sa : Reg) (off : BitVec 16) (s : State) : Host.Outcome State Fault Refusal :=
  issue (.bcc k sa off) s fun c s => if k.holds (c.s sa.toNat) then c.jump off.toInt s else .done s

/-- The partition of a group has the split entries for one more split of it (R41, R42). -/
def State.splitFree (s : State) (gid : Nat) (g : Group) : Bool :=
  let others := s.groups.foldl (fun n p =>
    if p.1 ≠ gid ∧ p.2.core = g.core ∧ p.2.part = g.part then n + p.2.entries p.2.splits.length else n) 0
  others + g.entries (g.splits.length + 1) ≤ Config.splitEntriesPerPartition

/-- The most recent entry of a split, with its place in the stack (R43). -/
def lastOwned (k : Nat) (l : List Defer) : Option (Defer × Nat) := (l.zipIdx.filter fun d => d.1.owner == k).getLast?

/-- `defer(k, a, m)`; none where the stack is full (R43). -/
def deferPush (l : List Defer) (k : Nat) (a : Word) (m : Mask) : Option (List Defer) :=
  let push := if l.length < 8 then some (l ++ [⟨k, a, m⟩]) else none
  match lastOwned k l with
  | some (d, i) => if d.addr = a then some (l.set i { d with mask := d.mask ||| m }) else push
  | none => push

/-- The group with a split's mask replaced. -/
def Group.setMask (g : Group) (k : Nat) (m : Mask) : Group := { g with splits := tmod k (fun sp => { sp with mask := m }) g.splits }

/-- BDIV (R42, R43, R287): a full deferral stack comes before a target that leaves the window, as R287 lists them (R98). -/
def execBdiv (clr : Bool) (sa : Reg) (off : BitVec 16) (s : State) : Host.Outcome State Fault Refusal :=
  issue (.bdiv clr sa off) s fun c s =>
    let bits := maskOf (c.s sa.toNat) (c.s (sa.toNat + 1)) (c.s (sa.toNat + 2))
    let taken := c.mask &&& (if clr then ~~~bits else bits)
    let rest := c.mask &&& ~~~taken
    let new := ((List.range 4).find? fun j => !c.g.splits.any fun p => p.1 == j).filter fun _ =>
      match c.who with | .group gid _ => s.splitFree gid c.g | _ => false
    if taken = 0 then .done s
    else match c.who with
    | .group gid k =>
      if rest = 0 then c.jump off.toInt s
      else match new, deferPush c.g.defer k c.next rest with
        | some j, _ => c.jump off.toInt (s.modGroup gid fun g =>
            let g := g.setMask k taken
            { g with splits := tset j { pc := c.next, mask := rest, since := s.now + 1 } g.splits })
        | none, some d => c.jump off.toInt (s.modGroup gid fun g => { g.setMask k taken with defer := d })
        | none, none => trapAct causeILLEGAL
    | _ => .done s

/-- The register of a return address (R175, R290). -/
def Ctx.linkReg (c : Ctx) : Nat := if c.seq then 63 else 119

/-- CALL (R290). -/
def execCall (off : BitVec 25) (s : State) : Host.Outcome State Fault Refusal :=
  issue (.call off) s fun c s => c.jump off.toInt (c.setS c.linkReg (c.pc + 4) s)

/-- RET (R322). -/
def execRet (s : State) : Host.Outcome State Fault Refusal :=
  issue .ret s fun c s => let t := c.s c.linkReg; if t.toNat % 4 ≠ 0 then trapAct causeILLEGAL else .goto s t

/-- Every implicit send of a group would find a buffer entry (R62, R63). -/
def State.sendsFit (s : State) (g : Group) : Bool :=
  ((s.unsent g).foldl (fun (x : Bool × State) p =>
    match s.portDecl g p, g.item with
    | some d, some i => (x.1 && x.2.fwdRoom g i (i + d.k), x.2.fwdSend g (i + d.k) p (.arrived (g.portSource d)))
    | _, _ => x) (true, s)).1

/-- The group retires by EXIT, once its remote operations are acknowledged and its unsent ports find entries (R62, R252). -/
def exitGroup (c : Ctx) (gid : Nat) (s : State) : Act :=
  if s.ropCount gid ≠ 0 then .hold .release s
  else if !s.sendsFit c.g then .hold (.send 4) s
  else .away (s.retireGroup gid)

/-- EXIT (R44, R48, R176, R235, R300). -/
def execExit (s : State) : Host.Outcome State Fault Refusal :=
  issue .exit s fun c s =>
    match c.who with
    | .none => .done s
    | .seq q => .away (s.modProg q fun p => { p with ending := true })
    | .group gid k =>
      if c.g.trap.isSome then exitGroup c gid s
      else match lastOwned k c.g.defer with
        | some (d, i) =>
          .away (s.modGroup gid fun g =>
            { g with exited := g.exited ||| c.mask, defer := g.defer.eraseIdx i,
                     splits := tset k { pc := d.addr, mask := d.mask, since := s.now + 1 } g.splits })
        | none =>
          if c.g.splits.length ≤ 1 then exitGroup c gid s
          else
            let s := s.modGroup gid fun g => { g with exited := g.exited ||| c.mask, splits := tdel k g.splits }
            .away ((s.settleGrp gid).settleRegrp c.g.block c.g.core)

/-- NOP (R319). -/
def execNop (s : State) : Host.Outcome State Fault Refusal := issue .nop s fun _ s => .done s

/-- YIELD: the split's PC is the continuation at once; `cont` keeps YIELD's own address (R81, R416). -/
def execYield (k : Option Counter) (sa : Reg) (off : BitVec 16) (s : State) : Host.Outcome State Fault Refusal :=
  issue (.yield k sa off) s fun c s =>
    let t := c.target off.toInt
    if hiWord t ≠ c.g.window then trapAct causeXLATE
    else match c.who with
      | .group gid n =>
        let w := match k with
          | some k => Wait.counter k (c.s sa.toNat).toNat true
          | none => .yield s.now
        .away ((s.waitOn gid n w c.pc).modGroup gid fun g => { g with splits := tmod n (fun sp => { sp with pc := loWord t }) g.splits })
      | _ => .done s

/-- WAITC; a sequencer's counters read 0 (R80, R415). -/
def execWaitc (k : Counter) (b : SSrc) (s : State) : Host.Outcome State Fault Refusal :=
  issue (.waitc k b) s fun c s =>
    match c.who with
    | .group gid _ => if s.counter gid k ≤ (c.b b).toNat then .done s else .wait (.counter k (c.b b).toNat false) c.next s
    | _ => .done s

/-- BKPT (R288). -/
def execBkpt (code : BitVec 25) (s : State) : Host.Outcome State Fault Refusal :=
  issue (.bkpt code) s fun _ _ => .trapAfter causeBKPT (code.setWidth 32)

/-- TRAP (R360). -/
def execTrap (code : BitVec 25) (s : State) : Host.Outcome State Fault Refusal :=
  issue (.trap code) s fun _ _ => .trapAfter causeTRAPI (code.setWidth 32)

/-- TRET (R234, R361). -/
def execTret (s : State) : Host.Outcome State Fault Refusal :=
  issue .tret s fun c s =>
    match c.who with
    | .group gid _ =>
      match c.g.trap with
      | none => trapAct causePRIV
      | some t =>
        if tretOk c.g t.frame then .away (((s.setGroup gid (c.g.leaveTrap t s.now)).settleGrp gid).settleRegrp c.g.block c.g.core)
        else trapAct causeILLEGAL
    | _ => trapAct causeILLEGAL

end Sys2Proof.Machine
end

