-- ==== Sys2Proof/Machine/System.lean ====
section
/-! DEFINITION. The system registers (R134, R140, R230-R233, R238, R260, R347, R357), CLK (R11, R12, R295), and the writes that
have a behaviour of their own. -/

namespace Sys2Proof.Machine

/-- The system registers (R230, R260). -/
inductive SysReg where
  | gmode | tcause | tpc | taddr (hi : Bool) | tcode | tncause | tnpc | thandler | tkill | scrbase | cpystat | sdccnt | atomloc
  | atomhome | mqcfg (q : Nat) | flcount | fl (i f : Nat) | dbgctl | bpa (k : Nat) | bpm (k i : Nat) | wpa (k : Nat) (hi : Bool)
  | wpl (k : Nat) | barecnt (l i : Nat) | baracnt (l i : Nat) | barphase (l i : Nat) | portstat (n : Nat) | portlane (p n : Nat)
  | frame (w : Nat)
  deriving DecidableEq, Repr

/-- The register with a number (R230, R260). -/
def sysReg (n : Nat) : Option SysReg :=
  if n = 0x01 then some .gmode
  else if n = 0x10 then some .tcause
  else if n = 0x11 then some .tpc
  else if n = 0x12 then some (.taddr false)
  else if n = 0x13 then some (.taddr true)
  else if n = 0x14 then some .tcode
  else if n = 0x15 then some .tncause
  else if n = 0x16 then some .tnpc
  else if n = 0x17 then some .thandler
  else if n = 0x18 then some .tkill
  else if n = 0x20 then some .scrbase
  else if n = 0x21 then some .cpystat
  else if n = 0x30 then some .sdccnt
  else if n = 0x31 then some .atomloc
  else if n = 0x32 then some .atomhome
  else if n = 0x34 then some .flcount
  else if 0x40 ≤ n ∧ n ≤ 0x4F then some (.mqcfg (n - 0x40))
  else if n = 0x100 then some .dbgctl
  else if 0x104 ≤ n ∧ n ≤ 0x107 then some (.bpa (n - 0x104))
  else if 0x108 ≤ n ∧ n ≤ 0x113 then some (.bpm ((n - 0x108) / 3) ((n - 0x108) % 3))
  else if 0x118 ≤ n ∧ n ≤ 0x11F then some (.wpa ((n - 0x118) / 2) ((n - 0x118) % 2 == 1))
  else if 0x120 ≤ n ∧ n ≤ 0x123 then some (.wpl (n - 0x120))
  else if 0x210 ≤ n ∧ n ≤ 0x24F then some (.barecnt ((n - 0x200) / 16) (n % 16))
  else if 0x290 ≤ n ∧ n ≤ 0x2CF then some (.barphase ((n - 0x280) / 16) (n % 16))
  else if 0x300 ≤ n ∧ n ≤ 0x303 then some (.portstat (n - 0x300))
  else if 0x400 ≤ n ∧ n ≤ 0x5FF ∧ n % 128 ≤ 95 then some (.portlane ((n - 0x400) / 128) (n % 128))
  else if 0x600 ≤ n ∧ n ≤ 0x7FF ∧ n % 8 ≤ 5 then some (.fl ((n - 0x600) / 8) (n % 8))
  else if 0x810 ≤ n ∧ n ≤ 0x84F then some (.baracnt ((n - 0x800) / 16) (n % 16))
  else if 0x8000 ≤ n ∧ n ≤ 0xFFFF then some (.frame (n - 0x8000))
  else none

/-- The register is marked priv (R230, R260). -/
def SysReg.priv : SysReg → Bool
  | .gmode | .scrbase | .cpystat | .sdccnt | .atomloc | .atomhome | .mqcfg _ => false
  | _ => true

/-- The number is valid for a group (R230): declared barriers and ports, and frame words that exist. -/
def SysReg.valid (s : State) (g : Group) : SysReg → Bool
  | .barecnt l i | .baracnt l i | .barphase l i => (s.barKey g l i).isSome
  | .portstat p | .portlane p _ => (s.portDecl g p).isSome
  | .frame w => w < 224 + 96 * g.count
  | _ => true

/-- The queue q of a core, as a number of `State.queues`. -/
def queueKey (core q : Nat) : Nat := core * 16 + q

/-- A word of an entry of the stranded-operation report (R260). -/
def FlEntry.word (e : FlEntry) : Nat → Word
  | 0 => BitVec.ofNat 32 ((if e.applied then 1 else 2) + 4 * e.kind + 32 * e.w64.toNat + 65536 * e.dst)
  | 1 => loWord e.addr
  | 2 => hiWord e.addr
  | 3 => loWord e.val
  | 4 => hiWord e.val
  | _ => BitVec.ofNat 32 e.lane

/-- A barrier that a number names for a group; one that does not exist reads as never used (R68). -/
def State.barrierAt (s : State) (g : Group) (l i : Nat) : Barrier := ((s.barKey g l i).bind s.barrier).getD {}

/-- The value of a system register read by a group (R230). -/
def SysReg.read (s : State) (g : Group) (r : SysReg) : Word :=
  let t : TrapMode := g.trap.getD { info := { cause := 0 }, frame := [], tvalid := [], exited := 0, splits := [] }
  match r with
  | .gmode => g.gmode
  | .tcause => BitVec.ofNat 32 (t.info.cause + 256 * t.info.split + 1024 * t.info.lane + 131072 * t.nest)
  | .tpc => t.info.pc
  | .taddr hi => if hi then hiWord t.info.addr else loWord t.info.addr
  | .tcode => t.info.code
  | .tncause => BitVec.ofNat 32 t.ncause
  | .tnpc => t.npc
  | .thandler => loWord (s.vf g.vf).thandler
  | .tkill => 0
  | .scrbase => match s.alloc g.block g.core with | some (off, n) => if n = 0 then 0 else BitVec.ofNat 32 off | none => 0
  | .cpystat => if g.copyErr then 1 else 0
  | .sdccnt => BitVec.ofNat 32 (s.coreAt g.core).sdccnt
  | .atomloc => (s.coreAt g.core).atomloc
  | .atomhome => (s.coreAt g.core).atomhome
  | .mqcfg q => (s.queue (queueKey g.core q)).cfg
  | .flcount => BitVec.ofNat 32 g.shown
  | .fl i f => match (g.fl.take g.shown)[i]? with | some e => e.word f | none => 0
  | .dbgctl => g.dbg.ctl
  | .bpa k => g.dbg.bpa.getD k 0
  | .bpm k i => maskWord (g.dbg.bpm.getD k 0) i
  | .wpa k hi => if hi then hiWord (g.dbg.wpa.getD k 0) else loWord (g.dbg.wpa.getD k 0)
  | .wpl k => g.dbg.wpl.getD k 0
  | .barecnt l i => BitVec.ofNat 32 (s.barrierAt g l i).expected
  | .baracnt l i => BitVec.ofNat 32 (s.barrierAt g l i).count
  | .barphase l i => (s.barrierAt g l i).phase
  | .portstat p => match s.portVal g p with | none => 0 | some (.arrived _) => 1 | some (.poisoned _) => 2 | some (.defaulted _) => 3
  | .portlane p n => match s.portVal g p with | some v => v.reg.lane n | none => 0
  | .frame w => t.frame.getD w 0

/-- R134: a configuration that may be enabled on a core of a VF. -/
def State.queueOk (s : State) (v core : Nat) (cfg : Word) : Bool :=
  let n := bitField cfg.toNat 30 27
  let off := bitField cfg.toNat 14 0 * 64
  2 ≤ n && n ≤ 10 && s.inSlices v core off (2 ^ n * 64) && s.scratchFree core off (2 ^ n * 64)

/-- The MQGETs of a group that wait on a queue of its core take note that it is disabled (R312). -/
def Group.queueGone (g : Group) (core q : Nat) : Group :=
  if g.core ≠ core then g
  else
    let see (t : Table Split) : Table Split := t.map fun p => if p.2.wait = .again (.queue q) then (p.1, { p.2 with wait := .again .gone }) else p
    { g with splits := see g.splits, trap := g.trap.map fun t => { t with splits := see t.splits } }

/-- A queue configured anew: its entries and credits, and the entries on their way to it, are discarded (R134, R313), and MQGETs
that wait on it find it disabled (R312). -/
def State.resetQueue (s : State) (core q : Nat) (cfg : Word) : State :=
  { s.setQueue (queueKey core q) { cfg := cfg } with
    groups := s.groups.map fun g => (g.1, if (s.queue (queueKey core q)).cfg.msb then g.2.queueGone core q else g.2),
    msgs := s.msgs.map fun m => if m.2.core = core ∧ m.2.queue = q then (m.1, { m.2 with words := [] }) else m }

/-- A write of MQCFGq (R134; whatever VF's group writes it: DESIGN CHOICE, log entry 73): EN reads back 0 where its conditions fail;
whatever disables the queue discards its entries and credits; an enabled queue's bytes are undefined to ordinary accesses. -/
def State.writeMqcfg (s : State) (g : Group) (q : Nat) (v : Word) : State :=
  let old := (s.queue (queueKey g.core q)).cfg
  if v.msb then
    if !old.msb && s.queueOk g.vf g.core v then
      let off := bitField v.toNat 14 0 * 64
      (s.resetQueue g.core q (v &&& 0xF8007FFF)).undefScratch (scratchKey g.core off) (2 ^ bitField v.toNat 30 27 * 64)
    else s.resetQueue g.core q (old &&& 0x7FFFFFFF)
  else s.resetQueue g.core q (v &&& 0xF8007FFF)

/-- A split of a group waits for the current phase of a barrier, now, in a trap frame or in a saved context (R232). -/
def Group.waitsOn (g : Group) (k : BarKey) (phase : Word) : Bool :=
  let at' (t : Table Split) := t.any fun p => p.2.wait == .bar k phase
  g.life != .retired && (at' g.splits || (match g.trap with
    | some t => at' (t.splits.filter fun p => (frameSplits t.frame).contains p.1)
    | none => false))

/-- A write of BARECNT (R232). -/
def writeBarecnt (s : State) (g : Group) (l i : Nat) (v : Word) : Act :=
  match s.barKey g l i with
  | none => .done s
  | some k =>
    match s.barrier k with
    | none => .done s
    | some b =>
      let set := { b with expected := v.toNat }
      if v.toNat ≤ b.count then .done (s.setBarrier k (if b.broken || b.parts ≠ 0 then set else set.complete s.now))
      else if b.expected < v.toNat ∧ s.groups.any (fun p => p.2.waitsOn k b.phase) then trapAct causeBARBUSY
      else .done (s.setBarrier k set)

/-- The value that a group's item holds on a port, changed (R233). -/
def State.modPort (s : State) (g : Group) (p : Nat) (f : PortVal → PortVal) : State :=
  { s with fwds := s.fwds.map fun x =>
      if x.launch = g.launch ∧ some x.item = g.item ∧ x.port = p ∧ x.arrived then { x with val := f x.val } else x }

/-- A write of PORTSTAT: it takes effect on a poisoned port, for the value 1 (R233). -/
def State.writePortstat (s : State) (g : Group) (p : Nat) (v : Word) : State :=
  if v = 1 then s.modPort g p fun | .poisoned l => .arrived (.g l) | x => x else s

/-- A write of PORTLANE: it takes effect on a poisoned port (R233). -/
def State.writePortlane (s : State) (g : Group) (p n : Nat) (v : Word) : State :=
  s.modPort g p fun | .poisoned l => .poisoned (l.set n v) | x => x

/-- A frame after a write of word w (R231); of a SPLIT PC it is kept that it was rewritten (R361). -/
def TrapMode.writeFrame (t : TrapMode) (w : Nat) (v : Word) : TrapMode :=
  let t := if 2 ≤ w ∧ w ≤ 17 ∧ w % 4 = 2 then { t with rewritten := t.rewritten ++ [(w - 2) / 4] } else t
  if 18 ≤ w ∧ w ≤ 21 then
    let old := t.frame.getD w 0
    if v.msb && !t.tvalid.contains (w - 18) then t
    else { t with frame := t.frame.set w ((v &&& 0x80000000) ||| (old &&& 0x7FFFFFFF)) }
  else if w = 55 then { t with frame := t.frame.set w (v &&& 1) }
  else if (2 ≤ w ∧ w ≤ 17) ∨ (22 ≤ w ∧ w ≤ 55) ∨ (64 ≤ w ∧ w ≤ 188) ∨ 192 ≤ w then { t with frame := t.frame.set w v }
  else t

/-- A pair with one word replaced. -/
def setHalf (x : DWord) (hi : Bool) (v : Word) : DWord := if hi then pairOf v (loWord x) else pairOf (hiWord x) v

/-- A mask with word i replaced. -/
def setMaskWord (m : Mask) (i : Nat) (v : Word) : Mask :=
  match i with
  | 0 => maskOf v (maskWord m 1) (maskWord m 2)
  | 1 => maskOf (maskWord m 0) v (maskWord m 2)
  | _ => maskOf (maskWord m 0) (maskWord m 1) v

/-- Breakpoints and watchpoints after a write (R230, R238). -/
def Debug.write (d : Debug) (r : SysReg) (v : Word) : Debug :=
  match r with
  | .dbgctl => { d with ctl := v &&& 0xF000FF0F }
  | .bpa k => { d with bpa := d.bpa.set k v }
  | .bpm k i => { d with bpm := d.bpm.set k (setMaskWord (d.bpm.getD k 0) i v) }
  | .wpa k hi => { d with wpa := d.wpa.set k (setHalf (d.wpa.getD k 0) hi v) }
  | .wpl k => { d with wpl := d.wpl.set k (v &&& 0xF) }
  | _ => d

/-- The effect of a write of a system register by a group (R230); writes of read-only registers are ignored. -/
def SysReg.write (s : State) (gid : Nat) (g : Group) (r : SysReg) (v : Word) : Act :=
  match r with
  | .gmode => .done (s.modGroup gid fun g => { g with gmode := v &&& 1 })
  | .tkill =>
    if 0x01 ≤ v.toNat ∧ v.toNat ≤ 0x14 then .away (s.kill gid v.toNat ((g.trap.map fun t => t.info.pc).getD 0)) else .done s
  | .cpystat => .done (s.modGroup gid fun g => { g with copyErr := false })
  | .mqcfg q => .done (s.writeMqcfg g q v)
  | .dbgctl | .bpa _ | .bpm .. | .wpa .. | .wpl _ => .done (s.modGroup gid fun g => { g with dbg := g.dbg.write r v })
  | .barecnt l i => writeBarecnt s g l i v
  | .portstat p => .done (s.writePortstat g p v)
  | .portlane p n => .done (s.writePortlane g p n v)
  | .frame w => .done (s.modGroup gid fun g => { g with trap := g.trap.map fun t => t.writeFrame w v })
  | _ => .done s

/-- The checks of a system-register access by a group (R98, R230). -/
def sysAccess (s : State) (g : Group) (n : Nat) (f : SysReg → Act) : Act :=
  match sysReg n with
  | none => trapAct causeILLEGAL
  | some r =>
    if !r.valid s g then trapAct causeILLEGAL else if r.priv && g.trap.isNone then trapAct causePRIV else f r

/-- The register number in operand B (R347). -/
def Ctx.sysNum (c : Ctx) (b : SSrc) : Nat := (c.b b).toNat % 65536

/-- SRD (R347); a sequencer reads only 0x0030-0x0032 of the core that forked it. -/
def execSrd (sd : Reg) (b : SSrc) (s : State) : Host.Outcome State Fault Refusal :=
  issue (.srd sd b) s fun c s =>
    let n := c.sysNum b
    if c.seq && (n < 0x30 || 0x32 < n) then trapAct causeILLEGAL
    else sysAccess s c.g n fun r => .done (c.setS sd.toNat (r.read s c.g) s)

/-- SWR (R357). -/
def execSwr (sa : Reg) (b : SSrc) (s : State) : Host.Outcome State Fault Refusal :=
  issue (.swr sa b) s fun c s =>
    match c.who with
    | .group gid _ => sysAccess s c.g (c.sysNum b) fun r => r.write s gid c.g (c.s sa.toNat)
    | _ => trapAct causeILLEGAL

/-- Ticks of 100 MHz in a number of clk of 940 MHz (R6, R11). -/
def ticksOf (clks : Nat) : Nat := clks * 5 / 47

/-- The time base of a package (R11); every die reads the same count (log entry 64). -/
def State.timeBase (s : State) (pkg : Nat) : DWord := BitVec.ofNat 64 (ticksOf (s.now - (s.pkg pkg).epoch))

/-- The clk that a package's cycle counters have run since they last started (R12). -/
def State.ran (s : State) (pkg : Nat) : DWord := BitVec.ofNat 64 (((s.pkg pkg).runFrom.map fun t => s.now - t).getD 0)

/-- The cycle counter of a core's die (R12). -/
def State.cycles (s : State) (core : Nat) : DWord := (s.pkg (pkgOf core)).counts.getD (dieOf core) 0 + s.ran (pkgOf core)

/-- CLK (R295). -/
def execClk (tb : Bool) (sd : Reg) (s : State) : Host.Outcome State Fault Refusal :=
  issue (.clk tb sd) s fun c s =>
    .done (c.setPair sd.toNat (if tb then s.timeBase (pkgOf c.g.core) else s.cycles c.g.core) s)

/-- A write of a system register as a step of its own, for the group that issues it; it does not move the group's PC. -/
def sysEvent (n : Nat) (v : Word) (s : State) : State :=
  match s.cur, s.ctx 1 with
  | .group gid _, some c =>
    match sysAccess s c.g n fun r => r.write s gid c.g v with
    | .done t | .away t => t
    | .trap cause lane addr code => c.raise cause lane addr code c.pc s
    | _ => s
  | _, _ => s

/-- A write of TKILL (R230, R235). -/
def execTkillWrite (v : Word) (s : State) : Host.Outcome State Fault Refusal := .next (sysEvent 0x18 v s)
/-- A write of BARECNT (R232). -/
def execBarecntWrite (level id : Nat) (v : Word) (s : State) : Host.Outcome State Fault Refusal :=
  .next (sysEvent (0x200 + 16 * level + id) v s)
/-- A write of PORTSTAT (R233). -/
def execPortstatWrite (port : Nat) (v : Word) (s : State) : Host.Outcome State Fault Refusal := .next (sysEvent (0x300 + port) v s)
/-- A write of PORTLANE (R233). -/
def execPortlaneWrite (port lane : Nat) (v : Word) (s : State) : Host.Outcome State Fault Refusal :=
  .next (sysEvent (0x400 + 128 * port + lane) v s)
/-- A write of FRAME (R231). -/
def execFrameWrite (w : Nat) (v : Word) (s : State) : Host.Outcome State Fault Refusal := .next (sysEvent (0x8000 + w) v s)
/-- A write of MQCFGq (R134). -/
def execMqcfgWrite (q : Nat) (v : Word) (s : State) : Host.Outcome State Fault Refusal := .next (sysEvent (0x40 + q) v s)
/-- A write of CPYSTAT (R140). -/
def execCpystatWrite (v : Word) (s : State) : Host.Outcome State Fault Refusal := .next (sysEvent 0x21 v s)
/-- A write of any system register (R230). -/
def execSystemRegisterWrite (n : BitVec 16) (v : Word) (s : State) : Host.Outcome State Fault Refusal :=
  .next (sysEvent n.toNat v s)

end Sys2Proof.Machine
end

