-- ==== Sys2Proof/Machine/Place.lean ====
section
/-! DEFINITION. Contexts and register storage (R41, R76), the placing of blocks (R39, R51-R53, R64, R132, R133, R203, R209, R220,
R236) and the loss of a core (R222, R245, R270). -/

namespace Sys2Proof.Machine

/-- The register grant of a group (R76). -/
def grant (budget count : Nat) : Nat := (384 * budget + 8 * count + 127) / 128 * 128

/-- A group holds a context of a partition: until it is pre-empted, or released after retirement (R37, R82). -/
def Group.holds (g : Group) (core part : Nat) : Bool :=
  g.core == core && g.part == part && match g.life with | .preempted _ => false | _ => true

/-- A partition by the key of `State.issued`. -/
def partKey (core part : Nat) : Nat := core * Config.partitionsPerCore + part

/-- A partition takes one more group with a grant of `bytes` and `n` split entries (R41, R76): one whose 16 split entries are all held has no context free
(DESIGN CHOICE, log entry 109: R51 and R68 name the context and the register storage only). -/
def State.ctxRoom (s : State) (core part bytes n : Nat) : Bool :=
  let gs := s.groups.filter fun p => p.2.holds core part
  gs.length < Config.slotsPerPartition
    && gs.foldl (fun n p => n + grant p.2.budget p.2.count) bytes ≤ Config.partitionRegisterBytes
    && gs.foldl (fun n p => n + p.2.entries p.2.splits.length) n ≤ Config.splitEntriesPerPartition

/-- A slot of a partition that no group holds. -/
def State.slotFree (s : State) (core part slot : Nat) : Bool := s.groups.all fun p => !(p.2.holds core part && p.2.slot == slot)

/-- A free context of a core for a grant of `bytes`: of the lowest partition with room, the lowest slot (DESIGN CHOICE, log entry 29:
R51 names neither). -/
def State.freeContext (s : State) (core bytes : Nat) : Option (Nat × Nat) :=
  (List.range Config.partitionsPerCore).findSome? fun p =>
    if s.ctxRoom core p bytes 1 then ((List.range Config.slotsPerPartition).find? (s.slotFree core p)).map fun i => (p, i) else none

/-- What the groups of a launch, a task or a node share. -/
structure Work where
  vf : Nat
  launch : Nat
  task : Option Nat
  node : Option Nat
  kernel : Kernel
  payload : List Word
  blocks : Nat
  succ : List Word
  records : List (List Word) := []
  deriving DecidableEq, Repr

/-- A list of words of a given length, zero beyond its end. -/
def padWords (ws : List Word) (n : Nat) : List Word := (List.range n).map fun i => ws.getD i 0

/-- The vector registers of a group that receives records: lane n holds word i of record n in v_i (R209); else uniform zero. -/
def startRegs (count : Nat) (records : List (List Word)) : List VReg :=
  let width := (records.head?.map List.length).getD 0
  (List.range count).map fun i => if i < width then .g (lanes.map fun n => (records.getD n []).getD i 0) else .u 0

/-- A group at its first instruction (R39, R236). -/
def Work.group (w : Work) (s : State) (core part slot bid index gidx held : Nat) : Group :=
  let live := maskWhere (· < held)
  { core := core, part := part, slot := slot, vf := w.vf, launch := w.launch, task := w.task, node := w.node, block := some bid,
    gidx := gidx, item := if w.kernel.kind = 1 then some index else none, count := w.kernel.count, budget := w.kernel.budget,
    vregs := startRegs w.kernel.count w.records,
    sregs := padWords w.payload 56 ++ List.replicate 64 0
      ++ [BitVec.ofNat 32 index, BitVec.ofNat 32 gidx, BitVec.ofNat 32 w.blocks, BitVec.ofNat 32 (coordOf core), BitVec.ofNat 32 held],
    window := hiWord w.kernel.entry, splits := [(0, { pc := loWord w.kernel.entry, mask := live, since := s.now })],
    exited := ~~~live, succ := w.succ, dbg := (s.vf w.vf).debug }

/-- Groups of a block in index order, filling the cores in their order (R51); none where they do not fit. -/
def placeGroups (w : Work) (bid index nlanes : Nat) : Nat → List Nat → Nat → List Nat → State → Option (State × List Nat)
  | 0, _, _, _, _ => none
  | f + 1, cores, g, ids, s =>
    if nlanes ≤ 96 * g then some (s, ids.reverse)
    else match cores with
      | [] => none
      | c :: cs =>
        match s.freeContext c (grant w.kernel.budget w.kernel.count) with
        | none => placeGroups w bid index nlanes f cs g ids s
        | some (part, slot) =>
          let x := w.group s c part slot bid index g (min 96 (nlanes - 96 * g))
          placeGroups w bid index nlanes f cores (g + 1) (s.nextId :: ids)
            { s with groups := tset s.nextId x s.groups, nextId := s.nextId + 1 }

/-- The `.scratch` allocation on each core of a block (R51, R132). -/
def State.allocScratch (s : State) (v bytes : Nat) : List Nat → Option (List (Nat × Nat × Nat))
  | [] => some []
  | c :: cs => match s.scratchRoom v c bytes, s.allocScratch v bytes cs with
    | some off, some l => some ((c, off, bytes) :: l)
    | _, _ => none

/-- The barriers of a level with an owner, expecting the groups `ids` (R53). -/
def newBarriers (level owner sub n : Nat) (ids : List Nat) : List (BarKey × Barrier) :=
  (List.range n).map fun i => (⟨level, owner, sub, i⟩, { expected := ids.length, members := ids })

/-- The groups `ids` join the pod barriers of their launch (R261). -/
def State.joinPod (s : State) (w : Work) (ids : List Nat) : State :=
  match tget w.launch s.launches with
  | none => s
  | some l =>
    { s with barriers := s.barriers.map fun b =>
        if b.1.level = 4 ∧ b.1.owner = l.podl ∧ b.1.id < w.kernel.pbars then (b.1, { b.2 with members := b.2.members ++ ids }) else b }

/-- The first `n` values that the pool holds for an item go to its core. -/
def unspill (lid item : Nat) : Nat → List Fwd → List Fwd
  | _, [] => []
  | 0, fs => fs
  | n + 1, f :: fs =>
    if f.launch = lid ∧ f.item = item ∧ f.spilled then { f with spilled := false } :: unspill lid item n fs
    else f :: unspill lid item (n + 1) fs

/-- Spilled values move to the core of their dispatched receiver while it has free entries (R63). -/
def State.unspillItem (s : State) (lid item : Nat) : State :=
  let free := match s.itemCore lid item with | some c => Config.forwardEntriesPerCore - s.fwdHeld c | none => 0
  { s with fwds := unspill lid item free s.fwds }

/-- A block placed on exactly the cores given (R39, R51, R133). -/
def State.placeBlock (s : State) (w : Work) (index nlanes : Nat) (cores : List Nat) : Option State :=
  match s.allocScratch w.vf w.kernel.scratch cores with
  | none => none
  | some places =>
    let bid := s.nextId
    let n := (nlanes + 95) / 96
    match placeGroups w bid index nlanes (n + cores.length + 1) cores 0 [] { s with nextId := bid + 1 } with
    | none => none
    | some (t, ids) =>
      if cores.all fun c => ids.any fun i => (tget i t.groups).any fun g => g.core == c then
        let t := places.foldl (fun (t : State) p =>
          t.undefScratch (scratchKey p.1 p.2.1) p.2.2) t
        let t : State := { t with
          blocks := tset bid ⟨w.launch, w.task, w.vf, index, places, ids, decide (1 < cores.length), cores⟩ t.blocks,
          barriers := t.barriers ++ newBarriers 1 (blockOwner (some bid)) 0 w.kernel.bars ids,
          launches := tmod w.launch (fun l => { l with sums := { l.sums with started := l.sums.started + ids.length } }) t.launches }
        some ((if w.kernel.kind = 1 then t.unspillItem w.launch index else t).joinPod w ids)
      else none

/-- The most contexts that a core has for a grant (R76). -/
def coreCapacity (bytes : Nat) : Nat :=
  if bytes = 0 then Config.partitionsPerCore * Config.slotsPerPartition
  else Config.partitionsPerCore * min Config.slotsPerPartition (Config.partitionRegisterBytes / bytes)

/-- The fewest cores that hold the register storage of a block of `n` lanes of a kernel (R51; log entry 63). -/
def coresFor (k : Kernel) (n : Nat) : Nat :=
  let cap := coreCapacity (grant k.budget k.count)
  if cap = 0 then 5 else ((n + 95) / 96 + cap - 1) / cap

/-- Cores that a block of a kernel needs (R51). -/
def coresNeeded (k : Kernel) : Nat := coresFor k k.lanes

/-- Every choice of elements of a list, in its order. -/
def subsets : List α → List (List α)
  | [] => [[]]
  | x :: xs => (subsets xs).map (x :: ·) ++ subsets xs

/-- The sets of cores on which one block may lie: one core, or more of one quad, the fewest first (R51). -/
def coreChoices (cores : List Nat) : List (List Nat) :=
  let sorted := sortBy id cores
  let quads := (sorted.map quadOf).eraseDups
  sortBy List.length ((quads.flatMap fun q => subsets (sorted.filter fun c => quadOf c == q)).filter fun l => !l.isEmpty)

/-- A block placed on the first of some choices of cores that has the room now, on as many as its lanes need by the cores' capacity (R51;
DEDUCED, log entry 63: so R203 and R269 read it); it waits for their room. -/
def State.placeFewest (s : State) (w : Work) (index nlanes : Nat) (choices : List (List Nat)) : Option State :=
  (choices.filter fun cs => cs.length == coresFor w.kernel nlanes).findSome? (s.placeBlock w index nlanes)

/-- A block of a launch or a node placed among the cores given, on the fewest that suffice (R51). -/
def State.placeAny (s : State) (w : Work) (index nlanes : Nat) (cores : List Nat) : Option State :=
  s.placeFewest w index nlanes (coreChoices cores)

/-- Blocks `first` on, `n` of them, placed one after the other by `f`. -/
def placeMany (f : State → Nat → Option State) : Nat → Nat → State → Option State
  | 0, _, s => some s
  | n + 1, i, s => match f s i with
    | none => none
    | some t => placeMany f n (i + 1) t

/-- A whole grid placed block by block by `f`, with its quad and grid barriers (R52, R53). -/
def State.placeWhole (s : State) (w : Work) (f : State → Nat → Option State) : Option State :=
  match placeMany f w.blocks 0 s with
  | none => none
  | some t =>
    let mine := t.groups.filter fun p => p.2.launch == w.launch && p.2.task == w.task && p.2.life == .resident && p.2.block.isSome
    let owner := w.task.getD w.launch
    let quads := (mine.map fun p => quadOf p.2.core).eraseDups
    some { t with barriers := t.barriers
      ++ (quads.flatMap fun q => newBarriers 2 owner q w.kernel.qbars ((mine.filter fun p => quadOf p.2.core == q).map fun p => p.1))
      ++ newBarriers 3 owner 0 w.kernel.gbars (mine.map fun p => p.1) }

/-- Entries of a core's task queue (R203). -/
def State.queueDepth (s : State) (core : Nat) : Nat := tcount (fun t => t.place == .queued core) s.tasks

/-- The core of a VF whose queue holds the fewest entries, the lower coordinate first (R203). -/
def State.shallowest (s : State) (v : Nat) : Option Nat := leastBy s.queueDepth (s.coreSet v)

/-- The cores on which a block of a task in the queue of core `c` may lie (R51, R203, R220): that core, where one core can hold it;
else cores of its quad, with `must` that core among them. The blocks of a task that has several may go to the quad's other cores
too (log entry 42). -/
def taskChoices (w : Work) (c : Nat) (must : Bool) (cores : List Nat) : List (List Nat) :=
  let quad := coreChoices ((c :: cores.erase c).filter fun x => quadOf x == quadOf c)
  if coresNeeded w.kernel ≤ 1 then
    (if must || w.blocks ≤ 1 then [[c]] else [c] :: quad.filter fun l => l.length == 1 && !l.contains c)
  else if must then quad.filter fun l => l.contains c else quad

/-- A block of a task placed on the fewest cores that suffice (R51, R203, R220). -/
def State.placeNear (s : State) (w : Work) (index c : Nat) (must : Bool) (cores : List Nat) : Option State :=
  s.placeFewest w index w.kernel.lanes (taskChoices w c must cores)

/-- A cairn that can place tasks: R220 treats one that is lost or to be dropped as none. -/
def Cairn.places (k : Cairn) : Bool := !k.drop && !k.lost

/-- The cairn that places a task: the one its packet names, else one handed to it (R218, R220; that the packet's goes first is a DESIGN CHOICE, log
entry 105: the spec does not say; nor does it for two handed to one task, of which the one created first does, log entry 111). -/
def State.taskCairn (s : State) (uid : Nat) (t : Task) : Option Cairn :=
  ((t.aff.bind (s.cairn t.vf)).filter Cairn.places).orElse fun _ => s.cairns.find? fun k => k.hand == some (.task uid) && k.places

/-- The cores of a VF on a quad. -/
def State.quadCores (s : State) (v q : Nat) : List Nat := (s.coreSet v).filter fun c => quadOf c == q

/-- The core in whose queue a task is placed (R203, R220): its cairn's holder where it has affinity or is the target of a hand;
the quad with the fewest entries for a block of several cores; else the shallowest core. The Bool: wait, the cairn moves. Of the quads, those are
meant on which the VF has as many cores as the block needs (DEDUCED, log entry 93: R203 does not say so); on the quad, the task goes into the queue
of its shallowest core (DESIGN CHOICE, log entry 101: R203 names the quad only), and the quad's total counts the queues of the VF's own cores there
(DESIGN CHOICE, log entry 110). -/
def State.taskTarget (s : State) (uid : Nat) (t : Task) : Option Nat × Bool :=
  let usual : Option Nat :=
    if 1 < coresNeeded t.kernel then
      let quads := (((s.coreSet t.vf).map quadOf).eraseDups).filter fun q => decide (coresNeeded t.kernel ≤ (s.quadCores t.vf q).length)
      (leastBy (fun q => (s.quadCores t.vf q).foldl (fun n c => n + s.queueDepth c) 0) quads).bind fun q =>
        leastBy s.queueDepth (s.quadCores t.vf q)
    else s.shallowest t.vf
  match s.taskCairn uid t with
  | none => (usual, false)
  | some k =>
    if k.moving.isSome then (none, true)
    else if k.restorable then (s.shallowest t.vf, false)
    else (some k.holder, false)

/-- A cairn after the loss of its holder (R222). -/
def Cairn.lose (k : Cairn) : Cairn :=
  { k with opens := [], topens := [], moving := none, lost := !k.mir, restorable := k.mir }

/-- Splits that wait for a cairn's move look again (R223). -/
def Group.wake (g : Group) (name : DWord) : Group :=
  { g with splits := g.splits.map fun p => match p.2.wait with
      | .move n sd => if n = name then (p.1, { p.2 with wait := .again (.cairn name sd) }) else p
      | _ => p }

/-- The leaf and the byte of memory that a 57-bit address of a VF names for the front end, which holds no TLB (R273). -/
def State.vaLeaf (s : State) (v va : Nat) : Option (Leaf × Nat) :=
  match walkFrom s.mem (s.vfDev v) va 4 (s.vf v).ptRoot.toNat with
  | none => none
  | some (e, size) =>
    let l := leafOf e va size
    let dev := if l.home = pkgOf v then s.vfDev v else s.vfDev (s.peerVf v l.home)
    let pa := s.backing v va false l
    if (l.home == pkgOf v || s.hasTriple v l.home) && decide (pa < s.devBytes dev) then some (l, memKey dev pa) else none

/-- The leaf and the byte of memory that a global address of a VF names for the front end (R125, R273). -/
def State.vfLeaf (s : State) (v : Nat) (a : DWord) : Option (Leaf × Nat) := if !canonical a then none else s.vaLeaf v (va57 a)

/-! Images (R33, R34): the loader keeps one for each distinct placement (log entry 76). -/

/-- A VF's images with COORD8 entries that the kernels of `n` descriptors from `first` on use (R34). -/
def Vf.imagesOf (x : Vf) (first n : Nat) : List Image :=
  x.images.filter fun m => !m.coords.isEmpty && m.descs.any fun d => decide (first ≤ d) && decide (d < first + n)

/-- The images of a launch that carry COORD8 entries. -/
def State.launchImages (s : State) (l : Launch) : List Image := (s.vf l.vf).imagesOf l.first (max 1 l.nodes.length)

/-- The bytes of an image's COORD8 entries for the VF's core set of now (R33, R34); one whose index names no core keeps its old value (DESIGN CHOICE,
log entry 87: R34 refuses a launch for such an index and gives none for a running one). -/
def State.coordBytes (s : State) (v : Nat) (m : Image) (old : List Byte) : List Byte :=
  let cores := sortBy id (s.coreSet v)
  m.coords.zipIdx.map fun c => match cores[c.1.2]? with | some x => BitVec.ofNat 8 (coordOf x) | none => old.getD c.2 0

/-- Where byte `off` of an image lies, in memory or in a copy; none where no page of the VF maps it. -/
def State.imageKey (s : State) (v : Nat) (m : Image) (copy : Option Nat) (off : Nat) : Option Nat :=
  match copy with
  | some n => some (copyKey n (m.base + off))
  | none => (s.vaLeaf v (m.base + off)).map fun x => x.2

/-- A word of code is new to every instruction cache. -/
def freshWord (key : Nat) (cache : Table Word) : Table Word := cache.filter fun x => x.1 % 2 ^ 160 != key / 4 * 4

/-- A byte that the loader writes, whatever the pages permit: no fetch finds an older one there (R34). -/
def State.loadByte (s : State) (key : Nat) (b : Byte) : State :=
  { s.storeMem key [b] with
    written := s.written.map fun (x : Nat × Nat × Nat × Mem) => if x.1 ≤ key ∧ key < x.2.1 then (x.1, x.2.1, x.2.2.1, x.2.2.2.put key b) else x,
    cores := s.cores.map fun c => (c.1, { c.2 with icache := freshWord key c.2.icache }),
    quads := (s.storeMem key [b]).quads.map fun q => (q.1, { q.2 with icache := freshWord key q.2.icache }) }

/-- The loader's rewriting of an image's COORD8 entries, in memory or in a copy; an entry that no page of the VF maps is left as it is, and the launch
goes on (DESIGN CHOICE, log entry 76: R34 does not say). -/
def State.putCoords (s : State) (v : Nat) (m : Image) (copy : Option Nat) (bytes : List Byte) : State :=
  (m.coords.zip bytes).foldl (fun (s : State) x => match s.imageKey v m copy x.1.1 with
    | some k => s.loadByte k x.2
    | none => s) s

/-- The bytes of an image as they stand in memory or in a copy. -/
def State.imageBytes (s : State) (v : Nat) (m : Image) (copy : Option Nat) : List Byte :=
  (List.range m.size).map fun off => ((s.imageKey v m copy off).map s.mem.get).getD 0

/-- A VF's image of an address changed. -/
def State.setImage (s : State) (v : Nat) (m : Image) : State :=
  s.setVf v { s.vf v with images := (s.vf v).images.map fun x => if x.base = m.base then m else x }

/-- A new copy of an image with some bytes, its COORD8 entries as a placement gives them. -/
def State.copyImage (s : State) (v : Nat) (m : Image) (bytes coords : List Byte) : State × ImageUse :=
  let n := s.nextId
  let s : State := { s with mem := s.mem.putAll (copyKey n m.base) bytes, nextId := n + 1 }
  ((s.putCoords v m (some n) coords).setImage v { m with loaded := m.loaded ++ [(coords, some n)] }, ⟨m.base, m.size, some n⟩)

/-- An image loaded for the core set of now, once for each distinct placement (R34): the first into memory, where it stands already; each other one
into a copy beside it (DESIGN CHOICE, log entry 76: the spec gives no place for a second copy). -/
def State.loadImage (s : State) (v : Nat) (m : Image) : State × ImageUse :=
  let coords := s.coordBytes v m []
  match m.loaded.find? fun x => x.1 == coords with
  | some x => (s, ⟨m.base, m.size, x.2⟩)
  | none =>
    if m.loaded.isEmpty then
      ((s.putCoords v m none coords).setImage v { m with file := s.imageBytes v m none, loaded := [(coords, none)] }, ⟨m.base, m.size, none⟩)
    else s.copyImage v m m.file coords

/-- Another launch that has not ended uses what a launch uses of an image. -/
def State.imageShared (s : State) (lid v : Nat) (u : ImageUse) : Bool :=
  s.launches.any fun x => x.1 != lid && x.2.vf == v && !x.2.ended && x.2.images.contains u

/-- An image of a running launch rewritten for the core set of now (R34): where it stands; or, where another launch uses it, into a copy of its own with
its bytes as they are. -/
def State.reloadImage (s : State) (lid v : Nat) (m : Image) (u : ImageUse) : State × ImageUse :=
  let old := ((m.loaded.find? fun x => x.2 == u.copy).map fun x => x.1).getD []
  let coords := s.coordBytes v m old
  if coords = old then (s, u)
  else if s.imageShared lid v u then s.copyImage v m (s.imageBytes v m u.copy) coords
  else ((s.putCoords v m u.copy coords).setImage v { m with loaded := m.loaded.map fun x => if x.2 = u.copy then (coords, x.2) else x }, u)

/-- Images are taken one after the other, and the launch keeps where it finds each. -/
def State.useImages (s : State) (lid : Nat) (ms : List Image) (f : State → Image → State × ImageUse) : State :=
  let r := ms.foldl (fun (r : State × List ImageUse) m => let x := f r.1 m; (x.1, r.2 ++ [x.2])) (s, [])
  { r.1 with launches := tmod lid (fun l => { l with images := r.2 }) r.1.launches }

/-- The images of a launch loaded for the core set of now (R34). -/
def State.loadImages (s : State) (lid : Nat) (l : Launch) : State :=
  s.useImages lid (s.launchImages l) fun s m => s.loadImage l.vf m

/-- The images of a running launch rewritten for the core set of now, when the placement of one of its tasks is repeated (R34, R271). -/
def State.reloadImages (s : State) (lid : Nat) (l : Launch) : State :=
  s.useImages lid (s.launchImages l) fun s m => match l.images.find? fun u => u.base == m.base with
    | some u => s.reloadImage lid l.vf m u
    | none => s.loadImage l.vf m

/-- A launch has started groups. -/
def Launch.begun (l : Launch) : Bool := l.next != 0 || l.sums.started != 0

/-- The cairns of a lost core are lost or restorable, a move to it does not happen, and what waited for a move looks again (R222,
R223). -/
def State.loseCairns (s : State) (core : Nat) : State :=
  let hit := s.cairns.filter fun k => (k.holder == core && !k.lost && !k.restorable) || k.moving.any fun m => m.core == core
  { s with
    cairns := s.cairns.map fun k =>
      if k.holder = core ∧ !k.lost ∧ !k.restorable then k.lose
      else match k.moving with | some m => if m.core = core then { k with moving := none } else k | none => k,
    wbacks := s.wbacks.filter fun w => w.2.waiter.isSome || !hit.any fun k => k.vf == w.2.vf && k.name == w.2.name && k.holder == core,
    groups := s.groups.map fun p => (p.1, hit.foldl (fun g k => if g.vf = k.vf then g.wake k.name else g) p.2) }

/-- A task in the queue of a lost core is placed again (R203, R220), the images of an affinity task's launch rewritten (R34, R271). Where its target's
queue is full, or its cairn moves, it waits at the FE die without its keys (R203), whatever its global queue holds (DESIGN CHOICE, log entry 103:
R199 gives no place beyond 1,024); one that has started groups, or is retried, keeps its keys and goes into a queue whatever that holds (R201,
R243, log entry 26), or, where the VF has no core left, waits at the FE die with them (DESIGN CHOICE, log entry 102: R201 and R203 differ). -/
def State.rehome (s : State) (uid : Nat) (t : Task) : State :=
  let kept := t.next != 0 || t.attempts != 0
  let t' := match (s.taskTarget uid t).1 with
    | some c => if kept || decide (s.queueDepth c < Config.coreQueueEntries) then { t with place := .queued c }
                else { t with place := .waiting, held := [] }
    | none => if kept then { t with place := match s.shallowest t.vf with | some c => .queued c | none => .waiting }
              else { t with place := .waiting, held := [] }
  let s : State := { s with tasks := tset uid t' s.tasks }
  match t.aff, tget t.launch s.launches with
  | some _, some l => s.reloadImages t.launch l
  | _, _ => s

/-- The loss of a core (R222, R245, R270, R220): its cairns are lost or restorable, its groups and those of blocks that span it are killed with
MCHK, and the tasks in its queue are placed again. -/
def State.loseCore (s : State) (core : Nat) : State :=
  let s := s.setCore core { s.coreAt core with lost := true }
  let s : State := { s with syslog := s.syslog ++ [LogEvent.coreLoss core] }
  let s := s.loseCairns core
  let spans (g : Group) : Bool := (g.block.bind fun b => tget b s.blocks).any fun b => b.cores.contains core
  let here := s.groups.filter fun p => (p.2.core == core || spans p.2) && p.2.life != .retired
  let s := here.foldl (fun s p => s.kill p.1 causeMCHK ((p.2.splits.head?.map fun x => x.2.pc).getD 0)) s
  s.tasks.foldl (fun s x => if x.2.place = .queued core then s.rehome x.1 x.2 else s) s

end Sys2Proof.Machine
end

