-- ==== Sys2Proof/Machine/Coop.lean ====
section
/-! DEFINITION. Groups together: barriers, REGRP, SPAWN, FSEND (R44, R49, R53-R68, R281-R285, R302, R321, R345), and the device's
steps in a group's life: merging, waits, traps, breakpoints, silent errors, pre-emption (R44, R45, R78, R81, R228, R234, R239,
R242, R244-R246). -/

namespace Sys2Proof.Machine

/-- Case 3 of R44: the split leaves its lanes at `p` and goes on with those of its most recent deferral entry. -/
def Group.joinDefer (g : Group) (k : Nat) (p : Word) (d : Defer) (i now : Nat) : Group :=
  match tget k g.splits with
  | none => g
  | some sp =>
    { g with defer := g.defer.eraseIdx i ++ [⟨k, p, sp.mask⟩],
             splits := tset k { sp with pc := d.addr, mask := d.mask, wait := .none, since := now + 1 } g.splits }

/-- A split arrives at BAR.grp or at REGRP at its PC (R44, R49, R66). -/
def arriveJoin (c : Ctx) (gid k : Nat) (w : Wait) (s : State) : Act :=
  match lastOwned k c.g.defer with
  | some (d, i) => .away (s.modGroup gid fun g => g.joinDefer k c.pc d i s.now)
  | none => .away (((s.waitOn gid k w c.next).settleGrp gid).settleRegrp c.g.block c.g.core)

/-- The checks common to the barrier family above grp (R281, R262), then `f` with the barrier and its key. -/
def barCheck (c : Ctx) (s : State) (l : BarLevel) (id : Nat) (f : Nat → BarKey → Barrier → Act) : Act :=
  match c.who with
  | .group gid _ =>
    match s.barKey c.g l.code id with
    | none => trapAct causeILLEGAL
    | some key => let b := (s.barrier key).getD {}; if b.broken then trapAct causeFABLOST else f gid key b
  | _ => .done s

/-- An arrival of a group at a pod barrier is a release at pod scope, and waits at issue as one (R58, R252, R261). -/
def State.podWaits (s : State) (key : BarKey) (b : Barrier) (gid v : Nat) : Bool :=
  key.level == 4 && b.members.contains gid && !b.arrived.contains gid && !s.podReady v gid

/-- BAR (R49, R55, R282). -/
def execBar (l : BarLevel) (id : BitVec 4) (s : State) : Host.Outcome State Fault Refusal :=
  issue (.bar l id) s fun c s =>
    if l = .grp then match c.who with
      | .group gid k => arriveJoin c gid k .barGrp s
      | _ => .done s
    else barCheck c s l id.toNat fun gid key b =>
      if !b.members.contains gid then .done s
      else if s.podWaits key b gid c.g.vf then .wait (.again .acks) c.next s
      else
        let t := s.barStep key gid c.g.vf false
        if (t.barrier key).map Barrier.phase = some b.phase then .wait (.bar key b.phase) c.next t else .done t

/-- BARA (R55, R283). -/
def execBara (l : BarLevel) (id : BitVec 4) (sd : Reg) (s : State) : Host.Outcome State Fault Refusal :=
  issue (.bara l id sd) s fun c s => barCheck c s l id.toNat fun gid key b =>
    if s.podWaits key b gid c.g.vf then .wait (.again .acks) c.next s
    else if b.members.contains gid then .done (c.setS sd.toNat b.phase (s.barStep key gid c.g.vf false))
    else .done (c.setS sd.toNat (b.phase - 1) s)

/-- BARD (R55, R284). -/
def execBard (l : BarLevel) (id : BitVec 4) (s : State) : Host.Outcome State Fault Refusal :=
  issue (.bard l id) s fun c s => barCheck c s l id.toNat fun gid key b =>
    if s.podWaits key b gid c.g.vf then .wait (.again .acks) c.next s
    else .done (if b.members.contains gid then s.barStep key gid c.g.vf true else s)

/-- BARW (R55, R285). -/
def execBarw (l : BarLevel) (id : BitVec 4) (sa : Reg) (s : State) : Host.Outcome State Fault Refusal :=
  issue (.barw l id sa) s fun c s => barCheck c s l id.toNat fun gid key b =>
    if !b.members.contains gid || b.phase != c.s sa.toNat then .done s else .wait (.bar key b.phase) c.next s

/-- The block of a group was placed on more than one core (R67, R168). -/
def State.spansCores (s : State) (g : Group) : Bool := (g.block.bind fun b => tget b s.blocks).any Block.spans

/-- REGRP (R66, R67, R321). -/
def execRegrp (first count : Reg) (s : State) : Host.Outcome State Fault Refusal :=
  issue (.regrp first count) s fun c s =>
    match c.who with
    | .group gid k =>
      if c.g.trap.isSome then trapAct causeILLEGAL
      else if c.g.item.isSome || c.g.block.isNone || s.spansCores c.g then trapAct causeREGRPX
      else arriveJoin c gid k (.regrp first.toNat count.toNat) s
    | _ => .done s

/-- FSEND (R61, R63, R302): of two splits that send on one port, the earlier in issue order sends. -/
def execFsend (port : BitVec 2) (s : State) : Host.Outcome State Fault Refusal :=
  issue (.fsend port) s fun c s =>
    let p := port.toNat
    match c.who, s.portDecl c.g p, c.g.item with
    | .group gid _, some d, some i =>
      if c.g.trap.isSome then trapAct causeILLEGAL
      else if c.g.sent.contains p then .trap causeFWDTWICE 127 0 (BitVec.ofNat 32 p)
      else if !s.fwdRoom c.g i (i + d.k)
          || s.ahead (c.stamp s) (fun h w => h.core == c.g.core && h.part == c.g.part && h.slot == c.g.slot && w == .send p) then
        .hold (.send p) s
      else .done ((s.fwdSend c.g (i + d.k) p (.arrived (c.g.portSource d))).modGroup gid fun g => { g with sent := g.sent ++ [p] })
    | _, _, _ => trapAct causeILLEGAL

/-- The group that SPAWN makes (R68). -/
def Group.spawned (g : Group) (part slot : Nat) (args : List Word) (pc : Word) (dbg : Debug) (now : Nat) : Group :=
  { core := g.core, part := part, slot := slot, vf := g.vf, launch := g.launch, task := g.task, node := g.node,
    gidx := 0xFFFFFFFF, count := g.count, budget := g.budget, vregs := List.replicate g.count (.u 0),
    sregs := args ++ List.replicate 112 0 ++ [g.sregs.getD 120 0, 0xFFFFFFFF, g.sregs.getD 122 0, g.sregs.getD 123 0, 96],
    window := g.window, splits := [(0, { pc := pc, mask := fullMask, since := now })], succ := g.succ, dbg := dbg }

/-- SPAWN (R68, R345). The new split counts as ready from the clk of SPAWN, though its partition may have issued in it (DESIGN CHOICE, log entry
97). -/
def execSpawn (off : BitVec 25) (sd sa : Reg) (s : State) : Host.Outcome State Fault Refusal :=
  issue (.spawn off sd sa) s fun c s =>
    let t := c.target off.toInt
    if c.g.trap.isSome then trapAct causeILLEGAL
    else if hiWord t ≠ c.g.window then trapAct causeXLATE
    else if c.g.item.isSome then .done (c.setS sd.toNat 2 s)
    else match s.freeContext c.g.core (grant c.g.budget c.g.count) with
      | none => .done (c.setS sd.toNat 1 s)
      | some (part, slot) =>
        let x := c.g.spawned part slot ((regsFrom sa.toNat 8).map c.s) (loWord t) (s.vf c.g.vf).debug s.now
        .done (c.setS sd.toNat 0 { s with
          groups := tset s.nextId x s.groups, nextId := s.nextId + 1,
          launches := tmod c.g.launch (fun l => { l with sums := { l.sums with started := l.sums.started + 1 } }) s.launches })

/-- A group's splits may issue: it is resident and no trap of it is pending (R228). -/
def Group.runs (g : Group) : Bool := g.life == .resident && g.pend.isNone

/-- A group may issue: no trap of it is pending, no STEP and no report of FABLOST is due, and every lane of its remote instructions has been
sent (R228, R241, R252, R260). -/
def Group.issues (g : Group) : Bool :=
  g.runs && !g.fabDue && (g.splits.all fun p => p.2.due.isNone) && g.rinstr.all fun r => r.unsent.isEmpty

/-- A wait has ended (R50, R55, R80, R81): a barrier's phase has changed; a counter is low enough; a YIELD's 16 clk are over. -/
def State.waitOver (s : State) (gid : Nat) (w : Wait) : Bool :=
  match w with
  | .bar k p => (s.barrier k).map Barrier.phase != some p
  | .counter c t _ => s.counter gid c ≤ t
  | .yield since => since + 16 ≤ s.now
  | _ => false

/-- What an instruction of split `k` of a group waits for has come, so that it may issue again (R50, R60, R78, R252). -/
def State.comes (s : State) (gid k : Nat) (g : Group) : Again → Bool
  | .regs l => !l.any (g.pending k).contains
  | .port ps => ps.all fun p => (s.portVal g p).isSome
  | .acks => s.podReady g.vf gid
  | .applied v => s.allApplied v
  | .entry => decide (s.ropCount gid < Config.remoteEntries)
  | .flight home => !s.shut g.vf home
  | .send p => match s.portDecl g p, g.item with | some d, some i => s.fwdRoom g i (i + d.k) | _, _ => true
  | .count c => decide (s.counter gid c < 255)
  | .tasks prio => decide (tcount (fun x => x.vf == g.vf && x.prio == prio && x.place == .waiting) s.tasks < Config.taskQueueEntries)
  | .emit lid node n => (tget lid s.launches).all fun l => l.ended || (l.nodes[node]?).all fun x => decide (n + x.queue.length ≤ x.kernel.queue)
  | .release => s.ropCount gid == 0
  | .fork => decide ((s.quad (quadOf g.core)).queue.length < Config.forkQueueEntries)
  | .rdv _ fate => fate.isSome
  | .cairn name _ => !s.cairnBusy g.vf name
  | .queue q => !(s.queue (queueKey g.core q)).entries.isEmpty
  | .gone => true

/-- A split could issue now (R50, R81): it does not wait, what its instruction waits for has come, or its wait is over. -/
def State.splitReady (s : State) (gid k : Nat) (g : Group) (sp : Split) : Bool :=
  match sp.wait with
  | .none => true
  | .again w => s.comes gid k g w
  | .bar .. | .counter .. | .yield _ => s.waitOver gid sp.wait
  | _ => false

/-- The next instruction of a split would wait for a register or a port before it issues (R50, R60, R78). -/
def State.stalls (s : State) (gid k : Nat) (g : Group) (sp : Split) : Bool :=
  sp.held.isNone && !((g.pending k).isEmpty && g.item.isNone) && (match sp.wait with | .none | .again _ => true | _ => false) &&
    match s.fetchInstr false g.core g.vf g.launch (pairOf g.window sp.pc) with
    | .ok i _ => match groupCheck s { who := .group gid k, g := g, pc := sp.pc, len := i.len, mask := sp.mask } i with
      | some (.wait ..) => true
      | _ => false
    | _ => false

/-- A split is about to issue (R44, R45): it waits for nothing but registers, or what it waited for has come, and its instruction
has not read its operands. -/
def State.atIssue (s : State) (gid k : Nat) (g : Group) (sp : Split) : Bool :=
  g.runs && sp.held.isNone && sp.due.isNone && match sp.wait with
    | .none | .again (.regs _) => true
    | .again w => s.comes gid k g w
    | _ => false

/-- Two splits of a group that are about to issue at one address merge (R45); the merged one has been ready as long as the longer of the two (DESIGN
CHOICE, log entry 108: R50 does not say). -/
def mergeSplits (s : State) (gid a b : Nat) : State :=
  match s.group? gid with
  | none => s
  | some g =>
    match tget a g.splits, tget b g.splits with
    | some x, some y =>
      if s.atIssue gid a g x && s.atIssue gid b g y && a < b && x.pc == y.pc then
        s.setGroup gid { g with
          splits := tset a { x with mask := x.mask ||| y.mask, wait := .none, exempt := x.exempt && y.exempt, since := min x.since y.since } (tdel b g.splits),
          defer := g.defer.map fun d => if d.owner = b then { d with owner := a } else d }
      else s
    | _, _ => s

/-- A split at the address of its most recent deferral entry takes its lanes back (R44 case 1); at most `n` entries. -/
def Group.rejoin (k : Nat) : Nat → Group → Group
  | 0, g => g
  | n + 1, g =>
    match tget k g.splits, lastOwned k g.defer with
    | some sp, some (d, i) =>
      if d.addr == sp.pc then
        Group.rejoin k n { g with defer := g.defer.eraseIdx i, splits := tset k { sp with mask := sp.mask ||| d.mask } g.splits }
      else g
    | _, _ => g

/-- The deferral entries that a split about to issue takes back (R44 case 1). -/
def State.rejoin (s : State) (gid k : Nat) : State :=
  match (s.group? gid).bind fun g => (tget k g.splits).map fun sp => (g, sp) with
  | some (g, sp) => if s.atIssue gid k g sp then s.setGroup gid (g.rejoin k 8) else s
  | none => s

/-- SPLIT_MERGE (R45). -/
def execSplitMerge (gid a b : Nat) (s : State) : Host.Outcome State Fault Refusal := .next (mergeSplits s gid a b)
/-- DEFERRAL_REJOIN (R44). -/
def execDeferralRejoin (gid split : Nat) (s : State) : Host.Outcome State Fault Refusal := .next (s.rejoin gid split)

/-- No other split of the partition is ready in this clk (R81): none has issued in it, and none could. -/
def State.aloneReady (s : State) (gid k : Nat) (g : Group) : Bool :=
  (tget (partKey g.core g.part) s.issued).all (fun t => decide (t < s.now)) && s.groups.all fun p => !(p.2.holds g.core g.part && p.2.issues)
    || p.2.splits.all fun q => (p.1 == gid && q.1 == k) || !s.splitReady p.1 q.1 p.2 q.2 || s.stalls p.1 q.1 p.2 q.2

/-- A split of a group whose wait has ended completes its instruction, ready from clk `now` (R241): a parked one is at its continuation already. -/
def Group.endWait (g : Group) (k now : Nat) : Group :=
  match tget k g.splits with
  | none => g
  | some sp => match sp.wait with
    | .yield _ | .counter _ _ true => g.complete k sp.cont sp.pc now
    | _ => g.complete k sp.pc sp.cont now

/-- A split whose wait has ended completes its instruction (R241). -/
def State.endWait (s : State) (gid k : Nat) : State := (s.modGroup gid fun g => g.endWait k s.now).stepDue gid

/-- The waits of a group's splits that are over end (R50, R55, R80, R81); what ended one came in clk `was`, but a YIELD's 16 clk end by themselves. -/
def State.endWaits (s : State) (was gid : Nat) : State :=
  match s.group? gid with
  | none => s
  | some g =>
    let past := if g.runs then g.splits.filter fun p => s.waitOver gid p.2.wait else []
    if past.isEmpty then s
    else (s.setGroup gid (past.foldl (fun g p =>
      g.endWait p.1 (max p.2.since (match p.2.wait with | .yield t => t + 16 | _ => was))) g)).stepDue gid

/-- YIELD_TIMEOUT (R81). -/
def execYieldTimeout (gid split : Nat) (s : State) : Host.Outcome State Fault Refusal :=
  .next <| match s.group? gid with
    | none => s
    | some g => match tget split g.splits with
      | some sp => match sp.wait with
        | .yield _ => if g.runs && (s.waitOver gid sp.wait || s.aloneReady gid split g) then s.endWait gid split else s
        | _ => s
      | none => s

/-- PENDING_WRITE_COMPLETE: the register writes in flight of a group arrive (R78). -/
def execPendingWriteComplete (gid : Nat) (s : State) : Host.Outcome State Fault Refusal :=
  .next (s.modGroup gid fun g => { g with busy := [] })

/-- CONTEXT_RELEASE: the context of a retired group returns to its partition when no write is pending, remote ones with it (R82). -/
def execContextRelease (gid : Nat) (s : State) : Host.Outcome State Fault Refusal :=
  .next <| match s.group? gid with
    | some g => if g.life = .retired ∧ g.busy.isEmpty ∧ g.rinstr.isEmpty then { s with groups := tdel gid s.groups } else s
    | none => s

/-- FORWARD_ARRIVAL: a value sent on a port has arrived at its dispatched receiver (R60, R63); one that the pool still holds goes to
the core if that has a free entry, and is read from the pool otherwise, since the item that sent it may be the only one to go on (R65). -/
def execForwardArrival (lid item port : Nat) (s : State) : Host.Outcome State Fault Refusal :=
  .next { s with fwds := s.fwds.map fun f =>
    if f.launch = lid ∧ f.item = item ∧ f.port = port ∧ (!f.spilled || (s.itemCore lid item).isSome) then
      { f with arrived := true, spilled := f.spilled && !s.coreEntry lid item }
    else f }

/-- TRAP_ENTRY: a recorded trap is taken once the scoreboard has drained, unless a STEP of an earlier instruction is due (R228, R229, R241). -/
def execTrapEntry (gid : Nat) (s : State) : Host.Outcome State Fault Refusal :=
  .next <| match s.group? gid with
    | some g => match g.pend with
      | some info =>
        if g.dueBefore s.nextId info.order then s.stepDue gid
        else if g.drained info.split then (s.setGroup gid { g with pend := none }).enterTrap gid info else s
      | none => s
    | none => s

/-- A cause that the handler's own instruction can raise (R227, R234): no UCE, which kills, and none of a watchpoint or of stepping, which do not act
in trap mode. -/
def nestable (cause : Nat) : Bool :=
  decide (causeILLEGAL ≤ cause) && decide (cause ≤ causeQFULL) && cause != causeUCE && cause != causeWATCH && cause != causeSTEP

/-- NESTED_TRAP: a cause raised by the handler's own instruction (R234). -/
def execNestedTrap (gid : Nat) (cause : Byte) (s : State) : Host.Outcome State Fault Refusal :=
  .next <| if !nestable cause.toNat then s
    else (s.nested gid cause.toNat (((s.group? gid).bind fun g => g.splits.head?.map fun p => p.2.pc).getD 0))

/-- The lowest breakpoint that a split meets at its PC (R239). -/
def Debug.hit (d : Debug) (pc : Word) (m : Mask) : Option Nat :=
  (List.range 4).find? fun k =>
    d.ctl.getLsbD k && d.bpa.getD k 0 == pc && (d.bpm.getD k 0 == 0 || d.bpm.getD k 0 &&& m != 0)

/-- A breakpoint that a split about to issue fires; none in trap mode or for the first instruction after TRET (R234, R239). -/
def Group.breaks (g : Group) (k : Nat) : Option (Nat × Word) :=
  match tget k g.splits with
  | some sp =>
    let issues : Bool := sp.held.isNone && match sp.wait with | .none | .again _ => true | _ => false
    if g.trap.isSome || sp.exempt || !g.runs || !issues then none else (g.dbg.hit sp.pc sp.mask).map fun i => (i, sp.pc)
  | none => none

/-- PC_BREAKPOINT (R239). -/
def execPcBreakpoint (gid split : Nat) (s : State) : Host.Outcome State Fault Refusal :=
  .next <| match (s.group? gid).bind fun g => g.breaks split with
    | some (i, pc) => s.raise gid { cause := causeBKPT, split := split, code := BitVec.ofNat 32 i, pc := pc } pc
    | none => s

/-- The class of an FP32 word that the shadow unit compares (R244): zero or subnormal, normal, infinity, NaN. -/
def shadowClass (w : Word) : Nat :=
  let e := bitField w.toNat 30 23
  if e = 0 then 0 else if e = 255 then (if w.toNat % 2 ^ 23 = 0 then 2 else 3) else 1

/-- What the shadow unit produces of the result that it recomputes: sign, exponent and the top 6 fraction bits, the others cut off (R244). -/
def shadowBits (w : Word) : Word := w >>> 17 <<< 17

/-- A lane diverges: the main result against the shadow unit's, of which bits [31:17] count (R244). -/
def diverges (main shadow : Word) : Bool :=
  let x := bitField main.toNat 30 17
  let y := bitField shadow.toNat 30 17
  main.msb != shadow.msb || shadowClass main != shadowClass shadow
    || (shadowClass main == 1 && shadowClass shadow == 1 && (x + 1 < y || y + 1 < x))

/-- The instructions that the shadow unit recomputes: operands, result before rounding, and meaning (R244). -/
def shadowed : Instr → Option (VBin × (Word → Word → Word → ExactVal) × (State → Host.Outcome State Fault Refusal))
  | .vfadd o => some (o, fun a b _ => (ofF32 a).add false (ofF32 b), execVfadd o)
  | .vfsub o => some (o, fun a b _ => (ofF32 a).add false (ofF32 b).neg, execVfsub o)
  | .vfmul o => some (o, fun a b _ => (ofF32 a).mul (ofF32 b), execVfmul o)
  | .vfma p o => some (o, fmaExact p, execVfma p o)
  | _ => none

/-- The shadow unit's result at a lane, from the sources after any flush (R244): of the result that R105 and R106 give the instruction there, so that
a lane whose main result is right does not diverge (DEDUCED, log entry 31). -/
def Ctx.shadow (c : Ctx) (s : State) (o : VBin) (f : Word → Word → Word → ExactVal) (n : Nat) : Word :=
  let z (r : VReg) : Word := flush c.ftz (r.lane n)
  shadowBits (flush c.ftz (roundRne (f (z (c.src s o.a)) (z (c.src s o.b)) (z (c.g.v o.vd.toNat)))))

/-- A register with the values of some lanes replaced; a uniform one has one value. -/
def VReg.setLanes (r : VReg) (l : List (Nat × Word)) : VReg :=
  match r with
  | .u w => .u ((l.head?.map fun x => x.2).getD w)
  | r => .g (lanes.map fun n => ((l.find? fun x => x.1 == n).map fun x => x.2).getD (r.lane n))

/-- The instruction of a split at `pc` has completed, and did not wait or trap. -/
def Group.wentOn (g h : Group) (k : Nat) (pc : Word) : Bool :=
  h.trap == g.trap && h.pend.isNone && (tget k h.splits).any fun sp => sp.wait == .none && sp.pc == pc

/-- SHADOW_RETRY (R245): at lanes of a split's VFADD, VFSUB, VFMUL or VFMA the main unit gave the values `first`, and on its second
execution the values `second`; at every other lane it gave the right one, which does not diverge, as in every VFADD, VFSUB, VFMUL and VFMA that no
SHADOW_RETRY names. -/
def execShadowRetry (gid split : Nat) (lanes : List Nat) (first second : List Word) (s : State) : Host.Outcome State Fault Refusal :=
  .next <| match (s.group? gid).bind fun g => (tget split g.splits).map fun sp => (g, sp) with
    | none => s
    | some (g, sp) =>
      if !g.issues || !s.atIssue gid split g sp || (g.breaks split).isSome then s
      else match s.fetchInstr false g.core g.vf g.launch (pairOf g.window sp.pc) with
        | .ok i s1 => match shadowed i, { s1 with cur := .group gid split }.ctx i.len with
          | some (o, exact, run), some c =>
            let quiet := { s1 with cur := .group gid split }.modGroup gid fun g => { g with dbg := { g.dbg with ctl := 0 } }
            match run quiet with
            | .next t =>
              let on (l : List Word) := (lanes.zip l).filter fun x => laneOn sp.mask x.1
              let bad (l : List Word) : Bool := (on l).any fun x => diverges x.2 (c.shadow s1 o exact x.1)
              if !(t.group? gid).any (fun h => g.wentOn h split c.next) || !bad first then s
              else if bad second then s.loseCore g.core
              else
                let k := t.coreAt g.core
                let t := t.modGroup gid fun h =>
                  { h with dbg := g.dbg, vregs := h.vregs.set o.vd.toNat ((h.v o.vd.toNat).setLanes (on second)),
                           splits := tmod split (fun x => { x with due := if g.stepped split then some (0, sp.pc) else none }) h.splits }
                let t := t.setCore g.core { k with sdccnt := min 0xFFFF (k.sdccnt + 1) }
                { t with syslog := t.syslog ++ [LogEvent.sdc g.core] }.stepDue gid
            | _ => s
          | _, _ => s
        | _ => s

/-- SCRUB_ERROR: an uncorrectable error found in memory is logged and waits for its first consumer (R246). -/
def execScrubError (dev addr : Nat) (s : State) : Host.Outcome State Fault Refusal :=
  .next { s with bad := if s.bad.contains (memKey dev addr) then s.bad else memKey dev addr :: s.bad, syslog := s.syslog ++ [.scrub dev addr] }

/-- The compact area of R84, padded to whole lines of 32 words. -/
def compactWords (l : List VReg) : List Word :=
  let ws := l.flatMap fun | .u w => [w] | .a b d => [b, d] | .g _ => []
  padWords ws ((ws.length + 31) / 32 * 32)

/-- The saved area of a group (R84, R85). -/
def savedArea (s : State) (gid : Nat) (g : Group) : List Word :=
  let c := compactWords g.vregs
  headerWords s gid g none (4 * c.length) ++ scalarWords g ++ tagWords g.vregs ++ c
    ++ g.vregs.flatMap fun | .g ws => ws | _ => []

/-- The check of a restore (R85): the tag array, SHAPE and CBYTES agree. -/
def savedOk (f : List Word) : Bool :=
  let count := frameWord f 58 % 128
  let tags := (List.range 128).map (frameTag f)
  let n (t : Nat) : Nat := ((tags.take count).filter (· == t)).length
  tags.zipIdx.all (fun x => if x.2 < count then x.1 ≤ 2 else x.1 == 0xFF)
    && bitField (frameWord f 58) 22 16 == n 2 && frameWord f 59 == (4 * n 0 + 8 * n 1 + 127) / 128 * 128

/-- The groups that are pre-empted and resumed with a group: its grid where that declares quad or grid barriers, else its block
(R242). -/
def State.mates (s : State) (gid : Nat) (g : Group) : List (Nat × Group) :=
  let whole := match s.kernelOf g with | some k => 0 < k.qbars || 0 < k.gbars | none => false
  s.groups.filter fun p => p.2.life != .retired &&
    if whole then p.2.launch == g.launch && p.2.task == g.task else p.1 == gid || (g.block.isSome && p.2.block == g.block)

/-- A group may be pre-empted (R242): it stands at an instruction boundary, drained, and no request of it to the cairn directory
is under way (R291). -/
def Group.mayStop (g : Group) : Bool :=
  g.runs && g.busy.isEmpty && g.rinstr.isEmpty && g.splits.all fun p => p.2.due.isNone && !p.2.asking

/-- A split as it is saved (R242, R302, R307, R312): a REGRP arrival is withdrawn; FSEND, MQGET, TSUB, TEMIT and MFORK issue again. -/
def Split.withdrawn (sp : Split) : Split :=
  match sp.wait with
  | .regrp .. => sp.rest sp.pc
  | .again (.send _) | .again (.queue _) | .again .gone | .again (.tasks _) | .again (.emit ..) | .again .fork => sp.rest sp.pc
  | _ => sp

/-- The effective priority of a task (R205). A task that waits for a key with a request that is compatible with the holder's counts as waiting on it
(DESIGN CHOICE, log entry 89). -/
def State.effPrio (s : State) (t : Task) : Nat :=
  s.tasks.foldl (fun n x =>
    if x.2.vf = t.vf ∧ x.2.place = .waiting ∧ x.2.keys.any (fun k => t.held.any fun h => h.1 == k.1) then max n x.2.prio else n) t.prio

/-- The effective priority of a group: its task's, or its launch's (R205). -/
def State.groupPrio (s : State) (g : Group) : Nat :=
  match g.task.bind fun u => tget u s.tasks with
  | some t => s.effPrio t
  | none => ((tget g.launch s.launches).map Launch.prio).getD 0

/-- A group is pre-empted. -/
def Group.away (g : Group) : Bool := match g.life with | .preempted _ => true | _ => false

/-- PREEMPTION (R242, R64). -/
def execPreemption (gid : Nat) (s : State) : Host.Outcome State Fault Refusal :=
  .next <| match s.group? gid with
    | none => s
    | some g =>
      let set := s.mates gid g
      let younger := s.groups.any fun p => p.2.launch == g.launch && p.2.life == .resident
        && (match p.2.item, g.item with | some a, some b => b < a | _, _ => false)
      if g.life = .resident ∧ set.all (fun p => p.2.life != .resident || p.2.mayStop) ∧ !younger then
        { s with groups := s.groups.map fun p =>
            if p.2.life = .resident ∧ set.any (fun q => q.1 == p.1) then
              let h : Group := { p.2 with splits := p.2.splits.map (fun q => (q.1, q.2.withdrawn)), reserv := none, cache := [] }
              (p.1, { h with life := .preempted (savedArea s p.1 h) })
            else p }
      else s

/-- One group goes back to a partition and slot of its core, with the split entries that it needs (R37, R41, R85). R85 gives no PC for the kill of a
restore whose check fails: 0 is recorded (DESIGN CHOICE, log entry 85). -/
def State.resumeOne (s : State) (gid part slot : Nat) : Option State :=
  match s.group? gid with
  | none => none
  | some g => match g.life with
    | .preempted saved =>
      let g := { g with part := part, slot := slot, life := .resident, splits := g.splits.map fun p => (p.1, { p.2 with since := s.now }) }
      if part < Config.partitionsPerCore ∧ slot < Config.slotsPerPartition
          ∧ s.ctxRoom g.core part (grant g.budget g.count) (g.entries g.splits.length)
          ∧ s.slotFree g.core part slot ∧ !(s.coreAt g.core).lost then
        some (if savedOk saved then s.setGroup gid g else (s.setGroup gid g).kill gid causeUCE 0)
      else none
    | _ => none

/-- Several groups go back to their places, all or none. -/
def State.resumeAll (s : State) : List (Nat × Nat × Nat) → Option State
  | [] => some s
  | (g, part, slot) :: t => match s.resumeOne g part slot with | some s' => s'.resumeAll t | none => none

/-- RESUMPTION (R242, R64, R205): `places` gives the partition and slot of every group that resumes with `gid`; the VF's pre-empted
groups of one core resume in order of effective priority, whatever tasks are queued there (DESIGN CHOICE, log entry 90). -/
def execResumption (gid : Nat) (places : List (Nat × Nat × Nat)) (s : State) : Host.Outcome State Fault Refusal :=
  .next <| match s.group? gid with
    | none => s
    | some g =>
      let set := (s.mates gid g).filter fun p => p.2.away
      let older := s.groups.any fun p => p.2.launch == g.launch && p.2.away
        && (match p.2.item, g.item with | some a, some b => a < b | _, _ => false)
      let higher := s.groups.any fun p => p.2.away && p.2.vf == g.vf && set.any (fun q => q.2.core == p.2.core)
        && decide (s.groupPrio g < s.groupPrio p.2)
      if places.map (fun p => p.1) = set.map (fun p => p.1) ∧ !older ∧ !higher then (s.resumeAll places).getD s else s

end Sys2Proof.Machine
end

