-- ==== Sys2Proof/Machine/Async.lean ====
section
/-! DEFINITION. Asynchronous work: copies (R138-R140, R298, R299), publishes (R146, R147, R320), message queues (R134-R137,
R310-R313) and the sequencer's programs as groups see them (R174, R178, R179, R307, R314); and the steps that complete them. -/

namespace Sys2Proof.Machine

/-- The source and destination address of every byte of a copy, in the order of the destination (R138, R139). -/
def copyBytes (tr : CpyTr) (rows cols : Nat) (n : Word) (dst src : DWord) : List (DWord × DWord) :=
  let at' (a : DWord) (i : Nat) : DWord := a + BitVec.ofNat 64 i
  let tile (e : Nat) : List (DWord × DWord) :=
    (List.range (32 * cols)).flatMap fun c => (List.range (32 * rows)).flatMap fun r => (List.range e).map fun b =>
      (at' src (r * n.toNat + c * e + b), at' dst ((c * (32 * rows) + r) * e + b))
  match tr with
  | .none => (List.range n.toNat).map fun i => (at' src i, at' dst i)
  | .t8 => tile 1
  | .t16 => tile 2

/-- A tile keeps the terms of R139. -/
def tileOk (tr : CpyTr) (cols : Nat) (n : Word) (dst src : DWord) : Bool :=
  let ok (e : Nat) : Bool := src.toNat % e == 0 && dst.toNat % e == 0 && n.toNat % e == 0 && 32 * cols * e ≤ n.toNat
  match tr with | .none => true | .t8 => ok 1 | .t16 => ok 2

/-- The lowest address of a copy's scratch range and its window offset, where R132 allows the whole range: one allocation or one cairn holds it. -/
def State.copySpan (s : State) (core v : Nat) (block : Option Nat) (as : List DWord) : Option (Nat × Nat) :=
  let lo := (leastBy id (as.map BitVec.toNat)).getD 0
  let hi := as.foldl (fun n a => max n a.toNat) 0
  (s.scratchOff block core v (BitVec.ofNat 64 lo) (hi - lo + 1)).map fun off => (lo, off)

/-- R132 allows a copy's range at one side (R140); a global one is checked byte by byte. -/
def State.rangeOk (s : State) (core v : Nat) (block : Option Nat) (scratch : Bool) (as : List DWord) : Bool :=
  !scratch || as.isEmpty || (s.copySpan core v block as).isSome

/-- The keys of a copy's bytes; none where the engine's check of the byte fails (R140). Of a scratch range that R132 does not allow as a whole, each
byte has the key that it has alone. -/
def copyKeys (s : State) (core v launch : Nat) (block : Option Nat) (scratch : Bool) (need : Need) (shadow : Bool) (as : List DWord) :
    List (Option Nat) :=
  if scratch then
    match s.copySpan core v block as with
    | some (lo, off) => as.map fun a => some (scratchKey core (off + (a.toNat - lo)))
    | none => as.map fun a => (s.scratchOff block core v a 1).map (scratchKey core)
  else as.map fun a =>
    if !canonical a then none
    else match s.checkPage core v launch a need shadow with
      | .ok l => some (s.leafKey core v l)
      | .error _ => none

/-- The first home of the pages of some global addresses of a VF at which `f` holds; a VF without triples reaches its own package only. -/
def State.homeWhere (s : State) (core v launch : Nat) (f : Nat → Bool) (as : List DWord) : Option Nat :=
  if (s.vf v).triples.isEmpty then none
  else as.findSome? fun a => (s.homeOf core v launch a).filter f

/-- The first package, other than a VF's own, at which a global address of a list lies and that is shut to the VF now (R160, R250). -/
def State.busyHome (s : State) (core v launch : Nat) (as : List DWord) : Option Nat := s.homeWhere core v launch (s.shut v) as

/-- Some global address of a list lies on a package that the VF's accesses cannot reach now (R250, R258, R259; log entry 11). -/
def State.cutHome (s : State) (core v launch : Nat) (as : List DWord) : Bool := (s.homeWhere core v launch (fun h => !s.reaches v h) as).isSome

/-- A write by an agent of a VF to some global addresses would pass an atomic of the VF in flight to another package, whose read is still to come
(R163). -/
def State.passes (s : State) (core v launch : Nat) (as : List DWord) : Bool :=
  s.behind v false true (as.filterMap (s.homeOf core v launch))

/-- A byte of memory or of a scratchpad becomes undefined (R1); a reservation on its line is cleared (R144). -/
def State.undefByte (s : State) (scratch : Bool) (key : Nat) : State :=
  if scratch then { s with scratch := s.scratch.undefine key 1 s.fresh }
  else { s.clearLines key 1 with mem := s.mem.undefine key 1 s.fresh, quads := s.quads.map fun q => (q.1, q.2.touch key 1) }

/-- Undefined bytes, by key. -/
def State.undefKeys (s : State) (scratch : Bool) (keys : List (Option Nat)) : State :=
  let ks := keys.filterMap id
  ks.foldl (fun s k => s.undefByte scratch k) { (if scratch then s else s.noteKeys ks) with fresh := s.fresh + 1 }

/-- The bytes at keys. -/
def State.keyBytes (s : State) (scratch : Bool) (keys : List (Option Nat)) : List Byte :=
  keys.map fun k => match k with | some k => (if scratch then s.scratch else s.mem).get k | none => 0

/-- A group's finished operations whose earlier ones are all finished leave the table: the counter falls in issue order (R158). -/
def countDown (gid : Nat) (owner : α → Nat) (finished : α → Bool) (t : Table α) : Table α :=
  t.filter fun x => !(owner x.2 == gid && finished x.2 && t.all fun y => owner y.2 != gid || x.1 < y.1 || finished y.2)

/-- The copy counter falls (R79, R158). -/
def State.countCopies (s : State) (gid : Nat) : State := { s with copies := countDown gid Copy.gid Copy.finished s.copies }

/-- Some byte is written at which one is read: the ranges of a copy overlap (R140). Of a tile's range the bytes count that the copy reads or writes, not
the gaps of its pitch (DESIGN CHOICE, log entry 100: R140 does not say). -/
def keysMeet (srcs dsts : List (Option Nat)) : Bool := srcs.any fun x => x.isSome && dsts.contains x

/-- CPY (R138-R140, R298): while the copy runs, its destination is undefined. One that touches a remote page issues once a route there
works and the VF's operations in flight there have been applied (R157, R160). -/
def execCpy (k : CpyKind) (sh : Bool) (tr : CpyTr) (trows tcols : Byte) (sd sa sb : Reg) (s : State) : Host.Outcome State Fault Refusal :=
  issue (.cpy k sh tr trows tcols sd sa sb) s fun c s =>
    match c.who with
    | .group gid _ =>
      if 255 ≤ s.counter gid .cpy then .hold (.count .cpy) s
      else
        let n := c.s sd.toNat
        let dst := c.pair sa.toNat
        let src := c.pair sb.toNat
        let from' := k != .g2s
        let to' := k != .s2g
        let bytes := copyBytes tr trows.toNat tcols.toNat n dst src
        let far := (if from' then [] else bytes.map fun b => b.1) ++ (if to' then [] else bytes.map fun b => b.2)
        match s.busyHome c.g.core c.g.vf c.g.launch far with
        | some home => c.late (.flight home) s
        | none =>
          let srcs := copyKeys s c.g.core c.g.vf c.g.launch c.g.block from' .read false (bytes.map fun b => b.1)
          let dsts := copyKeys s c.g.core c.g.vf c.g.launch c.g.block to' .write sh (bytes.map fun b => b.2)
          let faults := !tileOk tr tcols.toNat n dst src
          let regions := if sh then (bytes.filterMap fun b => (s.region c.g.vf (va57 b.2)).map Region.base).eraseDups else []
          let x : Copy := { gid := gid, task := c.g.task, launch := c.g.launch, vf := c.g.vf, core := c.g.core, block := c.g.block,
                            fromScratch := from', toScratch := to', addrs := bytes, srcs := srcs, dsts := dsts, old := s.keyBytes to' dsts,
                            faults := faults, srcOk := s.rangeOk c.g.core c.g.vf c.g.block from' (bytes.map fun b => b.1),
                            dstOk := s.rangeOk c.g.core c.g.vf c.g.block to' (bytes.map fun b => b.2), sh := sh, regions := regions, finished := bytes.isEmpty && !faults }
          let t := s.undefKeys to' dsts
          .done (({ t with copies := tset t.nextId x t.copies, nextId := t.nextId + 1 }).countCopies gid)
    | _ => .done s

/-- One byte written by a copy engine (R144, R299): the sources of other copies that it holds become dirty. -/
def State.copyByte (s : State) (scratch : Bool) (key : Nat) (b : Byte) : State :=
  let s : State := { s with copies := s.copies.map fun c => (c.1, c.2.touch scratch false key 1) }
  if scratch then { s with scratch := s.scratch.put key b }
  else { s.clearLines key 1 with mem := s.mem.put key b, bad := s.bad.filter (· != key), quads := s.quads.map fun q => (q.1, q.2.touch key 1) }

/-- The keys of a copy's source bytes as the engine finds them now (R138). -/
def Copy.srcsNow (c : Copy) (s : State) : List (Option Nat) :=
  copyKeys s c.core c.vf c.launch c.block c.fromScratch .read false (c.addrs.map fun b => b.1)

/-- The keys of a copy's destination bytes as the engine finds them now (R138). -/
def Copy.dstsNow (c : Copy) (s : State) : List (Option Nat) :=
  copyKeys s c.core c.vf c.launch c.block c.toScratch .write c.sh (c.addrs.map fun b => b.2)

/-- The bytes that a copy reads and writes overlap in a scratchpad (R140). -/
def Copy.meets (c : Copy) (srcs dsts : List (Option Nat)) : Bool := c.fromScratch && c.toScratch && keysMeet srcs dsts

/-- A copy faults (R140). The spec leaves open at which moment between issue and completion the engine checks an address (R138): what
breaks a rule at both ends faults, what breaks one at only one end of the two faults or not by a free choice (DEDUCED, log entry 13). -/
def Copy.fails (c : Copy) (s : State) (srcs dsts : List (Option Nat)) : Bool :=
  let both (a b : List (Option Nat)) : Bool := (a.zip b).any fun x => x.1.isNone && x.2.isNone
  let srcOk := s.rangeOk c.core c.vf c.block c.fromScratch (c.addrs.map fun b => b.1)
  let dstOk := s.rangeOk c.core c.vf c.block c.toScratch (c.addrs.map fun b => b.2)
  let once := (c.srcs ++ c.dsts ++ srcs ++ dsts).contains none || c.meets c.srcs c.dsts || c.meets srcs dsts
    || !(c.srcOk && c.dstOk && srcOk && dstOk)
  c.faults || both c.srcs srcs || both c.dsts dsts || (c.meets c.srcs c.dsts && c.meets srcs dsts) || !(c.srcOk || srcOk) || !(c.dstOk || dstOk)
    || (once && Config.freeBool s.fresh)

/-- What a copy leaves in its destination (R140, R299): position i, where the engine finds it now or found it at issue, gets the source's
byte; an undefined value where a program wrote the byte or its source meanwhile, where another copy in flight is to write it, or where the byte or its
source lies in a ring's slot out of turn (R3, R141); one of the two values where a drain wrote it too; after a fault, an undefined value in a scratchpad, and in global memory the old or the new value. -/
def State.copyEnd (s : State) (id : Nat) (c : Copy) : State :=
  let srcs := c.srcsNow s
  let fails := c.fails s srcs (c.dstsNow s)
  let dsts := ((c.dstsNow s).zip c.dsts).map fun x => x.1.orElse fun _ => x.2
  let from' (i : Nat) : Option Nat := (srcs.getD i none).orElse fun _ => c.srcs.getD i none
  let news := s.keyBytes c.fromScratch ((List.range dsts.length).map from')
  let now := s.keyBytes c.toScratch dsts
  let others := (s.copies.filter fun x => x.1 != id && !x.2.finished && x.2.toScratch == c.toScratch).map fun x => x.2
  let outOfTurn (i k : Nat) : Bool := (c.toScratch && !(s.engineBytes k 1).isEmpty)
    || (c.fromScratch && (from' i).any fun x => !(s.emptyBytes x 1).isEmpty)
  let s : State := { (if c.toScratch then s else s.noteKeys (dsts.filterMap fun k => k)) with fresh := s.fresh + 1 }
  (List.range dsts.length).foldl (fun (s : State) i =>
    match dsts.getD i none with
    | none => s
    | some k =>
      let old := if c.dsts.getD i none = some k then c.old.getD i 0 else now.getD i 0
      let either := (Config.freeByte s.fresh k).getLsbD 0
      if c.dirty.contains i || others.any (fun x => x.dsts.contains (some k)) || outOfTurn i k then s.undefByte c.toScratch k
      else if fails && c.toScratch then s.undefByte true k
      else if fails then s.copyByte false k (if (from' i).isSome && either then news.getD i 0 else old)
      else s.copyByte c.toScratch k (if c.raced.contains i && either then now.getD i 0 else news.getD i 0)) s

/-- The global addresses of a copy's bytes. -/
def Copy.globals (c : Copy) : List DWord :=
  (if c.fromScratch then [] else c.addrs.map fun b => b.1) ++ (if c.toScratch then [] else c.addrs.map fun b => b.2)

/-- COPY_COMPLETE (R138, R140, R158, R201): not while a page of the copy cannot be reached (R250), or while its writes to global memory would pass
atomics of the VF in flight (R163). -/
def execCopyComplete (id : Nat) (s : State) : Host.Outcome State Fault Refusal :=
  .next <| match tget id s.copies with
    | none => s
    | some c =>
      if c.finished || s.cutHome c.core c.vf c.launch c.globals || (!c.toScratch && s.passes c.core c.vf c.launch (c.addrs.map fun b => b.2)) then s
      else
        let fails := c.fails s (c.srcsNow s) (c.dstsNow s)
        let s := s.copyEnd id c
        let s := if fails then s.modGroup c.gid fun g => { g with copyErr := true } else s
        let s : State := { s with copies := tmod id (fun x => { x with finished := true, addrs := [], srcs := [], dsts := [], old := [] }) s.copies }
        (s.countCopies c.gid).settleTasks

/-- Programs of a group that have not ended, by quad and serial (R147, R176). -/
def State.progsOf (s : State) (gid : Nat) : List (Nat × Nat) :=
  s.quads.flatMap fun q => ((q.2.running.toList ++ q.2.queue ++ q.2.saved).filter fun p => p.gid == gid).map fun p => (q.1, p.serial)

/-- PUBL (R147, R320). -/
def execPubl (sa : Reg) (s : State) : Host.Outcome State Fault Refusal :=
  issue (.publ sa) s fun c s =>
    match c.who with
    | .group gid _ =>
      let p := c.pair sa.toNat
      match s.checkGlobal c.g.core c.g.vf c.g.launch p 1 .read with
      | .error e => accessAct e 127 p
      | .ok _ => match s.region c.g.vf (va57 p) with
        | none => .trap causePROT 127 p 0
        | some r =>
          if 255 ≤ s.counter gid .pbl then .hold (.count .pbl) s
          else
            let x : Pub := { gid := gid, core := c.g.core, task := c.g.task, launch := c.g.launch, vf := c.g.vf, base := r.base,
                             progs := s.progsOf gid }
            .done { s with pubs := tset s.nextId x s.pubs, nextId := s.nextId + 1 }
    | _ => .done s

/-- The keys of a region's front and shadow frames, by pages of 64 KiB (R146). -/
def State.regionKeys (s : State) (v core : Nat) (r : Region) : List Nat :=
  (List.range (r.size / 65536)).flatMap fun i =>
    let va := r.base.toNat % 2 ^ 57 + 65536 * i
    match s.translate core v va with
    | some l => [memKey (s.homeDev core v l.home) l.pa, memKey (s.homeDev core v l.home) (l.pa + l.page)]
    | none => []

/-- A copy in flight writes the shadow of a region. -/
def Copy.shadows (c : Copy) (base : DWord) : Bool := c.sh && !c.finished && c.regions.contains base

/-- The bytes that a copy is to write into the shadow of a region stay undefined when it completes. -/
def Copy.swapped (c : Copy) (base : DWord) : Copy :=
  if c.shadows base then { c with dirty := c.dirty ++ List.range c.dsts.length } else c

/-- A drain in progress of another group's program is still to write the shadow of a region: one of its rows does (R147, R191). -/
def State.drainsInto (s : State) (v gid : Nat) (base : DWord) : Bool :=
  s.quads.any fun q => q.2.running.any fun p => p.vf == v && p.gid != gid && p.ops.any fun o => match o.2.kind with
    | .mdrn fmt true _ (some a) =>
      let at' (row : Nat) : DWord := a + BitVec.ofNat 64 (512 * fmt.bytes * row)
      (s.vf v).regions.any fun r => r.base == base && (List.range' o.2.row (o.2.rows - o.2.row)).any fun i =>
        overlap (va57 (at' i)) (512 * fmt.bytes) r.base.toNat r.size
    | _ => false

/-- The bytes of a region, front and shadow, become undefined (R147). -/
def State.undefRegion (s : State) (v core : Nat) (base : DWord) : State :=
  let keys := match (s.vf v).regions.find? fun r => r.base == base with
    | some r => s.regionKeys v core r
    | none => []
  keys.foldl (fun s k => s.undefMem k 65536) s

/-- A VF's region with a base is of pod scope. -/
def State.podRegion (s : State) (base : DWord) (v : Nat) : Bool := (s.vf v).regions.any fun r => r.base == base && r.scope == .pod

/-- The VFs for which a PUBL swaps a region: its own, and at pod scope its peers (R147). -/
def State.swapVfs (s : State) (v : Nat) (base : DWord) : List Nat :=
  v :: if s.podRegion base v then ((s.vf v).triples.map fun t => t.1 * 256 + t.2).filter (s.podRegion base) else []

/-- Front and shadow of a region are swapped for a VF, and at pod scope for its peers (R147). -/
def State.swapRegion (s : State) (v : Nat) (base : DWord) : State :=
  (s.swapVfs v base).foldl (fun s v => s.setVf v { s.vf v with regions := (s.vf v).regions.map fun r =>
    if r.base = base then { r with flipped := !r.flipped } else r }) s

/-- PUBL_SWAP (R147, R157, R158): front and shadow of the whole region are swapped, for a region of pod scope once the VF's remote
operations are applied; where another group's write to the shadow is in progress, of the VF or of a peer for which it is swapped, the region's bytes are
undefined. -/
def execPublSwap (id : Nat) (s : State) : Host.Outcome State Fault Refusal :=
  .next <| match tget id s.pubs with
    | none => s
    | some p =>
      let copies := s.copies.any fun c => decide (c.1 < id) && c.2.gid == p.gid && c.2.sh && c.2.regions.contains p.base && !c.2.finished
      let progs := p.progs.any fun x => (s.progsOf p.gid).contains x
      if p.finished || copies || progs || (s.podRegion p.base p.vf && !s.allApplied p.vf) then s
      else
        let vfs := s.swapVfs p.vf p.base
        let others := (s.copies.any fun c => c.2.gid != p.gid && vfs.contains c.2.vf && c.2.shadows p.base)
          || vfs.any fun v => s.drainsInto v p.gid p.base
        let s := s.swapRegion p.vf p.base
        let core (v : Nat) : Nat := if v = p.vf then p.core else (s.coreSet v).head?.getD (pkgOf v * 256)
        let s := if others then vfs.foldl (fun s v => s.undefRegion v (core v) p.base) s else s
        let s : State := { s with
          copies := s.copies.map fun c => if c.2.gid = p.gid ∨ !vfs.contains c.2.vf then c else (c.1, c.2.swapped p.base),
          pubs := tmod id (fun x => { x with finished := true }) s.pubs }
        ({ s with pubs := countDown p.gid Pub.gid Pub.finished s.pubs }).settleTasks

/-- The core of a coordinate in the package of a core (R5). -/
def coreOf (core : Nat) (coord : Byte) : Nat := pkgOf core * 256 + coord.toNat

/-- Entries on their way to a queue (R136). -/
def State.msgsTo (s : State) (core q : Nat) : Nat := tcount (fun m => m.core == core && m.queue == q && !m.finished && !m.words.isEmpty) s.msgs

/-- MQPUT (R136, R313). -/
def execMqput (core : Byte) (queue : BitVec 4) (len : BitVec 5) (sd sa : Reg) (s : State) : Host.Outcome State Fault Refusal :=
  issue (.mqput core queue len sd sa) s fun c s =>
    match c.who with
    | .group gid _ =>
      let to' := coreOf c.g.core core
      let key := queueKey to' queue.toNat
      let q := s.queue key
      let mine := coordOf c.g.core % 4
      if !(s.coreSet c.g.vf).contains to' then trapAct causePROT
      else if quadOf to' ≠ quadOf c.g.core then .done (c.setS sd.toNat 3 s)
      else if !q.cfg.msb then .done (c.setS sd.toNat 2 s)
      else if q.credits.getD mine 0 = 0 then .done (c.setS sd.toNat 1 s)
      else if 255 ≤ s.counter gid .msg then .hold (.count .msg) s
      else
        let x : Msg := { gid := gid, task := c.g.task, launch := c.g.launch, core := to', queue := queue.toNat,
                         words := (regsFrom sa.toNat len.toNat).map c.s }
        let t := s.setQueue key { q with credits := q.credits.set mine (q.credits.getD mine 0 - 1) }
        .done (c.setS sd.toNat 0 { t with msgs := tset t.nextId x t.msgs, nextId := t.nextId + 1 })
    | _ => .done s

/-- MESSAGE_APPEND (R136, R158): one group's entries reach a queue in the order of their MQPUTs. -/
def execMessageAppend (id : Nat) (s : State) : Host.Outcome State Fault Refusal :=
  .next <| match tget id s.msgs with
    | none => s
    | some m =>
      let first := s.msgs.all fun x => x.1 ≥ id || x.2.gid != m.gid || x.2.core != m.core || x.2.queue != m.queue || x.2.finished
      if m.finished || !first then s
      else
        let key := queueKey m.core m.queue
        let q := s.queue key
        let s := if q.cfg.msb && !m.words.isEmpty then s.setQueue key { q with entries := q.entries ++ [m.words] } else s
        let s : State := { s with msgs := tmod id (fun x => { x with finished := true }) s.msgs }
        ({ s with msgs := countDown m.gid Msg.gid Msg.finished s.msgs }).settleTasks

/-- MQGET (R137, R312): MQGETs that wait on one queue take its entries in their issue order on the core. -/
def execMqget (queue : BitVec 4) (len : BitVec 5) (sd : Reg) (s : State) : Host.Outcome State Fault Refusal :=
  issue (.mqget queue len sd) s fun c s =>
    match c.who with
    | .group gid k =>
      let key := queueKey c.g.core queue.toNat
      let q := s.queue key
      let gone := ((s.group? gid).bind fun g => tget k g.splits).any fun sp => sp.wait == .again .gone
      if !q.cfg.msb || gone then trapAct causePROT
      else match q.entries with
        | [] => .hold (.queue queue.toNat) s
        | e :: rest =>
          if s.ahead (c.stamp s) fun h w => h.core == c.g.core && w == .queue queue.toNat then .hold (.queue queue.toNat) s
          else .done (c.setWords sd.toNat (padWords e len.toNat) (s.setQueue key { q with entries := rest }))
    | _ => .done s

/-- MQFREE (R135, R311): entries on their way count as occupied slots. -/
def execMqfree (core : Byte) (queue : BitVec 4) (sa : Reg) (s : State) : Host.Outcome State Fault Refusal :=
  issue (.mqfree core queue sa) s fun c s =>
    let to' := coreOf c.g.core core
    let key := queueKey c.g.core queue.toNat
    let q := s.queue key
    let n := (c.s sa.toNat).toNat
    let w := coordOf to' % 4
    if quadOf to' ≠ quadOf c.g.core ∨ !(s.coreSet c.g.vf).contains to' ∨ !q.cfg.msb then trapAct causePROT
    else if 2 ^ bitField q.cfg.toNat 30 27 < q.credits.foldl (· + ·) 0 + q.entries.length + s.msgsTo c.g.core queue.toNat + n then
      trapAct causeQFULL
    else .done (s.setQueue key { q with credits := q.credits.set w (q.credits.getD w 0 + n) })

/-- MFORK (R178, R307). -/
def execMfork (narg : BitVec 4) (off : BitVec 25) (sd sa : Reg) (s : State) : Host.Outcome State Fault Refusal :=
  issue (.mfork narg off sd sa) s fun c s =>
    match c.who with
    | .group gid _ =>
      let qn := quadOf c.g.core
      let qd := s.quad qn
      let entry := c.target off.toInt
      if s.wbufSpace c.g.vf qn = 0 then trapAct causePROT
      else if Config.forkQueueEntries ≤ qd.queue.length then .hold .fork s
      else
        let p : Prog := { serial := qd.forks, gid := gid, launch := c.g.launch, task := c.g.task, vf := c.g.vf, core := c.g.core,
                          window := hiWord entry, pc := loWord entry,
                          sregs := padWords ((regsFrom sa.toNat narg.toNat).map c.s) 64 }
        .done (c.setS sd.toNat (BitVec.ofNat 32 (qn % 64 * 2 ^ 26 + qd.forks))
          (s.setQuad qn { qd with forks := (qd.forks + 1) % 2 ^ 26, queue := qd.queue ++ [p] }))
    | _ => .done s

/-- A program of a serial has not ended. -/
def Quad.live (q : Quad) (serial : Nat) : Bool := (q.running.toList ++ q.queue ++ q.saved).any fun p => p.serial == serial

/-- What the end of the program of a serial, as an MRDV saw it, does to the MRDV: VF, cause and sequencer PC (R179). It traps in its group also
with the cause UCE, where R227's table has the cause kill a group; the handler runs (DESIGN CHOICE, log entry 88: R179 and R227 do not say
which rule goes first). The cause counts as delivered once that trap is entered (R177). -/
def Ctx.metEnd (c : Ctx) (s : State) (serial : Nat) (f : Nat × Nat × Word) : Act :=
  if f.1 ≠ c.g.vf then trapAct causePROT
  else if f.2.1 = 0 then .done s
  else match c.who with
    | .group gid k => .away (s.raise gid
        { cause := f.2.1, split := k, code := f.2.2, pc := c.pc, order := c.held.getD 0, fate := some (quadOf c.g.core, serial) } c.pc)
    | _ => .done s

/-- MRDV (R179, R314): the ticket is read and checked once; the end of its program releases every MRDV that waits for it. -/
def execMrdv (sa : Reg) (s : State) : Host.Outcome State Fault Refusal :=
  issue (.mrdv sa) s fun c s =>
    let t := (c.s sa.toNat).toNat
    let qn := quadOf c.g.core
    let qd := s.quad qn
    let serial := t % 2 ^ 26
    let d := (serial + 2 ^ 26 - (qd.forks + 2 ^ 26 - 1) % 2 ^ 26) % 2 ^ 26
    let met := match c.who with
      | .group gid k => ((s.group? gid).bind fun g => tget k g.splits).bind fun sp => match sp.wait with | .again (.rdv _ f) => f | _ => none
      | _ => none
    if c.held.isNone ∧ t / 2 ^ 26 ≠ qn % 64 then trapAct causePROT
    else if c.held.isNone ∧ 1 ≤ d ∧ d < 2 ^ 25 then trapAct causeILLEGAL
    else match met with
      | some f => c.metEnd s serial f
      | none =>
        if qd.live serial then .hold (.rdv serial none) s
        else match qd.fates.reverse.find? fun f => f.serial == serial with
          | none => .done s
          | some f => c.metEnd s serial (f.vf, f.cause, f.pc)

/-- SEQUENCER_PROGRAM_START (R176, R178): the oldest queued program starts, once its tenant has no pre-empted one on the quad (R195). -/
def execSequencerProgramStart (quad : Nat) (s : State) : Host.Outcome State Fault Refusal :=
  .next <|
    let qd := s.quad quad
    match qd.running, qd.queue with
    | none, p :: rest => if qd.saved.all fun x => x.vf != p.vf then s.setQuad quad { qd with running := some p, queue := rest } else s
    | _, _ => s

/-- SEQUENCER_PROGRAM_END (R176, R177, R179). -/
def execSequencerProgramEnd (quad : Nat) (s : State) : Host.Outcome State Fault Refusal := .next (s.endProg quad)

end Sys2Proof.Machine
end

