-- ==== Sys2Proof/Machine/Tasks.lean ====
section
/-! DEFINITION. Work that programs create: kernel descriptors (R266), task packets and TSUB (R196-R199, R362), TEMIT (R207,
R208, R359), KREL (R202, R303), admission (R200) and balance (R204, R221). -/

namespace Sys2Proof.Machine

/-- The words of `n` bytes of global memory at a key. -/
def State.memWords (s : State) (key n : Nat) : List Word := (List.range (n / 4)).map fun i => BitVec.ofNat 32 (s.mem.read (key + 4 * i) 4)

/-- A port of a descriptor (R266): none where it breaks R30; `some none` where it is not declared. Bits that R266 does not name
([29:23], [15:12], [6], and every word of an undeclared port) must be zero, as if reserved (DESIGN CHOICE, log entry 68). -/
def readPort (count w0 w1 : Nat) : Option (Option PortDecl) :=
  if bitField w0 31 31 = 0 then (if w0 = 0 ∧ w1 = 0 then some none else none)
  else
    let scalar := bitField w0 30 30 = 1
    let src := bitField w0 22 16
    let k := bitField w0 11 8
    let word := bitField w0 5 0
    if bitField w0 29 23 ≠ 0 ∨ bitField w0 15 12 ≠ 0 ∨ bitField w0 6 6 ≠ 0 ∨ k = 0 ∨ 8 < k ∨ 55 < word
        ∨ (if scalar then 124 < src else count ≤ src) then none
    else some (some ⟨scalar, src, k, bitField w0 7 7 = 1, word, BitVec.ofNat 32 w1⟩)

/-- Every port of a descriptor, or none where one breaks R30. -/
def readPorts (count : Nat) (ws : List Word) : List Nat → Option (List (Option PortDecl))
  | [] => some []
  | i :: is => match readPort count (wordAt ws (8 + 2 * i)) (wordAt ws (9 + 2 * i)), readPorts count ws is with
    | some p, some ps => some (p :: ps)
    | _, _ => none

/-- A kernel descriptor read from its 32 words (R30, R31, R266); none is BADDESC. Bits of NODECFG that R266 does not name ([7],
[15:14], [31:19]) must be zero, as if reserved (DESIGN CHOICE, log entry 68). The log2 of a queue of 65,536 records does not fit the four bits that R266
gives it, so that no descriptor declares such a queue (DESIGN CHOICE, log entry 104: R206 and R266 do not agree). -/
def readKernel (ws : List Word) : Option Kernel :=
  let kind := wordAt ws 2
  let regs := wordAt ws 3
  let block := wordAt ws 4
  let grid := wordAt ws 5
  let scratch := wordAt ws 6
  let cfg := wordAt ws 16
  let count := bitField regs 6 0
  let budget := bitField regs 14 8
  let nlanes := bitField block 13 0
  let nsucc := bitField cfg 18 16
  match readPorts count ws [0, 1, 2, 3] with
  | none => none
  | some ports =>
    let zeros (i n : Nat) : Bool := (List.range n).all fun j => wordAt ws (i + j) == 0
    let node := kind == 2
    let ok := kind ≤ 2 && wordAt ws 0 % 4 == 0 && zeros 7 1 && zeros 21 11
      && bitField regs 7 7 == 0 && regs / 2 ^ 15 == 0 && 1 ≤ count && count ≤ 120 && budget ≤ count
      && 1 ≤ nlanes && nlanes ≤ 8192 && bitField block 18 14 ≤ 16 && bitField block 22 19 ≤ 8 && bitField block 26 23 ≤ 8
      && bitField block 28 27 ≤ 2 && bitField block 31 29 == 0
      && (if node then grid == 0 else 1 ≤ grid) && scratch % 256 == 0 && scratch ≤ 2097152
      && (kind == 1 || ports.all Option.isNone) && (kind != 1 || nlanes ≤ 96)
      && (if node then
            1 ≤ bitField cfg 6 0 && bitField cfg 6 0 ≤ 96 && bitField cfg 7 7 == 0 && 6 ≤ bitField cfg 11 8 && bitField cfg 13 12 ≤ 2
              && bitField cfg 15 14 == 0 && nsucc ≤ 6 && cfg / 2 ^ 19 == 0 && 1 ≤ wordAt ws 17 && 4 * 2 ^ bitField cfg 13 12 ≤ budget
              && bitField cfg 11 8 ≤ 16
          else zeros 16 5)
    if ok then
      some { entry := pairOf (ws.getD 1 0) (ws.getD 0 0), kind := kind, count := count, budget := budget, lanes := nlanes,
             bars := bitField block 18 14, qbars := bitField block 22 19, gbars := bitField block 26 23, pbars := bitField block 28 27,
             grid := grid, scratch := scratch, ports := ports, coalesce := bitField cfg 6 0, queue := 2 ^ bitField cfg 11 8,
             record := 16 * 2 ^ bitField cfg 13 12, timeout := wordAt ws 17,
             succ := (List.range nsucc).map fun i => wordAt ws (18 + i / 2) / 65536 ^ (i % 2) % 65536 }
    else none

/-- The kernel at an index of a VF's descriptor table (R266). -/
def State.kernelAt (s : State) (v i : Nat) : Option Kernel :=
  let vf := s.vf v
  if i < vf.descCount then readKernel (s.memWords (memKey (s.vfDev v) (vf.descBase.toNat + 128 * i)) 128) else none

/-- A handle names a node of a running graph launch of the VF (R199, R278). -/
def State.nodeRuns (s : State) (v : Nat) (h : Word) : Bool := match s.nodeOf v h with | some (_, l, _) => !l.ended | none => false

/-- The statuses of TSUB (R198). -/
def badPkt : Word := 0x80000001
def badDesc : Word := 0x80000002
def fullStatus : Word := 0x80000003

/-- A packet read as a task of a VF and launch (R196, R197, R199), or the status that refuses it. -/
def readPacket (s : State) (v launch : Nat) (ws : List Word) : Except Word Task :=
  let w0 := wordAt ws 0
  let kind := bitField w0 28 26
  let nkey := bitField w0 25 23
  let nsucc := bitField w0 22 20
  let aff := bitField w0 18 18
  let used := 2 + nkey + 2 * aff + nsucc
  let keys := ((ws.drop 2).take nkey).map fun w => (w.toNat % 2 ^ 31, w.msb)
  let name := if aff = 1 then some (pairOf (ws.getD (3 + nkey) 0) (ws.getD (2 + nkey) 0)) else none
  let succ := (ws.drop (2 + nkey + 2 * aff)).take nsucc
  let payload := ws.drop used
  if ws.length < used ∨ 4 < nkey ∨ 6 < nsucc ∨ 2 ≤ kind ∨ w0 % 2 ^ 15 ≠ 0 ∨ (keys.map fun k => k.1).eraseDups.length ≠ nkey
      ∨ 56 < payload.length ∨ succ.any (fun h => !s.nodeRuns v h) then .error badPkt
  else match s.kernelAt v (wordAt ws 1) with
    | none => .error badDesc
    | some k =>
      if k.kind ≠ 0 ∨ 0 < k.pbars then .error badDesc
      else .ok { vf := v, launch := launch, handle := BitVec.ofNat 32 ((s.vf v).serial % 2 ^ 30), kernel := k, kind := kind, keys := keys,
                 retry := bitField w0 19 19 = 1, aff := name, pin := bitField w0 17 17 = 1, prio := bitField w0 16 15, succ := succ,
                 payload := payload }

/-- The checks of a packet in the order of R199: its key and its length in bytes, or the trap. Where a later byte of the packet fails, the
faulting address is the packet's own in a scratchpad, and that of the part of 32 bytes that fails in global memory (DESIGN CHOICE, log entry
91: R199 does not say which address it is). -/
def packetCheck (s : State) (g : Group) (spm : Bool) (a : DWord) : Except Act (Nat × Nat) :=
  let len (w0 : Nat) : Nat := 32 * (bitField w0 31 29 + 1)
  if !canonical a then .error (.trap causeXLATE 127 a 0)
  else if spm then
    match s.scratchOff g.block g.core g.vf a 32 with
    | none => .error (.trap causeSCRATCH 127 a 0)
    | some off =>
      let n := len (s.readScratch (scratchKey g.core off) 4)
      if (s.scratchOff g.block g.core g.vf a n).isNone then .error (.trap causeSCRATCH 127 a 0)
      else if a.toNat % 32 ≠ 0 then .error (.trap causeALIGN 127 a 0)
      else .ok (scratchKey g.core off, n)
  else match s.checkGlobal g.core g.vf g.launch a 32 .read with
    | .error e => .error (accessAct e 127 a)
    | .ok l =>
      let n := len (s.mem.read (s.leafKey g.core g.vf l) 4)
      let far := (List.range (n / 32)).findSome? fun i =>
        let b := a + BitVec.ofNat 64 (32 * i)
        match s.checkGlobal g.core g.vf g.launch b 32 .read with
        | .error e => some (accessAct e 127 b)
        | .ok _ => none
      match far with
      | some e => .error e
      | none => .ok (s.leafKey g.core g.vf l, n)

/-- The words of a packet, read 32 bytes at a time: each such part lies in one page (R196). -/
def packetWords (s : State) (g : Group) (spm : Bool) (a : DWord) (key n : Nat) : List Word :=
  if spm then (List.range (n / 4)).map fun i => BitVec.ofNat 32 (s.readScratch (key + 4 * i) 4)
  else (List.range (n / 32)).flatMap fun i =>
    let b := a + BitVec.ofNat 64 (32 * i)
    match s.checkGlobal g.core g.vf g.launch b 32 .read with
    | .ok l => s.memWords (s.leafKey g.core g.vf l) 32
    | .error _ => []

/-- The keys in memory of a packet's parts of 32 bytes. -/
def packetKeys (s : State) (g : Group) (a : DWord) (n : Nat) : List Nat :=
  (List.range (n / 32)).filterMap fun i => match s.checkGlobal g.core g.vf g.launch (a + BitVec.ofNat 64 (32 * i)) 32 .read with
    | .ok l => some (s.leafKey g.core g.vf l)
    | .error _ => none

/-- What stands against reading a packet: operations in flight to its page, which is another package's (R160, R251), or an
uncorrectable error, which kills the group (R246). -/
def packetBars (s : State) (c : Ctx) (spm : Bool) (a : DWord) (n : Nat) : Option Act :=
  if spm then none
  else match s.busyHome c.g.core c.g.vf c.g.launch ((List.range (n / 32)).map fun i => a + BitVec.ofNat 64 (32 * i)) with
    | some home => some (c.late (.flight home) s)
    | none =>
      let bad := (packetKeys s c.g a n).filter fun k => s.badAt k 32
      match bad, c.who with
      | _ :: _, .group gid _ =>
        some (.away ({ s with bad := s.bad.filter fun b => bad.all fun k => decide (b < k) || decide (k + 32 ≤ b) }.kill gid causeUCE c.pc))
      | _, _ => none

/-- TSUB (R199, R362). -/
def execTsub (nb spm : Bool) (sd sa : Reg) (s : State) : Host.Outcome State Fault Refusal :=
  issue (.tsub nb spm sd sa) s fun c s =>
    let a := c.pair sa.toNat
    if c.g.trap.isSome then trapAct causeILLEGAL
    else match packetCheck s c.g spm a with
      | .error e => e
      | .ok (key, n) => (packetBars s c spm a n).getD <| match readPacket s c.g.vf c.g.launch (packetWords s c.g spm a key n) with
        | .error st => .done (c.setS sd.toNat st s)
        | .ok t =>
          if Config.taskQueueEntries ≤ tcount (fun x => x.vf == t.vf && x.prio == t.prio && x.place == .waiting) s.tasks then
            if nb then .done (c.setS sd.toNat fullStatus s) else .hold (.tasks t.prio) s
          else
            let s := s.setVf t.vf { s.vf t.vf with serial := (s.vf t.vf).serial + 1 }
            .done (c.setS sd.toNat t.handle { s with tasks := tset s.nextId t s.tasks, nextId := s.nextId + 1 })

/-- Records appended to a node's queue, with the clk of their appending (R208, R209). -/
def Launch.append (l : Launch) (node now : Nat) (rs : List (List Word)) : Launch :=
  { l with
    nodes := l.nodes.zipIdx.map fun x => if x.2 = node then { x.1 with queue := x.1.queue ++ rs.map fun r => (now, r) } else x.1,
    sums := { l.sums with appended := l.sums.appended + rs.length } }

/-- An earlier TEMIT waits for records of a node (R359). -/
def State.emitAhead (s : State) (stamp lid node : Nat) : Bool :=
  s.ahead stamp fun _ w => match w with | .emit l n _ => l == lid && n == node | _ => false

/-- TEMIT (R208, R359): requests for one node's free records are served in the order in which they come. -/
def execTemit (nb : Bool) (succ : BitVec 3) (sd va : Reg) (s : State) : Host.Outcome State Fault Refusal :=
  issue (.temit nb succ sd va) s fun c s =>
    let status (w : Word) : Act := .done (if nb then c.setS sd.toNat w s else s)
    match c.g.succ[succ.toNat]? with
    | none => trapAct causeILLEGAL
    | some h =>
      if c.g.trap.isSome then trapAct causeILLEGAL
      else match s.nodeOf c.g.vf h with
        | none => if nb then status 2 else trapAct causePROT
        | some (lid, l, node) =>
          match l.nodes[node]? with
          | none => trapAct causePROT
          | some nd =>
            let w := nd.kernel.record / 4
            let n := c.active.length
            if c.g.count < va.toNat + w then trapAct causeILLEGAL
            else if l.ended then (if nb then status 2 else trapAct causePROT)
            else if nd.kernel.queue < n then trapAct causeQFULL
            else if nd.kernel.queue - nd.queue.length < n || (0 < n && s.emitAhead (c.stamp s) lid node) then
              (if nb then status 1 else .hold (.emit lid node n) s)
            else
              let rs := c.active.map fun i => (regsFrom va.toNat w).map fun r => (c.g.v r).lane i
              let s := { s with launches := tset lid (l.append node s.now rs) s.launches }
              .done (if nb then c.setS sd.toNat 0 s else s)

/-- KREL (R202, R252, R303): the demotion of its scope counts whether or not it releases a key (R166; log entry 61). -/
def execKrel (b : SSrc) (s : State) : Host.Outcome State Fault Refusal :=
  issue (.krel b) s fun c s =>
    let key := (c.b b).toNat % 2 ^ 31
    match c.who, c.g.task.bind fun u => (tget u s.tasks).map fun t => (u, t) with
    | .group gid _, some (u, t) =>
      if !t.held.any (fun k => k.1 == key) then .done (s.demote c.g.vf .pkg)
      else if s.ropCount gid ≠ 0 then .hold .release s
      else .done ({ s with tasks := tset u { t with held := t.held.filter fun k => k.1 != key } s.tasks }.demote c.g.vf .pkg)
    | _, _ => .done (s.demote c.g.vf .pkg)

/-- A request of task `uid` for a key is compatible with the keys that other tasks of the VF hold (R200). Distinct keys never collide (DESIGN CHOICE, log
entry 114: R200 allows a delay by a collision and does not give the hash). -/
def State.keyFree (s : State) (uid v : Nat) (k : Nat × Bool) : Bool :=
  s.tasks.all fun x => x.1 == uid || x.2.vf != v || x.2.held.all fun h => h.1 != k.1 || (!k.2 && !h.2)

/-- The key table of a package has entries for the keys of one more task (R4): those held by its VFs' tasks, each key once. -/
def State.keyRoom (s : State) (v : Nat) (keys : List (Nat × Bool)) : Bool :=
  let held := (s.tasks.filter fun x => pkgOf x.2.vf == pkgOf v).flatMap fun x => x.2.held.map fun k => (x.2.vf, k.1)
  decide ((held ++ keys.map fun k => (v, k.1)).eraseDups.length ≤ Config.directoryEntries)

/-- A refused task: its rounds rise, and the oldest task refused 16 times reserves its keys from the next round (R200). -/
def State.refuseTask (s : State) (v uid : Nat) (t : Task) : State :=
  let s : State := { s with tasks := tset uid { t with rounds := t.rounds + 1 } s.tasks }
  let oldest := (s.tasks.find? fun x => x.2.vf == v && x.2.place == .waiting && 16 ≤ x.2.rounds).map fun x => x.1
  if 16 ≤ t.rounds + 1 ∧ (s.vf v).reserve.isNone ∧ oldest = some uid then s.setVf v { s.vf v with reserve := some uid } else s

/-- One waiting task considered in a round of its VF; `reserved` is the task that held the reservation as the round began, which
counts while it stands (R200). -/
def State.considerTask (s : State) (v : Nat) (reserved : Option Nat) (uid : Nat) : State :=
  match tget uid s.tasks with
  | none => s
  | some t =>
    let reserved := if (s.vf v).reserve = reserved then reserved else none
    let shut := match reserved.bind fun r => (tget r s.tasks).map fun x => (r, x) with
      | some (r, x) => r != uid && t.keys.any fun k => x.keys.any fun h => h.1 == k.1
      | none => false
    let place := match s.taskTarget uid t with
      | (some c, false) => if s.queueDepth c < Config.coreQueueEntries then some c else none
      | _ => none
    match place with
    | some c =>
      if t.keys.all (s.keyFree uid v) && !shut && s.keyRoom v t.keys then
        let s := { s with tasks := tset uid { t with held := t.keys, place := .queued c } s.tasks }
        if (s.vf v).reserve = some uid then s.setVf v { s.vf v with reserve := none } else s
      else s.refuseTask v uid t
    | none => s.refuseTask v uid t

/-- ADMISSION_ROUND of a package: every VF with waiting tasks (R200). -/
def execAdmissionRound (pkg : Nat) (s : State) : Host.Outcome State Fault Refusal :=
  .next <|
    let waiting := s.tasks.filter fun x => x.2.place == .waiting && pkgOf x.2.vf == pkg
    let vfs := (waiting.map fun x => x.2.vf).eraseDups
    vfs.foldl (fun s v =>
      let mine := waiting.filter fun x => x.2.vf == v
      let order := sortBy (fun x => (3 - s.effPrio x.2)) mine
      let reserved := (s.vf v).reserve
      order.foldl (fun s x => s.considerTask v reserved x.1) s) s

/-- Queued tasks of a VF on some cores that balance may move, the youngest first (R204). -/
def State.movable (s : State) (v : Nat) (cores : List Nat) : List (Nat × Task) :=
  (s.tasks.filter fun x => x.2.vf == v && x.2.aff.isNone && !x.2.pin
    && x.2.next == 0 && (match x.2.place with | .queued c => cores.contains c | _ => false)).reverse

/-- Entries in the queues of some cores (R204). -/
def State.depthOf (s : State) (cores : List Nat) : Nat := cores.foldl (fun n c => n + s.queueDepth c) 0

/-- Up to `n` movable tasks of some cores go to the shallowest of others that has a free entry (R204). -/
def State.moveTasks (s : State) (v n : Nat) (from' to' : List Nat) : State :=
  ((s.movable v from').take n).foldl (fun (s : State) x =>
    match leastBy s.queueDepth to' with
    | some c => if s.queueDepth c < Config.coreQueueEntries then { s with tasks := tset x.1 { x.2 with place := .queued c } s.tasks } else s
    | none => s) s

/-- Balance among groups of cores (quads, or the cores of a quad) whose mean depths differ by more than T (R204). The depths compared are those of
the moment, after earlier moves of the same exchange (DESIGN CHOICE, log entry 92: R204 does not say whether they are those exchanged). -/
def State.balance (s : State) (v t : Nat) (parts : List (List Nat)) : State :=
  let depth (s : State) (p : List Nat) : Nat × Nat := (s.depthOf p, p.length)
  match leastBy (fun p => s.depthOf p * 2 ^ 20 / max 1 p.length) parts with
  | none => s
  | some low =>
    parts.foldl (fun (s : State) p =>
      let (a, na) := depth s p
      let (b, nb) := depth s low
      if t * na * nb < a * nb - b * na then s.moveTasks v ((a * nb - b * na) / (2 * na * nb)) p low else s) s

/-- A core's cairns that move for balance (R221): those closed, not handed and not moving for which affinity tasks wait in its
queue; the tasks follow when the move ends. -/
def State.cairnBalance (s : State) (v core : Nat) (quad : List Nat) : State :=
  let t2 := (s.vf v).t2
  if quad.length * s.queueDepth core ≤ s.depthOf quad + t2 * quad.length then s
  else match leastBy s.queueDepth quad with
    | none => s
    | some low =>
      if low = core then s
      else
        let names := (s.tasks.filterMap fun x => if x.2.vf = v ∧ x.2.place = .queued core then x.2.aff else none).eraseDups
        names.foldl (fun (s : State) name =>
          match s.cairn v name with
          | some k =>
            if k.holder = core ∧ k.closed ∧ k.hand.isNone ∧ k.moving.isNone ∧ !k.lost ∧ !k.restorable then
              (s.beginMove k low none false).getD s
            else s
          | none => s) s

/-- QUEUE_DEPTH_EXCHANGE of a package (R204, R221). -/
def execQueueDepthExchange (pkg : Nat) (s : State) : Host.Outcome State Fault Refusal :=
  .next <|
    let vfs := ((s.tasks.map fun x => x.2.vf).eraseDups).filter fun v => pkgOf v == pkg
    vfs.foldl (fun s v =>
      let cores := s.coreSet v
      let quads := ((cores.map quadOf).eraseDups).map fun q => cores.filter fun c => quadOf c == q
      let s := s.balance v (s.vf v).t quads
      let s := quads.foldl (fun s q => s.balance v (s.vf v).t (q.map fun c => [c])) s
      quads.foldl (fun s q => q.foldl (fun s c => s.cairnBalance v c q) s) s) s

end Sys2Proof.Machine
end

