-- ==== Sys2Proof/Machine/Cairns.lean ====
section
/-! DEFINITION. Cairns (R211-R224, R291-R294, R296, R297). -/

namespace Sys2Proof.Machine

/-- The statuses of R214. -/
def cOK : Word := 0
def cEXISTS : Word := 1
def cNOSPACE : Word := 2
def cMISPLACED : Word := 3
def cHANDED : Word := 4
def cLOST : Word := 5
def cABSENT : Word := 6
def cNOTOPEN : Word := 7
def cBADTARGET : Word := 8

/-- The holder as reported (R211). -/
def Cairn.holderField (k : Cairn) : Nat := if k.lost || k.restorable then 0 else coordOf k.holder

/-- A handle: the window address of a cairn's first byte. -/
def Cairn.handle (k : Cairn) : Word := BitVec.ofNat 32 (2 ^ 31 + k.off)

/-- The state word of R211. -/
def Cairn.word (k : Cairn) : Word :=
  BitVec.ofNat 32 (k.holderField * 2 ^ 24 + min 127 (k.opens.length + k.topens.length) * 2 ^ 17 + k.restorable.toNat * 2 ^ 16
    + k.lost.toNat * 2 ^ 15 + k.moving.isSome.toNat * 2 ^ 14 + k.hand.isSome.toNat * 2 ^ 13 + k.mir.toNat * 2 ^ 12
    + k.life.code * 2 ^ 10 + (k.size / 256 - 1))

/-- Status and value written together (R214, R291). -/
def Ctx.answer (c : Ctx) (sd : Nat) (status value : Word) (s : State) : Act := .done (c.setS (sd + 1) value (c.setS sd status s))

/-- Opens that a group holds over all cairns, with those that moves under way are to give it (R212). -/
def State.opensOf (s : State) (gid : Nat) : Nat :=
  s.cairns.foldl (fun n k => n + k.opens.count gid + ((k.moving.bind Move.opener).any fun o => o.1 == gid).toNat) 0

/-- A request to the directory under a name (R214, R291): it waits while MOVING is set, while an earlier one waits for its write-back
or for its turn; the demotion of R166 counts as the instruction issues, once even where the request waits or is taken afresh (R223). -/
def cairnRequest (c : Ctx) (sd sa : Reg) (demotes : Bool) (s : State) (f : Nat → Nat → DWord → Option Cairn → State → Act) : Act :=
  match c.who with
  | .group gid k =>
    let name := c.pair sa.toNat
    let entry := s.cairn c.g.vf name
    let ahead := s.ahead (c.stamp s) fun h w => h.vf == c.g.vf && match w with | .cairn n _ => n == name | _ => false
    let s := if demotes && c.held.isNone then s.demote c.g.vf .pkg else s
    if s.cairnBusy c.g.vf name || ahead then .hold (.cairn name sd.toNat) s
    else f gid k name entry s
  | _ => .done s

/-- CNEW (R215, R296). -/
def execCnew (size : BitVec 10) (life : Life) (mir : Bool) (sd sa : Reg) (s : State) : Host.Outcome State Fault Refusal :=
  issue (.cnew size life mir sd sa) s fun c s => cairnRequest c sd sa true s fun gid _ name entry s =>
    let ans := c.answer sd.toNat
    let n := 256 * (size.toNat + 1)
    match entry with
    | some k => ans cEXISTS (BitVec.ofNat 32 k.holderField) s
    | none =>
      if (s.vf c.g.vf).dirShare ≤ (s.cairns.filter fun k => k.vf == c.g.vf).length
          ∨ Config.directoryEntries ≤ (s.cairns.filter fun k => pkgOf k.vf == pkgOf c.g.vf).length ∨ 16 ≤ s.opensOf gid then ans cNOSPACE 0 s
      else match s.scratchRoom c.g.vf c.g.core n with
        | none => ans cNOSPACE 0 s
        | some off =>
          let k : Cairn := { vf := c.g.vf, name := name, holder := c.g.core, off := off, size := n, life := life, mir := mir,
                             launch := c.g.launch, queue := ((tget c.g.launch s.launches).map Launch.queue).getD 0, opens := [gid] }
          ans cOK k.handle { s.zeroScratch (scratchKey c.g.core off) n with cairns := s.cairns ++ [k] }

/-- A group belongs to the target of a hand (R216, R218). -/
def Hand.isFor (h : Hand) (g : Group) : Bool :=
  match h with
  | .node l n => g.launch == l && g.node == some n
  | .task u => g.task == some u
  | .core c => g.core == c

/-- A cairn with one more open of a group; a hand to the group ends (R216, R218). -/
def Cairn.openBy (k : Cairn) (gid : Nat) (g : Group) : Cairn :=
  { k with opens := k.opens ++ [gid], hand := if (k.hand.map fun h => h.isFor g).getD false then none else k.hand }

/-- COPEN (R216, R217, R297). -/
def execCopen (nomove : Bool) (sd sa : Reg) (s : State) : Host.Outcome State Fault Refusal :=
  issue (.copen nomove sd sa) s fun c s => cairnRequest c sd sa true s fun gid sp name entry s =>
    let ans := c.answer sd.toNat
    match entry with
    | none => ans cABSENT 0 s
    | some k =>
      let holder := BitVec.ofNat 32 k.holderField
      let move (restore : Bool) : Act :=
        match s.beginMove k c.g.core (some (gid, sp)) restore with
        | some t => .wait (.move name sd.toNat) c.next t
        | none => ans cNOSPACE 0 s
      if k.drop then ans cABSENT 0 s
      else if k.lost then ans cLOST 0 s
      else if 16 ≤ s.opensOf gid then ans cNOSPACE 0 s
      else if k.restorable then move true
      else if k.holder = c.g.core then ans cOK k.handle (s.setCairn (k.openBy gid c.g))
      else if (k.hand.map fun h => !h.isFor c.g).getD false then ans cHANDED holder s
      else if !k.closed || nomove then ans cMISPLACED holder s
      else move false

/-- The instruction completes now, or after the write-back of a mirrored cairn, with the close that follows it (R219). -/
def Ctx.mirrored (c : Ctx) (gid sp sd : Nat) (k : Cairn) (value : Word) (close : Option Bool) (s : State) (now : State) : Act :=
  if k.mir then .wait (.writeback s.nextId sd) c.next (s.writeBack k (some (gid, sp, sd, value)) close) else c.answer sd cOK value now

/-- One close of a group, with the drop requested or not (R219, R292). -/
def State.closeOne (s : State) (k : Cairn) (gid : Nat) (free : Bool) : State :=
  s.afterClose { k with opens := k.opens.erase gid, drop := k.drop || free }

/-- CDROP (R219, R292). -/
def execCdrop (free : Bool) (sd sa : Reg) (s : State) : Host.Outcome State Fault Refusal :=
  issue (.cdrop free sd sa) s fun c s => cairnRequest c sd sa true s fun gid sp _ entry s =>
    let ans := c.answer sd.toNat
    match entry with
    | none => ans cABSENT 0 s
    | some k =>
      if k.lost then (if free then ans cOK 0 (s.delCairn k) else ans cLOST 0 s)
      else if !k.opens.contains gid then ans cNOTOPEN 0 s
      else c.mirrored gid sp sd.toNat k 0 (some free) s (s.closeOne k gid free)

/-- A hand's target already holds an open (R218). -/
def State.targetOpen (s : State) (k : Cairn) (h : Hand) : Bool :=
  (match h with | .task u => k.topens.contains u | _ => false)
    || k.opens.any fun i => (tget i s.groups).any fun g => h.isFor g

/-- The target of CHAND; none where R218 does not allow it. -/
def handTarget (c : Ctx) (s : State) (k : ChandKind) : Option Hand :=
  match k with
  | .succ i => match c.g.succ[i.toNat]? with
    | some h => match s.nodeOf c.g.vf h with
      | some (lid, l, n) => if l.ended then none else some (.node lid n)
      | none => none
    | none => none
  | .task sb =>
    (s.tasks.find? fun x => x.2.vf == c.g.vf && x.2.handle == c.s sb.toNat && x.2.place != .retired).map fun x => .task x.1
  | .core x => let core := coreOf c.g.core x; if (s.coreSet c.g.vf).contains core then some (.core core) else none

/-- CHAND (R218, R293). -/
def execChand (k : ChandKind) (sd sa : Reg) (s : State) : Host.Outcome State Fault Refusal :=
  issue (.chand k sd sa) s fun c s =>
    if (match k with | .succ i => decide (c.g.succ.length ≤ i.toNat) | _ => false) = true then trapAct causeILLEGAL
    else cairnRequest c sd sa false s fun gid sp _ entry s =>
      let ans := c.answer sd.toNat
      match entry with
      | none => ans cABSENT 0 s
      | some e =>
        if !e.opens.contains gid then ans cNOTOPEN 0 s
        else match handTarget c s k with
          | none => ans cBADTARGET 0 s
          | some h =>
            let e' := { e with hand := if s.targetOpen e h then none else some h }
            let t := s.setCairn e'
            c.mirrored gid sp sd.toNat e' 0 none t t

/-- CINFO (R211, R219, R294). -/
def execCinfo (sync : Bool) (sd sa : Reg) (s : State) : Host.Outcome State Fault Refusal :=
  issue (.cinfo sync sd sa) s fun c s => cairnRequest c sd sa false s fun gid sp _ entry s =>
    let ans := c.answer sd.toNat
    match entry with
    | none => ans cABSENT 0 s
    | some k =>
      if !sync then ans cOK k.word s
      else if !k.mir || !k.opens.contains gid then ans cNOTOPEN k.word s
      else c.mirrored gid sp sd.toNat k k.word none s s

/-- The registers of a cairn instruction that has waited are written, and its split goes on (R214, R291). -/
def State.answerWait (s : State) (gid k sd : Nat) (status value : Word) : State :=
  match (s.group? gid).bind fun g => tget k g.splits with
  | some sp => (s.modGroup gid fun g => (g.setS k sd status).setS k (sd + 1) value).finish gid k sp.cont
  | none => s

/-- Every queued task that a cairn places is sent to its new holder (R220, R221), the oldest first, while the queue there has a free entry; one that
finds none is sent on as it is to be dispatched (R203). -/
def State.followCairn (s : State) (k : Cairn) : State :=
  s.tasks.foldl (fun s x =>
    let follows := (s.taskCairn x.1 x.2).any fun y => y.vf == k.vf && y.name == k.name
    match x.2.place with
    | .queued c =>
      if follows && c != k.holder && s.queueDepth k.holder < Config.coreQueueEntries then
        { s with tasks := tset x.1 { x.2 with place := .queued k.holder } s.tasks }
      else s
    | _ => s) s

/-- CAIRN_MOVE_COMPLETE: a move or restore ends, and a COPEN that waited for it returns OK (R217, R218, R221, R223). The bytes that a restore
gives a cairn that was never written back are undefined (DESIGN CHOICE, log entry 96: R222 names only the last write-back). -/
def execCairnMoveComplete (vf : Nat) (name : DWord) (s : State) : Host.Outcome State Fault Refusal :=
  .next <| match s.cairn vf name with
    | none => s
    | some k => match k.moving with
      | none => s
      | some m =>
        let key := scratchKey m.core m.off
        let placed := if m.restore && k.mirror.isEmpty then s.undefScratch key k.size
          else { s with fresh := s.fresh + 1 }.storeScratch key (if m.restore then k.mirror else s.carried m.bytes (s.cairnBytes k))
        let k : Cairn := { k with holder := m.core, off := m.off, moving := none, restorable := false,
                                  hand := if k.hand = some (.core m.core) then none else k.hand }
        let s := placed.followCairn k
        let opener := m.opener.bind fun o => (s.group? o.1).bind fun g => (tget o.2 g.splits).bind fun sp =>
          match sp.wait with
          | .move n sd => if n = name then some (o.1, o.2, g, sd) else none
          | _ => none
        match opener with
        | some (gid, sp, g, sd) => (s.setCairn (k.openBy gid g)).answerWait gid sp sd cOK k.handle
        | none => if k.drop && k.closed then s.delCairn k else s.setCairn k

/-- The bytes of a VF's mirror area, on which a write-back has put a mirror; the spec does not give where in it a mirror lies, so that each may be
any (R219, log entry 15). -/
def State.touchMirrors (s : State) (v : Nat) : State :=
  s.undefMem (memKey (s.vfDev v) (s.vf v).mirrorBase.toNat) (s.vf v).mirrorSize

/-- The opens that an ended group or a task still holds of a cairn of a name are closed. -/
def State.leaveAgain (s : State) (v : Nat) (name : DWord) (l : Leaver) : State :=
  match s.cairn v name with
  | some k => s.leaveCairn k l
  | none => s

/-- CAIRN_WRITEBACK_COMPLETE: the mirror holds the bytes, in the order of the write-backs of one cairn; a CDROP, CHAND or CINFO.sync that
waited completes, and an ended group or task gives up one open, the next one after another write-back (R212, R219, R222). -/
def execCairnWritebackComplete (id : Nat) (s : State) : Host.Outcome State Fault Refusal :=
  .next <| match tget id s.wbacks with
    | none => s
    | some w =>
      if s.wbacks.any fun x => decide (x.1 < id) && x.2.vf == w.vf && x.2.name == w.name then s else
      let s : State := { s with wbacks := tdel id s.wbacks }
      let s := match s.cairn w.vf w.name with
        | some k => if k.lost || k.restorable then s else ({ s with fresh := s.fresh + 1 }.setCairn { k with mirror := s.carried w.bytes (s.cairnBytes k) }).touchMirrors w.vf
        | none => s
      match w.waiter with
      | none => match w.leaver, s.cairn w.vf w.name with
        | some l, some k => if k.heldBy l = 0 then s else (s.afterClose (k.without l)).leaveAgain w.vf w.name l
        | _, _ => s
      | some (gid, sp, sd, value) =>
        let waits := (s.group? gid).any fun g => (tget sp g.splits).any fun x => x.wait == .writeback id sd
        if !waits then s
        else
          let s := match w.close, s.cairn w.vf w.name with
            | some free, some k => s.closeOne k gid free
            | _, _ => s
          s.answerWait gid sp sd cOK value

end Sys2Proof.Machine
end

