-- ==== Sys2Proof/Machine/Sequencer.lean ====
section
/-! DEFINITION. The sequencer family (R183-R192, R304-R309, R315-R318), the sums of the matrix engine (R117-R122), its check
(R194), and the engine's own steps (R176, R177, R185-R187, R195). -/

namespace Sys2Proof

/-- Blocks of a weight block: K / 128 (R181). -/
def WFmt.blocks : WFmt → Nat
  | .fp8 => 4 | .hs4 => 8 | .bf16 => 1

end Sys2Proof

namespace Sys2Proof.Machine

/-! Ranges and operations -/

/-- An engine operation is issued (R176). -/
def State.startOp (s : State) (q : Nat) (o : EngOp) : State :=
  s.modProg q fun p => { p with ops := p.ops ++ [(p.nextOp, o)], nextOp := p.nextOp + 1 }

/-- A range of the program's tenant, with no release of it issued (R184, R315). -/
def Prog.mayUse (p : Prog) (r : WRange) : Bool :=
  r.vf == p.vf && p.ops.all fun o => match o.2.kind with | .release base _ => base != r.base | _ => true

/-- The range that starts at an offset. -/
def Prog.rangeAt (p : Prog) (qd : Quad) (base : Nat) : Option WRange := qd.ranges.find? fun r => p.mayUse r && r.base == base

/-- The range in which `n` bytes at an offset lie. -/
def Prog.rangeHolding (p : Prog) (qd : Quad) (off n : Nat) : Option WRange :=
  (qd.rangeOf p.vf off n).bind fun r => if p.mayUse r then some r else none

/-- The lowest free offset of a tenant's space that holds `n` bytes (R184): at 0 or behind a range. -/
def freeOffset (ranges : List WRange) (space n : Nat) : Option Nat :=
  leastBy id ((0 :: ranges.map fun r => r.base + r.bytes).filter fun o =>
    decide (o + n ≤ space) && ranges.all fun r => !overlap o n r.base r.bytes)

/-- The running program of the issuing sequencer, and its quad's number. -/
def Ctx.prog (c : Ctx) (s : State) (f : Nat → Prog → Act) : Act :=
  match c.who with
  | .seq q => match (s.quad q).running with
    | some p => f q p
    | none => .done s
  | _ => .done s

/-- A cause of a sequencer's instruction, and what it would have written is undefined (R177). -/
def Ctx.seqFault (c : Ctx) (cause : Nat) (undefined : State) : Act := .away (c.raise cause 127 0 0 c.pc undefined)

/-- MRES (R184, R315). A range of 2^24 bytes, which BYTES of 24 bits cannot hold, is reserved like any other (DESIGN CHOICE, log
entry 74: R180 does not say what becomes of it). -/
def execMres (fmt : WFmt) (sp ts : Bool) (sd sa : Reg) (s : State) : Host.Outcome State Fault Refusal :=
  issue (.mres fmt sp ts sd sa) s fun c s => c.prog s fun q p =>
    let n := (c.s sa.toNat).toNat
    let qd := s.quad q
    let mine := qd.ranges.filter fun r => r.vf == p.vf
    let quarters := (tgetD (q % 64) [] (s.vf p.vf).quarters).length
    if n = 0 then
      .done ((s.startOp q { kind := .release (c.s sd.toNat).toNat sd.toNat, pc := c.pc }).settleOps q (p.ops.length + 1))
    else if n % 256 ≠ 0 ∨ (ts ∧ fmt = .bf16) then trapAct causeILLEGAL
    else match (if mine.length < Config.recordsPerQuarter * quarters then freeOffset mine (s.wbufSpace p.vf q) n else none) with
      | none => .done (c.setS sd.toNat 0xFFFFFFFF s)
      | some off =>
        let r : WRange := { vf := p.vf, base := off, bytes := n, fmt := fmt, sp := sp, ts := ts }
        .done (c.setS sd.toNat (BitVec.ofNat 32 off) ((s.setQuad q { qd with ranges := qd.ranges ++ [r] }).wbufUndefine p.vf q off n))

/-- The keys of `n` parts of 256 bytes from `a` on, or the first error (R185). -/
def sourceKeys (s : State) (core v launch : Nat) (a : DWord) : Nat → Except AccessErr (List Nat)
  | 0 => .ok []
  | n + 1 => match s.checkGlobal core v launch a 256 .read with
    | .error e => .error e
    | .ok l => match sourceKeys s core v launch (a + 256) n with
      | .error e => .error e
      | .ok ks => .ok (s.leafKey core v l :: ks)

/-- MWLD (R185, R317): one that reads a remote page issues once the VF's operations in flight there have been applied (R157, R160). -/
def execMwld (len : BitVec 24) (sa sb : Reg) (s : State) : Host.Outcome State Fault Refusal :=
  issue (.mwld len sa sb) s fun c s => c.prog s fun q p =>
    let n := 256 * len.toNat
    let src := c.pair sa.toNat
    let dst := (c.s sb.toNat).toNat
    let fault (cause : Nat) : Act := c.seqFault cause (s.wbufUndefine p.vf q dst n)
    if dst % 256 ≠ 0 then fault causeILLEGAL
    else if src.toNat % 256 ≠ 0 then fault causeALIGN
    else match p.rangeHolding (s.quad q) dst n with
      | none => fault causePROT
      | some r => match sourceKeys s p.core p.vf p.launch src len.toNat with
        | .error (.cause k) => fault k
        | .error (.hole pa) => .stop (.noMemory pa)
        | .ok ks => match s.busyHome p.core p.vf p.launch ((List.range len.toNat).map fun i => src + BitVec.ofNat 64 (256 * i)) with
          | some home => .wait (.again (.flight home)) c.next s
          | none => .done (s.startOp q { kind := .mwld src dst n, pc := c.pc, uses := [r.base], keys := ks })

/-- MLDW (R186, R308): a BLK at or beyond the range's count of whole blocks is ILLEGAL. -/
def execMldw (blk : BitVec 12) (sa : Reg) (s : State) : Host.Outcome State Fault Refusal :=
  issue (.mldw blk sa) s fun c s => c.prog s fun q p =>
    let base := (c.s sa.toNat).toNat
    match p.rangeAt (s.quad q) base with
    | none => trapAct causePROT
    | some r =>
      if r.bytes / r.stride ≤ blk.toNat then trapAct causeILLEGAL
      else
        let o : EngOp := { kind := .mldw base blk.toNat, pc := c.pc, plane := some ⟨r, blk.toNat, []⟩, mldw := p.lastLoad, uses := [base] }
        .done ((s.startOp q o).modProg q fun p => { p with lastLoad := some (p.nextOp - 1) })

/-- The ring words that sa names. -/
def Ctx.ring (c : Ctx) (sa : Nat) : List Word := (regsFrom sa 4).map c.s

/-- The checks of R187 that trap ILLEGAL, for a payload in bytes. -/
def ringBad (r : List Word) (payload : Nat) : Bool :=
  ringSlots r == 0 || 4096 < ringSlots r || ringSlots r ≤ ringPos r || ringStride r < 64 + payload
    || bitField (wordAt r 0) 27 21 != 0 || ringBase r % 64 != 0

/-- A slot of the ring that `rows` uses take lies outside the tenant's slices on its core (R187). -/
def State.ringOutside (s : State) (p : Prog) (q : Nat) (r : List Word) (payload rows : Nat) : Bool :=
  (List.range (min rows (ringSlots r))).any fun i =>
    let off := ringBase r + ringStride r * ((ringPos r + i) % ringSlots r)
    !s.inSlices p.vf (quadCore q (ringCore r)) off (64 + payload)

/-- The plane of the program's most recent MLDW, loaded or under way (R186, R189). -/
def Prog.planeNow (p : Prog) : Option Plane :=
  match p.lastLoad with
  | none => none
  | some id => match tget id p.ops with
    | some o => o.plane
    | none => p.plane

/-- That plane once it is loaded, and the load that a row operation waits for. -/
def Prog.planeLoaded (p : Prog) : Option Plane :=
  match p.lastLoad with
  | none => none
  | some id => if (tget id p.ops).isSome then none else p.plane

/-- Rows of the accumulator lie in the tenant's space (R174). -/
def State.rowsIn (s : State) (p : Prog) (q acc rows : Nat) : Bool := (s.accRow p.vf q (acc + rows - 1)).isSome

/-- The checks of MMA and MDIST that trap ILLEGAL (R187, R189, R305, R309): the plane's range, or none. -/
def rowRange (p : Prog) (qd : Quad) (dist : Bool) (r : List Word) (base : Nat) : Option WRange :=
  match p.planeNow, p.rangeAt qd base with
  | some pl, some x =>
    if pl.range.base = base ∧ ringAfmt r = x.fmt.code ∧ pl.range = x ∧ !(dist ∧ x.fmt = .bf16) ∧ !ringBad r (WFmt.rowBytes x.fmt) then some x
    else none
  | _, _ => none

/-- MMA and MDIST issue (R189). -/
def issueRows (i : Instr) (dist : Option Reg) (mm1 acc : BitVec 10) (sa sb : Reg) (s : State) : Host.Outcome State Fault Refusal :=
  issue i s fun c s => c.prog s fun q p =>
    let rows := mm1.toNat + 1
    let ring := c.ring sa.toNat
    let fault (cause : Nat) : Act := c.seqFault cause (s.rowsUndefine p.vf q acc.toNat rows)
    match rowRange p (s.quad q) dist.isSome ring (c.s sb.toNat).toNat with
    | none => fault causeILLEGAL
    | some r =>
      let norm := (dist.map fun sd => (c.s sd.toNat).toNat).getD 0
      let held := p.rangeHolding (s.quad q) norm (2048 + 4 * rows)
      if !s.rowsIn p q acc.toNat rows || s.ringOutside p q ring (WFmt.rowBytes r.fmt) rows || (dist.isSome && held.isNone) then
        fault causePROT
      else
        .done (s.startOp q { kind := if dist.isSome then .mdist norm else .mma, pc := c.pc, rows := rows, acc := acc.toNat, ring := ring,
                             sa := sa.toNat, plane := p.planeLoaded, mldw := p.lastLoad,
                             uses := r.base :: (if dist.isSome then held.toList.map WRange.base else []) })

/-- MMA (R189, R309). -/
def execMma (mm1 acc : BitVec 10) (sa sb : Reg) (s : State) : Host.Outcome State Fault Refusal :=
  issueRows (.mma mm1 acc sa sb) none mm1 acc sa sb s

/-- MDIST (R189, R305). -/
def execMdist (mm1 acc : BitVec 10) (sd sa sb : Reg) (s : State) : Host.Outcome State Fault Refusal :=
  issueRows (.mdist mm1 acc sd sa sb) (some sd) mm1 acc sa sb s

/-- MTOPK (R190, R316). -/
def execMtopk (mm1 acc : BitVec 10) (km1 : BitVec 4) (min : Bool) (sa sb : Reg) (s : State) : Host.Outcome State Fault Refusal :=
  issue (.mtopk mm1 acc km1 min sa sb) s fun c s => c.prog s fun q p =>
    let rows := mm1.toNat + 1
    let k := km1.toNat + 1
    let ring := c.ring sa.toNat
    if ringBad ring (8 * k) then trapAct causeILLEGAL
    else if !s.rowsIn p q acc.toNat rows || s.ringOutside p q ring (8 * k) rows then trapAct causePROT
    else .done (s.startOp q { kind := .mtopk k min (c.s sb.toNat), pc := c.pc, rows := rows, acc := acc.toNat, ring := ring, sa := sa.toNat })

/-- MDRN (R191, R306). -/
def execMdrn (mm1 acc : BitVec 10) (fmt : DFmt) (sh dst : Bool) (sa sb : Reg) (s : State) : Host.Outcome State Fault Refusal :=
  issue (.mdrn mm1 acc fmt sh dst sa sb) s fun c s => c.prog s fun q p =>
    let rows := mm1.toNat + 1
    let bytes := 512 * fmt.bytes
    let ring := if dst then [] else c.ring sa.toNat
    if !dst && ringBad ring bytes then trapAct causeILLEGAL
    else if !s.rowsIn p q acc.toNat rows || (!dst && s.ringOutside p q ring bytes rows) then trapAct causePROT
    else
      .done (s.startOp q { kind := .mdrn fmt sh (if fmt = .f8 then c.s sb.toNat else 0) (if dst then some (c.pair sa.toNat) else none),
                           pc := c.pc, rows := rows, acc := acc.toNat, ring := ring, sa := sa.toNat })

/-- MZERO (R192, R318). -/
def execMzero (regs : BitVec 16) (s : State) : Host.Outcome State Fault Refusal :=
  issue (.mzero regs) s fun c s => c.prog s fun q p =>
    if (List.range 16).any fun i => regs.getLsbD i && !s.rowsIn p q (64 * i) 64 then trapAct causePROT
    else .done ((s.startOp q { kind := .mzero regs.toNat, pc := c.pc }).settleOps q (p.ops.length + 1))

/-! Elements and sums -/

/-- Little-endian halfwords of bytes. -/
def halfwords : List Byte → List Nat
  | a :: b :: t => (a.toNat + 256 * b.toNat) :: halfwords t
  | _ => []

/-- Little-endian words of bytes. -/
def wordsOf : List Byte → List Word
  | a :: b :: c :: d :: t => (d ++ c ++ b ++ a) :: wordsOf t
  | _ => []

/-- The nibbles of bytes, the low one first. -/
def nibbles (bs : List Byte) : List Nat := bs.flatMap fun b => [b.toNat % 16, b.toNat / 16]

/-- The elements that bytes hold in a weight format (R181, R188). -/
def elements (f : WFmt) (bs : List Byte) : List ExactVal :=
  match f with
  | .fp8 => bs.map fun b => ofE4m3 b.toNat
  | .hs4 => (nibbles bs).map ofHs4
  | .bf16 => (halfwords bs).map (ofBin 8 (-133))

/-- A compressed column expanded by its metadata: none at a removed position (R181). -/
def expand : List ExactVal → List Nat → List (Option ExactVal)
  | x :: y :: xs, m :: ms =>
    ((List.range 4).map fun i => if i = m % 4 then some x else if i = m / 4 then some y else none) ++ expand xs ms
  | _, _ => []

/-- Column n of a loaded plane (R181). -/
def Plane.column (p : Plane) (n : Nat) : List (Option ExactVal) :=
  let (_, data, meta', _) := p.range.dims
  let part (off size : Nat) : List Byte := (p.bytes.drop (off + n * (size / 512))).take (size / 512)
  let es := elements p.range.fmt (part 0 data)
  if p.range.sp then expand es (nibbles (part data meta')) else es.map some

/-- Tile scale sB[kb][nb] (R181); 1 where the format has none. -/
def Plane.scale (p : Plane) (kb nb : Nat) : Word :=
  let (_, data, meta', _) := p.range.dims
  if p.range.ts then ((wordsOf ((p.bytes.drop (data + meta' + 4 * (4 * kb + nb))).take 4)).getD 0 0) else 0x3F800000

/-- The exact products of a block; a removed position contributes 0 (R117, R119). -/
def products : List ExactVal → List (Option ExactVal) → List ExactVal
  | a :: as, b :: bs => (match b with | some y => a.mul y | none => .fin false 0 0) :: products as bs
  | _, _ => []

/-- Exact sum (R118). -/
def exactSum (l : List ExactVal) : ExactVal := l.foldl (ExactVal.add false) (.fin false 0 0)

/-- p of R117. -/
def blockSum (a : List ExactVal) (b : List (Option ExactVal)) : Word :=
  if a.any ExactVal.isNan || b.any (fun x => match x with | some y => y.isNan | none => false) then canonNan
  else match exactSum (products a b) with
    | .fin _ 0 _ => 0
    | x => roundRne x

/-- A value is multiplied by a scale (R117). -/
def scaled (p : Word) (s : Option Word) : Word := match s with | some x => fMul p x | none => p

/-- q(kb) of R117 for column j of a row with scales sA. -/
def blockQ (pl : Plane) (a : List ExactVal) (sA : List Word) (j : Nat) (col : List (Option ExactVal)) (kb : Nat) : Word :=
  let p := blockSum ((a.drop (128 * kb)).take 128) ((col.drop (128 * kb)).take 128)
  let row := sA.getD (if pl.range.fmt = .hs4 then kb / 2 else kb) 0
  scaled (fMul p row) (if pl.range.ts then some (pl.scale kb (j / 128)) else none)

/-- Pairs of neighbours added (R119). -/
def addPairs : List Word → List Word
  | a :: b :: t => fAdd a b :: addPairs t
  | l => l

/-- Level 1 of R119, from the exact products. -/
def firstLevel : List ExactVal → List Word
  | a :: b :: t => roundRne (a.add false b) :: firstLevel t
  | _ => []

/-- The root of the tree of 128 products (R119). -/
def productTree (xs : List ExactVal) : Word := ((addPairs (addPairs (addPairs (addPairs (addPairs (addPairs (firstLevel xs))))))).getD 0 0)

/-- The q values of one column for a ring row (R117, R119). -/
def Plane.qs (pl : Plane) (row : List Byte) (j : Nat) : List Word :=
  let f := pl.range.fmt
  let col := pl.column j
  if f = .bf16 then [productTree (products (elements f row) col)]
  else (List.range (WFmt.blocks f)).map (blockQ pl (elements f (row.take 512)) (wordsOf (row.drop 512)) j col)

/-- MDIST's update of one accumulator value (R120). -/
def distUpdate (acc nA nB : Word) (qs : List Word) : Word :=
  let t := qs.foldl fAdd 0
  fAdd acc (fSub (fAdd nA nB) (fMul 0x40000000 t))

/-- The column sum of a tile for each k (R194); a removed position counts 0. -/
def colSums (cols : List (List (Option ExactVal))) (k : Nat) : ExactVal :=
  exactSum (cols.map fun c => match c.getD k none with | some x => x | none => .fin false 0 0)

/-- The check contribution of one block of a row (R194), exact. -/
def checkTerm (pl : Plane) (a : List ExactVal) (sA : List Word) (kb : Nat) : ExactVal :=
  let row : ExactVal := if pl.range.fmt = .bf16 then .fin false 1 0 else ofF32 (sA.getD (if pl.range.fmt = .hs4 then kb / 2 else kb) 0)
  let tile (nb : Nat) : ExactVal :=
    let cols := (List.range 128).map fun j => pl.column (128 * nb + j)
    let dot := exactSum ((List.range 128).map fun i => (a.getD (128 * kb + i) .nan).mul (colSums cols (128 * kb + i)))
    (ofF32 (pl.scale kb nb)).mul dot
  row.mul (exactSum ((List.range 4).map tile))

/-- The magnitude of a value. -/
def ExactVal.abs : ExactVal → ExactVal
  | .nan => .nan
  | .inf _ => .inf false
  | .fin _ m e => .fin false m e

/-- What a block adds to C: the exact term, or the sum of its q values where these differ from it by more than 2^−12 of their
magnitudes, so that no checked row fails without an error (R194; log entry 39). -/
def blockCheck (term : ExactVal) (qs : List ExactVal) : ExactVal :=
  let sum := exactSum qs
  let off := ExactVal.abs (term.add false sum.neg)
  if off.isNan || ((exactSum (qs.map ExactVal.abs)).mul (.fin false 1 (-12))).lt off then sum else term

/-- A row's check state after an MMA row (R194). -/
def RowCheck.update (r : RowCheck) (pl : Plane) (row : List Byte) (qs : List (List Word)) : RowCheck :=
  let f := pl.range.fmt
  let a := elements f (if f = .bf16 then row else row.take 512)
  let sA := wordsOf (row.drop 512)
  let n := WFmt.blocks f
  { r with
    c := (List.range n).foldl (fun x kb => x.add false (blockCheck (checkTerm pl a sA kb) (qs.map fun l => ofF32 (l.getD kb 0)))) r.c,
    s := qs.foldl (fun x l => l.foldl (fun y q => y.add false (ExactVal.abs (ofF32 q))) x) r.s,
    updates := r.updates + n }

/-- MDRN's check of a row passes or does not apply (R1, R194). -/
def RowCheck.passes (r : RowCheck) (vals : List Word) : Bool :=
  let xs := vals.map ofF32
  let special := xs.any fun x => match x with | .fin .. => false | _ => true
  if special || r.undef || r.mdist || 8192 < r.updates then true
  else
    let d := ExactVal.abs ((exactSum xs).add false r.c.neg)
    !((r.s.mul (.fin false 1 (-10))).add false (.fin false 1 (-100))).lt d

/-- A value ranks above another (R121). -/
def ranksAbove (min : Bool) (x y : Word) : Bool :=
  match ofF32 x, ofF32 y with
  | .nan, _ => false
  | _, .nan => true
  | a, b => if min then a.lt b else b.lt a

/-- The best entry, the first of equals. -/
def bestEntry (min : Bool) : List (Nat × Word) → Option (Nat × Word)
  | [] => none
  | x :: xs => match bestEntry min xs with
    | none => some x
    | some y => if ranksAbove min y.2 x.2 then some y else some x

/-- The k best entries in rank order (R121). -/
def topK (min : Bool) : Nat → List (Nat × Word) → List (Nat × Word)
  | 0, _ => []
  | k + 1, l => match bestEntry min l with
    | none => []
    | some x => x :: topK min k (l.filter fun y => y.1 != x.1)

/-- The bytes of an accumulator row drained in a format (R122). -/
def drained (fmt : DFmt) (scale : Word) (vals : List Word) : List Byte :=
  vals.flatMap fun w => match fmt with
    | .f32 => leBytes 4 w.toNat
    | .bf16 => leBytes 2 (packBin 8 (-133) .rn (ofF32 w))
    | .f8 => leBytes 1 (packE4m3 .rn false ((ofF32 w).mul (ofF32 scale)))

/-! The engine's steps -/

/-- The next slot's header has the value that the operation waits for. -/
def State.slotReady (s : State) (q : Nat) (o : EngOp) : Bool :=
  o.ring.isEmpty || BitVec.ofNat 32 (s.scratch.read (slotKey q o.ring) 4) == o.header

/-- A program's registers with POS and LAP of an operation's ring written, which are those of its next slot (R187). -/
def EngOp.putRing (o : EngOp) (ring regs : List Word) : List Word :=
  if ring.isEmpty then regs else (regs.set (o.sa + 2) (ring.getD 2 0)).set (o.sa + 3) (ring.getD 3 0)

/-- One row of an operation is done (R187): the header moves on, and after the last row POS and LAP are written. -/
def State.rowDone (s : State) (q id : Nat) (o : EngOp) : State :=
  let s := if o.ring.isEmpty then s else s.storeScratch (slotKey q o.ring) (leBytes 4 (o.header + 1).toNat)
  let ring := if o.ring.isEmpty then [] else ringNext o.ring
  if o.row + 1 < o.rows then s.modProg q fun p => { p with ops := tset id { o with row := o.row + 1, ring := ring } p.ops }
  else
    (s.modProg q fun p => { p with sregs := o.putRing ring p.sregs }).dropOp q id

/-- The payload of the next slot. -/
def State.slotBytes (s : State) (q : Nat) (o : EngOp) (n : Nat) : List Byte := s.scratch.bytes (slotKey q o.ring + 64) n

/-- One row of MMA (R189, R194). -/
def State.mmaRow (s : State) (q id : Nat) (p : Prog) (o : EngOp) (pl : Plane) : State :=
  match s.accRow p.vf q (o.acc + o.row) with
  | none => s
  | some r =>
    let row := s.slotBytes q o (WFmt.rowBytes pl.range.fmt)
    let qs := (List.range 512).map (pl.qs row)
    let vals := (s.accVals r).zipWith (fun a l => l.foldl fAdd a) qs
    let s : State := { s.setAcc r vals with rows := tset r ((tgetD r {} s.rows).update pl row qs) s.rows }
    s.rowDone q id o

/-- One row of MDIST (R120, R189). -/
def State.distRow (s : State) (q id : Nat) (p : Prog) (o : EngOp) (norm : Nat) (pl : Plane) : State :=
  match s.accRow p.vf q (o.acc + o.row) with
  | none => s
  | some r =>
    let row := s.slotBytes q o (WFmt.rowBytes pl.range.fmt)
    let nB := wordsOf (s.wbufBytes false p.vf q norm 2048)
    let nA := (wordsOf (s.wbufBytes false p.vf q (norm + 2048 + 4 * o.row) 4)).getD 0 0
    let vals := (s.accVals r).zipIdx.map fun x => distUpdate x.1 nA (nB.getD x.2 0) (pl.qs row x.2)
    let s : State := { s.setAcc r vals with rows := tset r { tgetD r {} s.rows with mdist := true } s.rows }
    s.rowDone q id o

/-- The keys of a row of `n` bytes at a global address that MDRN writes: one or two parts, each in one page (R191). -/
def drainKeys (s : State) (p : Prog) (a : DWord) (n es : Nat) (sh : Bool) : Except AccessErr (List (Nat × Nat)) :=
  let first := min n (65536 - a.toNat % 65536)
  let part (b : DWord) (m : Nat) : Except AccessErr (List (Nat × Nat)) :=
    if !canonical b then .error (.cause causeXLATE)
    else if b.toNat % es ≠ 0 then .error (.cause causeALIGN)
    else match s.checkPage p.core p.vf p.launch b .write sh with
      | .error e => .error e
      | .ok l => .ok [(s.leafKey p.core p.vf l, m)]
  match part a first with
  | .error e => .error e
  | .ok ks =>
    if first = n then .ok ks
    else match part (a + BitVec.ofNat 64 first) (n - first) with
      | .error e => .error e
      | .ok ls => .ok (ks ++ ls)

/-- The positions of a copy whose destination a drain writes (R299). -/
def Copy.race (c : Copy) (scratch : Bool) (key n : Nat) : Copy :=
  if c.toScratch != scratch then c else { c with raced := c.raced ++ (List.range c.dsts.length).filter fun i => keyHit key n (c.dsts.getD i none) }

/-- Bytes written by a drain: a copy in flight that writes them too leaves one of the two values (R299). -/
def State.drainStore (s : State) (scratch : Bool) (key : Nat) (bs : List Byte) : State :=
  let copies := s.copies.map fun c => (c.1, (c.2.touch scratch false key bs.length).race scratch key bs.length)
  let s : State := { s with copies := [] }
  { (if scratch then s.storeScratch key bs else s.storeMem key bs) with copies := copies }

/-- One row of MDRN (R191, R194); one to a remote page waits for the VF's operations in flight there (R160), and one to global memory as long as it
would pass atomics of the VF in flight (R163). -/
def State.drainRow (s : State) (q id : Nat) (p : Prog) (o : EngOp) (fmt : DFmt) (sh : Bool) (scale : Word) (dst : Option DWord) :
    Host.Outcome State Fault Refusal :=
  match s.accRow p.vf q (o.acc + o.row) with
  | none => .next s
  | some r =>
    let vals := s.accVals r
    let bs := drained fmt scale vals
    if !(tgetD r {} s.rows).passes vals then .next (s.killOp q id causeMCHK)
    else match dst with
      | none => .next ((s.drainStore true (slotKey q o.ring + 64) bs).rowDone q id o)
      | some a =>
        let ends := [a + BitVec.ofNat 64 (o.row * bs.length), a + BitVec.ofNat 64 ((o.row + 1) * bs.length - 1)]
        if (s.busyHome p.core p.vf p.launch ends).isSome || s.passes p.core p.vf p.launch ends then .next s
        else match drainKeys s p (a + BitVec.ofNat 64 (o.row * bs.length)) bs.length fmt.bytes sh with
        | .error (.cause c) => .next (s.killOp q id c)
        | .error (.hole pa) => .fault (.noMemory pa)
        | .ok [(k, n), (k2, _)] => .next (((s.drainStore false k (bs.take n)).drainStore false k2 (bs.drop n)).rowDone q id o)
        | .ok ks => .next ((s.drainStore false (ks.head?.map (fun x => x.1) |>.getD 0) bs).rowDone q id o)

/-- One row of MTOPK (R190). -/
def State.topRow (s : State) (q id : Nat) (p : Prog) (o : EngOp) (k : Nat) (min : Bool) (base : Word) : State :=
  match s.accRow p.vf q (o.acc + o.row) with
  | none => s
  | some r =>
    let best := topK min k ((s.accVals r).zipIdx.map fun x => (x.2, x.1))
    let bs := best.flatMap fun e => leBytes 4 (base + BitVec.ofNat 32 e.1).toNat ++ leBytes 4 e.2.toNat
    (s.storeScratch (slotKey q o.ring + 64) bs).rowDone q id o

/-- An earlier MWLD of the program is to write some of `n` bytes at an offset (R176, R305). -/
def Prog.loading (p : Prog) (id off n : Nat) : Bool :=
  (p.before id).any fun o => match o.kind with | .mwld _ dst len => overlap off n dst len | _ => false

/-- ENGINE_RING_SLOT: the next row of a row instruction, once what it waits for has come (R141, R176, R187, R189-R191). -/
def execEngineRingSlot (quad op : Nat) (s : State) : Host.Outcome State Fault Refusal :=
  match (s.quad quad).running with
  | none => .next s
  | some p => match tget op p.ops with
    | none => .next s
    | some o =>
      if (p.before op).any (fun e => e.conflicts o) || !s.slotReady quad o then .next s
      else match o.kind, o.plane with
        | .mma, some pl => .next (s.mmaRow quad op p o pl)
        | .mdist norm, some pl =>
          .next (if p.loading op norm (2048 + 4 * o.rows) then s else (s.settleLoads quad).distRow quad op p o norm pl)
        | .mtopk k min base, _ => .next (s.topRow quad op p o k min base)
        | .mdrn fmt sh scale dst, _ => s.drainRow quad op p o fmt sh scale dst
        | _, _ => .next s

/-- MWLD_COMPLETE: the copy is done; a source byte that a program changed meanwhile is undefined (R185, R246, R317). -/
def execMwldComplete (quad op : Nat) (s : State) : Host.Outcome State Fault Refusal :=
  .next <| match (s.quad quad).running with
    | none => s
    | some p => match tget op p.ops with
      | none => s
      | some o => match o.kind with
        | .mwld src dst _ =>
          if s.cutHome p.core p.vf p.launch ((List.range o.keys.length).map fun i => src + BitVec.ofNat 64 (256 * i)) then s
          else if o.keys.any (s.badAt · 256) then s.killOp quad op causeUCE
          else
            let s := (s.wbufWrite p.vf quad dst (o.keys.flatMap fun k => s.mem.bytes k 256)).modProg quad fun p => { p with
              loads := (p.loads.filter fun x => !overlap x.2.1 256 dst (256 * o.keys.length)) ++ o.keys.zipIdx.map fun k => (k.1, dst + 256 * k.2, []) }
            (o.dirty.eraseDups.foldl (fun s i => s.wbufUndefine p.vf quad (dst + i) 1) s).dropOp quad op
        | _ => s

/-- The metadata and scale bytes agree with their copy, and every nibble is in order (R181, R186); undefined bytes, as `free` marks
them, cause no trap (R1). -/
def planeOk (r : WRange) (bytes dup : List Byte) (free : List Bool) : Bool :=
  let (_, data, meta', _) := r.dims
  let held := (((bytes.zip dup).zip free).drop data).zipIdx.filter fun x => !x.1.2
  held.all fun x => x.1.1.1 == x.1.1.2 && (decide (meta' ≤ x.2) || (nibbles [x.1.1.1]).all fun m => decide (m % 4 < m / 4))

/-- What MLDW `op` waits for: earlier MWLDs of its bytes, earlier loads, and row instructions that read the plane it replaces
(R176, R186). -/
def Prog.mayLoad (p : Prog) (op : Nat) (o : EngOp) (off n : Nat) : Bool :=
  !p.loading op off n && (p.before op).all fun e => match e.kind with
    | .mldw .. => false
    | .mma | .mdist _ => e.mldw == o.mldw
    | _ => true

/-- A plane is loaded: the row instructions that wait for it have it, and it is the program's most recent one if no later load
was issued (R186). -/
def Prog.loaded (p : Prog) (op : Nat) (pl : Plane) : Prog :=
  { p with
    ops := p.ops.map fun x => if x.2.mldw == some op && (match x.2.kind with | .mma | .mdist _ => true | _ => false) then
        (x.1, { x.2 with plane := some pl }) else x,
    plane := if p.lastLoad = some op then some pl else p.plane }

/-- WEIGHT_PLANE_LOADED (R181, R186, R308). -/
def execWeightPlaneLoaded (quad op : Nat) (s : State) : Host.Outcome State Fault Refusal :=
  .next <| match (s.quad quad).running with
    | none => s
    | some p => match tget op p.ops with
      | none => s
      | some o =>
        let s := s.settleLoads quad
        match o.kind, o.plane with
        | .mldw base blk, some pl =>
          let off := base + blk * pl.range.stride
          let n := pl.range.stride
          if !p.mayLoad op o off n then s
          else
            let bytes := s.wbufBytes false p.vf quad off n
            if !planeOk pl.range bytes (s.wbufBytes true p.vf quad off n) (s.wbufUndefined p.vf quad off n) then s.killOp quad op causeMCHK
            else (s.modProg quad fun p => p.loaded op { pl with bytes := bytes }).dropOp quad op
        | _, _ => s

/-- An operation stands at a point of R195: no row of a batch of 128 is under way, or it waits on a header. -/
def State.opMayStop (s : State) (q : Nat) (o : EngOp) : Bool :=
  match o.kind with
  | .mwld .. => false
  | .mma | .mdist _ | .mtopk .. | .mdrn .. => o.row % 128 == 0 || !s.slotReady q o
  | _ => true

/-- SEQUENCER_PREEMPTION (R187, R195): what is saved holds of each loaded plane its range and BLK, and in the registers of a ring the position of the next
slot. -/
def execSequencerPreemption (quad : Nat) (s : State) : Host.Outcome State Fault Refusal :=
  .next <|
    let qd := s.quad quad
    match qd.running with
    | none => s
    | some p =>
      if p.stopped.isNone && p.ops.all fun o => s.opMayStop quad o.2 then
        let bare (pl : Option Plane) : Option Plane := pl.map fun x => { x with bytes := [] }
        let p := { p with plane := bare p.plane, ops := p.ops.map fun o => (o.1, { o.2 with plane := bare o.2.plane }),
                          sregs := p.ops.foldl (fun l o => o.2.putRing o.2.ring l) p.sregs }
        s.setQuad quad { qd with running := none, saved := qd.saved ++ [p] }
      else s

/-- A plane loaded again from the weight buffer (R195). -/
def State.reload (s : State) (v q : Nat) (pl : Plane) : Plane :=
  { pl with bytes := s.wbufBytes false v q (pl.range.base + pl.blk * pl.range.stride) pl.range.stride }

/-- SEQUENCER_RESUMPTION (R195). -/
def execSequencerResumption (quad serial : Nat) (s : State) : Host.Outcome State Fault Refusal :=
  .next <|
    let qd := s.quad quad
    match qd.running, qd.saved.find? fun p => p.serial == serial with
    | none, some p =>
      let again (pl : Option Plane) : Option Plane := pl.map (s.reload p.vf quad)
      let isRow (o : EngOp) : Bool := match o.kind with | .mma | .mdist _ => true | _ => false
      let p' := { p with plane := again p.plane,
                         ops := p.ops.map fun o => if isRow o.2 then (o.1, { o.2 with plane := again o.2.plane }) else o }
      s.setQuad quad { qd with running := some p', saved := qd.saved.filter fun x => x.serial != serial }
    | _, _ => s

end Sys2Proof.Machine
end

