-- ==== Sys2Proof/Machine/Launch.lean ====
section
/-! DEFINITION. Host queues, launches and what dispatches and ends them (R34, R51, R52, R64, R203, R206-R210, R220, R222, R261,
R267-R271, R278). -/

namespace Sys2Proof.Machine

/-- The package accepts work (R148, R274-R276). -/
def Pkg.accepts (p : Pkg) : Bool := p.booted && !p.wiping && p.life != .decommissioned && p.power == .active && !p.lost

/-- Clks of a power state's exit latency: 200 ns, 20 µs, 2 ms (R274). -/
def Power.latency : Power → Nat
  | .active => 0 | .idleWarm => 188 | .idleCold => 18800 | .parked => 1880000

/-- The exit from a power state starts (R274). -/
def State.startExit (s : State) (p : Nat) : State :=
  let x := s.pkg p
  if x.power = .active ∨ x.exitAt.isSome then s else s.setPkg p { x with exitAt := some (s.now + Power.latency x.power) }

/-- Host queues of a VF's device (R13). -/
def Mode.queues : Mode → Nat
  | .whole => 64 | .halves => 32 | .dies => 8

/-- A VF's host queue. -/
def State.hostq (s : State) (v q : Nat) : HostQ := tgetD q {} (s.vf v).queues

/-- A VF's host queue replaced. -/
def State.setHostq (s : State) (v q : Nat) (x : HostQ) : State := s.setVf v { s.vf v with queues := tset q x (s.vf v).queues }

/-- Entries of a ring (R267). -/
def HostQ.size (x : HostQ) : Nat := 2 ^ bitField x.cfg.toNat 3 0

/-- DOORBELL_WRITE (R267, R274); a device whose firmware has not booted stays in reset (R275). -/
def execDoorbellWrite (vf q : Nat) (tail : Word) (s : State) : Host.Outcome State Fault Refusal :=
  .next <|
    let x := s.hostq vf q
    if Mode.queues (s.pkg (pkgOf vf)).mode ≤ q || !(s.pkg (pkgOf vf)).booted then s
    else if x.size < (tail - x.head).toNat then s.setVf vf { s.vf vf with baddb := true }
    else (s.setHostq vf q { x with tail := tail }).startExit (pkgOf vf)

/-- The byte of memory that a global address of a VF names for a read or a write of the front end, which can reach it now (R250). -/
def State.vfKey (s : State) (v : Nat) (a : DWord) (write : Bool) : Option Nat :=
  (s.vfLeaf v a).bind fun x => if x.1.r && (!write || x.1.w) && s.reaches v x.1.home then some x.2 else none

/-- Some of a VF's addresses lie on a package that the front end cannot reach now (R250; log entry 11). -/
def State.vfFar (s : State) (v : Nat) (as : List DWord) : Bool := as.any fun a => (s.vfLeaf v a).any fun x => !s.reaches v x.1.home

/-- The first and the last byte of a completion record (R269). -/
def recordEnds (done : DWord) : List DWord := [done, done + 15]

/-- The first and the last word of a launch's payload (R268). -/
def payloadEnds (a : DWord) : List DWord := if a = 0 then [] else [a, a + 220]

/-- The payload words at an address; 0 gives all zero (R268). -/
def State.payload (s : State) (v : Nat) (a : DWord) : Option (List Word) :=
  if a = 0 then some (List.replicate 56 0)
  else if a.toNat % 64 ≠ 0 then none
  else
    let keys := (List.range 56).map fun i => s.vfKey v (a + BitVec.ofNat 64 (4 * i)) false
    if keys.contains none then none else some (keys.map fun k => BitVec.ofNat 32 (s.mem.read (k.getD 0) 4))

/-- Words of a ring entry as addresses. -/
def pairAt (ws : List Word) (i : Nat) : DWord := pairOf (ws.getD (i + 1) 0) (ws.getD i 0)

/-- The statuses of R269. -/
def stBADDESC : Nat := 1
def stNOFIT : Nat := 2
def stCOORDRANGE : Nat := 3
def stKILLED : Nat := 4
def stFABLOST : Nat := 5
def stRESET : Nat := 6

/-- A completion record written (R269), byte by byte through the VF's pages that can be reached. -/
def State.writeRecord (s : State) (v : Nat) (done : DWord) (status cause core : Nat) (pc : Word) : State :=
  let bs := leBytes 4 (status + 256 * cause + 65536 * core) ++ leBytes 4 pc.toNat ++ leBytes 8 (s.timeBase (pkgOf v)).toNat
  bs.zipIdx.foldl (fun (s : State) x => match s.vfKey v (done + BitVec.ofNat 64 x.2) true with
    | some k => s.storeMem k [x.1]
    | none => s) s

/-- The `.scratch` bytes of a kernel lie in the tenant's slices on a core, whatever that core holds now. -/
def State.couldHold (s : State) (v core : Nat) (k : Kernel) : Bool :=
  k.scratch == 0 || (List.range (Config.scratchBytes / 256)).any fun i => s.inSlices v core (256 * i) k.scratch

/-- A block of the kernel fits on at most four cores of one quad of the core set (R51, R269). -/
def State.fits (s : State) (v : Nat) (k : Kernel) : Bool :=
  let cores := s.coreSet v
  (cores.map quadOf).any fun q => coresNeeded k ≤ 4 && coresNeeded k ≤ (cores.filter fun c => quadOf c == q && s.couldHold v c k).length

/-- The kernels of a run of `n` descriptors. -/
def State.kernelsAt (s : State) (v first : Nat) : Nat → Option (List Kernel)
  | 0 => some []
  | n + 1 => match s.kernelAt v first, s.kernelsAt v (first + 1) n with
    | some k, some ks => some (k :: ks)
    | _, _ => none

/-- Slot `i` of a VF's graph launches is that of a running one (R198, R278). -/
def State.slotRuns (s : State) (v i : Nat) : Bool := s.launches.any fun l => l.2.vf == v && l.2.graph && !l.2.ended && l.2.slot == i

/-- The first slot from `i` on that no running graph launch of a VF has (R198, R278), of at most `n`. -/
def State.graphSlot (s : State) (v : Nat) : Nat → Nat → Option Nat
  | 0, _ => none
  | n + 1, i => if s.slotRuns v (i % 2 ^ 14) then s.graphSlot v n (i + 1) else some (i % 2 ^ 14)

/-- The slot of a VF's next graph launch: those of ended launches are used again last. -/
def State.nextSlot (s : State) (v : Nat) : Option Nat := s.graphSlot v (2 ^ 14) (s.launches.filter fun l => l.2.graph && l.2.vf == v).length

/-- A COORD8 index of the `n` images from descriptor `first` on names no core of the VF's core set (R34). -/
def State.coordRange (s : State) (v first n : Nat) : Bool :=
  ((s.vf v).imagesOf first n).any fun m => m.coords.any fun c => decide ((s.coreSet v).length ≤ c.2)

/-- A package may add its part to a pod launch: it belongs to it, and its part has not been accepted yet (R261; DESIGN CHOICE, log entry 94: the
spec names no status for a PODL that it may not name). -/
def State.podOpen (s : State) (podl pkg : Nat) : Bool := (tget podl s.pods).any fun x => x.1.contains pkg && !x.2.contains pkg

/-- A launch read from the words of its ring entry, or the status that refuses it (R268, R269). Where NOFIT and COORDRANGE both apply, it is NOFIT
(DESIGN CHOICE, log entry 86: R34 and R269 give no order). -/
def State.readLaunch (s : State) (v q : Nat) (graph : Bool) (ws : List Word) : Except Nat Launch :=
  let cmd := wordAt ws 0
  let first := wordAt ws 1
  let podl := wordAt ws 6
  let n := if graph then wordAt ws 7 else 1
  let bad := bitField cmd 31 24 ≠ (if graph then 2 else 1) ∨ bitField cmd 23 10 ≠ 0 ∨ bitField cmd 7 0 ≠ 0
    ∨ (ws.drop 8).any (· != 0) ∨ (if graph then n = 0 ∨ 4096 < n else wordAt ws 7 ≠ 0)
    ∨ (podl ≠ 0 ∧ !s.podOpen podl (pkgOf v))
  if bad then .error stBADDESC
  else match s.kernelsAt v first n, s.payload v (pairAt ws 2) with
    | some (k :: ks), some payload =>
      if (k :: ks).any fun x => (x.kind == 2) != graph || x.succ.any fun i => n ≤ i then .error stBADDESC
      else if (k :: ks).any fun x => !s.fits v x then .error stNOFIT
      else if s.coordRange v first n then .error stCOORDRANGE
      else
        .ok { vf := v, queue := q, graph := graph, slot := if graph then (s.nextSlot v).getD 0 else 0, kernel := k, payload := payload,
              prio := bitField cmd 9 8, done := pairAt ws 4, podl := podl, first := first,
              nodes := if graph then (k :: ks).map fun x => { kernel := x } else [] }
    | _, _ => .error stBADDESC

/-- Groups of a launch's whole grid. Those of a graph launch are not known at its acceptance: they count 0 toward the expected count of a pod barrier
that a node's kernel declares, and no quad or grid barrier is made for them (DESIGN CHOICE, log entry 98: R53 and R261 do not say). -/
def Launch.groups (l : Launch) : Nat := if l.graph then 0 else l.kernel.grid * ((l.kernel.lanes + 95) / 96)

/-- A part of a pod launch is accepted (R261): its groups count among those that each pod barrier it declares expects, and once every part is
there, a phase that all have reached completes. -/
def State.podStart (s : State) (l : Launch) : State :=
  match tget l.podl s.pods with
  | none => s
  | some (ps, accepted) =>
    let accepted := accepted ++ [pkgOf l.vf]
    let left := (ps.filter fun p => !accepted.contains p).length
    let new := (newBarriers 4 l.podl 0 l.kernel.pbars []).filter fun b => (s.barrier b.1).isNone
    let joined (b : BarKey × Barrier) : Barrier :=
      { b.2 with parts := left, expected := if b.1.id < l.kernel.pbars then b.2.expected + l.groups else b.2.expected }
    let s : State := { s with
      pods := tset l.podl (ps, accepted) s.pods,
      barriers := (s.barriers ++ new).map fun b => if b.1.level = 4 ∧ b.1.owner = l.podl then (b.1, joined b) else b }
    s.barriers.foldl (fun s b => if b.1.level = 4 ∧ b.1.owner = l.podl then s.setBarrier b.1 (b.2.settle s.now) else s) s

/-- A command processor accepts the next entry of a queue (R268): it is set up, or refused with its completion record. A graph launch
waits for a free slot (R278), and an entry whose payload cannot be reached, or that is to be refused in a record that cannot, is not accepted yet
(R250; log entry 11). -/
def State.accept (s : State) (v q : Nat) (graph : Bool) : State :=
  let x := s.hostq v q
  let ws := s.memWords (memKey (s.vfDev v) (x.base.toNat + 64 * (x.head.toNat % x.size))) 64
  if !(s.pkg (pkgOf v)).accepts || !x.cfg.msb || x.head == x.tail || (bitField (wordAt ws 0) 31 24 == 2) != graph
      || (graph && (s.nextSlot v).isNone) || s.vfFar v (payloadEnds (pairAt ws 2)) then s
  else
    let s0 := s
    let s := s.setHostq v q { x with head := x.head + 1 }
    match s.readLaunch v q graph ws with
    | .error st => if s.vfFar v (recordEnds (pairAt ws 4)) then s0 else s.writeRecord v (pairAt ws 4) st 0 0 0
    | .ok l => { s with launches := tset s.nextId l s.launches, nextId := s.nextId + 1 }.podStart l

/-- LAUNCH: an entry that is no graph launch (R268, R269). -/
def execLaunch (vf q : Nat) (s : State) : Host.Outcome State Fault Refusal := .next (s.accept vf q false)

/-- GRAPH_LAUNCH (R206, R268). -/
def execGraphLaunch (vf q : Nat) (s : State) : Host.Outcome State Fault Refusal := .next (s.accept vf q true)

/-! Dispatch -/

/-- The open of a task that has affinity, taken with its first group (R218, R220); one that only a hand places takes none (DESIGN CHOICE, log entry
106: R218 places it as if it had affinity and names no open). -/
def State.taskOpen (s : State) (uid : Nat) (t : Task) : State :=
  match t.aff.bind (s.cairn t.vf) with
  | some k => if k.drop || k.lost || k.topens.contains uid then s
    else s.setCairn { k with topens := k.topens ++ [uid], hand := if k.hand = some (.task uid) then none else k.hand }
  | none => s

/-- What the groups of a task share (R197, R199, R207). -/
def Task.work (t : Task) (uid : Nat) : Work :=
  { vf := t.vf, launch := t.launch, task := some uid, node := none, kernel := t.kernel, payload := t.payload,
    blocks := if t.kind = 0 then 1 else t.kernel.grid, succ := t.succ }

/-- The first of a core's queued tasks: by effective priority, then age (R203, R205). -/
def State.firstTask (s : State) (c : Nat) : Option Nat :=
  (leastBy (fun x => 3 - s.effPrio x.2) (s.tasks.filter fun x => x.2.place == .queued c)).map fun x => x.1

/-- The next block of a task in the queue of core `c`, or all its blocks, placed (R52, R203, R220): a task whose cairn has come to
another core goes to that core's queue, and a RESTORABLE cairn is restored before the first group starts, with which the task's open is taken
(DEDUCED, log entry 95: between the two the cairn is closed). -/
def State.dispatchTask (s : State) (uid : Nat) (t : Task) (c : Nat) (cores : List Nat) : State :=
  let w := t.work uid
  let k := s.taskCairn uid t
  let whole := 0 < t.kernel.qbars || 0 < t.kernel.gbars
  let next := if whole then w.blocks else t.next + 1
  let near (s : State) (i : Nat) : Option State := s.placeNear w i c k.isSome cores
  match k with
  | none => place (if whole then s.placeWhole w near else near s t.next) next
  | some x =>
    if x.moving.isSome then s
    else if x.restorable then (s.beginMove x c none true).getD s
    else if x.holder ≠ c then
      if s.queueDepth x.holder < Config.coreQueueEntries then { s with tasks := tset uid { t with place := .queued x.holder } s.tasks } else s
    else place (if whole then s.placeWhole w near else near s t.next) next
where
  /-- The machine with the task's `next` blocks placed, where they found room. -/
  place (u : Option State) (next : Nat) : State :=
    match u with
    | none => s
    | some u =>
      let u := if t.opened then u else u.taskOpen uid t
      { u with tasks := tset uid { t with next := next, opened := true,
                                          place := if next = (t.work uid).blocks then .running else t.place } u.tasks }

/-- The handle of a node of a graph launch (R198). -/
def nodeHandle (slot i : Nat) : Word := BitVec.ofNat 32 (2 ^ 30 + slot * 65536 + i)

/-- A group of a node takes the `n` oldest records (R209); a KIND 0 hand places it on the cairn's holder, once
the cairn has moved (R218); of two cairns handed to the node, the one created first does (DESIGN CHOICE, log entry 111: R218 does not say). -/
def State.dispatchNode (s : State) (lid : Nat) (l : Launch) (i n : Nat) (cores : List Nat) : State :=
  match l.nodes[i]? with
  | none => s
  | some nd =>
    let w : Work := { vf := l.vf, launch := lid, task := none, node := some i, kernel := nd.kernel, payload := l.payload,
                      blocks := l.nodes.length, succ := nd.kernel.succ.map (nodeHandle l.slot),
                      records := (nd.queue.take n).map fun r => r.2 }
    let handed := s.cairns.find? fun k => k.hand == some (.node lid i) && !k.lost && !k.restorable
    match (handed.map Cairn.holder).orElse fun _ => s.shallowest l.vf with
    | none => s
    | some c =>
      if n = 0 ∨ !cores.contains c ∨ (handed.bind Cairn.moving).isSome then s
      else match s.placeAny w i n [c] with
        | none => s
        | some u => { u with launches := tmod lid (fun x =>
            { x with nodes := x.nodes.set i { nd with queue := nd.queue.drop n },
                     sums := { x.sums with taken := x.sums.taken + n } }) u.launches }

/-- Hands to the nodes of a launch end (R218). -/
def Cairn.launchEnds (k : Cairn) (lid : Nat) : Cairn :=
  match k.hand with
  | some (.node l _) => if l = lid then { k with hand := none } else k
  | _ => k

/-- The lifetime of cairns ends (R222): freed if closed and not moving, else the drop is taken as requested. -/
def State.endCairns (s : State) (p : Cairn → Bool) : State :=
  s.cairns.foldl (fun s k =>
    if !p k then s
    else if k.closed && k.moving.isNone then s.delCairn k
    else s.setCairn { k with drop := true }) s

/-- What is on its way to a barrier of a pod launch that is over belongs to none: a launch of the number that comes later has barriers of its
own (R53, R261). -/
def Body.orphan (podl : Nat) : Body → Body
  | .arrive k g => .arrive (if k.level = 4 ∧ k.owner = podl then { k with level := 0 } else k) g
  | .dropOut k p c => .dropOut (if k.level = 4 ∧ k.owner = podl then { k with level := 0 } else k) p c
  | b => b

/-- The packets of a window to the barriers of a pod launch that is over. -/
def Win.orphan (podl : Nat) (w : Win) : Win :=
  { w with held := w.held.map fun (x : Nat × Nat × Nat × Body) => (x.1, x.2.1, x.2.2.1, x.2.2.2.orphan podl),
           queue := w.queue.map (Body.orphan podl), early := w.early.map fun x => (x.1, x.2.orphan podl) }

/-- A launch has ended: hands to it, its values in flight, its cairns of LIFE launch and its barriers end with it (R53,
R218, R222). -/
def State.endLaunch (s : State) (lid : Nat) (l : Launch) : State :=
  let s : State := { s with
    launches := tset lid { l with ended := true } s.launches,
    cairns := s.cairns.map fun k => k.launchEnds lid,
    fwds := s.fwds.filter fun f => f.launch != lid }
  let s := s.endCairns fun k => k.vf == l.vf && k.life == .launch && k.launch == lid
  let s : State := { s with barriers := s.barriers.filter fun b => !((b.1.level == 2 || b.1.level == 3) && b.1.owner == lid) }
  match tget l.podl s.pods with
  | none => s
  | some (ps, accepted) =>
    if ps.all accepted.contains && s.launches.all fun x => x.2.podl != l.podl || x.2.ended then
      { s with barriers := s.barriers.filter fun b => !(b.1.level == 4 && b.1.owner == l.podl), pods := tset l.podl (ps, []) s.pods,
               wins := s.wins.map fun w => (w.1, w.2.orphan l.podl),
               flights := s.flights.map fun f => (f.1, { f.2 with body := f.2.body.orphan l.podl }) }
    else s

/-- A page that holds a COORD8 entry of an image of a launch cannot be reached now (R250). -/
def State.imagesFar (s : State) (l : Launch) : Bool :=
  (s.launchImages l).any fun m => m.coords.any fun c => (s.vaLeaf l.vf (m.base + c.1)).any fun x => !s.reaches l.vf x.1.home

/-- The placing of a launch begins (R34, R271): its images are loaded for the core set of now. The error is the machine in which it does not
begin: it was refused with COORDRANGE, or the pages of its images, or of the record that would refuse it, cannot be reached now (R250). -/
def State.beginPlacing (s : State) (lid : Nat) (l : Launch) : Except State State :=
  if l.begun then .ok s
  else if s.coordRange l.vf l.first (max 1 l.nodes.length) then
    .error (if s.vfFar l.vf (recordEnds l.done) then s else (s.writeRecord l.vf l.done stCOORDRANGE 0 0 0).endLaunch lid l)
  else if s.imagesFar l then .error s
  else .ok (s.loadImages lid l)

/-- The next block of a plain or ordered launch, or the whole grid, placed among the cores given (R51, R52, R64); also while an older item of the grid is
pre-empted (DESIGN CHOICE, log entry 112: R64 does not say). -/
def State.dispatchLaunch (s : State) (lid : Nat) (l : Launch) (cores : List Nat) : State :=
  let w : Work := { vf := l.vf, launch := lid, task := none, node := none, kernel := l.kernel, payload := l.payload,
                    blocks := l.kernel.grid, succ := [] }
  let whole := 0 < l.kernel.qbars || 0 < l.kernel.gbars
  match s.beginPlacing lid l with
  | .error t => t
  | .ok s =>
    let one (s : State) (i : Nat) : Option State := s.placeAny w i l.kernel.lanes cores
    match (if whole then s.placeWhole w one else one s l.next) with
    | none => s
    | some u => { u with launches := tmod lid (fun x => { x with next := if whole then l.kernel.grid else l.next + 1 }) u.launches }

/-- BLOCK_DISPATCH: the dispatcher places a block, a whole grid, a task or a node's group among the given cores (R51, R52, R64,
R203, R209, R220). A plain grid's blocks are placed in order of index (DESIGN CHOICE, log entry 69: R52 promises no order). -/
def execBlockDispatch (t : DispatchTarget) (cores : List Nat) (s : State) : Host.Outcome State Fault Refusal :=
  .next <|
    let mine (v : Nat) : List Nat := cores.filter fun c => (s.coreSet v).contains c
    let works (v : Nat) : Bool := (s.pkg (pkgOf v)).accepts
    match t with
    | .launch lid => match tget lid s.launches with
      | none => s
      | some l =>
        if l.graph || l.ended || !works l.vf || l.kernel.grid ≤ l.next then s else s.dispatchLaunch lid l (mine l.vf)
    | .task uid => match tget uid s.tasks with
      | none => s
      | some x => match x.place with
        | .queued c =>
          if works x.vf && s.firstTask c == some uid && (mine x.vf).contains c then s.dispatchTask uid x c (mine x.vf) else s
        | _ => s
    | .node lid i => match tget lid s.launches with
      | none => s
      | some l => match l.nodes[i]? with
        | none => s
        | some nd =>
          if l.ended || !works l.vf || nd.queue.length < nd.kernel.coalesce then s
          else match s.beginPlacing lid l with
            | .error t => t
            | .ok s => s.dispatchNode lid l i nd.kernel.coalesce (mine l.vf)

/-- FLUSH_TIMEOUT: fewer than c records, of which the oldest has waited t clk, start a group (R209). -/
def execFlushTimeout (lid node : Nat) (s : State) : Host.Outcome State Fault Refusal :=
  .next <| match tget lid s.launches with
    | none => s
    | some l => match l.nodes[node]? with
      | none => s
      | some nd => match nd.queue with
        | [] => s
        | r :: _ =>
          if l.ended || !(s.pkg (pkgOf l.vf)).accepts || nd.kernel.coalesce ≤ nd.queue.length || s.now < r.1 + nd.kernel.timeout then s
          else match s.beginPlacing lid l with
            | .error t => t
            | .ok s => s.dispatchNode lid l node nd.queue.length (s.coreSet l.vf)

/-! Completion -/

/-- A launch's operations in flight (R52). -/
def State.opsOf (s : State) (lid : Nat) : Nat :=
  tcount (fun x => x.launch == lid) s.copies + tcount (fun x => x.launch == lid) s.msgs + tcount (fun x => x.launch == lid) s.pubs
    + tcount (fun x => x.launch == lid) s.rops
    + s.quads.foldl (fun n q => n + ((q.2.running.toList ++ q.2.queue ++ q.2.saved).filter fun p => p.launch == lid).length) 0

/-- No task that belongs to a launch, or names a node of it, is waiting, queued or running (R199, R210). -/
def State.tasksOver (s : State) (lid : Nat) : Bool :=
  s.tasks.all fun x => x.2.place == .retired
    || (x.2.launch != lid && x.2.succ.all fun h => (s.nodeOf x.2.vf h).map (fun n => n.1) != some lid)

/-- The causes of killed programs that no MRDV has delivered go to their launch's fault record (R177). -/
def State.undelivered (s : State) (lid : Nat) : State :=
  s.quads.foldl (fun (s : State) q =>
    let s := (q.2.fates.filter fun f => f.launch == lid).foldl State.fateToLaunch s
    s.setQuad q.1 { s.quad q.1 with fates := (s.quad q.1).fates.map fun f => if f.launch = lid then { f with told := true } else f }) s

/-- A launch ends (R52, R218, R222, R269): its completion record is written with the status that applies first; unless it ends by a reset, it waits
until the record's page can be reached (R250; log entry 11). -/
def State.complete (s : State) (lid : Nat) (reset : Bool) : State :=
  match tget lid s.launches with
  | none => s
  | some l =>
    if !reset && s.vfFar l.vf (recordEnds l.done) then s else
    let s := s.undelivered lid
    let status := if reset then stRESET else if l.fablost then stFABLOST else if l.killed then stKILLED else 0
    let l := (tget lid s.launches).getD l
    let s := match l.fault with
      | some f => s.writeRecord l.vf l.done status f.cause f.core f.pc
      | none => s.writeRecord l.vf l.done status 0 0 0
    s.endLaunch lid l

/-- LAUNCH_COMPLETE: a plain or ordered launch whose blocks have all been placed, whose groups and tasks have retired and that has
no operation in flight (R52, R199). -/
def execLaunchComplete (lid : Nat) (s : State) : Host.Outcome State Fault Refusal :=
  .next <| match tget lid s.launches with
    | none => s
    | some l =>
      if l.ended || l.graph || l.next != l.kernel.grid || !s.tasksOver lid || s.opsOf lid != 0
          || s.groups.any (fun p => p.2.launch == lid && p.2.life != .retired) then s
      else s.complete lid false

/-- A graph launch with no record, group, operation and task (R210). -/
def State.graphIdle (s : State) (lid : Nat) (l : Launch) : Bool :=
  l.nodes.all (fun n => n.queue.isEmpty) && l.sums.started == l.sums.retired && s.opsOf lid == 0 && s.tasksOver lid

/-- TERMINATION_WAVE (R210, R278): the first wave is kept; a second one that finds the launch idle and every sum unchanged ends
it, and any other begins detection again. -/
def execTerminationWave (lid : Nat) (s : State) : Host.Outcome State Fault Refusal :=
  .next <| match tget lid s.launches with
    | none => s
    | some l =>
      let sums := { l.sums with ops := s.opsOf lid }
      let keep (w : Option Sums) : State := { s with launches := tset lid { l with wave := w } s.launches }
      if l.ended || !l.graph || l.sums.appended == 0 then s
      else match l.wave with
        | none => keep (some sums)
        | some w => if s.graphIdle lid l && w == sums then s.complete lid false else keep none

/-- HOST_QUEUE_DESTROY (R222): cairns of LIFE stream end with their launches' queue; a graph launch of the queue that is idle and
has had no record, which no wave would ever end, ends; the queue stays until that launch's record can be written. -/
def execHostQueueDestroy (vf q : Nat) (s : State) : Host.Outcome State Fault Refusal :=
  .next <|
    let idle := s.launches.filter fun l =>
      l.2.vf == vf && l.2.queue == q && l.2.graph && !l.2.ended && l.2.sums.appended == 0 && s.graphIdle l.1 l.2
    if idle.any fun l => s.vfFar vf (recordEnds l.2.done) then s else
    let s := idle.foldl (fun (s : State) l => s.complete l.1 false) s
    let s := s.endCairns fun k => k.vf == vf && k.life == .stream && k.queue == q
    s.setHostq vf q {}

end Sys2Proof.Machine
end

