-- ==== Sys2Proof/Machine/Fabric.lean ====
section
/-! DEFINITION. The Hyvis fabric (R250-R263): link retry, windows, replay, stranding, pod barriers and resets. -/

namespace Sys2Proof.Machine

/-- Every window of a package sends what it may, replays first (R255, R258). -/
def State.pumpAll (s : State) (pkg : Nat) : State :=
  s.wins.foldl (fun s w => if w.2.triple.srcPkg = pkg then (s.replayWin w.1 w.2.again.length).pump w.1 (w.2.queue.length + 1) else s) s

/-- The clks since which no route of a package toward a destination works, brought up to date after a change of its routes or ports, `old` being
the machine before it (R259, R262). -/
def State.noteCuts (s old : State) (pkg : Nat) : State :=
  let x := s.pkg pkg
  let dsts := (((old.pkg pkg).routes ++ x.routes).map Route.dst).eraseDups
  s.setPkg pkg { x with cut := dsts.foldl (fun t d =>
    if (s.routeTo pkg d).isSome then tdel d t else if (old.routeTo pkg d).isSome then tset d s.now t else t) x.cut }

/-- The clk since which no route of a package toward another works; one that never had a route has none since its package's cold reset (R259,
R262). -/
def State.cutSince (s : State) (pkg dst : Nat) : Option Nat :=
  if (s.routeTo pkg dst).isSome then none else some ((tget dst (s.pkg pkg).cut).getD (s.pkg pkg).epoch)

/-- The routes of a package over a port, toward one destination or toward all, are marked failed (R258). -/
def State.failRoutes (s : State) (pkg port : Nat) (dst : Option Nat) : State :=
  let x := s.pkg pkg
  (s.setPkg pkg { x with routes := x.routes.map fun r =>
    if r.port = port ∧ dst.getD r.dst = r.dst then { r with failed := true } else r }).noteCuts s pkg

/-- The packets of a window that are held are to be sent again in order over a route that works; those that cannot be sent now are kept, and new
packets wait behind them (R258). -/
def State.replay (s : State) (id : Nat) : State :=
  match tget id s.wins with
  | none => s
  | some w =>
    if w.closed then s
    else State.replayWin { s with wins := tset id { w with again := w.held.map fun h => h.1 } s.wins } id w.held.length

/-- The triples of a package that have packets held by a port, toward one destination or any, replay; then their new packets
follow (R258). -/
def State.replayPort (s : State) (pkg port : Nat) (dst : Option Nat) : State :=
  let hit := s.wins.filter fun w => w.2.triple.srcPkg == pkg && dst.getD w.2.triple.dstPkg == w.2.triple.dstPkg
    && w.2.held.any fun h => h.2.2.1 == port
  (hit.foldl (fun s w => s.replay w.1) s).pumpAll pkg

/-- A port goes out of service: what left by it and is on the way is lost (R254). -/
def State.losePort (s : State) (pkg port : Nat) : State :=
  let x := s.pkg pkg
  let s := (s.setPkg pkg { x with ports := tset port { tgetD port {} x.ports with lost := true } x.ports }).noteCuts s pkg
  { s with flights := s.flights.filter fun f => !(f.2.port == port && f.2.src == pkg) }

/-- The ends of the link of a port: the port, and the one at the other end (R254). -/
def State.linkEnds (s : State) (pkg port : Nat) : List (Nat × Nat) := (pkg, port) :: (tgetD port {} (s.pkg pkg).ports).peer.toList

/-- A link is lost in both directions (R254): at both ends its routes are marked failed, and every triple that used it replays
(R258). -/
def State.loseLink (s : State) (pkg port : Nat) : State :=
  let ends := s.linkEnds pkg port
  let s := ends.foldl (fun s e => (s.losePort e.1 e.2).failRoutes e.1 e.2 none) s
  ends.foldl (fun s e => s.replayPort e.1 e.2 none) s

/-- FLIT_CHECK_FAIL (R254). -/
def execFlitCheckFail (pkg port : Nat) (o : FlitOutcome) (s : State) : Host.Outcome State Fault Refusal :=
  .next <|
    let x := s.pkg pkg
    let p := tgetD port {} x.ports
    let put (p : Port) : State := s.setPkg pkg { x with ports := tset port p x.ports }
    match o with
    | .bad => s.loseLink pkg port
    | .goodAt n =>
      if p.lost then s
      else if n ≤ 1 then put { p with transient := p.transient + 1 }
      else
        let tick := ticksOf s.now
        let recent := (p.degradeAt.filter fun t => tick < t + Config.degradeTicks) ++ [tick]
        let s := put { p with degraded := p.degraded + 1, degradeAt := recent }
        if 16 ≤ recent.length then s.loseLink pkg port else s

/-- A port comes back into service. -/
def State.returnPort (s : State) (pkg port : Nat) : State :=
  let x := s.pkg pkg
  (s.setPkg pkg { x with ports := tset port { tgetD port {} x.ports with lost := false, degradeAt := [] } x.ports }).noteCuts s pkg

/-- LINK_RETURN (R254): system software returns a link to service at both its ends. -/
def execLinkReturn (pkg port : Nat) (s : State) : Host.Outcome State Fault Refusal :=
  .next <|
    let ends := s.linkEnds pkg port
    let s := ends.foldl (fun s e => s.returnPort e.1 e.2) s
    ends.foldl (fun s e => s.pumpAll e.1) s

/-- ROUTE_TABLE_CHANGE (R258): the routes of a package toward a destination are replaced and every failed mark of the package is
cleared; what waited for a route is sent, replays first. -/
def execRouteTableChange (pkg dst : Nat) (ports : List Nat) (s : State) : Host.Outcome State Fault Refusal :=
  .next <|
    let x := s.pkg pkg
    let kept := (x.routes.filter fun r => r.dst != dst).map fun r => { r with failed := false }
    ((s.setPkg pkg { x with routes := kept ++ ports.map fun p => { dst := dst, port := p } }).noteCuts s pkg).pumpAll pkg

/-- REPLAY_TIMEOUT (R258): the oldest packet of a window that is not to be replayed already is unacknowledged for 2,000 ticks; its route is marked failed, and every
triple that used it replays. -/
def execReplayTimeout (win : Nat) (s : State) : Host.Outcome State Fault Refusal :=
  .next <| match tget win s.wins with
    | none => s
    | some w => match w.held.find? fun h => !w.again.contains h.1 with
      | none => s
      | some (_, sent, port, _) =>
        let t := w.triple
        if w.closed || ticksOf s.now < ticksOf sent + Config.replayTicks then s
        else (s.failRoutes t.srcPkg port (some t.dstPkg)).replayPort t.srcPkg port (some t.dstPkg)

/-! Delivery -/

/-- A group's remote instructions after the registers of one are written and its split goes on (R252); one whose split is gone, as that of a group that
has retired (R82), is over. -/
def State.remoteDone (s : State) (gid : Nat) (r : RInstr) : State :=
  match (s.group? gid).bind fun g => (tget r.split g.splits).map fun sp => (g, sp) with
  | none => s.modGroup gid fun g => { g with rinstr := g.rinstr.filter fun x => x.split != r.split }
  | some (g, sp) =>
    let v := ((r.values.head?).map fun x => x.2).getD 0
    let g := { g with rinstr := g.rinstr.filter fun x => x.split != r.split }
    let g := match r.dest with
      | .none => g
      | .vec vd w sx => { g with vregs := setRegs (loadRegs g vd w sx r.values) g.vregs }
      | .scal sd w64 =>
        let g := g.setS r.split sd (BitVec.ofNat 32 v)
        if w64 then g.setS r.split (sd + 1) (BitVec.ofNat 32 (v / 2 ^ 32)) else g
      | .ssc sd => g.setS r.split (sd + 1) (BitVec.ofNat 32 v)
    (s.setGroup gid g).finish gid r.split sp.cont

/-- FABLOST raised at a group's split (R260, R262): its wait is cancelled and the frame's PC stays on the instruction; `order` is the
place in the order of issue of a remote instruction, else 0: that of the split's wait. The report is in the order of issue. A group that is not
resident traps when it is. -/
def State.fabTrap (s : State) (gid k order : Nat) : State :=
  match s.group? gid with
  | none => s
  | some g =>
    let k := if (tget k g.splits).isSome then k else firstKey g.splits
    match tget k g.splits with
    | some sp =>
      if g.life = .resident then
        (s.modGroup gid fun g => { g with fl := sortBy FlEntry.op g.fl }).raise gid { cause := causeFABLOST, split := k, pc := sp.pc, order := if order = 0 then sp.stamp else order } sp.pc
      else s
    | none => s

/-- A remote instruction whose wait a report interrupts: the wait is cancelled, and the group traps (R260). -/
def State.remoteLost (s : State) (gid : Nat) (r : RInstr) : State :=
  (s.modGroup gid fun g => { g with
    rinstr := g.rinstr.filter fun x => x.split != r.split,
    splits := tmod r.split (fun sp => sp.rest sp.pc) g.splits }).fabTrap gid r.split r.stamp

/-- What is to be done for a group's remote instructions (R252, R260): lanes that wait are sent as entries free; one whose lanes are sent and
whose operations are over completes, or traps where one of them was stranded. -/
def State.remoteProgress (s : State) (gid : Nat) : State :=
  match s.group? gid with
  | none => s
  | some g => g.rinstr.foldl (fun (s : State) r =>
      let (s, r) := s.sendLanes gid g r r.unsent
      let r := { r with waiting := r.waiting.filter fun i => (tget i s.rops).isSome }
      let s := s.modGroup gid fun g => { g with rinstr := g.rinstr.map fun x => if x.split = r.split then r else x }
      if !r.unsent.isEmpty then s
      else if r.lost then s.remoteLost gid r
      else if r.waiting.isEmpty then s.remoteDone gid r else s) s

/-- Some operations are over: the remote instructions that waited for them go on, retirements and REGRP that waited for their
acknowledgement follow, and tasks that are over retire (R66, R201, R252). -/
def State.opsOver (s : State) (gids : List Nat) : State :=
  let waiting := (s.groups.filter fun g => g.2.rinstr.any fun r => r.waiting.any fun i => (tget i s.rops).isNone).map fun g => g.1
  ((gids ++ waiting).eraseDups.foldl (fun s gid =>
    let s := s.remoteProgress gid
    match s.group? gid with
    | some g => s.settleRegrp g.block g.core
    | none => s) s).settleTasks

/-- The bytes that a remote instruction's lane reads at its home: one that another of its lanes has read keeps that value (R130). -/
def State.readOnce (s : State) (key : Nat) (seen : List (Nat × Byte)) : Nat → List (Nat × Byte)
  | 0 => []
  | n + 1 => (key, match seen.find? fun b => b.1 == key with | some b => b.2 | none => s.mem.get key) :: s.readOnce (key + 1) seen n

/-- The value of bytes, little-endian. -/
def bytesVal (bs : List Byte) : Nat := bs.foldr (fun b n => b.toNat + 256 * n) 0

/-- A remote read (R130, R250): its bytes, and what the instruction has read. -/
def State.remoteRead (s : State) (id : Nat) (r : ROp) : State × Nat :=
  let mine (x : RInstr) : Bool := x.waiting.contains id
  let seen := (((s.group? r.gid).bind fun g => g.rinstr.find? mine).map RInstr.seen).getD []
  let bs := s.readOnce r.lane.pa seen r.lane.size
  (s.modGroup r.gid (fun g => { g with rinstr := g.rinstr.map fun x => if mine x then { x with seen := bs ++ x.seen } else x }),
    bytesVal (bs.map fun b => b.2))

/-- A remote write at its home; a release at core scope is recorded there (R165). -/
def State.remoteWrite (s : State) (r : ROp) (v : Nat) : State :=
  let s := s.storeMem r.lane.pa (leBytes r.lane.size v)
  if r.lane.rel then { s with lineCore := tset (r.lane.pa / 128) r.core s.lineCore } else s

/-- An acquire with RSP that finds a release at core scope of another core waits for the operations not yet applied of the tenant's VF on that
core's package, which hold every write that happens before the release (R165). -/
def State.remotePromote (s : State) (id : Nat) (r : ROp) : State :=
  match tget (r.lane.pa / 128) s.lineCore with
  | none => s
  | some core =>
    if !r.lane.rsp || r.core == core then s
    else
      let v := s.vfOn r.vf (pkgOf core)
      let ops := (s.rops.filter fun o => o.1 != id && !o.2.applied && o.2.vf == v).map fun o => o.1
      s.modGroup r.gid fun g => { g with rinstr := g.rinstr.map fun x => if x.waiting.contains id then { x with waiting := x.waiting ++ ops } else x }

/-- A remote operation applied at its home (R144, R145, R250, R257), with its reply; an uncorrectable error kills the group that
consumes it (R246). -/
def State.applyOp (s : State) (id : Nat) (r : ROp) : State × Nat :=
  let l := r.lane
  let old := s.mem.read l.pa l.size
  if l.kind ≠ 1 ∧ s.badAt l.pa l.size then
    (({ s with bad := s.bad.filter fun b => b < l.pa || l.pa + l.size ≤ b }).kill r.gid causeUCE
      ((((s.group? r.gid).bind fun g => tget r.split g.splits).map Split.pc).getD 0), 0)
  else match l.kind with
    | 1 => (s.remoteWrite r l.d, 0)
    | 2 =>
      let s := s.remotePromote id r
      match atomNew l.op l.size old l.d l.c with
      | some v => (s.remoteWrite r v, old)
      | none => (s, old)
    | 3 =>
      let waits := (s.group? r.gid).any fun g => g.life != .retired && g.rinstr.any fun x => x.waiting.contains id
      (if waits then s.modGroup r.gid fun g => { g with reserv := some (l.pa / 128) } else s, old)
    | 4 =>
      let ok := (s.group? r.gid).any fun g => g.reserv == some (l.pa / 128)
      let s := s.modGroup r.gid fun g => { g with reserv := none }
      if ok then (s.remoteWrite r l.d, 0) else (s, 1)
    | _ => s.remoteRead id r

/-- A remote operation is acknowledged, with its reply (R252): its entry frees, and an instruction that waits goes on. -/
def State.acknowledge (s : State) (id v : Nat) : State :=
  match tget id s.rops with
  | none => s
  | some r =>
    let s : State := { s with rops := tdel id s.rops }
    let s := s.modGroup r.gid fun g => { g with rinstr := g.rinstr.map fun x =>
      (if x.waiting.contains id then { x with values := tset r.lane.lane v x.values } else x) }
    (s.opsOver [r.gid]).settleLate

/-- A packet delivered to its destination (R256, R257, R261): a write has no reply. -/
def State.deliver (s : State) (t : Triple) (b : Body) : State :=
  match b with
  | .req id _ => match tget id s.rops with
    | none => s
    | some r =>
      let (s, v) := if r.applied then (s, r.reply) else s.applyOp id r
      let s := ({ s with rops := tmod id (fun x => { x with applied := true, reply := v }) s.rops } : State).settleLate
      if r.lane.kind = 1 then s else s.send ⟨t.dstPkg, t.dstVf, t.srcPkg, t.srcVf, 1⟩ (.rsp id v)
  | .rsp id v => s.acknowledge id v
  | .arrive k _ => match s.barrier k with
    | some b => s.setBarrier k (b.count1.settle s.now)
    | none => s
  | .dropOut k phase count => match s.barrier k with
    | some b => s.setBarrier k (b.dropSent phase count s.now)
    | none => s
  | .ack _ => s
  | .ctl .. => s

/-- The packets that a destination holds early and may now deliver, in order; at most `n` (R256). -/
def State.deliverNext (s : State) (id : Nat) : Nat → State
  | 0 => s
  | n + 1 =>
    match tget id s.wins with
    | none => s
    | some w =>
      let next := (w.h + 1) % 65536
      match w.early.find? fun e => e.1 == next with
      | none => s
      | some e =>
        let s : State := { s with wins := tset id { w with h := next, early := w.early.filter fun x => x.1 != next } s.wins }
        State.deliverNext (s.deliver w.triple e.2) id n

/-- The destination acknowledges H of a window (R256). -/
def State.ackWin (s : State) (id : Nat) : State :=
  match tget id s.wins with
  | none => s
  | some w => s.sendLoose w.triple.dstPkg w.triple.srcPkg w.triple (.ack w.h)

/-- The kept reply of an applied request is sent again, by the route of now (R257, R258). -/
def State.resendReply (s : State) (t : Triple) (b : Body) : State :=
  match b with
  | .req id _ => match s.winOf ⟨t.dstPkg, t.dstVf, t.srcPkg, t.srcVf, 1⟩ with
    | some (_, w) => match w.held.find? (fun h => match h.2.2.2 with | .rsp i _ => i == id | _ => false) with
      | some h => match s.routeTo t.dstPkg t.srcPkg with
        | some port => s.fly ⟨t.dstPkg, w.triple, h.1, port, h.2.2.2⟩
        | none => s
      | none => s
    | none => s
  | _ => s

/-- The windows of a VF with one peer package go on from a reset of the VF; without one, nothing changes (R263). -/
def State.ctlReset (s : State) (peer vf : Nat) : State :=
  if !s.resets.contains (peer, vf) then s else
  let mine (t : Triple) : Bool := (t.srcPkg == pkgOf vf && t.srcVf == vf && t.dstPkg == peer)
    || (t.dstPkg == pkgOf vf && t.dstVf == vf && t.srcPkg == peer)
  let s : State := { s with
    resets := s.resets.filter (· != (peer, vf)),
    flights := s.flights.filter fun f => !mine f.2.triple,
    wins := s.wins.map fun w => if mine w.2.triple then
      (w.1, { w.2 with closed := false, next := 0, held := [], h := 0xFFFF, early := [], again := [] }) else w }
  (s.pumpAll peer).pumpAll (pkgOf vf)

/-- The acknowledgement of a packet acknowledges the write it carries (R252). -/
def State.writeAcked (s : State) (b : Body) : State :=
  match b with
  | .req id l => if l.kind = 1 then s.acknowledge id 0 else s
  | _ => s

/-- PACKET_ARRIVAL (R252, R256, R257, R263, R274); a package in reset, being wiped or decommissioned takes no packet (R148, R275, R276). -/
def execPacketArrival (flight : Nat) (s : State) : Host.Outcome State Fault Refusal :=
  .next <| match tget flight s.flights with
    | none => s
    | some f =>
      let s : State := { s with flights := tdel flight s.flights }
      match f.body with
      | .ack h => match s.winOf f.triple with
        | none => s
        | some (id, w) =>
          let later (x : Nat × Nat × Nat × Body) : Bool := 32768 ≤ (h + 65536 - x.1) % 65536
          let kept := w.held.filter later
          let s : State := { s with wins := tset id { w with held := kept, again := w.again.filter fun n => kept.any fun x => x.1 == n } s.wins }
          (((w.held.filter fun x => !later x).foldl (fun s x => s.writeAcked x.2.2.2) s).startExit f.triple.srcPkg).pumpAll f.triple.srcPkg
      | .ctl peer vf => (s.startExit peer).ctlReset peer vf
      | b =>
        if !(s.pkg f.triple.dstPkg).takes then s
        else match s.winOf f.triple with
          | none => s
          | some (id, w) =>
            let s := s.startExit f.triple.dstPkg
            let d := (f.seq + 65536 - w.h) % 65536
            if w.closed then s
            else if d = 0 ∨ 1024 < d then (s.resendReply f.triple b).ackWin id
            else if w.early.any fun e => e.1 == f.seq then s
            else
              let s : State := { s with wins := tset id { w with early := w.early ++ [(f.seq, b)] } s.wins }
              (s.deliverNext id (w.early.length + 1)).ackWin id

/-! Stranding -/

/-- An entry of the report of R260. -/
def ROp.entry (r : ROp) (id : Nat) (applied : Bool) : FlEntry :=
  { op := id, applied := applied, kind := r.lane.kind, w64 := r.lane.size == 8, dst := r.lane.home, addr := r.lane.va,
    val := if applied ∧ r.lane.kind ≠ 1 then BitVec.ofNat 64 r.reply else 0, lane := r.lane.lane }

/-- The outcomes of a group's operations are reported in the order of issue (R260): to the group, which traps, behind those that
its handler knows already, or to its launch if it has retired. The wait of an instruction that waits for one of them, or to send its lanes behind one of them, is cancelled; the lanes are not sent. -/
def State.reportGroup (s : State) (gid : Nat) (ops : List (Nat × ROp)) (reached : Bool) : State :=
  match ops, (s.group? gid).filter fun g => g.life != .retired with
  | [], _ => s
  | (_, r) :: _, none => { s with launches := tmod r.launch (fun l =>
      { l with fablost := true, lostOps := l.lostOps ++ ops.map fun o => o.2.entry o.1 (reached && o.2.applied) }) s.launches }
  | (_, r) :: _, some g =>
    let hit (x : RInstr) : Bool := ops.any fun o => x.waiting.contains o.1 || (o.2.split == x.split && !x.unsent.isEmpty)
    let new := ops.map fun o => o.2.entry o.1 (reached && o.2.applied)
    let known (g : Group) : Nat := (g.trap.map TrapMode.known).getD 0
    let s := s.modGroup gid fun g => { g with
      fl := g.fl.take (known g) ++ sortBy FlEntry.op (g.fl.drop (known g) ++ new),
      rinstr := g.rinstr.map fun x => if hit x then { x with lost := true, unsent := [] } else x }
    if g.rinstr.any hit then s.remoteProgress gid else (s.remoteProgress gid).fabTrap gid r.split 0

/-- Operations end as APPLIED or NOTAPPLIED (R259, R260, R263): `reached` tells whether the destination could report. -/
def State.report (s : State) (ops : List (Nat × ROp)) (reached : Bool) : State :=
  let ids := ops.map fun o => o.1
  let s : State := { s with rops := s.rops.filter fun o => !ids.contains o.1 }
  let gids := (ops.map fun o => o.2.gid).eraseDups
  (gids.foldl (fun s gid => s.reportGroup gid (ops.filter fun o => o.2.gid == gid) reached) s).opsOver gids |>.settleLate

/-- The remote operations whose packets or replies a triple carries (R259). -/
def State.opsOn (s : State) (t : Triple) : List (Nat × ROp) :=
  s.rops.filter fun o =>
    if t.cls = 0 then o.2.vf == t.srcVf && o.2.lane.home == t.dstPkg
    else t.cls == 1 && o.2.vf == t.dstVf && o.2.lane.home == t.srcPkg && o.2.applied

/-- STRAND_TIMEOUT (R259): a triple of remote operations with packets that has had no working route for 1,000,000 ticks: its windows are closed, and
resolution starts. A SYNC window, which carries none, keeps its packets (R258). -/
def execStrandTimeout (win : Nat) (s : State) : Host.Outcome State Fault Refusal :=
  .next <| match tget win s.wins with
    | none => s
    | some w => match s.cutSince w.triple.srcPkg w.triple.dstPkg with
      | none => s
      | some t =>
        if w.closed || 2 ≤ w.triple.cls || (w.held.isEmpty && w.queue.isEmpty) || ticksOf s.now < ticksOf t + Config.strandTicks then s
        else { s with
          wins := tset win { w with closed := true, stranded := true } s.wins,
          flights := s.flights.filter fun f => !(f.2.triple == w.triple) }

/-- The numbers of a closed window are used up: its destination goes on behind them (R259). -/
def Win.resolved (w : Win) : Win :=
  { w with closed := false, held := [], queue := [], early := [], h := (w.next + 65535) % 65536, again := [], stranded := false }

/-- The sequencer programs of some VFs that a reset or a wipe ends: they go into the fate records as ended without a fault, and what waits for their ends
sees them (DESIGN CHOICE, log entry 113: R179 names EXIT and kills only). -/
def State.endGone (s : State) (gone : Nat → Bool) : State :=
  s.quads.foldl (fun s q => ((q.2.running.toList ++ q.2.queue ++ q.2.saved).filter fun p => gone p.vf).foldl (fun s p =>
    let f : Fate := ⟨p.serial, p.vf, p.launch, p.core, 0, 0, true⟩
    let s := s.pushFate q.1 f
    { s with groups := s.groups.map fun g => (g.1, g.2.seeEnd q.1 f) }) s) s

/-- Every work of some VFs is gone: groups, launches, tasks, their barriers and their operations. -/
def State.dropWork (s : State) (gone : Nat → Bool) : State :=
  let s := s.endGone gone
  let dead (l : Nat) : Bool := (tget l s.launches).any fun x => gone x.vf
  let tgone (u : Nat) : Bool := (tget u s.tasks).any fun x => gone x.vf
  let bgone (b : Nat) : Bool := (tget b s.blocks).any fun x => gone x.vf
  let ggone (g : Nat) : Bool := (tget g s.groups).any fun x => gone x.vf
  let strip (q : Quad) : Quad :=
    { q with queue := q.queue.filter fun p => !gone p.vf, saved := q.saved.filter (fun p => !gone p.vf),
             running := q.running.bind fun p => if gone p.vf then none else some p }
  { s with
    vfs := s.vfs.map fun v => if gone v.1 then (v.1, { v.2 with reserve := none }) else v,
    groups := s.groups.filter fun g => !gone g.2.vf,
    blocks := s.blocks.filter fun b => !gone b.2.vf,
    tasks := s.tasks.filter fun t => !gone t.2.vf,
    copies := s.copies.filter fun x => !gone x.2.vf,
    msgs := s.msgs.filter fun x => !ggone x.2.gid && !dead x.2.launch,
    pubs := s.pubs.filter fun x => !gone x.2.vf,
    wbacks := s.wbacks.filter fun x => !gone x.2.vf,
    rops := s.rops.filter fun x => !gone x.2.vf,
    fwds := s.fwds.filter fun x => !dead x.launch,
    cairns := s.cairns.filter fun k => !gone k.vf,
    quads := s.quads.map fun q => (q.1, strip q.2),
    barriers := (s.barriers.filter fun b =>
      !((b.1.level == 1 && bgone (b.1.owner - 1)) || ((b.1.level == 2 || b.1.level == 3) && (dead b.1.owner || tgone b.1.owner)))).map
        fun b => (b.1, { b.2 with members := b.2.members.filter fun g => !ggone g, arrived := b.2.arrived.filter (fun g => !ggone g), late := b.2.late.filter fun x => !gone x.2 }) }

/-- The loader's copies of the images of some VFs (R34). -/
def State.imageCopies (s : State) (gone : Nat → Bool) : List Nat :=
  (s.vfs.flatMap fun v => if gone v.1 then v.2.images.flatMap fun m => m.loaded.filterMap fun x => x.2 else [])
    ++ s.launches.flatMap fun l => if gone l.2.vf then l.2.images.filterMap ImageUse.copy else []

/-- No placement of a VF's images is loaded any more. -/
def Vf.forgetImages (x : Vf) : Vf := { x with images := x.images.map fun m => { m with file := [], loaded := [] } }

/-- The memories of a package written zero (R148), the loader's copies of images with them, which clears every reservation on them (R144); its lost cores
stay lost (R270), and its quads keep the counts of their forks and their fate records, which only a cold reset ends (R178, R179). -/
def State.zeroPkg (s : State) (p : Nat) : State :=
  { s.clearLines (memKey (8 * p) 0) (8 * 2 ^ 57) with
    mem := (s.imageCopies fun v => pkgOf v == p).foldl (fun (m : Mem) n => m.zero (copyKey n 0) (2 ^ 57)) (s.mem.zero (memKey (8 * p) 0) (8 * 2 ^ 57)),
    bad := s.bad.filter fun k => k < memKey (8 * p) 0 || memKey (8 * p) 0 + 8 * 2 ^ 57 ≤ k,
    scratch := s.scratch.zero (scratchKey (256 * p) 0) (256 * 2 ^ 21),
    wbuf := s.wbuf.zero (64 * p * 2 ^ 24) (64 * 2 ^ 24), wdup := s.wdup.zero (64 * p * 2 ^ 24) (64 * 2 ^ 24),
    acc := s.acc.zero (64 * p * 1024 * 2048) (64 * 1024 * 2048),
    rows := s.rows.filter fun r => r.1 / 65536 != p,
    cores := s.cores.filterMap fun c => if pkgOf c.1 ≠ p then some c else if c.2.lost then some (c.1, { lost := true }) else none,
    quads := s.quads.map fun q => if quadPkg q.1 = p then (q.1, { forks := q.2.forks, fates := q.2.fates }) else q,
    vfs := s.vfs.map fun v => if pkgOf v.1 = p then (v.1, v.2.forgetImages) else v,
    queues := s.queues.filter fun q => pkgOf (q.1 / 16) != p }

/-- Every barrier of a pod launch is broken, and of each group the split that still waits on one and issued first traps (R228, R262); the others of the
group follow. -/
def State.breakPod (s : State) (number : Nat) : State :=
  let mine (k : BarKey) : Bool := k.level == 4 && k.owner == number
  let s : State := { s with barriers := s.barriers.map fun b => if mine b.1 then (b.1, { b.2 with broken := true }) else b }
  let waits (sp : Split) : Bool := match sp.wait with | .bar k p => mine k && (s.barrier k).map Barrier.phase == some p | _ => false
  s.groups.foldl (fun s g => match leastBy (fun p => p.2.stamp) (g.2.splits.filter fun p => waits p.2) with
    | some p => s.fabTrap g.1 p.1 0
    | none => s) s

/-- The barriers of pod launches with an unfinished part among some launches are broken (R262). -/
def State.breakPods (s : State) (parts : List Launch) : State :=
  (((parts.filter fun l => !l.ended).map Launch.podl).filter (· != 0)).eraseDups.foldl State.breakPod s

/-- Every package sends what it may. -/
def State.pumpEvery (s : State) : State := ((s.wins.map fun w => w.2.triple.srcPkg).eraseDups).foldl State.pumpAll s

/-- All work and all memories of a package are gone, and its wipe is under way (R148, R259): operations on it report NOTAPPLIED, and
its pod barriers are broken (R262); what waited for the room of its packets is sent (R255). -/
def State.wipePkg (s : State) (p : Nat) : State :=
  let parts := (s.launches.filter fun l => pkgOf l.2.vf == p).map fun l => l.2
  let s := (s.dropWork fun v => pkgOf v == p).zeroPkg p
  let near (t : Triple) : Bool := t.srcPkg == p || t.dstPkg == p
  let s : State := { s with
    launches := s.launches.filter fun l => pkgOf l.2.vf != p,
    wins := s.wins.filter fun w => !near w.2.triple,
    flights := s.flights.filter fun f => !near f.2.triple,
    resets := s.resets.filter fun r => r.1 != p && pkgOf r.2 != p }
  let s := (s.report (s.rops.filter fun o => o.2.lane.home == p) false).breakPods parts
  (s.setPkg p { s.pkg p with wiping := true }).pumpEvery

/-- STRAND_RESOLUTION (R259, R260): the destination of the operations reports what it applied, or its package is declared lost; what waited for the room
of the window's packets is sent (R255). -/
def execStrandResolution (win : Nat) (reachable : Bool) (s : State) : Host.Outcome State Fault Refusal :=
  .next <| match tget win s.wins with
    | none => s
    | some w =>
      if !w.closed || !w.stranded then s
      else if reachable then
        let ops := s.opsOn w.triple
        (({ s with wins := tset win w.resolved s.wins }).report ops true).pumpAll w.triple.srcPkg
      else
        let p := if w.triple.cls = 1 then w.triple.srcPkg else w.triple.dstPkg
        let s := s.wipePkg p
        { s.setPkg p { s.pkg p with lost := true } with syslog := s.syslog ++ [.packageLost p] }

/-! Pod barriers and resets -/

/-- POD_BARRIER_BREAK (R262): a member package has been unreachable from the home package for 1,000,000 ticks, or is lost. -/
def execPodBarrierBreak (number pkg : Nat) (s : State) : Host.Outcome State Fault Refusal :=
  .next <| match tget number s.pods with
    | none => s
    | some (ps, _) =>
      let home := s.podHome number
      let cut := pkg != home && match s.cutSince home pkg with
        | some t => decide (ticksOf t + Config.strandTicks ≤ ticksOf s.now)
        | none => false
      if ps.contains pkg && ((s.pkg pkg).lost || cut) then s.breakPod number else s

/-- CTL_RESET: a peer receives a reset of a VF's windows (R263), which starts its exit from a power state (R274). -/
def execCtlReset (peer vf : Nat) (s : State) : Host.Outcome State Fault Refusal :=
  .next (if s.resets.contains (peer, vf) then (s.startExit peer).ctlReset peer vf else s)

/-- The packages that hold a triple of a VF: those to which one is assigned, those of which a VF has one to it (R255), and those with a window of it. -/
def State.peersOf (s : State) (vf : Nat) (mine : Triple → Bool) : List Nat :=
  let p := pkgOf vf
  let mates := (s.vfs.filter fun v => v.2.triples.any fun t => t.1 == p && p * 256 + t.2 == vf).map fun v => pkgOf v.1
  let open' := (s.wins.filter fun w => mine w.2.triple).map fun w => if w.2.triple.srcPkg = p then w.2.triple.dstPkg else w.2.triple.srcPkg
  (((s.vf vf).triples.map fun t => t.1) ++ mates ++ open').eraseDups.filter (· != p)

/-- FUNCTION_LEVEL_RESET (R222, R263, R269): the VF's work and cairns are gone; its windows stay closed until each peer has been
reset; the operations of peers on it report NOTAPPLIED; the pod barriers it took part in are broken; and every unfinished launch
ends with RESET. -/
def execFunctionLevelReset (vf : Nat) (s : State) : Host.Outcome State Fault Refusal :=
  .next <|
    let p := pkgOf vf
    let open' := s.launches.filter fun l => l.2.vf == vf && !l.2.ended
    let mine (t : Triple) : Bool := (t.srcPkg == p && t.srcVf == vf) || (t.dstPkg == p && t.dstVf == vf)
    let peers := s.peersOf vf mine
    let s := s.dropWork (· == vf)
    let s : State := { s with
      flights := s.flights.filter fun f => !mine f.2.triple,
      wins := s.wins.map fun w => if mine w.2.triple then
        (w.1, { w.2 with closed := true, next := 0, held := [], queue := [], h := 0xFFFF, early := [], again := [], stranded := false }) else w,
      resets := (s.resets ++ peers.map fun q => (q, vf)).eraseDups,
      queues := s.queues.filter fun q => !(s.coreSet vf).contains (q.1 / 16) }
    let s := peers.foldl (fun s q => s.sendLoose p q ⟨p, vf, q, s.peerVf vf q, 3⟩ (.ctl q vf)) s
    let s := s.report (s.rops.filter fun o => o.2.lane.home == p && s.peerVf o.2.vf p == vf) false
    let s := s.breakPods (open'.map fun l => l.2)
    let x := s.vf vf
    let s := s.setVf vf { x with queues := [], baddb := false, demote := 0, tolns := 0, reserve := none }
    (open'.foldl (fun s l => s.complete l.1 true) s).pumpEvery

end Sys2Proof.Machine
end

