-- ==== Sys2Proof/Machine/Device.lean ====
section
/-! DEFINITION. Reset, trust, policy, power and the host's accesses (R128, R148, R167, R237, R267, R270, R272-R276). -/

namespace Sys2Proof.Machine

/-- The host or system software is told something. -/
def State.tell (s : State) (m : HostMsg) : State := { s with host := s.host ++ [m] }

/-- COLD_RESET (R11, R148, R276): every memory is zero and its wipe under way; debug-unlocked becomes deployed. Lost links, routes,
links, bad quads and lost cores stay as they are. -/
def execColdReset (pkg : Nat) (s : State) : Host.Outcome State Fault Refusal :=
  .next <|
    let x := s.pkg pkg
    let s := s.wipePkg pkg
    let s : State := { s with vfs := s.vfs.filter fun v => pkgOf v.1 != pkg, quads := s.quads.filter fun q => quadPkg q.1 != pkg }
    s.setPkg pkg { life := if x.life = .debugUnlocked then .deployed else x.life, epoch := s.now, runFrom := some s.now,
                   badQuads := x.badQuads, ports := x.ports, routes := x.routes, cut := x.cut }

/-- WIPE_COMPLETE (R148). -/
def execWipeComplete (pkg : Nat) (s : State) : Host.Outcome State Fault Refusal := .next (s.setPkg pkg { s.pkg pkg with wiping := false })

/-- FIRMWARE_BOOT (R275, R276). -/
def execFirmwareBoot (pkg : Nat) (rsaOk slhOk : Bool) (s : State) : Host.Outcome State Fault Refusal :=
  .next <|
    let x := s.pkg pkg
    if x.life = .decommissioned then s.tell .refused
    else if x.booted then s
    else s.setPkg pkg { x with booted := rsaOk && slhOk, bootfail := !(rsaOk && slhOk) }

/-- ATTESTATION_REQUEST (R275, R276). -/
def execAttestationRequest (vf : Nat) (nonce : List Byte) (s : State) : Host.Outcome State Fault Refusal :=
  .next <|
    let p := pkgOf vf
    let x := s.pkg p
    if x.life = .decommissioned ∨ !x.booted ∨ 64 < nonce.length then s.tell .refused
    else
      let measures := (List.range Config.firmwareStages).map (Config.measurement p)
      s.tell (.report p x.life vf (s.vf vf) nonce measures
        ((List.range 2).map fun k => Config.signature p k (x.life, vf, s.vf vf, nonce, measures)))

/-- A change of life-cycle state, with its wipe (R148, R276). -/
def State.lifeTo (s : State) (pkg : Nat) (l : LifeCycle) : State :=
  let s := s.wipePkg pkg
  s.setPkg pkg { s.pkg pkg with life := l }

/-- A life-cycle command (R276): it starts an exit from a power state (R274), and it is refused where its condition fails. -/
def State.command (s : State) (pkg : Nat) (ok : Bool) (l : LifeCycle) : State :=
  if ok then (s.startExit pkg).lifeTo pkg l else (s.startExit pkg).tell .refused

/-- DEPLOY_COMMAND (R276). -/
def execDeployCommand (pkg : Nat) (rsaOk slhOk : Bool) (s : State) : Host.Outcome State Fault Refusal :=
  .next (s.command pkg ((s.pkg pkg).life == .manufacturing && rsaOk && slhOk) .deployed)
/-- UNLOCK_COMMAND (R276). -/
def execUnlockCommand (pkg : Nat) (tokenOk : Bool) (s : State) : Host.Outcome State Fault Refusal :=
  .next (s.command pkg ((s.pkg pkg).life == .deployed && tokenOk) .debugUnlocked)
/-- RELOCK_COMMAND (R276). -/
def execRelockCommand (pkg : Nat) (s : State) : Host.Outcome State Fault Refusal :=
  .next (s.command pkg ((s.pkg pkg).life == .debugUnlocked) .deployed)
/-- DECOMMISSION_COMMAND (R276). -/
def execDecommissionCommand (pkg : Nat) (signed : Bool) (s : State) : Host.Outcome State Fault Refusal :=
  .next (s.command pkg (((s.pkg pkg).life == .deployed || (s.pkg pkg).life == .debugUnlocked) && signed) .decommissioned)

/-- The programs of a quad. -/
def State.progs (s : State) (q : Nat) : List Prog := let x := s.quad q; x.running.toList ++ x.queue ++ x.saved

/-- A core is idle for a VF (R272): no resident or queued group of it, and no cairn, enabled queue or program of it there. -/
def State.coreIdle (s : State) (v core : Nat) : Bool :=
  s.groups.all (fun g => g.2.vf != v || g.2.core != core || g.2.life == .retired)
    && s.tasks.all (fun t => t.2.vf != v || t.2.place != .queued core)
    && s.cairns.all (fun k => k.vf != v || k.lost || k.restorable
        || (k.holder != core && (match k.moving with | some m => m.core != core | none => true)))
    && s.queues.all (fun q => q.1 / 16 != core || !q.2.cfg.msb)
    && (s.progs (quadOf core)).all fun p => p.vf != v || p.core != core

/-- A quad is idle for a VF (R272). -/
def State.quadIdle (s : State) (v q : Nat) : Bool :=
  (List.range 4).all (fun i => s.coreIdle v (quadCore q i)) && (s.progs q).all fun p => p.vf != v

/-- A VF is idle (R272); an enabled queue is a message queue of its cores or a host queue of its own. -/
def State.vfIdle (s : State) (v : Nat) : Bool :=
  s.groups.all (fun g => g.2.vf != v || g.2.life == .retired)
    && s.launches.all (fun l => l.2.vf != v || l.2.ended) && s.tasks.all (fun t => t.2.vf != v || t.2.place == .retired)
    && s.cairns.all (fun k => k.vf != v) && s.quads.all (fun q => (s.progs q.1).all fun p => p.vf != v)
    && (s.vf v).queues.all (fun q => !q.2.cfg.msb)
    && (s.coreSet v).all fun c => s.queues.all fun q => q.1 / 16 != c || !q.2.cfg.msb

/-- Every VF of a package is idle. -/
def State.pkgIdle (s : State) (p : Nat) : Bool :=
  ((s.launches.map fun l => l.2.vf) ++ (s.tasks.map fun t => t.2.vf) ++ (s.groups.map fun g => g.2.vf) ++ (s.vfs.map fun v => v.1)).all fun v =>
    pkgOf v != p || s.vfIdle v

/-- The unit that a policy field changes is idle (R272). -/
def State.unitIdle (s : State) (v : Nat) (f : PolicyField) : Bool :=
  let core (c : Nat) : Nat := pkgOf v * 256 + c
  match f with
  | .coreSet new =>
    let old := (s.vf v).coreSet
    ((old.filter fun c => !new.contains c) ++ new.filter fun c => !old.contains c).all fun c => s.coreIdle v (core c)
  | .slices c _ => s.coreIdle v (core c)
  | .quarters q _ => s.quadIdle v (pkgOf v * 64 + q)
  | .mode _ => s.pkgIdle (pkgOf v)
  | .podLaunch number _ => s.launches.all fun l => l.2.podl != number || l.2.ended
  | .image .. | .coord8 .. | .link .. => true
  | _ => s.vfIdle v

/-- The values of a policy field are those that the spec allows: cores of one device, numbers of slices and quarters, T and T2 from
1 to 63, a share of the directory, and triples that the IO die holds: three classes for each destination (R4, R14, R132, R174, R204,
R211, R221, R255). -/
def State.policyOk (s : State) (v : Nat) (f : PolicyField) : Bool :=
  let dev (c : Nat) : Nat := s.devOf (pkgOf v * 256 + c)
  match f with
  | .coreSet cs => cs.all fun c => decide (c < 256) && cs.all fun d => dev c == dev d
  | .directoryShare n => decide (n ≤ Config.directoryEntries)
  | .triple p _ =>
    let others := (s.vfs.filter fun x => pkgOf x.1 == pkgOf v).flatMap fun x => (x.2.triples.filter fun t => x.1 != v || t.1 != p)
    decide (3 * (others.length + 1) ≤ Config.triplesPerIoDie)
  | .link port p q => port < 16 && p < 1024 && q < 16
  | .slices c idx => c < 256 && idx.all fun i => decide (i < 8)
  | .quarters q idx => q < 64 && idx.all fun i => decide (i < 4)
  | .balance t | .cairnBalance t => 1 ≤ t && t ≤ 63
  | .region _ size _ => 65536 ≤ size && size ≤ 2 ^ 30 && size % 65536 == 0
  | .podLaunch n ps => n != 0 && ps.all fun p => decide (p < 1024)
  | _ => true

/-- Slices that a VF receives are zero (R148, R272). -/
def State.zeroSlices (s : State) (core : Nat) (idx : List Nat) : State :=
  idx.foldl (fun s i => { s with scratch := s.scratch.zero (scratchKey core (i * Config.sliceBytes)) Config.sliceBytes }) s

/-- Quarters that a VF receives are zero (R148, R174). -/
def State.zeroQuarters (s : State) (q : Nat) (idx : List Nat) : State :=
  idx.foldl (fun s i =>
    let w := q * 2 ^ 24 + i * Config.wbufQuarterBytes
    let r := q * 1024 + i * Config.accQuarterRows
    { s with
      wbuf := s.wbuf.zero w Config.wbufQuarterBytes, wdup := s.wdup.zero w Config.wbufQuarterBytes,
      acc := s.acc.zero (r * 2048) (Config.accQuarterRows * 2048),
      rows := s.rows.filter fun x => x.1 < r || r + Config.accQuarterRows ≤ x.1 }) s

/-- A port of a package is wired to the far end of a link, or to none. -/
def State.wire (s : State) (e : Nat × Nat) (peer : Option (Nat × Nat)) : State :=
  let x := s.pkg e.1
  s.setPkg e.1 { x with ports := tset e.2 { tgetD e.2 {} x.ports with peer := peer } x.ports }

/-- A link between two ports (R254, log entry 77): what they were linked to before is no longer linked to them, and what waited for a route is
sent. -/
def State.link (s : State) (a b : Nat × Nat) : State :=
  let ends := (s.linkEnds a.1 a.2 ++ s.linkEnds b.1 b.2).eraseDups
  let t := ((ends.foldl (fun t e => t.wire e none) s).wire a (some b)).wire b (some a)
  let pkgs := (ends.map fun e => e.1).eraseDups
  pkgs.foldl State.pumpAll (pkgs.foldl (fun t p => t.noteCuts s p) t)

/-- The lines of 256 bytes of an image of `n` bytes at a 57-bit address, without entries. -/
def newImage (d va n : Nat) : Image :=
  { descs := [d], base := va / 256 * 256, size := (va + max 1 n + 255) / 256 * 256 - va / 256 * 256 }

/-- An image that system software names to the loader, in the place of those that it overlaps; their copies are given up (R34, log entry 76). -/
def registerImage (ms : List Image) (d va n : Nat) : List Image :=
  let m := newImage d va n
  (ms.filter fun x => !overlap x.base x.size m.base m.size) ++ [m]

/-- One more descriptor and COORD8 entry of an image, which is then loaded anew where the entry is new (R33, R34). -/
def Image.add (m : Image) (d off i : Nat) : Image :=
  let m := { m with descs := (m.descs ++ [d]).eraseDups }
  if m.coords.contains (off, i) then m
  else { m with coords := m.coords.filter (fun c => c.1 != off) ++ [(off, i)], file := [], loaded := [] }

/-- A COORD8 entry of the image that holds its byte; where none is named, the byte's line is one (R33, R34, log entry 76). -/
def addCoord (ms : List Image) (d va i : Nat) : List Image :=
  let holds (m : Image) : Bool := decide (m.base ≤ va) && decide (va < m.base + m.size)
  let ms := if ms.any holds then ms else ms ++ [newImage d va 1]
  ms.map fun m => if holds m then m.add d (va - m.base) i else m

/-- The images of which a host write renews a COORD8 entry in memory are loaded anew (R34, log entry 76). -/
def State.renewImages (s : State) (key n : Nat) : State :=
  let hit (v : Nat) (m : Image) : Bool := m.coords.any fun c => keyHit key n (s.imageKey v m none c.1)
  { s with vfs := s.vfs.map fun v =>
      if v.2.images.any (hit v.1) then (v.1, { v.2 with images := v.2.images.map fun m => if hit v.1 m then { m with file := [], loaded := [] } else m })
      else v }

/-- A policy field written (R272); reserved bits of DBGCTL and WPL read as zero (R2, R236). A port's link is its wiring, which the
installation fixes (R254, log entry 77). -/
def State.setPolicy (s : State) (v : Nat) (f : PolicyField) : State :=
  let x := s.vf v
  match f with
  | .coreSet cs => s.setVf v { x with coreSet := sortBy id cs.eraseDups }
  | .slices c idx =>
    let idx := sortBy id idx.eraseDups
    let new := idx.filter fun i => !(tgetD c [] x.slices).contains i
    (s.setVf v { x with slices := tset c idx x.slices }).zeroSlices (pkgOf v * 256 + c) new
  | .quarters q idx =>
    let idx := sortBy id idx.eraseDups
    let quad := pkgOf v * 64 + q
    let s := (s.setVf v { x with quarters := tset q idx x.quarters }).zeroQuarters quad idx
    s.setQuad quad { s.quad quad with ranges := (s.quad quad).ranges.filter fun r => r.vf != v }
  | .scopeMax sc => s.setVf v { x with scopeMax := sc }
  | .descTable b n => s.setVf v { x with descBase := b, descCount := n }
  | .ptRoot a => s.setVf v { x with ptRoot := a }
  | .thandler a => s.setVf v { x with thandler := a }
  | .debugTemplate ctl bpa bpm wpa wpl host =>
    s.setVf v { x with debug := ⟨ctl &&& 0xF000FF0F, bpa, bpm, wpa, wpl.map (· &&& 0xF)⟩, debugHost := host }
  | .directoryShare n => s.setVf v { x with dirShare := n }
  | .mirrorArea b n => s.setVf v { x with mirrorBase := b, mirrorSize := n }
  | .balance t => s.setVf v { x with t := t }
  | .cairnBalance t => s.setVf v { x with t2 := t }
  | .triple p w => s.setVf v { x with triples := (x.triples.filter fun t => t.1 != p) ++ [(p, w)] }
  | .dropTriple p => s.setVf v { x with triples := x.triples.filter fun t => t.1 != p }
  | .region b n sc => s.setVf v { x with regions := (x.regions.filter fun r => r.base != b) ++ [{ base := b, size := n, scope := sc }] }
  | .mode m =>
    let p := pkgOf v
    if (s.pkg p).mode = m then s
    else
      let s : State := { s with mem := s.mem.undefine (memKey (8 * p) 0) (8 * 2 ^ 57) s.fresh, fresh := s.fresh + 1 }
      s.setPkg p { s.pkg p with mode := m }
  | .podLaunch n ps =>
    { s with pods := tset n (sortBy id ps.eraseDups, []) s.pods, barriers := s.barriers.filter fun b => !(b.1.level == 4 && b.1.owner == n) }
  | .link port p q => s.link (pkgOf v, port) (p, q)
  | .image d a n => s.setVf v { x with images := registerImage x.images d (va57 a) n }
  | .coord8 d a i => s.setVf v { x with images := addCoord x.images d (va57 a) i }

/-- POLICY_WRITE (R272): BUSY where the unit is not idle, and the old policy stays; refused while the device is in reset (R275). -/
def execPolicyWrite (vf : Nat) (f : PolicyField) (s : State) : Host.Outcome State Fault Refusal :=
  .next <|
    let s := s.startExit (pkgOf vf)
    if !(s.pkg (pkgOf vf)).booted || !s.policyOk vf f then s.tell .refused else if s.unitIdle vf f then s.setPolicy vf f else s.tell .busy

/-- TLB_INVALIDATION (R128). -/
def execTlbInvalidation (core vf : Nat) (s : State) : Host.Outcome State Fault Refusal :=
  .next <|
    let c := s.coreAt core
    (s.startExit (pkgOf core)).setCore core { c with tlb := c.tlb.filter fun e => e.1 != vf }

/-- HBM_WIPE (R273): zero is written to device memory by the wipe engine. -/
def execHbmWipe (dev addr len : Nat) (s : State) : Host.Outcome State Fault Refusal :=
  if s.devBytes dev < addr + len then .fault (.noMemory (addr + len))
  else .next <|
    let k := memKey dev addr
    let s := (if len = 0 then s else (s.noteKeys [k, k + len - 1]).clearLines k len).startExit (dev / 8)
    { s with
      mem := s.mem.zero k len, bad := s.bad.filter fun x => x < k || k + len ≤ x,
      copies := s.copies.map fun c => (c.1, c.2.touch false true k len), quads := s.quads.map fun q => (q.1, q.2.touch k len) }

/-- A quad holds no resident group, cairn, enabled queue or sequencer program (R270). -/
def State.quadEmpty (s : State) (q : Nat) : Bool :=
  let here (c : Nat) : Bool := quadOf c == q
  s.groups.all (fun g => !here g.2.core || g.2.life == .retired)
    && s.cairns.all (fun k => k.lost || k.restorable || (!here k.holder && (match k.moving with | some m => !here m.core | none => true)))
    && s.queues.all (fun x => !here (x.1 / 16) || !x.2.cfg.msb) && (s.progs q).isEmpty

/-- QUAD_REMAP (R270): a lost core's quad moves to the die's spare, whose memories are zero, once it holds nothing. -/
def execQuadRemap (pkg die quad : Nat) (s : State) : Host.Outcome State Fault Refusal :=
  .next <|
    let q := pkg * 64 + die * 8 + quad
    let x := s.pkg pkg
    let lost := (List.range 4).any fun i => (s.coreAt (quadCore q i)).lost
    let spare := x.badQuads.all fun b => b.1 != die
    if !lost || !spare || !s.quadEmpty q then s
    else
      let s := (List.range 4).foldl (fun s i => s.setCore (quadCore q i) {}) s
      let s := (List.range 4).foldl (fun s i => s.zeroSlices (quadCore q i) (List.range 8)) s
      let s := s.zeroQuarters q (List.range 4)
      let s := s.setQuad q { s.quad q with ranges := [] }
      s.setPkg pkg { x with badQuads := (die, quad) :: x.badQuads }

/-! Power -/

/-- Nanoseconds of exit latency (R274). -/
def Power.latencyNs : Power → Nat
  | .active => 0 | .idleWarm => 200 | .idleCold => 20000 | .parked => 2000000

/-- Work of any VF is resident, queued or being placed in a package, or a window awaits an acknowledgement (R274). -/
def State.pkgWorks (s : State) (p : Nat) : Bool :=
  s.groups.any (fun g => pkgOf g.2.vf == p && g.2.life != .retired) || s.launches.any (fun l => pkgOf l.2.vf == p && !l.2.ended)
    || s.tasks.any (fun t => pkgOf t.2.vf == p && t.2.place != .retired)
    || s.vfs.any (fun v => pkgOf v.1 == p && v.2.queues.any fun q => q.2.cfg.msb && q.2.head != q.2.tail)
    || s.wins.any fun w => w.2.triple.srcPkg == p && (!w.2.held.isEmpty || !w.2.queue.isEmpty)

/-- The power state that the tolerances of the VFs with an enabled queue allow (R274). -/
def State.powerGoal (s : State) (p : Nat) : Power :=
  let tols := (s.vfs.filter fun v => pkgOf v.1 == p && v.2.queues.any fun q => q.2.cfg.msb).map fun v => v.2.tolns.toNat
  if tols.contains 0 then .active
  else match leastBy id tols with
    | none => .parked
    | some t => ([Power.parked, .idleCold, .idleWarm].find? fun x => decide (Power.latencyNs x ≤ t)).getD .active

/-- The cycle counters stand still in a power state (R12, R274). -/
def Power.stopsCounters : Power → Bool
  | .idleCold | .parked => true
  | _ => false

/-- A package in a power state: its cycle counters, one of each die, stop or go on (R12). -/
def State.setPower (s : State) (p : Nat) (to' : Power) : State :=
  let x := s.pkg p
  let x := match x.runFrom with
    | some _ => if Power.stopsCounters to' then { x with counts := x.counts.map (· + s.ran p), runFrom := none } else x
    | none => if Power.stopsCounters to' then x else { x with runFrom := some s.now }
  s.setPkg p { x with power := to', exitAt := none }

/-- POWER_STATE_ENTRY (R274): a shallower state than the present one is reached only by an exit. -/
def execPowerStateEntry (pkg : Nat) (s : State) : Host.Outcome State Fault Refusal :=
  .next <|
    let x := s.pkg pkg
    let goal := s.powerGoal pkg
    if s.pkgWorks pkg || x.exitAt.isSome then s
    else if Power.latency goal < Power.latency x.power then s.startExit pkg
    else s.setPower pkg goal

/-- POWER_STATE_EXIT (R274): the exit starts, or one under way ends when its latency is over. -/
def execPowerStateExit (pkg : Nat) (s : State) : Host.Outcome State Fault Refusal :=
  .next <| match (s.pkg pkg).exitAt with
    | some t => if t ≤ s.now then s.setPower pkg .active else s
    | none => s.startExit pkg

/-! The host -/

/-- The registers that the host debug interface reaches (R237). -/
def SysReg.isDebug : SysReg → Bool
  | .dbgctl | .bpa _ | .bpm .. | .wpa .. | .wpl _ => true
  | _ => false

/-- HOST_DEBUG_ACCESS (R237, R276): the debug registers of a group, only while it stands in trap mode and its VF's debug template permits it; and a
read of the management block's scan of internal state, on a debug-unlocked package (log entry 82). -/
def execHostDebugAccess (target : DebugTarget) (n : BitVec 16) (write : Option Word) (s : State) : Host.Outcome State Fault Refusal :=
  .next <| match target with
    | .scan pkg =>
      if (s.pkg pkg).life = .debugUnlocked ∧ write.isNone then s.tell (.value (Config.scan s.fresh n.toNat).toNat) else s.tell .refused
    | .group gid => match s.group? gid, sysReg n.toNat with
      | some g, some r =>
        let life := (s.pkg (pkgOf g.vf)).life
        if g.trap.isNone || !r.isDebug || !(s.vf g.vf).debugHost || (life != .deployed && life != .debugUnlocked) then s.tell .refused
        else match write with
          | none => s.tell (.value (r.read s g).toNat)
          | some v => s.setGroup gid { g with dbg := g.dbg.write r v }
      | _, _ => s.tell .refused

/-- A read of BAR0 (R267); a register that is only written, or none, is refused. -/
def State.barRead (s : State) (v off : Nat) : HostMsg :=
  let q := (off - 0x1000) / 32
  let x := s.hostq v q
  if off = 0 then .value (if (s.vf v).baddb then 1 else 0)
  else if off = 8 then .value (s.vf v).demote.toNat
  else if off = 0x10 then .value (s.vf v).tolns.toNat
  else if off < 0x1000 ∨ Mode.queues (s.pkg (pkgOf v)).mode ≤ q then .refused
  else if off % 32 = 0 then .value x.base.toNat
  else if off % 32 = 8 then .value x.cfg.toNat
  else if off % 32 = 0x18 then .value x.head.toNat
  else .refused

/-- A write of QBASE or QCFG, which may change only while enable is 0 (R267): the ring is 4 KiB aligned and has 2^4 to 2^12
entries. -/
def State.barQueue (s : State) (v q : Nat) (cfg : Bool) (x : DWord) : State :=
  let h := s.hostq v q
  if h.cfg.msb then s
  else if cfg then
    if 4 ≤ bitField x.toNat 3 0 ∧ bitField x.toNat 3 0 ≤ 12 then s.setHostq v q { h with cfg := loWord x &&& 0x8000000F } else s
  else s.setHostq v q { h with base := x &&& 0xFFFFFFFFFFFFF000 }

/-- HOST_MEMORY_ACCESS (R167, R267): host reads and writes of device memory and of a VF's BAR0; none while the device is in reset or
its wipe is under way (R148, R275). -/
def execHostMemoryAccess (a : HostAccess) (s : State) : Host.Outcome State Fault Refusal :=
  match a with
  | .read dev addr len =>
    if s.devBytes dev < addr + len then .fault (.noMemory (addr + len))
    else .next (s.tell (if (s.pkg (dev / 8)).wiping || !(s.pkg (dev / 8)).booted then .refused else .bytes (s.mem.bytes (memKey dev addr) len)))
  | .write dev addr bs =>
    if s.devBytes dev < addr + bs.length then .fault (.noMemory (addr + bs.length))
    else .next (if (s.pkg (dev / 8)).wiping || !(s.pkg (dev / 8)).booted then s.tell .refused
      else (s.storeMem (memKey dev addr) bs).renewImages (memKey dev addr) bs.length)
  | .barRead v off => .next (s.tell (if !(s.pkg (pkgOf v)).booted then .refused else s.barRead v off))
  | .barWrite v off x =>
    let q := (off - 0x1000) / 32
    if !(s.pkg (pkgOf v)).booted then .next s
    else if off = 0x10 then .next (s.setVf v { s.vf v with tolns := loWord x })
    else if off < 0x1000 ∨ Mode.queues (s.pkg (pkgOf v)).mode ≤ q then .next s
    else if off % 32 = 0 then .next (s.barQueue v q false x)
    else if off % 32 = 8 then .next (s.barQueue v q true x)
    else if off % 32 = 0x10 then Sys2Proof.Machine.execDoorbellWrite v q (loWord x) s
    else .next s

end Sys2Proof.Machine
end

