-- ==== Sys2Proof/Machine/VectorLanes.lean ====
section
/-! DEFINITION. L-set instructions across lanes: permute, shuffle, scan, reduce and vote (R371, R400, R403, R405, R413). -/

namespace Sys2Proof.Machine

/-- VBPERM: four bytes looked up by the nibbles of a lane in its own table (R371). -/
def execVbperm (hi : Bool) (o : VBin) (s : State) : Host.Outcome State Fault Refusal :=
  issue (.vbperm hi o) s fun c s =>
    let a := c.src s o.a
    let first := match o.b with | .reg n => n.toNat | _ => 0
    let tab := (regsFrom first 4).map c.g.v
    let f (n : Nat) : Word := ofElems 8 fun j =>
      let h := (a.lane n).toNat / 2 ^ (8 * j + if hi then 4 else 0) % 16
      elem 8 (h % 4) ((tab.getD (h / 4) (.u 0)).lane n)
    c.writeV [(o.vd.toNat, packReg c.mask (c.g.v o.vd.toNat) (allUniform (a :: tab)) none f)] s

/-- The lane that lane n of VSHFL reads (R405). -/
def shflLane (m : ShflMode) (delta n idx : Nat) : Nat :=
  match m with
  | .idx => if idx < 96 then idx else n
  | .up => if delta ≤ n then n - delta else n
  | .down => if n + delta < 96 then n + delta else n
  | .xor => if n ^^^ delta < 96 then n ^^^ delta else n
  | .rot => (n + delta) % 96

/-- VSHFL (R405). -/
def execVshfl (m : ShflMode) (delta : Reg) (o : VBin) (s : State) : Host.Outcome State Fault Refusal :=
  issue (.vshfl m delta o) s fun c s =>
    let a := c.src s o.a
    let b := c.src s o.b
    c.writeV [(o.vd.toNat, packReg c.mask (c.g.v o.vd.toNat) (allUniform [a, b]) none
      fun n => a.lane (shflLane m delta.toNat n (b.lane n).toNat))] s

/-- The identity of a reduction, per element (R400). -/
def redIdentity (op : RedOp) (t : ElemTy) (nat : Bool) : Word :=
  let w := t.width
  let rep (x : Nat) : Word := ofElems w fun _ => x
  match op with
  | .add | .or | .xor => 0
  | .and => rep (2 ^ w - 1)
  | .min => if signedElems t nat then rep (2 ^ (w - 1) - 1) else rep (2 ^ w - 1)
  | .max => if signedElems t nat then rep (2 ^ (w - 1)) else 0
  | .fadd => 0
  | .fmin => 0x7F800000
  | .fmax => 0xFF800000

/-- The combination of two values (R400). -/
def redCombine (op : RedOp) (t : ElemTy) (nat ftz : Bool) (a b : Word) : Word :=
  let w := t.width
  match op with
  | .add => mapElems w (fun x y _ => x + y) a b 0
  | .min => mapElems w (fun x y _ => elemPick (signedElems t nat) false w x y) a b 0
  | .max => mapElems w (fun x y _ => elemPick (signedElems t nat) true w x y) a b 0
  | .and => a &&& b
  | .or => a ||| b
  | .xor => a ^^^ b
  | .fadd => flush ftz (fAdd a b)
  | .fmin => flush ftz (fMin a b)
  | .fmax => flush ftz (fMax a b)

/-- A source value enters a float reduction flushed (R400). -/
def redIn (op : RedOp) (ftz : Bool) (x : Word) : Word := if op.isFloat then flush ftz x else x

/-- A result of a float reduction: canonical NaN, flushed (R400). -/
def redOut (op : RedOp) (ftz : Bool) (x : Word) : Word := if op.isFloat then flush ftz (canonF x) else x

/-- The scan's value at each active lane, in rising order (R403). -/
def scanFrom (f : Word → Word → Word) (excl : Bool) (ident : Word) : Option Word → List (Nat × Word) → Table Word
  | _, [] => []
  | acc, (n, x) :: t =>
    let v := match acc with | none => x | some a => f a x
    (n, if excl then acc.getD ident else v) :: scanFrom f excl ident (some v) t

/-- VSCAN (R403): always general. -/
def execVscan (op : RedOp) (t : ElemTy) (nat excl : Bool) (o : VUn) (s : State) : Host.Outcome State Fault Refusal :=
  issue (.vscan op t nat excl o) s fun c s =>
    let a := c.src s o.a
    let r := scanFrom (redCombine op t nat c.ftz) excl (redIdentity op t nat) none
      (c.active.map fun n => (n, redIn op c.ftz (a.lane n)))
    c.writeV [(o.vd.toNat, packGeneral c.mask (c.g.v o.vd.toNat) fun n => redOut op c.ftz (tgetD n 0 r))] s

/-- One level of the balanced tree of R123: an absent child passes the other through. -/
def treeLevel (f : Word → Word → Word) : List (Option Word) → List (Option Word)
  | a :: b :: t =>
    (match a, b with | some x, some y => some (f x y) | some x, none => some x | none, y => y) :: treeLevel f t
  | l => l

/-- The root of the tree over 2^k leaves (R123). -/
def treeRoot (f : Word → Word → Word) : Nat → List (Option Word) → Option Word
  | 0, l => l.headD none
  | k + 1, l => treeRoot f k (treeLevel f l)

/-- VRED: the combination of the active lanes; `.fadd` in the tree of R123 (R401). -/
def execVred (op : RedOp) (t : ElemTy) (nat : Bool) (o : VUn) (s : State) : Host.Outcome State Fault Refusal :=
  issue (.vred op t nat o) s fun c s =>
    let a := c.src s o.a
    let f := redCombine op t nat c.ftz
    let r := if op = .fadd then
        treeRoot f 7 ((List.range 128).map fun n => if n < 96 ∧ laneOn c.mask n then some (redIn op c.ftz (a.lane n)) else none)
      else (c.active.map fun n => redIn op c.ftz (a.lane n)).foldl (fun (acc : Option Word) x => some (match acc with | none => x | some y => f y x)) none
    .done (c.setS o.vd.toNat (redOut op c.ftz (r.getD (redIdentity op t nat))) s)

/-- VVOTE (R413). -/
def execVvote (f : VoteFn) (o : VUn) (s : State) : Host.Outcome State Fault Refusal :=
  issue (.vvote f o) s fun c s =>
    let a := c.src s o.a
    let votes := c.active.filter fun n => a.lane n != 0
    match f with
    | .ballot => .done (c.setTriple o.vd.toNat (maskWhere fun n => laneOn c.mask n && a.lane n != 0) s)
    | .any => .done (c.setS o.vd.toNat (if votes.isEmpty then 0 else 1) s)
    | .all => .done (c.setS o.vd.toNat (if votes.length = c.active.length then 1 else 0) s)
    | .count => .done (c.setS o.vd.toNat (BitVec.ofNat 32 votes.length) s)

end Sys2Proof.Machine
end

