-- ==== Sys2Proof/Machine/Dispatch.lean ====
section
/-! DEFINITION. One arm for each constructor of Instr. -/

namespace Sys2Proof.Machine

/-- The meaning of every instruction and of every step of the device. -/
def exec (i : Instr) (s : State) : Host.Outcome State Fault Refusal :=
  match i with
  | .vadd t o => Sys2Proof.Machine.execVadd t o s
  | .vsub t o => Sys2Proof.Machine.execVsub t o s
  | .vmul t o => Sys2Proof.Machine.execVmul t o s
  | .vmulh natural o => Sys2Proof.Machine.execVmulh natural o s
  | .vmad t o => Sys2Proof.Machine.execVmad t o s
  | .vmin t nat o => Sys2Proof.Machine.execVmin t nat o s
  | .vmax t nat o => Sys2Proof.Machine.execVmax t nat o s
  | .vabs t o => Sys2Proof.Machine.execVabs t o s
  | .vand o => Sys2Proof.Machine.execVand o s
  | .vor o => Sys2Proof.Machine.execVor o s
  | .vxor o => Sys2Proof.Machine.execVxor o s
  | .vshl t o => Sys2Proof.Machine.execVshl t o s
  | .vshr t o => Sys2Proof.Machine.execVshr t o s
  | .vsar t o => Sys2Proof.Machine.execVsar t o s
  | .vclz t o => Sys2Proof.Machine.execVclz t o s
  | .vpopc t o => Sys2Proof.Machine.execVpopc t o s
  | .vbfx sx o => Sys2Proof.Machine.execVbfx sx o s
  | .vbfi o => Sys2Proof.Machine.execVbfi o s
  | .vcmp c t nat o => Sys2Proof.Machine.execVcmp c t nat o s
  | .vsel mask o => Sys2Proof.Machine.execVsel mask o s
  | .vmov o => Sys2Proof.Machine.execVmov o s
  | .vbcast keepA keepB vd sa => Sys2Proof.Machine.execVbcast keepA keepB vd sa s
  | .vtag f o => Sys2Proof.Machine.execVtag f o s
  | .vfadd o => Sys2Proof.Machine.execVfadd o s
  | .vfsub o => Sys2Proof.Machine.execVfsub o s
  | .vfmul o => Sys2Proof.Machine.execVfmul o s
  | .vfma p o => Sys2Proof.Machine.execVfma p o s
  | .vfmin o => Sys2Proof.Machine.execVfmin o s
  | .vfmax o => Sys2Proof.Machine.execVfmax o s
  | .vfcmp c o => Sys2Proof.Machine.execVfcmp c o s
  | .vfrcp o => Sys2Proof.Machine.execVfrcp o s
  | .vfrsq o => Sys2Proof.Machine.execVfrsq o s
  | .vfex2 o => Sys2Proof.Machine.execVfex2 o s
  | .vflg2 o => Sys2Proof.Machine.execVflg2 o s
  | .vcvt elem scl nosat rm dst src o => Sys2Proof.Machine.execVcvt elem scl nosat rm dst src o s
  | .vpack nosat rm dst o => Sys2Proof.Machine.execVpack nosat rm dst o s
  | .vunpk part src o => Sys2Proof.Machine.execVunpk part src o s
  | .vbperm hi o => Sys2Proof.Machine.execVbperm hi o s
  | .vshfl m delta o => Sys2Proof.Machine.execVshfl m delta o s
  | .vscan op t nat excl o => Sys2Proof.Machine.execVscan op t nat excl o s
  | .vred op t nat o => Sys2Proof.Machine.execVred op t nat o s
  | .vvote f o => Sys2Proof.Machine.execVvote f o s
  | .vld o => Sys2Proof.Machine.execVld o s
  | .vst o => Sys2Proof.Machine.execVst o s
  | .vlds o => Sys2Proof.Machine.execVlds o s
  | .vsts o => Sys2Proof.Machine.execVsts o s
  | .vatom o => Sys2Proof.Machine.execVatom o s
  | .sadd o => Sys2Proof.Machine.execSadd o s
  | .ssub o => Sys2Proof.Machine.execSsub o s
  | .smul o => Sys2Proof.Machine.execSmul o s
  | .smulh natural o => Sys2Proof.Machine.execSmulh natural o s
  | .sand o => Sys2Proof.Machine.execSand o s
  | .sor o => Sys2Proof.Machine.execSor o s
  | .sxor o => Sys2Proof.Machine.execSxor o s
  | .sshl o => Sys2Proof.Machine.execSshl o s
  | .sshr o => Sys2Proof.Machine.execSshr o s
  | .ssar o => Sys2Proof.Machine.execSsar o s
  | .smin natural o => Sys2Proof.Machine.execSmin natural o s
  | .smax natural o => Sys2Proof.Machine.execSmax natural o s
  | .scmp c sd sa b => Sys2Proof.Machine.execScmp c sd sa b s
  | .ssel o => Sys2Proof.Machine.execSsel o s
  | .smov w64 sd b => Sys2Proof.Machine.execSmov w64 sd b s
  | .smovi sd imm => Sys2Proof.Machine.execSmovi sd imm s
  | .sclz w64 sd sa => Sys2Proof.Machine.execSclz w64 sd sa s
  | .spopc w64 sd sa => Sys2Proof.Machine.execSpopc w64 sd sa s
  | .sbfx sx sd sa b => Sys2Proof.Machine.execSbfx sx sd sa b s
  | .sfadd sd sa b => Sys2Proof.Machine.execSfadd sd sa b s
  | .sfmul sd sa b => Sys2Proof.Machine.execSfmul sd sa b s
  | .sfma p sd sa b => Sys2Proof.Machine.execSfma p sd sa b s
  | .sld o => Sys2Proof.Machine.execSld o s
  | .sst o => Sys2Proof.Machine.execSst o s
  | .slds o => Sys2Proof.Machine.execSlds o s
  | .ssts o => Sys2Proof.Machine.execSsts o s
  | .satom o c => Sys2Proof.Machine.execSatom o c s
  | .slr o => Sys2Proof.Machine.execSlr o s
  | .ssc o => Sys2Proof.Machine.execSsc o s
  | .fence ord scope => Sys2Proof.Machine.execFence ord scope s
  | .bra off => Sys2Proof.Machine.execBra off s
  | .bcc c sa off => Sys2Proof.Machine.execBcc c sa off s
  | .bdiv clr sa off => Sys2Proof.Machine.execBdiv clr sa off s
  | .call off => Sys2Proof.Machine.execCall off s
  | .ret => Sys2Proof.Machine.execRet s
  | .exit => Sys2Proof.Machine.execExit s
  | .nop => Sys2Proof.Machine.execNop s
  | .yield c sa off => Sys2Proof.Machine.execYield c sa off s
  | .waitc c b => Sys2Proof.Machine.execWaitc c b s
  | .bkpt code => Sys2Proof.Machine.execBkpt code s
  | .trap code => Sys2Proof.Machine.execTrap code s
  | .tret => Sys2Proof.Machine.execTret s
  | .srd sd b => Sys2Proof.Machine.execSrd sd b s
  | .swr sa b => Sys2Proof.Machine.execSwr sa b s
  | .clk tb sd => Sys2Proof.Machine.execClk tb sd s
  | .regrp first count => Sys2Proof.Machine.execRegrp first count s
  | .bar l id => Sys2Proof.Machine.execBar l id s
  | .bara l id sd => Sys2Proof.Machine.execBara l id sd s
  | .bard l id => Sys2Proof.Machine.execBard l id s
  | .barw l id sa => Sys2Proof.Machine.execBarw l id sa s
  | .fsend port => Sys2Proof.Machine.execFsend port s
  | .cpy k sh tr trows tcols sd sa sb => Sys2Proof.Machine.execCpy k sh tr trows tcols sd sa sb s
  | .publ sa => Sys2Proof.Machine.execPubl sa s
  | .mqput core queue len sd sa => Sys2Proof.Machine.execMqput core queue len sd sa s
  | .mqget queue len sd => Sys2Proof.Machine.execMqget queue len sd s
  | .mqfree core queue sa => Sys2Proof.Machine.execMqfree core queue sa s
  | .mfork narg off sd sa => Sys2Proof.Machine.execMfork narg off sd sa s
  | .mrdv sa => Sys2Proof.Machine.execMrdv sa s
  | .tsub nb spm sd sa => Sys2Proof.Machine.execTsub nb spm sd sa s
  | .temit nb succ sd va => Sys2Proof.Machine.execTemit nb succ sd va s
  | .spawn off sd sa => Sys2Proof.Machine.execSpawn off sd sa s
  | .krel b => Sys2Proof.Machine.execKrel b s
  | .cnew size life mir sd sa => Sys2Proof.Machine.execCnew size life mir sd sa s
  | .copen nomove sd sa => Sys2Proof.Machine.execCopen nomove sd sa s
  | .chand k sd sa => Sys2Proof.Machine.execChand k sd sa s
  | .cdrop free sd sa => Sys2Proof.Machine.execCdrop free sd sa s
  | .cinfo sync sd sa => Sys2Proof.Machine.execCinfo sync sd sa s
  | .mres fmt sp ts sd sa => Sys2Proof.Machine.execMres fmt sp ts sd sa s
  | .mwld len sa sb => Sys2Proof.Machine.execMwld len sa sb s
  | .mldw blk sa => Sys2Proof.Machine.execMldw blk sa s
  | .mma mm1 acc sa sb => Sys2Proof.Machine.execMma mm1 acc sa sb s
  | .mdist mm1 acc sd sa sb => Sys2Proof.Machine.execMdist mm1 acc sd sa sb s
  | .mtopk mm1 acc km1 min sa sb => Sys2Proof.Machine.execMtopk mm1 acc km1 min sa sb s
  | .mdrn mm1 acc fmt sh dst sa sb => Sys2Proof.Machine.execMdrn mm1 acc fmt sh dst sa sb s
  | .mzero regs => Sys2Proof.Machine.execMzero regs s
  | .doorbellWrite vf q tail => Sys2Proof.Machine.execDoorbellWrite vf q tail s
  | .launch vf q => Sys2Proof.Machine.execLaunch vf q s
  | .graphLaunch vf q => Sys2Proof.Machine.execGraphLaunch vf q s
  | .launchComplete lid => Sys2Proof.Machine.execLaunchComplete lid s
  | .terminationWave lid => Sys2Proof.Machine.execTerminationWave lid s
  | .blockDispatch t cores => Sys2Proof.Machine.execBlockDispatch t cores s
  | .admissionRound pkg => Sys2Proof.Machine.execAdmissionRound pkg s
  | .queueDepthExchange pkg => Sys2Proof.Machine.execQueueDepthExchange pkg s
  | .flushTimeout lid node => Sys2Proof.Machine.execFlushTimeout lid node s
  | .yieldTimeout gid split => Sys2Proof.Machine.execYieldTimeout gid split s
  | .pendingWriteComplete gid => Sys2Proof.Machine.execPendingWriteComplete gid s
  | .contextRelease gid => Sys2Proof.Machine.execContextRelease gid s
  | .splitMerge gid a b => Sys2Proof.Machine.execSplitMerge gid a b s
  | .deferralRejoin gid split => Sys2Proof.Machine.execDeferralRejoin gid split s
  | .forwardArrival lid item port => Sys2Proof.Machine.execForwardArrival lid item port s
  | .trapEntry gid => Sys2Proof.Machine.execTrapEntry gid s
  | .nestedTrap gid cause => Sys2Proof.Machine.execNestedTrap gid cause s
  | .tkillWrite v => Sys2Proof.Machine.execTkillWrite v s
  | .barecntWrite level id v => Sys2Proof.Machine.execBarecntWrite level id v s
  | .portstatWrite port v => Sys2Proof.Machine.execPortstatWrite port v s
  | .portlaneWrite port lane v => Sys2Proof.Machine.execPortlaneWrite port lane v s
  | .frameWrite w v => Sys2Proof.Machine.execFrameWrite w v s
  | .mqcfgWrite q v => Sys2Proof.Machine.execMqcfgWrite q v s
  | .cpystatWrite v => Sys2Proof.Machine.execCpystatWrite v s
  | .systemRegisterWrite n v => Sys2Proof.Machine.execSystemRegisterWrite n v s
  | .pcBreakpoint gid split => Sys2Proof.Machine.execPcBreakpoint gid split s
  | .shadowRetry gid split lanes first second => Sys2Proof.Machine.execShadowRetry gid split lanes first second s
  | .scrubError dev addr => Sys2Proof.Machine.execScrubError dev addr s
  | .preemption gid => Sys2Proof.Machine.execPreemption gid s
  | .resumption gid places => Sys2Proof.Machine.execResumption gid places s
  | .sequencerPreemption quad => Sys2Proof.Machine.execSequencerPreemption quad s
  | .sequencerResumption quad serial => Sys2Proof.Machine.execSequencerResumption quad serial s
  | .copyComplete id => Sys2Proof.Machine.execCopyComplete id s
  | .messageAppend id => Sys2Proof.Machine.execMessageAppend id s
  | .publSwap id => Sys2Proof.Machine.execPublSwap id s
  | .cairnMoveComplete vf name => Sys2Proof.Machine.execCairnMoveComplete vf name s
  | .cairnWritebackComplete id => Sys2Proof.Machine.execCairnWritebackComplete id s
  | .sequencerProgramStart quad => Sys2Proof.Machine.execSequencerProgramStart quad s
  | .sequencerProgramEnd quad => Sys2Proof.Machine.execSequencerProgramEnd quad s
  | .mwldComplete quad op => Sys2Proof.Machine.execMwldComplete quad op s
  | .weightPlaneLoaded quad op => Sys2Proof.Machine.execWeightPlaneLoaded quad op s
  | .engineRingSlot quad op => Sys2Proof.Machine.execEngineRingSlot quad op s
  | .flitCheckFail pkg port o => Sys2Proof.Machine.execFlitCheckFail pkg port o s
  | .packetArrival flight => Sys2Proof.Machine.execPacketArrival flight s
  | .replayTimeout win => Sys2Proof.Machine.execReplayTimeout win s
  | .routeTableChange pkg dst ports => Sys2Proof.Machine.execRouteTableChange pkg dst ports s
  | .linkReturn pkg port => Sys2Proof.Machine.execLinkReturn pkg port s
  | .strandTimeout win => Sys2Proof.Machine.execStrandTimeout win s
  | .strandResolution win reachable => Sys2Proof.Machine.execStrandResolution win reachable s
  | .podBarrierBreak number pkg => Sys2Proof.Machine.execPodBarrierBreak number pkg s
  | .ctlReset peer vf => Sys2Proof.Machine.execCtlReset peer vf s
  | .functionLevelReset vf => Sys2Proof.Machine.execFunctionLevelReset vf s
  | .coldReset pkg => Sys2Proof.Machine.execColdReset pkg s
  | .wipeComplete pkg => Sys2Proof.Machine.execWipeComplete pkg s
  | .firmwareBoot pkg rsaOk slhOk => Sys2Proof.Machine.execFirmwareBoot pkg rsaOk slhOk s
  | .attestationRequest vf nonce => Sys2Proof.Machine.execAttestationRequest vf nonce s
  | .deployCommand pkg rsaOk slhOk => Sys2Proof.Machine.execDeployCommand pkg rsaOk slhOk s
  | .unlockCommand pkg tokenOk => Sys2Proof.Machine.execUnlockCommand pkg tokenOk s
  | .relockCommand pkg => Sys2Proof.Machine.execRelockCommand pkg s
  | .decommissionCommand pkg signed => Sys2Proof.Machine.execDecommissionCommand pkg signed s
  | .policyWrite vf f => Sys2Proof.Machine.execPolicyWrite vf f s
  | .tlbInvalidation core vf => Sys2Proof.Machine.execTlbInvalidation core vf s
  | .hbmWipe dev addr len => Sys2Proof.Machine.execHbmWipe dev addr len s
  | .quadRemap pkg die quad => Sys2Proof.Machine.execQuadRemap pkg die quad s
  | .powerStateEntry pkg => Sys2Proof.Machine.execPowerStateEntry pkg s
  | .powerStateExit pkg => Sys2Proof.Machine.execPowerStateExit pkg s
  | .hostDebugAccess target n write => Sys2Proof.Machine.execHostDebugAccess target n write s
  | .hostMemoryAccess a => Sys2Proof.Machine.execHostMemoryAccess a s
  | .hostQueueDestroy vf q => Sys2Proof.Machine.execHostQueueDestroy vf q s

end Sys2Proof.Machine
end

