-- ==== Sys2Proof/Machine/Turn.lean ====
section
/-! DEFINITION. Who moves next and what a split or a sequencer does in its turn (R43-R45, R50, R98, R176, R228, R239, R252, R260,
R262); and the state that a single instruction runs in. -/

namespace Sys2Proof.Machine

/-- An instruction that has an encoding is issued by a split or a sequencer only. -/
def isStep (i : Instr) : Bool := (encode i).isEmpty

/-- The next instruction of a split is of the L-set. -/
def State.nextLset (s : State) (g : Group) (sp : Split) : Bool :=
  match s.fetchWord false g.core g.vf g.launch (pairOf g.window sp.pc) with
  | .ok (w, _) => isLset w.toNat
  | .error _ => false

/-- The next instruction of a split cannot be fetched now: its page's home cannot be reached. -/
def State.nextFar (s : State) (g : Group) (sp : Split) : Bool :=
  let a := pairOf g.window sp.pc
  (s.codeFar g.core g.vf g.launch a || s.codeFar g.core g.vf g.launch (a + 4)) && s.fetchInstr false g.core g.vf g.launch a == .far

/-- A split has an issue opportunity in this clk (R38, R50, R228): its group issues, it is ready, its instruction can be fetched, and an
L-set instruction finds the vector pipe free. -/
def State.canIssue (s : State) (gid k : Nat) (g : Group) (sp : Split) : Bool :=
  g.issues && s.atIssue gid k g sp && s.splitReady gid k g sp && !s.nextFar g sp
    && (decide (tgetD (partKey g.core g.part) 0 s.pipe ≤ s.now) || !s.nextLset g sp)

/-- The order in which a partition takes its splits: the one ready the longest, the lower slot, the lower number (R50). A clk in which the vector
pipe is busy counts toward the readiness of a split with an L-set instruction (DESIGN CHOICE, log entry 97). -/
def turnRank (g : Group) (k : Nat) (sp : Split) : Nat := sp.since * 64 + g.slot * 4 + k

/-- A split issues in this clk: its partition has not issued yet, and no split with an opportunity goes before it (R50). -/
def State.mayIssue (s : State) (gid k : Nat) (g : Group) (sp : Split) : Bool :=
  (tget (partKey g.core g.part) s.issued).all (fun t => decide (t < s.now)) && s.canIssue gid k g sp
    && s.groups.all fun p => !p.2.holds g.core g.part || p.2.splits.all fun q =>
      decide (turnRank g k sp ≤ turnRank p.2 q.1 q.2) || !s.canIssue p.1 q.1 p.2 q.2

/-- The split as it is about to issue (R44, R45): the splits that are about to issue at its address take their deferral entries there
back, and merge into the lowest number, which takes back those it has then. Splits merge as one of them takes its turn to issue, or by a SPLIT_MERGE, and
until then each holds its entry (DESIGN CHOICE, log entry 108: R45 says only that they are about to issue). -/
def State.gather (s : State) (gid k : Nat) : State × Nat :=
  match (s.group? gid).bind fun g => (tget k g.splits).map fun sp => (g, sp) with
  | none => (s, k)
  | some (g, sp) =>
    let here := (g.splits.filter fun p => p.2.pc == sp.pc && s.atIssue gid p.1 g p.2).map fun p => p.1
    let low := here.foldl min k
    let s := here.foldl (fun s j => s.rejoin gid j) s
    let s := (here.filter (· != low)).foldl (fun s j => mergeSplits s gid low j) s
    (s.rejoin gid low, low)

/-- Beats of the vector pipe that an instruction under a mask takes (R38). -/
def beats (m : Mask) : Nat := max 1 ((maskWords m).filter (· != 0)).length

/-- The partition after an issue by split `k`; one that turned out to have to wait before it could issue has not issued (R38, R50). -/
def State.noteIssue (s : State) (gid k key : Nat) (i : Instr) (m : Mask) : State :=
  if ((s.group? gid).bind fun g => tget k g.splits).any fun sp => sp.wait.early then s
  else { s with issued := tset key s.now s.issued, pipe := if isVector i then tset key (s.now + beats m) s.pipe else s.pipe }

/-- The instruction at a split's PC issues: breakpoints first, then the fetch, then its meaning (R98, R239, R246). -/
def State.issueAt (s : State) (gid k : Nat) : Host.Outcome State Fault Refusal :=
  match (s.group? gid).bind fun g => (tget k g.splits).map fun sp => (g, sp) with
  | none => .next s
  | some (g, sp) =>
    let a := pairOf g.window sp.pc
    if (g.breaks k).isSome then Sys2Proof.Machine.exec (.pcBreakpoint gid (BitVec.ofNat 2 k).toNat) s
    else match s.fetchInstr false g.core g.vf g.launch a with
      | .cause c => .next (if c = causeUCE then (s.fetchedBad g.core g.vf g.launch a).kill gid c sp.pc
          else s.raise gid { cause := c, split := k, pc := sp.pc } sp.pc)
      | .hole pa => .fault (.noMemory pa)
      | .far => .next s
      | .ok i t => match Sys2Proof.Machine.exec i { t with cur := .group gid k } with
        | .next u => .next (u.noteIssue gid k (partKey g.core g.part) i sp.mask)
        | o => o

/-- A wait on a broken barrier (R262). -/
def State.waitBroken (s : State) (w : Wait) : Bool := match w with | .bar k _ => (s.barrier k).any Barrier.broken | _ => false

/-- What a split does in its turn: nothing; the STEP that is due is raised; the recorded trap is taken; FABLOST is raised; an
instruction that has issued tries again; one issues; or a wait that is over ends. -/
inductive SplitMove where
  | idle
  | step
  | trap
  | lost
  | again (i : Instr)
  | issue
  | ended
  deriving DecidableEq, Repr

/-- An instruction that has issued tries again once what it waits for has come. -/
def State.tryAgain (s : State) (gid k : Nat) (g : Group) (w : Again) (h : Held) : SplitMove :=
  if s.comes gid k g w then .again h.instr else .idle

/-- What a split can do (R50, R228, R241, R252, R260, R262). -/
def State.splitMove (s : State) (gid k : Nat) : SplitMove :=
  match (s.group? gid).bind fun g => (tget k g.splits).map fun sp => (g, sp) with
  | none => .idle
  | some (g, sp) =>
    if g.life ≠ .resident then .idle
    else match g.pend with
    | some info => match sp.wait, sp.held with
      | .again (.cairn n sd), some h => s.tryAgain gid k g (.cairn n sd) h
      | _, _ => if g.dueBefore s.nextId info.order then .step else if g.drained info.split then .trap else .idle
    | none =>
      if sp.due.isSome && g.trap.isNone then .step
      else if g.fabDue then (if g.rinstr.any RInstr.lost then .idle else .lost)
      else match sp.wait, sp.held with
        | .again w, some h => s.tryAgain gid k g w h
        | .none, _ | .again _, none => if s.mayIssue gid k g sp then .issue else .idle
        | w, _ =>
          if s.waitOver gid w || (match w with | .yield _ => s.aloneReady gid k g | _ => false) then .ended
          else if s.waitBroken w then .lost else .idle

/-- A split's turn. -/
def State.splitTurn (s : State) (gid k : Nat) : Host.Outcome State Fault Refusal :=
  match s.splitMove gid k with
  | .idle => .next s
  | .step => .next (s.stepDue gid)
  | .trap => Sys2Proof.Machine.exec (.trapEntry gid) s
  | .lost => .next (s.fabTrap gid k 0)
  | .again i => Sys2Proof.Machine.exec i { s with cur := .group gid k }
  | .issue => (s.gather gid k).1.issueAt gid (s.gather gid k).2
  | .ended => .next (s.endWait gid k)

/-- A sequencer's turn: it takes a program, ends one, or issues (R98, R176, R177). -/
def State.seqTurn (s : State) (q : Nat) : Host.Outcome State Fault Refusal :=
  match (s.quad q).running with
  | none => Sys2Proof.Machine.exec (.sequencerProgramStart q) s
  | some p =>
    if p.ending || p.stopped.isSome then Sys2Proof.Machine.exec (.sequencerProgramEnd q) s
    else match s.fetchInstr true p.core p.vf p.launch (pairOf p.window p.pc) with
      | .cause c => .next ((if c = causeUCE then s.fetchedBad p.core p.vf p.launch (pairOf p.window p.pc) else s).killProg q c p.pc)
      | .hole pa => .fault (.noMemory pa)
      | .far => .next s
      | .ok i t => Sys2Proof.Machine.exec i { t with cur := .seq q }

/-! Who moves when no turn is given: one of the movers that can act, chosen by the clk so that no pattern of moves keeps one out (log
entry 3). -/

/-- The splits whose turn would be such as `f` tells. -/
def State.splitMovers (s : State) (f : SplitMove → Bool) : List Mover :=
  s.groups.flatMap fun g => (g.2.splits.filter fun p => f (s.splitMove g.1 p.1)).map fun p => .split g.1 p.1

/-- The steps inside groups' lives that may be due. -/
def State.groupMovers (s : State) : List Mover :=
  (s.groups.flatMap fun g =>
    (if g.2.busy.isEmpty then [] else [.event (.pendingWriteComplete g.1)])
      ++ (if g.2.life = .retired then [.event (.contextRelease g.1)] else []))
    ++ s.fwds.filterMap fun f =>
      if f.arrived || (f.spilled && (s.itemCore f.launch f.item).isNone) then none else some (.event (.forwardArrival f.launch f.item f.port))

/-- The completions of asynchronous work that may be due. -/
def State.asyncMovers (s : State) : List Mover :=
  (s.copies.filterMap fun c => if c.2.finished then none else some (.event (.copyComplete c.1)))
    ++ (s.msgs.filterMap fun m => if m.2.finished then none else some (.event (.messageAppend m.1)))
    ++ (s.pubs.filterMap fun p => if p.2.finished then none else some (.event (.publSwap p.1)))
    ++ (s.wbacks.map fun w => .event (.cairnWritebackComplete w.1))
    ++ (s.cairns.filterMap fun k => if k.moving.isSome then some (.event (.cairnMoveComplete k.vf k.name)) else none)
    ++ s.flights.map fun f => .event (.packetArrival f.1)

/-- The steps of the engines and sequencers that may be due. -/
def State.engineMovers (s : State) : List Mover :=
  s.quads.flatMap fun q =>
    (if q.2.running.isSome || !q.2.queue.isEmpty then [.seq q.1] else [])
      ++ (q.2.running.toList.flatMap fun p => p.ops.filterMap fun o => match o.2.kind with
        | .mwld .. => some (.event (.mwldComplete q.1 o.1))
        | .mldw .. => some (.event (.weightPlaneLoaded q.1 o.1))
        | .mma | .mdist _ | .mtopk .. | .mdrn .. => some (.event (.engineRingSlot q.1 o.1))
        | _ => none)

/-- The steps of the dispatcher and the front end that may be due. -/
def State.workMovers (s : State) : List Mover :=
  (s.tasks.filterMap fun t => match t.2.place with
    | .waiting => some (.event (.admissionRound (pkgOf t.2.vf)))
    | .queued _ => some (.event (.blockDispatch (.task t.1) (s.coreSet t.2.vf)))
    | _ => none)
    ++ (s.launches.flatMap fun l =>
      if l.2.ended then []
      else if l.2.graph then
        (if 0 < l.2.sums.appended then [.event (.terminationWave l.1)] else [])
          ++ (l.2.nodes.zipIdx.filterMap fun n =>
            if n.1.queue.isEmpty then none
            else if n.1.kernel.coalesce ≤ n.1.queue.length then some (.event (.blockDispatch (.node l.1 n.2) (s.coreSet l.2.vf)))
            else some (.event (.flushTimeout l.1 n.2)))
      else if l.2.next < l.2.kernel.grid then [.event (.blockDispatch (.launch l.1) (s.coreSet l.2.vf))]
      else [.event (.launchComplete l.1)])
    ++ s.vfs.flatMap fun v => v.2.queues.flatMap fun q =>
      if q.2.cfg.msb && q.2.head != q.2.tail then [.event (.launch v.1 q.1), .event (.graphLaunch v.1 q.1)] else []

/-- A place among `n`, spread over the clks: the clk times the golden ratio, its fraction times `n`. -/
def spread (clk n : Nat) : Nat := clk * 2654435769 % 2 ^ 32 * n / 2 ^ 32

/-- Those that can act. -/
def State.movers (s : State) : List Mover :=
  s.splitMovers (· != .idle) ++ s.groupMovers ++ s.asyncMovers ++ s.engineMovers ++ s.workMovers

/-- The turn that follows when the agenda gives none: every partition that can issue in this clk does (R50), and then a clk passes. -/
def State.defaultTurn (s : State) : Turn :=
  match s.splitMovers (· == .issue) with
  | m :: _ => ⟨0, m⟩
  | [] =>
    let ms := { s with now := s.now + 1 }.movers
    ⟨1, (ms[spread s.now ms.length]?).getD .idle⟩

/-- The turn to be taken. -/
def State.turn (s : State) : Turn := s.agenda.head?.getD s.defaultTurn

/-- The instruction of a split would wait for the VF's remote operations before it issues, or for the home of a page that it accesses (R50, R160,
R252). -/
def State.waitsFar (s : State) (gid k : Nat) (g : Group) (sp : Split) : Bool :=
  !(s.rops.isEmpty && (s.vf g.vf).triples.isEmpty) && (g.breaks k).isNone &&
    match s.fetchInstr false g.core g.vf g.launch (pairOf g.window sp.pc) with
    | .ok i t => match Sys2Proof.Machine.exec i { t with cur := .group gid k } with
      | .next u => ((u.group? gid).bind fun g => tget k g.splits).any fun x => x.wait.early
      | _ => false
    | _ => false

/-- The next instruction of a split that waits for nothing else could not issue now (R50): its group may not issue, its code cannot be fetched, what
it waits for has not come, or it would wait before it issues. -/
def State.blocked (s : State) (gid k : Nat) (g : Group) (sp : Split) : Bool :=
  !g.issues || !s.splitReady gid k g sp || s.nextFar g sp || s.stalls gid k g sp || s.waitsFar gid k g sp

/-- A split of a group is ready from a clk on in which its next instruction could issue (R50). -/
def State.readyFrom (s : State) (gid k : Nat) (g : Group) (sp : Split) : Split :=
  match sp.wait, sp.held with
  | .none, none | .again _, none => { sp with since := if s.blocked gid k g sp then max sp.since s.now else sp.since }
  | _, _ => sp

/-- Splits of resident groups whose instruction cannot issue yet are ready from a later clk on (R50). -/
def State.countReady (s : State) : State :=
  { s with groups := s.groups.map fun p => if p.2.life ≠ .resident then p else
      (p.1, { p.2 with splits := p.2.splits.map fun q => (q.1, s.readyFrom p.1 q.1 p.2 q.2) }) }

/-- No other split of the partition of a parked one is ready in a clk in which none has issued (R81): each waits, or its next instruction could not
issue. -/
def State.alone (s : State) (gid k : Nat) (g : Group) : Bool :=
  s.groups.all fun p => !(p.2.holds g.core g.part && p.2.issues) || p.2.splits.all fun q =>
    (p.1 == gid && q.1 == k) || !s.splitReady p.1 q.1 p.2 q.2 || match q.2.wait, q.2.held with
      | .none, none | .again _, none => s.blocked p.1 q.1 p.2 q.2
      | _, _ => false

/-- The splits that a YIELD without a counter has parked and that are alone in their partition now. -/
def State.aloneYields (s : State) : List (Nat × Nat) :=
  s.groups.flatMap fun g => if !g.2.runs then [] else
    (g.2.splits.filter fun p => (match p.2.wait with | .yield _ => true | _ => false) && s.alone g.1 p.1 g.2).map fun p => (g.1, p.1)

/-- The machine in the first clk after `s`: YIELDs that are alone in their partition end in it (R81, R416). -/
def State.endYields (s : State) : State :=
  let t : State := { s with now := s.now + 1 }
  t.aloneYields.foldl (fun s p => s.endWait p.1 p.2) t

/-- The machine as its next turn begins: the clk that pass, a new free value, and no issuer; waits that are over have ended (R50, R81). -/
def State.advance (s : State) : State :=
  let u := if s.turn.clks = 0 then s else s.endYields
  let t : State := { u with now := s.now + s.turn.clks, fresh := s.fresh + 1, agenda := s.agenda.tail, cur := .none }
  ((t.groups.map fun p => p.1).foldl (State.endWaits · s.now) t).countReady

/-- A mover acts; an encoded instruction is no step of its own. -/
def State.act (s : State) : Mover → Host.Outcome State Fault Refusal
  | .idle => .next s
  | .event i => if isStep i then Sys2Proof.Machine.exec i s else .next s
  | .split gid k => s.splitTurn gid k
  | .seq q => s.seqTurn q

/-! A machine in which one given instruction runs next. -/

/-- The virtual and physical address at which the instruction stands. -/
def probePc : Nat := 0x40000

/-- Page tables that map the low 1 GiB one to one, and the instruction's two words. -/
def probeMem (m : Mem) (w : Nat) : Mem :=
  let m := m.write 0x10000 8 0x20001
  let m := m.write 0x20000 8 0x30001
  let m := m.write 0x30000 8 0x1F
  m.write probePc 8 w

/-- The kernel of the probe. -/
def probeKernel : Kernel :=
  { entry := BitVec.ofNat 64 probePc, kind := 0, count := 120, budget := 120, lanes := 96, bars := 1, qbars := 0, gbars := 0, pbars := 0,
    grid := 1, scratch := 0, ports := [none, none, none, none], coalesce := 0, queue := 0, record := 0, timeout := 0, succ := [] }

/-- The group that issues it, ready the longest: every register at its value at a group's start (R39). -/
def probeGroup (lid bid : Nat) : Group :=
  { core := 0, part := 0, slot := 0, vf := 0, launch := lid, block := some bid, count := 120, budget := 120,
    vregs := List.replicate 120 (.u 0), sregs := List.replicate 125 0, window := 0,
    splits := [(0, { pc := BitVec.ofNat 32 probePc, mask := fullMask })] }

/-- The sequencer program that issues it. -/
def probeProg (gid lid : Nat) : Prog :=
  { serial := 0, gid := gid, launch := lid, task := none, vf := 0, core := 0, window := 0, pc := BitVec.ofNat 32 probePc,
    sregs := List.replicate 64 0 }

/-- A word of the sequencer family (R183). -/
def isEngineWord (w : Nat) : Bool := !isLset (w % 2 ^ 32) && majorOf (w % 2 ^ 32) == 0x3E

/-- The machine with the instruction of bits `w` placed where the next turn fetches: in a launch with one group of one split, or, for
the sequencer family, in a program that this group has forked. -/
def State.probe (s : State) (w : Nat) : State :=
  let gid := s.nextId
  let lid := gid + 1
  let bid := gid + 2
  let seq := isEngineWord w
  let q := s.quad 0
  { s with
    nextId := gid + 3, agenda := [⟨1, if seq then .seq 0 else .split gid 0⟩], cur := .none,
    mem := probeMem s.mem w,
    vfs := tset 0 { s.vf 0 with coreSet := [0], ptRoot := 0x10000, quarters := tset 0 [0, 1, 2, 3] (s.vf 0).quarters } s.vfs,
    pkgs := tset 0 { s.pkg 0 with badQuads := [] } s.pkgs,
    issued := tdel (partKey 0 0) s.issued, pipe := tdel (partKey 0 0) s.pipe,
    cores := tset 0 {} s.cores,
    launches := tset lid { vf := 0, queue := 0, graph := false, kernel := probeKernel, payload := [], prio := 0, done := 0, podl := 0,
                           next := 1, sums := ⟨0, 0, 1, 0, 0⟩ } s.launches,
    blocks := tset bid ⟨lid, none, 0, 0, [(0, 0, 0)], [gid], false, [0]⟩ s.blocks,
    groups := tset gid (probeGroup lid bid) s.groups,
    quads := if seq then tset 0 { q with running := some (probeProg gid lid) } s.quads else s.quads }

end Sys2Proof.Machine
end

