-- ==== Sys2Proof/Machine/Step.lean ====
section
/-! DEFINITION. One step of the machine: the next turn's clk pass and its mover acts. -/

namespace Sys2Proof.Machine

/-- One step. -/
def step (s : State) : Host.Outcome State Fault Refusal := s.advance.act s.turn.mover

/-- The machine in which `step` fetches and runs exactly the instruction of bits `w`, whose bits above `nbits` are zero. -/
def State.withFetchWord (s : State) (nbits w : Nat) : State := s.probe (w % 2 ^ nbits)

end Sys2Proof.Machine
end

