-- ==== Sys2Proof/Safety.lean ====
section
/-! DEFINITION. The terms in which claims speak of a run: the invariant of the machine, when an instruction is ready, and what a
step leaves as it was. -/

namespace Sys2Proof.Machine

/-- What every state of a run satisfies: each memory is in its one canonical form. -/
def State.Inv (s : State) : Prop := Memory.wf s = true

/-- Split `k` of group `gid` issues an instruction (R98), not one that it has issued before and that has waited (R78). -/
structure Issues (s : State) (gid k : Nat) (g : Group) (sp : Split) : Prop where
  cur : s.cur = .group gid k
  group : s.group? gid = some g
  split : tget k g.splits = some sp
  unheld : sp.held = none

/-- A forwarding port holds a value that may be read: declared, arrived and not poisoned (R60, R62). -/
def State.portReady (s : State) (g : Group) (p : Nat) : Bool :=
  match s.portVal g p with
  | some (.arrived _) | some (.defaulted _) => true
  | _ => false

/-- The operands of an instruction can be used: the encoding's limits hold, the vector registers exist (R69), no register that it
names or implies has a write pending for split `k` (R78), and every port read is ready. -/
def State.operable (s : State) (g : Group) (k : Nat) (i : Instr) : Bool :=
  i.wf && (vFields i).all (fun n => decide (n < g.count)) && !(Machine.uses s g k i).any (g.pending k).contains
    && (vPorts i).all (s.portReady g)

/-- Split `k` of group `gid` issues `i`, whose operands can be used; it is not stepped, and no STEP is due in the group (R241). -/
structure Ready (s : State) (gid k : Nat) (g : Group) (sp : Split) (i : Instr) : Prop where
  issues : Issues s gid k g sp
  operable : s.operable g k i = true
  free : g.stepped k = false
  quiet : ∀ p ∈ g.splits, p.2.due = none

/-- The group after split `k` has issued and completed an instruction in clk `now` and stands at `pc`: its next one can issue in the clk that
follows (R50). -/
def Group.goesOn (g : Group) (k : Nat) (pc : Word) (now : Nat) : Group :=
  { g with splits := tmod k (fun sp =>
      { sp with pc := pc, wait := .none, held := none, stamp := 0, exempt := false, since := now + 1, due := none }) g.splits }

/-- The group after the wait of split `k` has ended in clk `now`, in which it can issue at `pc` (R50). -/
def Group.comesBack (g : Group) (k : Nat) (pc : Word) (now : Nat) : Group :=
  { g with splits := tmod k (fun sp => { sp with pc := pc, wait := .none, held := none, stamp := 0, since := now, due := none }) g.splits }

/-- `t` is `s` but for group `gid`, which is `g`: every register of every other group, every memory and every other record of
the machine is unchanged. -/
structure OnlyGroup (s t : State) (gid : Nat) (g : Group) : Prop where
  rest : t = { s with groups := t.groups }
  group : t.group? gid = some g
  others : ∀ j, j ≠ gid → t.group? j = s.group? j

/-- `i` completes: the machine is unchanged but for the group, which is `g` with split `k` at `pc`. -/
def Completes (i : Instr) (s : State) (gid k : Nat) (g : Group) (pc : Word) : Prop :=
  ∃ t, exec i s = .next t ∧ OnlyGroup s t gid (g.goesOn k pc s.now)

/-- The instruction after `i` (R86). -/
def Split.after (sp : Split) (i : Instr) : Word := sp.pc + BitVec.ofNat 32 i.len

/-- Register vd may become general without exceeding the budget, counting those that remote instructions in flight are to write (R75). -/
def Group.room (g : Group) (vd : Nat) : Bool := decide (generalCount (g.claimed.set vd (.g [])) ≤ g.budget)

/-- An L-set instruction completes with vd holding `r`: the active lanes of `r` are the values of `f`, the others are kept (R90). -/
def CompletesV (i : Instr) (s : State) (gid k : Nat) (g : Group) (sp : Split) (vd : Nat) (f : Nat → Word) : Prop :=
  ∃ r : VReg, (∀ n, n < 96 → r.lane n = if laneOn sp.mask n then f n else (g.v vd).lane n)
    ∧ Completes i s gid k { g with vregs := g.vregs.set vd r, cache := cacheAfter i (vDests i) } (sp.after i)

/-- Lane values of a vector source, as an instruction of the group reads it (R60, R69). -/
def State.srcLane (s : State) (g : Group) (x : VSrc) (n : Nat) : Word :=
  match x with
  | .reg r => (g.v r.toNat).lane n
  | .port p => (((s.portVal g p.toNat).map PortVal.reg).getD (.u 0)).lane n
  | .zero => 0
  | .lane => BitVec.ofNat 32 n
  | .lit w => w

/-- The shape tag of a vector source: 0 U, 1 A, 2 G (R60, R69, R72). -/
def State.srcTag (s : State) (g : Group) (x : VSrc) : Nat :=
  match x with
  | .reg r => (g.v r.toNat).tag
  | .port p => (((s.portVal g p.toNat).map PortVal.reg).getD (.u 0)).tag
  | .zero | .lit _ => 0
  | .lane => 1

/-- A scalar register as split `sp` of the group reads it: s125-s127 are its am0-am2 (R46, R71). -/
def Group.sreg (g : Group) (sp : Split) (n : Nat) : Word := if n < 125 then g.sregs.getD n 0 else maskWord sp.mask (n - 125)

/-- A scalar pair: the even register holds bits [31:0] (R71). -/
def Group.spair (g : Group) (sp : Split) (n : Nat) : DWord := pairOf (g.sreg sp (n + 1)) (g.sreg sp n)

/-- Operand B (R88). -/
def Group.opB (g : Group) (sp : Split) : SSrc → Word
  | .reg n => g.sreg sp n.toNat
  | .lit w => w

/-- Operand B of a `.64` form (R88). -/
def Group.opB64 (g : Group) (sp : Split) : SSrc → DWord
  | .reg n => g.spair sp n.toNat
  | .lit w => w.signExtend 64

/-- Both registers of a pair written by split `k`. -/
def Group.setPair (g : Group) (k n : Nat) (x : DWord) : Group := (g.setS k n (loWord x)).setS k (n + 1) (hiWord x)

/-- A trap that split `k`'s instruction raises before it has had any effect (R227). -/
def Traps (i : Instr) (s : State) (gid k : Nat) (sp : Split) (cause lane : Nat) (addr : DWord) (code : Word) : Prop :=
  exec i s = .next (s.raise gid { cause := cause, split := k, lane := lane, addr := addr, code := code, pc := sp.pc } sp.pc)

/-- The split's instruction has not issued, waits and is tried again (R50, R78): nothing but its wait has changed. -/
def WaitsAgain (i : Instr) (s : State) (gid k : Nat) (g : Group) (sp : Split) (why : Again) : Prop :=
  ∃ t, exec i s = .next t
    ∧ OnlyGroup s t gid { g with splits := tmod k (fun x => { x with wait := .again why, cont := sp.after i, held := none, stamp := 0 }) g.splits }

/-- The split's instruction has issued and waits (R78): it keeps the registers and the mask that it has read and its place in the order of issue (R228);
the rest of the machine is `u`. -/
def HoldsIn (u : State) (i : Instr) (s : State) (gid k : Nat) (g : Group) (sp : Split) (why : Again) : Prop :=
  ∃ t, exec i s = .next { t with nextId := s.nextId + 1 }
    ∧ OnlyGroup u t gid { g with splits := tmod k (fun x => { x with
        wait := .again why
        cont := sp.after i
        exempt := false
        stamp := s.nextId
        held := some ⟨s.nextId, i, g.sregs, g.vregs, sp.mask⟩ }) g.splits }

/-- The split's instruction has issued and waits, with the rest of the machine unchanged. -/
def Holds (i : Instr) (s : State) (gid k : Nat) (g : Group) (sp : Split) (why : Again) : Prop := HoldsIn s i s gid k g sp why

/-- The split's instruction has issued and waits with nothing kept but its place in the order of issue (R50, R228); the group is otherwise `h`. -/
def Parks (i : Instr) (s : State) (gid k : Nat) (h : Group) (w : Wait) (cont : Word) : Prop :=
  ∃ t, exec i s = .next { t with nextId := s.nextId + 1 }
    ∧ OnlyGroup s t gid { h with splits := tmod k (fun x => { x with wait := w, cont := cont, exempt := false, held := none, stamp := s.nextId }) h.splits }

/-- A sequencer's program issues an instruction whose registers no engine operation is to write (R98, R176). -/
structure SeqReady (s : State) (q : Nat) (p : Prog) (i : Instr) : Prop where
  cur : s.cur = .seq q
  prog : (s.quad q).running = some p
  check : seqCheck s { who := .seq q, g := p.asGroup, pc := p.pc, len := i.len, mask := fullMask } p i = none

/-- Every general register that an instruction would leave: the registers `regs` may all become general without exceeding the budget
(R75). -/
def Group.roomFor (g : Group) (regs : List Nat) : Bool :=
  decide (generalCount (regs.foldl (fun l r => l.set r (.g [])) g.claimed) ≤ g.budget)

/-- The addresses of an LM instruction, by active lane in ascending order: the base pair plus the lane's signed offset (R129). -/
def State.lmAt (s : State) (g : Group) (sp : Split) (o : LmOp) : List (Nat × DWord) :=
  (lanes.filter (laneOn sp.mask)).map fun n => (n, g.spair sp (2 * o.pair.toNat) + (s.srcLane g o.off n).signExtend 64)

/-- A core-scope release of another core on the line of `key` has no write that happens before it in flight, for which an acquire with RSP would
wait: the remote operations of the tenant's VF on that core's package are applied (R165, log entry 79). -/
def State.promoted (s : State) (g : Group) (rsp : Bool) (key : Nat) : Prop :=
  rsp = true → ∀ core, tget (key / 128) s.lineCore = some core → core ≠ g.core → s.allApplied (s.vfOn g.vf (pkgOf core)) = true

/-- No copy in flight is to write one of the `n` bytes at `key` (R140), and none lies in a ring's slot whose turn is an engine's (R141): such a byte is
undefined. -/
def State.unclaimed (s : State) (scratch : Bool) (key n : Nat) : Prop := s.claimed scratch key n = []

/-- The home slice recorded a core-scope release of the group on the lines of `keys`, if `released`, and nothing otherwise (R165, log entry 79). -/
def Recorded (s t : State) (g : Group) (released : Prop) (keys : List Nat) : Prop :=
  (¬ released → t.lineCore = s.lineCore) ∧ (released → ∀ a, tget a t.lineCore = if a ∈ keys.map (· / 128) then some g.core else tget a s.lineCore)

/-- The address of a UM instruction: the base pair plus the signed offset in elements (R326). -/
def Group.umAt (g : Group) (sp : Split) (o : UmOp) (size : Nat) : DWord :=
  g.spair sp (2 * o.pair.toNat) + o.off.signExtend 64 * BitVec.ofNat 64 size

/-- Accesses at `addrs` pass the checks of R127 and are made at `xs`, all in this package; they fire no watchpoint (R240), meet no uncorrectable error
(R246) and no slot that an engine is still to fill (R141). -/
structure Reaches (s : State) (g : Group) (scratch : Bool) (size : Nat) (need : Need) (rd wr : Bool) (addrs : List (Nat × DWord))
    (xs : List LaneAt) : Prop where
  checks : laneChecks s g scratch size need addrs = .ok xs
  here : ∀ x ∈ xs, x.remote = false
  quiet : g.trap.isSome = true ∨ ∀ x ∈ xs, watchHit g.dbg rd wr size x.a = none
  sound : scratch = true ∨ rd = false ∨ ∀ x ∈ xs, s.badAt x.key size = false
  turn : scratch = false ∨ rd = false ∨ ∀ x ∈ xs, s.emptyBytes x.key size = []

/-- The memory an access reaches: the scratchpads or global memory. -/
def State.space (s : State) (scratch : Bool) : Mem := if scratch then s.scratch else s.mem

/-- No byte of the `n` at `a` is one of the `m` at `b`. -/
def apart (a n b m : Nat) : Prop := a + n ≤ b ∨ b + m ≤ a

/-- `t` is `s` after group `gid`'s instruction, which changed nothing but the TLB of a core (R126) and the group, now `g`. -/
structure Loaded (s t : State) (gid : Nat) (g : Group) : Prop where
  rest : t = { s with groups := t.groups, cores := t.cores }
  group : t.group? gid = some g
  others : ∀ j, j ≠ gid → t.group? j = s.group? j
  cores : ∀ c, t.coreAt c = { s.coreAt c with tlb := (t.coreAt c).tlb }

/-- `t` is `s` after group `gid`'s instruction, which left the group `g` and stored to the accesses `xs` at most: every
byte outside them is as before. A store clears reservations on its line (R144), records the words it changes (R100) and a release of
its core (R165), and marks the positions of copies and of MWLDs in flight that it meets (R140, R317); nothing else of another group,
of a program or of a copy has changed. -/
structure Stored (s t : State) (gid : Nat) (g : Group) (scratch : Bool) (size : Nat) (xs : List LaneAt) : Prop where
  rest : t = { s with
    mem := t.mem
    written := t.written
    lineCore := t.lineCore
    scratch := t.scratch
    bad := t.bad
    fresh := t.fresh
    groups := t.groups
    cores := t.cores
    copies := t.copies
    quads := t.quads
    vfs := t.vfs }
  bytes : ∀ a, (∀ x ∈ xs, apart a 1 x.key size) → (t.space scratch).get a = (s.space scratch).get a
  space : t.space (!scratch) = s.space (!scratch)
  errors : ∀ b ∈ t.bad, b ∈ s.bad
  group : ∃ r, t.group? gid = some { g with reserv := r } ∧ (r = g.reserv ∨ r = none)
  others : ∀ j, j ≠ gid → ∃ f : Group → Option Nat, t.group? j = (s.group? j).map (fun h => { h with reserv := f h })
    ∧ ∀ h, f h = h.reserv ∨ f h = none
  copies : ∀ j, ∃ f : Copy → List Nat, tget j t.copies = (tget j s.copies).map fun c => { c with dirty := f c }
  quads : ∀ q, ∃ f : Prog → Prog, (∀ p, ∃ ops loads, f p = { p with ops := ops, loads := loads })
    ∧ t.quad q = { s.quad q with running := (s.quad q).running.map f, saved := (s.quad q).saved.map f }
  cores : ∀ c, t.coreAt c = { s.coreAt c with
    tlb := (t.coreAt c).tlb
    atomloc := (t.coreAt c).atomloc
    atomhome := (t.coreAt c).atomhome }

/-- No atomic was counted (R230): the counts and the free values are as before. -/
def Uncounted (s t : State) : Prop :=
  t.fresh = s.fresh ∧ ∀ c, (t.coreAt c).atomloc = (s.coreAt c).atomloc ∧ (t.coreAt c).atomhome = (s.coreAt c).atomhome

/-- `n` atomics of core `c` were counted, each at one of two places (R230). -/
def Counted (s t : State) (c n : Nat) : Prop :=
  (t.coreAt c).atomloc + (t.coreAt c).atomhome = (s.coreAt c).atomloc + (s.coreAt c).atomhome + BitVec.ofNat 32 n
    ∧ ∀ d, d ≠ c → (t.coreAt d).atomloc = (s.coreAt d).atomloc ∧ (t.coreAt d).atomhome = (s.coreAt d).atomhome

/-- A release need not wait for remote operations (R159, R252, log entry 78). -/
def State.mayRelease (s : State) (gid : Nat) (g : Group) (ord : Ord4) (sc : Scope) : Prop :=
  ord.isRel = true → s.allowed g.vf sc = .pod → s.podReady g.vf gid = true

/-- An acquire need not wait for the read of a remote atomic (R154, R156, log entry 78). -/
def State.mayAcquire (s : State) (g : Group) (ord : Ord4) : Prop :=
  ord.isAcq = true → ∀ r ∈ s.rops, r.2.vf = g.vf → r.2.lane.kind = 2 → r.2.applied = true

/-- An ordered instruction need not wait for remote operations (R154, R156, R159, R252). -/
def State.mayOrder (s : State) (gid : Nat) (g : Group) (ord : Ord4) (sc : Scope) : Prop := s.mayRelease gid g ord sc ∧ s.mayAcquire g ord

/-- An access to pages homed on `homes` passes no remote operation that it may not pass (R160, R162, R163, log entry 78). -/
def State.mayPass (s : State) (g : Group) (ord : Ord4) (sc : Scope) (atomic write : Bool) (homes : List Nat) : Prop :=
  s.behind g.vf ((ord != .none || atomic) && s.allowed g.vf sc == .pod) write homes = false

/-- A demotion to a narrower scope was counted once for VF `v`, if `demoted`; every other register of every VF is as before (R14, R166). -/
def Demoted (s t : State) (v : Nat) (demoted : Prop) : Prop :=
  (∀ w, w ≠ v → t.vf w = s.vf w) ∧ (demoted → t.vf v = { s.vf v with demote := (s.vf v).demote + 1 }) ∧ (¬ demoted → t.vf v = s.vf v)

/-- Group `gid` was killed for a cause (R235): it has retired, and its launch's fault record holds the cause, the core and the PC where it held none.
A group of a task is not meant here: R243 may queue the task again. -/
def Killed (s t : State) (gid : Nat) (g : Group) (cause : Nat) (pc : Word) : Prop :=
  (∃ h, t.group? gid = some h ∧ h.life = .retired ∧ h.splits = [])
    ∧ ∀ l, tget g.launch s.launches = some l → l.fault = none →
        ∃ m, tget g.launch t.launches = some m ∧ m.killed = true ∧ m.fault = some ⟨cause, coordOf g.core, pc, true⟩

/-- The context in which a trap handler starts at `entry` (R229): every lane active in split 0, every register zero and uniform, GMODE 0. -/
def Group.fresh (g : Group) (entry : DWord) (now : Nat) (t : TrapMode) : Group :=
  { g with
    splits := [(0, { pc := loWord entry, mask := BitVec.allOnes 96, since := now })]
    defer := []
    exited := 0
    window := hiWord entry
    sregs := List.replicate 125 0
    vregs := List.replicate g.count (.u 0)
    gmode := 0
    reserv := none
    cache := []
    pend := none
    busy := []
    rinstr := []
    trap := some t }

/-- The target of a transfer by `words` words from split `sp` (R22, R83). -/
def Group.target (g : Group) (sp : Split) (words : Int) : DWord := pairOf g.window sp.pc + BitVec.ofInt 64 (4 * words)

/-- A split's instruction leaves the group `h` and its own place to what `h` says: nothing else is changed. -/
def Leaves (i : Instr) (s : State) (gid : Nat) (h : Group) : Prop := ∃ t, exec i s = .next t ∧ OnlyGroup s t gid h

/-- A split is not at BAR.grp or REGRP. -/
def Split.free (sp : Split) : Prop := sp.wait ≠ .barGrp ∧ ∀ a n, sp.wait ≠ .regrp a n

/-- `t` is `s` but for the running program of quad `q`, which is `p`. -/
structure OnlyProg (s t : State) (q : Nat) (p : Prog) : Prop where
  rest : t = { s with quads := t.quads }
  quad : t.quad q = { s.quad q with running := some p }
  others : ∀ j, j ≠ q → t.quad j = s.quad j

/-- The program after it has issued the engine operation `o` and gone on (R176). -/
def Prog.issued (p : Prog) (o : EngOp) (i : Instr) : Prog :=
  { p with ops := p.ops ++ [(p.nextOp, o)], nextOp := p.nextOp + 1, pc := p.pc + BitVec.ofNat 32 i.len }

/-- A register as a sequencer reads it (R175). -/
def Prog.sreg (p : Prog) (n : Nat) : Word := p.sregs.getD n 0

/-- The program after an instruction that leaves its registers `regs`. -/
def Prog.goesOn (p : Prog) (regs : List Word) (pc : Word) : Prog := { p with sregs := regs, pc := pc }

end Sys2Proof.Machine
end

