-- ==== Sys2Proof/Certificates/Slice0/Obligations.lean ====
section
/-! DEFINITION. The statements for the provers. -/

open Sys2Proof Sys2Proof.Machine

/-! ### Scalar instructions (R323-R353) -/

/-- R323, R338, R339, R342, R343, R344, R348, R351, R352, R353, R356, R358: the three-operand scalar instructions complete, and all that changes is sd (the pair sd, sd +
1 with `.64`) and the split's place; the words that their rules write out decode to them. -/
def Obligations.ScalarArithmeticResults : Prop :=
  ∀ (s : State) (gid k : Nat) (g : Group) (sp : Split) (o : SOp),
    let a := g.sreg sp o.sa.toNat
    let b := g.opB sp o.b
    let a2 := g.spair sp o.sa.toNat
    let b2 := g.opB64 sp o.b
    let gives (i : Instr) (r : Word) (r2 : DWord) : Prop := Ready s gid k g sp i →
      Completes i s gid k (if o.w64 then g.setPair k o.sd.toNat r2 else g.setS k o.sd.toNat r) (sp.after i)
    gives (.sadd o) (a + b) (a2 + b2)
      ∧ gives (.ssub o) (a - b) (a2 - b2)
      ∧ gives (.smul o) (a * b) (a2 * b2)
      ∧ gives (.smulh false o) (BitVec.ofInt 32 (a.toInt * b.toInt / 2 ^ 32)) (BitVec.ofInt 64 (a2.toInt * b2.toInt / 2 ^ 64))
      ∧ gives (.smulh true o) (BitVec.ofNat 32 (a.toNat * b.toNat / 2 ^ 32)) (BitVec.ofNat 64 (a2.toNat * b2.toNat / 2 ^ 64))
      ∧ gives (.sand o) (a &&& b) (a2 &&& b2)
      ∧ gives (.sor o) (a ||| b) (a2 ||| b2)
      ∧ gives (.sxor o) (a ^^^ b) (a2 ^^^ b2)
      ∧ gives (.sshl o) (a <<< (b.toNat % 32)) (a2 <<< (b2.toNat % 64))
      ∧ gives (.sshr o) (a >>> (b.toNat % 32)) (a2 >>> (b2.toNat % 64))
      ∧ gives (.ssar o) (a.sshiftRight (b.toNat % 32)) (a2.sshiftRight (b2.toNat % 64))
      ∧ gives (.smin false o) (if a.toInt ≤ b.toInt then a else b) (if a2.toInt ≤ b2.toInt then a2 else b2)
      ∧ gives (.smin true o) (if a.toNat ≤ b.toNat then a else b) (if a2.toNat ≤ b2.toNat then a2 else b2)
      ∧ gives (.smax false o) (if a.toInt ≤ b.toInt then b else a) (if a2.toInt ≤ b2.toInt then b2 else a2)
      ∧ gives (.smax true o) (if a.toNat ≤ b.toNat then b else a) (if a2.toNat ≤ b2.toNat then b2 else a2)
      ∧ gives (.ssel o) (if g.sreg sp o.sd.toNat = 0 then b else a) (if g.spair sp o.sd.toNat = 0 then b2 else a2)
      ∧ (decodeWords 0x98418307 0).toOption = some (.smax true { w64 := false, sd := 6, sa := 6, b := .reg 7 })
      ∧ (decodeWords 0x97018300 0x64).toOption = some (.smin false { w64 := false, sd := 6, sa := 6, b := .lit 100 })
      ∧ (decodeWords 0x97210200 0xFFFFFFFF).toOption = some (.smin false { w64 := true, sd := 4, sa := 4, b := .lit (-1) })
      ∧ (decodeWords 0x870F3C80 0x180).toOption = some (.smul { w64 := false, sd := 60, sa := 121, b := .lit 384 })
      ∧ (decodeWords 0x87210200 0xA).toOption = some (.smul { w64 := true, sd := 4, sa := 4, b := .lit 10 })
      ∧ (decodeWords 0x88418103 0).toOption = some (.smulh true { w64 := false, sd := 6, sa := 2, b := .reg 3 })
      ∧ (decodeWords 0x8C0AD429 0).toOption = some (.sor { w64 := false, sd := 43, sa := 40, b := .reg 41 })
      ∧ (decodeWords 0x95024480 0x1F).toOption = some (.ssar { w64 := false, sd := 9, sa := 9, b := .lit 31 })
      ∧ (decodeWords 0x91070E00 0x1E).toOption = some (.sshl { w64 := false, sd := 28, sa := 28, b := .lit 30 })
      ∧ (decodeWords 0x930C9900 8).toOption = some (.sshr { w64 := false, sd := 50, sa := 50, b := .lit 8 })
      ∧ (decodeWords 0x840B56AE 0).toOption = some (.ssub { w64 := false, sd := 45, sa := 45, b := .reg 46 })
      ∧ (decodeWords 0x84210208 0).toOption = some (.ssub { w64 := true, sd := 4, sa := 4, b := .reg 8 })
      ∧ (decodeWords 0x8F0AD400 0xFF).toOption = some (.sxor { w64 := false, sd := 43, sa := 40, b := .lit 0xFF })

/-- R328-R330, R340, R341, R346: compares, moves, counts and bit fields complete, and all that changes is sd and the split's place. The pair form of the counts writes
the pair (log entry 9). -/
def Obligations.ScalarMoveAndBitResults : Prop :=
  ∀ (s : State) (gid k : Nat) (g : Group) (sp : Split) (sd sa : Reg) (b : SSrc),
    let x := g.sreg sp sa.toNat
    let y := g.opB sp b
    let writes (i : Instr) (r : Word) : Prop := Completes i s gid k (g.setS k sd.toNat r) (sp.after i)
    (∀ c, Ready s gid k g sp (.scmp c sd sa b) → writes (.scmp c sd sa b)
        (match c with
          | .eq => if x = y then 1 else 0
          | .ne => if x = y then 0 else 1
          | .lt => if x.toInt < y.toInt then 1 else 0
          | .le => if x.toInt ≤ y.toInt then 1 else 0
          | .gt => if y.toInt < x.toInt then 1 else 0
          | .ge => if y.toInt ≤ x.toInt then 1 else 0
          | .ltN => if x.toNat < y.toNat then 1 else 0
          | .geN => if y.toNat ≤ x.toNat then 1 else 0))
      ∧ (Ready s gid k g sp (.smov false sd b) → writes (.smov false sd b) y)
      ∧ (Ready s gid k g sp (.smov true sd b) →
          Completes (.smov true sd b) s gid k (g.setPair k sd.toNat (g.opB64 sp b)) (sp.after (.smov true sd b)))
      ∧ (∀ imm : BitVec 18, Ready s gid k g sp (.smovi sd imm) → writes (.smovi sd imm) (BitVec.ofInt 32 imm.toInt))
      ∧ (Ready s gid k g sp (.sclz false sd sa) → ∃ n, n ≤ 32 ∧ x.toNat < 2 ^ (32 - n) ∧ (n < 32 → 2 ^ (31 - n) ≤ x.toNat)
          ∧ writes (.sclz false sd sa) (BitVec.ofNat 32 n))
      ∧ (Ready s gid k g sp (.sclz true sd sa) → ∃ n, n ≤ 64 ∧ (g.spair sp sa.toNat).toNat < 2 ^ (64 - n)
          ∧ (n < 64 → 2 ^ (63 - n) ≤ (g.spair sp sa.toNat).toNat)
          ∧ Completes (.sclz true sd sa) s gid k (g.setPair k sd.toNat (BitVec.ofNat 64 n)) (sp.after (.sclz true sd sa)))
      ∧ (Ready s gid k g sp (.spopc false sd sa) →
          writes (.spopc false sd sa) (BitVec.ofNat 32 ((List.range 32).filter x.getLsbD).length))
      ∧ (Ready s gid k g sp (.spopc true sd sa) → Completes (.spopc true sd sa) s gid k
          (g.setPair k sd.toNat (BitVec.ofNat 64 ((List.range 64).filter (g.spair sp sa.toNat).getLsbD).length)) (sp.after (.spopc true sd sa)))
      ∧ (∀ sx, Ready s gid k g sp (.sbfx sx sd sa b) →
          let p := y.toNat % 32
          let w := y.toNat / 256 % 32 + 1
          ∃ r : Word, (∀ j, j < 32 → r.getLsbD j = if j < w then x.getLsbD (p + j) else sx && x.getLsbD (p + w - 1))
            ∧ writes (.sbfx sx sd sa b) r)

/-- R331-R334: the scalar float instructions, their words decoding to them, complete with the exact result rounded once to nearest even, operands and result flushed
under GMODE.FTZ (R106), a NaN result canonical (R107); all that changes is sd and the split's place. -/
def Obligations.ScalarFloatResults : Prop :=
  ∀ (s : State) (gid k : Nat) (g : Group) (sp : Split) (sd sa : Reg) (b : SSrc),
    let z (w : Word) : Word := flush (g.gmode.getLsbD 0) w
    let x := ofF32 (z (g.sreg sp sa.toNat))
    let y := ofF32 (z (g.opB sp b))
    let c := ofF32 (z (g.sreg sp sd.toNat))
    let gives (i : Instr) (v : ExactVal) : Prop := Ready s gid k g sp i →
      Completes i s gid k (g.setS k sd.toNat (if v.isNan then canonNan else z (toF32 .rn v))) (sp.after i)
    gives (.sfadd sd sa b) (x.add false y)
      ∧ gives (.sfmul sd sa b) (x.mul y)
      ∧ gives (.sfma .pp sd sa b) ((x.mul y).add false c)
      ∧ gives (.sfma .np sd sa b) ((x.mul y).neg.add false c)
      ∧ gives (.sfma .nc sd sa b) ((x.mul y).add false c.neg)
      ∧ gives (.sfma .npc sd sa b) ((x.mul y).neg.add false c.neg)
      ∧ (decodeWords 0xA9050A00 0x3FC00000).toOption = some (.sfadd 20 20 (.lit 0x3FC00000))
      ∧ (decodeWords 0xAC42048A 0).toOption = some (.sfma .nc 8 9 (.reg 10))
      ∧ (decodeWords 0xAA054A16 0).toOption = some (.sfmul 21 20 (.reg 22))

/-- R46, R47, R71: what a write of a scalar register does. s0 to s124 hold the value for every split; a write of am0 to am2 changes only the writing split's own lanes of
that word, lanes that another split, a deferral entry or EXIT holds staying inactive; and nothing else of the group changes. -/
def Obligations.ScalarRegisterWrite : Prop :=
  ∀ (g : Group) (k n : Nat) (x : Word) (sp : Split), tget k g.splits = some sp →
    (n < 125 → g.setS k n x = { g with sregs := g.sregs.set n x })
      ∧ (125 ≤ n → n < 128 → ∃ m : Mask,
          g.setS k n x = { g with splits := (g.setS k n x).splits }
            ∧ tget k (g.setS k n x).splits = some { sp with mask := m }
            ∧ (∀ j, j ≠ k → tget j (g.setS k n x).splits = tget j g.splits)
            ∧ ∀ l, l < 96 → m.getLsbD l =
                if l / 32 = n - 125 then x.getLsbD (l % 32) && !(g.held k).getLsbD l else sp.mask.getLsbD l)

/-! ### L-set instructions (R363-R413) -/

/-- R363-R366, R372, R390-R393, R395, R399, R402, R406, R407, R410: the element-by-element integer instructions, the words of the rules decoding to them, complete; each
element of each active lane of vd is the operation on the elements of the sources, none carrying into another; the other lanes, the other registers and everything
else are unchanged. -/
def Obligations.VectorElementResults : Prop :=
  ∀ (s : State) (gid k : Nat) (g : Group) (sp : Split) (t : ElemTy) (o : VBin) (u : VUn),
    let w := t.width
    let el (j : Nat) (x : Word) : Nat := x.toNat / 2 ^ (w * j) % 2 ^ w
    let gives (i : Instr) (h : Nat → Nat → Nat → Nat) : Prop := Ready s gid k g sp i → g.room o.vd.toNat = true →
      ∃ f, CompletesV i s gid k g sp o.vd.toNat f ∧ ∀ n, n < 96 → ∀ j, j < 32 / w →
        el j (f n) = h (el j (s.srcLane g o.a n)) (el j (s.srcLane g o.b n)) (el j ((g.v o.vd.toNat).lane n))
    let gives1 (i : Instr) (h : Nat → Nat → Prop) : Prop := Ready s gid k g sp i → g.room u.vd.toNat = true →
      ∃ f, CompletesV i s gid k g sp u.vd.toNat f ∧ ∀ n, n < 96 → ∀ j, j < 32 / w → h (el j (s.srcLane g u.a n)) (el j (f n))
    let int (nat : Bool) (x : Nat) : Int := if nat || t == .n32 || decide (x < 2 ^ (w - 1)) then x else (x : Int) - 2 ^ w
    gives (.vadd t o) (fun x y _ => (x + y) % 2 ^ w)
      ∧ gives (.vsub t o) (fun x y _ => (x + 2 ^ w - y) % 2 ^ w)
      ∧ gives (.vmul t o) (fun x y _ => x * y % 2 ^ w)
      ∧ gives (.vmad t o) (fun x y z => (x * y + z) % 2 ^ w)
      ∧ (∀ nat, gives (.vmin t nat o) (fun x y _ => if int nat x ≤ int nat y then x else y))
      ∧ (∀ nat, gives (.vmax t nat o) (fun x y _ => if int nat x ≤ int nat y then y else x))
      ∧ gives (.vshl t o) (fun x y _ => x * 2 ^ (y % w) % 2 ^ w)
      ∧ gives (.vshr t o) (fun x y _ => x / 2 ^ (y % w))
      ∧ gives (.vsar t o) (fun x y _ => (int false x / 2 ^ (y % w) % 2 ^ w).toNat)
      ∧ gives1 (.vabs t u) (fun x r => r = (int false x).natAbs % 2 ^ w)
      ∧ gives1 (.vclz t u) (fun x r => r ≤ w ∧ x < 2 ^ (w - r) ∧ (r < w → 2 ^ (w - 1 - r) ≤ x))
      ∧ gives1 (.vpopc t u) (fun x r => r = ((List.range w).filter x.testBit).length)
      ∧ (decodeWords 0x1180C17C 0).toOption = some (.vabs .i8x4 { keepA := false, keepB := false, vd := 3, a := .reg 2 })
      ∧ (decodeWords 0x1F8182FC 0).toOption = some (.vclz .i8x4 { keepA := false, keepB := false, vd := 6, a := .reg 5 })
      ∧ (decodeWords 0x0E80C082 0).toOption = some (.vmax .n32 false { keepA := false, keepB := false, vd := 3, a := .reg 1, b := .reg 2 })
      ∧ (decodeWords 0x0D80C082 0x10).toOption = some (.vmin .i8x4 true { keepA := false, keepB := false, vd := 3, a := .reg 1, b := .reg 2 })
      ∧ (decodeWords 0x0D80C082 0).toOption = some (.vmin .i8x4 false { keepA := false, keepB := false, vd := 3, a := .reg 1, b := .reg 2 })
      ∧ (decodeWords 0x210182FC 0).toOption = some (.vpopc .i16x2 { keepA := false, keepB := false, vd := 6, a := .reg 5 })
      ∧ (decodeWords 0x1D00C17F 4).toOption = some (.vsar .i16x2 { keepA := false, keepB := false, vd := 3, a := .reg 2, b := .lit 4 })
      ∧ (decodeWords 0x1A023EFF 1).toOption = some (.vshr .i32 { keepA := false, keepB := false, vd := 8, a := .lane, b := .lit 1 })

/-- R366, R368-R370, R394, R396, R397, R404, R414: the word-by-word instructions complete with the value of each active lane; the other lanes, the other registers and
everything else are unchanged. -/
def Obligations.VectorWordResults : Prop :=
  ∀ (s : State) (gid k : Nat) (g : Group) (sp : Split) (o : VBin) (u : VUn),
    let a (n : Nat) : Word := s.srcLane g o.a n
    let b (n : Nat) : Word := s.srcLane g o.b n
    let d (n : Nat) : Word := (g.v o.vd.toNat).lane n
    let gives (i : Instr) (f : Nat → Word) : Prop := Ready s gid k g sp i → g.room o.vd.toNat = true →
      CompletesV i s gid k g sp o.vd.toNat f
    gives (.vand o) (fun n => a n &&& b n)
      ∧ gives (.vor o) (fun n => a n ||| b n)
      ∧ gives (.vxor o) (fun n => a n ^^^ b n)
      ∧ gives (.vmulh false o) (fun n => BitVec.ofInt 32 ((a n).toInt * (b n).toInt / 2 ^ 32))
      ∧ gives (.vmulh true o) (fun n => BitVec.ofNat 32 ((a n).toNat * (b n).toNat / 2 ^ 32))
      ∧ (∀ m : Reg, gives (.vsel m o) (fun n => if (g.sreg sp (m.toNat + n / 32)).getLsbD (n % 32) then a n else b n))
      ∧ (∀ sx, Ready s gid k g sp (.vbfx sx o) → g.room o.vd.toNat = true → ∃ f, CompletesV (.vbfx sx o) s gid k g sp o.vd.toNat f
          ∧ ∀ n, n < 96 → let p := (b n).toNat % 32; let w := (b n).toNat / 256 % 32 + 1
            ∀ j, j < 32 → (f n).getLsbD j = if j < w then (a n).getLsbD (p + j) else sx && (a n).getLsbD (p + w - 1))
      ∧ (Ready s gid k g sp (.vbfi o) → g.room o.vd.toNat = true → ∃ f, CompletesV (.vbfi o) s gid k g sp o.vd.toNat f
          ∧ ∀ n, n < 96 → let p := (b n).toNat % 32; let w := (b n).toNat / 256 % 32 + 1
            ∀ j, j < 32 → (f n).getLsbD j = if p ≤ j ∧ j < p + w then (a n).getLsbD (j - p) else (d n).getLsbD j)
      ∧ (Ready s gid k g sp (.vmov u) → g.room u.vd.toNat = true → CompletesV (.vmov u) s gid k g sp u.vd.toNat (s.srcLane g u.a))
      ∧ (∀ ka kb vd sa, Ready s gid k g sp (.vbcast ka kb vd sa) → g.room vd.toNat = true →
          CompletesV (.vbcast ka kb vd sa) s gid k g sp vd.toNat (fun _ => g.sreg sp sa.toNat))
      ∧ (decodeWords 0x08818205 0).toOption = some (.vmulh true { keepA := false, keepB := false, vd := 6, a := .reg 4, b := .reg 5 })
      ∧ (decodeWords 0x08018205 0).toOption = some (.vmulh false { keepA := false, keepB := false, vd := 6, a := .reg 4, b := .reg 5 })

/-- R105-R108, R376, R378-R386, R107: The L-set float instructions complete; each active lane of vd is the exact result rounded once to nearest even, a NaN canonical,
operands and result flushed under GMODE.FTZ; VFMIN and VFMAX choose an operand; VFRCP, VFRSQ, VFEX2 and VFLG2 give the value of `special`, whose exact results are
those of the table of R108. Elsewhere R108 fixes a bound only and the bits are the model's free choice within it (log entries 8 and 65). Everything else is
unchanged. What FP32 minimum and maximum choose. A NaN operand gives way to the other, two give the canonical NaN, and −0 is below +0. -/
def Obligations.VectorFloatResults : Prop :=
  (∀ (s : State) (gid k : Nat) (g : Group) (sp : Split) (o : VBin) (u : VUn),
        let z (w : Word) : Word := flush (g.gmode.getLsbD 0) w
        let a (n : Nat) : Word := z (s.srcLane g o.a n)
        let b (n : Nat) : Word := z (s.srcLane g o.b n)
        let d (n : Nat) : Word := z ((g.v o.vd.toNat).lane n)
        let rounded (v : ExactVal) : Word := if v.isNan then canonNan else z (toF32 .rn v)
        let gives (i : Instr) (f : Nat → Word) : Prop := Ready s gid k g sp i → g.room o.vd.toNat = true →
          CompletesV i s gid k g sp o.vd.toNat f
        let gives1 (i : Instr) (fn : Config.SpecialFn) : Prop := Ready s gid k g sp i → g.room u.vd.toNat = true →
          CompletesV i s gid k g sp u.vd.toNat (fun n => z (special fn (z (s.srcLane g u.a n))))
        gives (.vfadd o) (fun n => rounded ((ofF32 (a n)).add false (ofF32 (b n))))
          ∧ gives (.vfsub o) (fun n => rounded ((ofF32 (a n)).add false (ofF32 (b n)).neg))
          ∧ gives (.vfmul o) (fun n => rounded ((ofF32 (a n)).mul (ofF32 (b n))))
          ∧ gives (.vfma .pp o) (fun n => rounded (((ofF32 (a n)).mul (ofF32 (b n))).add false (ofF32 (d n))))
          ∧ gives (.vfma .np o) (fun n => rounded (((ofF32 (a n)).mul (ofF32 (b n))).neg.add false (ofF32 (d n))))
          ∧ gives (.vfma .nc o) (fun n => rounded (((ofF32 (a n)).mul (ofF32 (b n))).add false (ofF32 (d n)).neg))
          ∧ gives (.vfma .npc o) (fun n => rounded (((ofF32 (a n)).mul (ofF32 (b n))).neg.add false (ofF32 (d n)).neg))
          ∧ gives (.vfmin o) (fun n => z (fMin (a n) (b n)))
          ∧ gives (.vfmax o) (fun n => z (fMax (a n) (b n)))
          ∧ gives1 (.vfrcp u) .rcp ∧ gives1 (.vfrsq u) .rsq ∧ gives1 (.vfex2 u) .ex2 ∧ gives1 (.vflg2 u) .lg2
          ∧ (∀ fn w, (ofF32 w).isNan = true → special fn w = canonNan)
          ∧ (special .rcp 0 = 0x7F800000 ∧ special .rcp 0x80000000 = 0xFF800000 ∧ special .rcp 0x7F800000 = 0 ∧ special .rcp 0xFF800000 = 0x80000000)
          ∧ (∀ neg (n : Int), -127 ≤ n → n ≤ 127 → special .rcp (toF32 .rn (.fin neg 1 n)) = toF32 .rn (.fin neg 1 (-n)))
          ∧ (special .rsq 0 = 0x7F800000 ∧ special .rsq 0x80000000 = 0xFF800000 ∧ special .rsq 0x7F800000 = 0)
          ∧ (∀ n : Int, -74 ≤ n → n ≤ 63 → special .rsq (toF32 .rn (.fin false 1 (2 * n))) = toF32 .rn (.fin false 1 (-n)))
          ∧ (∀ w, (ofF32 w).lt (.fin false 0 0) = true → special .rsq w = canonNan ∧ special .lg2 w = canonNan)
          ∧ (special .ex2 0 = 0x3F800000 ∧ special .ex2 0x80000000 = 0x3F800000)
          ∧ (∀ n : Int, -149 ≤ n → n ≤ 127 → special .ex2 (toF32 .rn (ExactVal.ofInt n)) = toF32 .rn (.fin false 1 n))
          ∧ (∀ w, (ofF32 w).isNan = false → (ofF32 w).lt (ExactVal.ofInt 128) = false → special .ex2 w = 0x7F800000)
          ∧ (∀ w, (ofF32 w).isNan = false → (ExactVal.ofInt (-150)).lt (ofF32 w) = false → special .ex2 w = 0)
          ∧ (special .lg2 0 = 0xFF800000 ∧ special .lg2 0x80000000 = 0xFF800000 ∧ special .lg2 0x3F800000 = 0 ∧ special .lg2 0x7F800000 = 0x7F800000)
          ∧ (∀ n : Int, -149 ≤ n → n ≤ 127 → special .lg2 (toF32 .rn (.fin false 1 n)) = toF32 .rn (ExactVal.ofInt n))
          ∧ (decodeWords 0x30008104 0).toOption = some (.vfadd { keepA := false, keepB := false, vd := 2, a := .reg 2, b := .reg 4 })
          ∧ (decodeWords 0x3702048A 0).toOption = some (.vfma .nc { keepA := false, keepB := false, vd := 8, a := .reg 9, b := .reg 10 })
          ∧ (decodeWords 0x3A00C0FF 0).toOption = some (.vfmax { keepA := false, keepB := false, vd := 3, a := .reg 1, b := .lit 0 })
          ∧ (decodeWords 0x3800C082 0).toOption = some (.vfmin { keepA := false, keepB := false, vd := 3, a := .reg 1, b := .reg 2 })
          ∧ (decodeWords 0x34018307 0).toOption = some (.vfmul { keepA := false, keepB := false, vd := 6, a := .reg 6, b := .reg 7 })
          ∧ (decodeWords 0x320142FF 0x3F800000).toOption = some (.vfsub { keepA := false, keepB := false, vd := 5, a := .reg 5, b := .lit 0x3F800000 }))
    ∧ (∀ x y : Word,
        let nan (w : Word) : Prop := (ofF32 w).isNan = true
        (nan x → nan y → fMin x y = canonNan ∧ fMax x y = canonNan)
          ∧ (nan x → ¬ nan y → fMin x y = y ∧ fMax x y = y)
          ∧ (¬ nan x → nan y → fMin x y = x ∧ fMax x y = x)
          ∧ (¬ nan x → ¬ nan y → (ofF32 x).lt (ofF32 y) = true → fMin x y = x ∧ fMax x y = y)
          ∧ (¬ nan x → ¬ nan y → (ofF32 y).lt (ofF32 x) = true → fMin x y = y ∧ fMax x y = x)
          ∧ (fMin 0x80000000 0 = 0x80000000 ∧ fMin 0 0x80000000 = 0x80000000 ∧ fMax 0x80000000 0 = 0 ∧ fMax 0 0x80000000 = 0))

/-- R114, R115, R374, R398, R412: conversions, packs and unpacks complete: one rounding of the exact value into the destination format; a packed element replaced in vd,
the others kept; VPACK moves the older elements up by two. Everything else is unchanged. -/
def Obligations.VectorConversionResults : Prop :=
  ∀ (s : State) (gid k : Nat) (g : Group) (sp : Split) (o : VBin) (u : VUn) (e : BitVec 2) (scl nosat : Bool) (rm : Rm) (dst src : Fmt),
    let ftz := g.gmode.getLsbD 0
    let el (w j : Nat) (x : Word) : Nat := x.toNat / 2 ^ (w * j) % 2 ^ w
    let a (n : Nat) : Word := s.srcLane g o.a n
    let b (n : Nat) : Word := s.srcLane g o.b n
    let d (n : Nat) : Word := (g.v o.vd.toNat).lane n
    let val (f : Fmt) (j : Nat) (x : Word) : ExactVal := if f = .f32 then ofF32 (flush ftz x) else ofFmt f (el (Fmt.width f) j x)
    let bits (f : Fmt) (v : ExactVal) : Nat := if f = .f32 then (flush ftz (toF32 rm v)).toNat else packFmt f rm nosat v
    (Ready s gid k g sp (.vcvt e scl nosat rm dst src o) → g.room o.vd.toNat = true →
        ∃ f, CompletesV (.vcvt e scl nosat rm dst src o) s gid k g sp o.vd.toNat f ∧ ∀ n, n < 96 →
          let v := val src (if src.isWide then 0 else e.toNat) (a n)
          let v := if scl then v.mul (ofF32 (flush ftz (b n))) else v
          if dst.isWide then f n = BitVec.ofNat 32 (bits dst v)
          else ∀ j, j < dst.elems → el (Fmt.width dst) j (f n) = if j = e.toNat then bits dst v % 2 ^ Fmt.width dst else el (Fmt.width dst) j (d n))
      ∧ (Ready s gid k g sp (.vpack nosat rm dst o) → g.room o.vd.toNat = true →
          ∃ f, CompletesV (.vpack nosat rm dst o) s gid k g sp o.vd.toNat f ∧ ∀ n, n < 96 →
            let from' : Fmt := if dst = .i16 ∨ dst = .i8 ∨ dst = .n16 ∨ dst = .n8 then .i32 else .f32
            ∀ j, j < dst.elems → el (Fmt.width dst) j (f n) =
              if j = 0 then bits dst (val from' 0 (a n)) % 2 ^ Fmt.width dst
              else if j = 1 then bits dst (val from' 0 (b n)) % 2 ^ Fmt.width dst
              else el (Fmt.width dst) (j - 2) (d n))
      ∧ (Ready s gid k g sp (.vunpk e src u) → g.room u.vd.toNat = true →
          CompletesV (.vunpk e src u) s gid k g sp u.vd.toNat fun n =>
            let v := val src e.toNat (s.srcLane g u.a n)
            match src with
            | .i16 | .i8 => BitVec.ofInt 32 (packInt (-(2 ^ 31)) (2 ^ 31 - 1) .rn v)
            | .n16 | .n8 => BitVec.ofInt 32 (packInt 0 (2 ^ 32 - 1) .rn v)
            | _ => flush ftz (toF32 .rn v))

/-- R21, R123, R373, R377, R400, R401, R411, R413: compares, reductions, votes and the reading of a tag complete and write scalar registers only: a compare and
VVOTE.ballot the mask of the active lanes that meet the condition, in three registers; the others one register. A float sum is formed in the balanced tree of R123,
whose leaf n is lane n; a float minimum or maximum in rising lane order; a float result is flushed under GMODE.FTZ, a NaN canonical. The integer combinations and
their identities are those of the table of R400, element by element; the conditions are those of R373 and R377, −0 being equal to +0 and a NaN unordered. -/
def Obligations.VectorToScalarResults : Prop :=
  ∀ (s : State) (gid k : Nat) (g : Group) (sp : Split) (o : VBin) (u : VUn),
    let ftz := g.gmode.getLsbD 0
    let a (n : Nat) : Word := s.srcLane g o.a n
    let b (n : Nat) : Word := s.srcLane g o.b n
    let x (n : Nat) : Word := s.srcLane g u.a n
    let kept (i : Instr) : Group := { g with cache := cacheAfter i (vDests i) }
    let mask (i : Instr) (vd : Nat) (p : Nat → Bool) : Prop := Ready s gid k g sp i → ∃ m : Mask,
      (∀ n, n < 96 → m.getLsbD n = (laneOn sp.mask n && p n))
        ∧ Completes i s gid k (((((kept i).setS k vd (maskWord m 0)).setS k (vd + 1) (maskWord m 1)).setS k (vd + 2) (maskWord m 2))) (sp.after i)
    let word (i : Instr) (r : Word) : Prop := Ready s gid k g sp i → Completes i s gid k ((kept i).setS k u.vd.toNat r) (sp.after i)
    let votes := lanes.filter fun n => laneOn sp.mask n && x n != 0
    let active := lanes.filter (laneOn sp.mask)
    let z (w : Word) : Word := flush ftz w
    let out (w : Word) : Word := if (ofF32 w).isNan then canonNan else z w
    let sum (p q : Word) : Word := out (toF32 .rn ((ofF32 p).add false (ofF32 q)))
    let leaf (n : Nat) : Option Word := if n < 96 ∧ laneOn sp.mask n = true then some (z (x n)) else none
    let node (l : Nat → Option Word) (i : Nat) : Option Word :=
      match l (2 * i), l (2 * i + 1) with | some p, some q => some (sum p q) | some p, none => some p | none, q => q
    let tree (h : Nat) : Nat → Option Word := Nat.rec (motive := fun _ => Nat → Option Word) leaf (fun _ l => node l) h
    let fold (f : Word → Word → Word) (none' : Word) : Word :=
      match active with | [] => none' | n :: ns => out (ns.foldl (fun y m => z (f y (z (x m)))) (z (x n)))
    (∀ c t nat, mask (.vcmp c t nat o) o.vd.toNat fun n => (List.range (32 / t.width)).all fun j =>
        let int (y : Word) : Int := let e := y.toNat / 2 ^ (t.width * j) % 2 ^ t.width
          if nat || t == .n32 || decide (e < 2 ^ (t.width - 1)) then e else (e : Int) - 2 ^ t.width
        Cond.holds c (int (a n)) (int (b n)))
      ∧ (∀ c (p q : Int), Cond.holds c p q = true ↔ match c with
          | .eq => p = q | .ne => p ≠ q | .lt => p < q | .le => p ≤ q | .gt => q < p | .ge => q ≤ p)
      ∧ (∀ c (p q : Word), FCond.holds c (ofF32 p) (ofF32 q) = true ↔
          let un : Prop := (ofF32 p).isNan = true ∨ (ofF32 q).isNan = true
          let key (w : Word) : Int := if w.msb then 2 ^ 31 - (w.toNat : Int) else w.toNat
          match c with
          | .eq => ¬ un ∧ key p = key q | .ne => un ∨ key p ≠ key q | .lt => ¬ un ∧ key p < key q | .le => ¬ un ∧ key p ≤ key q
          | .gt => ¬ un ∧ key q < key p | .ge => ¬ un ∧ key q ≤ key p | .uo => un | .ord => ¬ un)
      ∧ (∀ w : Word, (ofF32 w).isNan = true ↔ 0x7F800000 < w.toNat % 2 ^ 31)
      ∧ (∀ c, mask (.vfcmp c o) o.vd.toNat fun n => FCond.holds c (ofF32 (flush ftz (a n))) (ofF32 (flush ftz (b n))))
      ∧ mask (.vvote .ballot u) u.vd.toNat (fun n => x n != 0)
      ∧ word (.vvote .any u) (if votes = [] then 0 else 1)
      ∧ word (.vvote .all u) (if votes = active then 1 else 0)
      ∧ word (.vvote .count u) (BitVec.ofNat 32 votes.length)
      ∧ word (.vtag .read u) (BitVec.ofNat 32 (s.srcTag g u.a))
      ∧ (∀ op t nat, op.isFloat = false → word (.vred op t nat u)
          (match active with
            | [] => redIdentity op t nat
            | n :: ns => ns.foldl (fun y m => redCombine op t nat ftz y (x m)) (x n)))
      ∧ (∀ op (t : ElemTy) nat j, op.isFloat = false → j < 32 / t.width →
          let e (y : Word) : Nat := y.toNat / 2 ^ (t.width * j) % 2 ^ t.width
          let signed : Bool := !nat && t != .n32
          let int (y : Word) : Int := if !signed || decide (e y < 2 ^ (t.width - 1)) then e y else (e y : Int) - 2 ^ t.width
          (∀ p q, e (redCombine op t nat ftz p q) = match op with
            | .add => (e p + e q) % 2 ^ t.width
            | .min => if int p ≤ int q then e p else e q
            | .max => if int p ≤ int q then e q else e p
            | .and => e p &&& e q | .or => e p ||| e q | .xor => e p ^^^ e q | _ => 0)
          ∧ e (redIdentity op t nat) = match op with
            | .min => if signed then 2 ^ (t.width - 1) - 1 else 2 ^ t.width - 1
            | .max => if signed then 2 ^ (t.width - 1) else 0
            | .and => 2 ^ t.width - 1
            | _ => 0)
      ∧ (∀ t nat, word (.vred .fadd t nat u) (match tree 7 0 with | some r => out r | none => 0))
      ∧ (∀ t nat, word (.vred .fmin t nat u) (fold fMin 0x7F800000))
      ∧ (∀ t nat, word (.vred .fmax t nat u) (fold fMax 0xFF800000))

/-- R123, R371, R400, R403, R405: permutes, shuffles and scans complete; a scan combines in rising lane order, a float one rounding and flushing each time, its results
canonical; everything but the active lanes of vd is unchanged. An integer scan combines as VRED does, element by element, by the table of R400. -/
def Obligations.VectorAcrossResults : Prop :=
  ∀ (s : State) (gid k : Nat) (g : Group) (sp : Split) (o : VBin) (u : VUn),
    let a (n : Nat) : Word := s.srcLane g o.a n
    let b (n : Nat) : Word := s.srcLane g o.b n
    let x (n : Nat) : Word := s.srcLane g u.a n
    let gives (i : Instr) (f : Nat → Word) : Prop := Ready s gid k g sp i → g.room o.vd.toNat = true →
      CompletesV i s gid k g sp o.vd.toNat f
    (∀ hi first, o.b = .reg first → Ready s gid k g sp (.vbperm hi o) → g.room o.vd.toNat = true →
        ∃ f, CompletesV (.vbperm hi o) s gid k g sp o.vd.toNat f ∧ ∀ n, n < 96 → ∀ j, j < 4 →
          let c := (a n).toNat / 2 ^ (8 * j + if hi then 4 else 0) % 16
          (f n).toNat / 2 ^ (8 * j) % 256 = ((g.v (first.toNat + c / 4)).lane n).toNat / 2 ^ (8 * (c % 4)) % 256)
      ∧ gives (.vshfl .idx 0 o) (fun n => a (if (b n).toNat < 96 then (b n).toNat else n))
      ∧ (∀ d : Reg, gives (.vshfl .up d o) (fun n => a (if d.toNat ≤ n then n - d.toNat else n)))
      ∧ (∀ d : Reg, gives (.vshfl .down d o) (fun n => a (if n + d.toNat < 96 then n + d.toNat else n)))
      ∧ (∀ d : Reg, gives (.vshfl .xor d o) (fun n => a (if n ^^^ d.toNat < 96 then n ^^^ d.toNat else n)))
      ∧ (∀ d : Reg, gives (.vshfl .rot d o) (fun n => a ((n + d.toNat) % 96)))
      ∧ (∀ op t nat excl, op.isFloat = false → Ready s gid k g sp (.vscan op t nat excl u) → g.room u.vd.toNat = true →
          CompletesV (.vscan op t nat excl u) s gid k g sp u.vd.toNat fun n =>
            match lanes.filter (fun m => laneOn sp.mask m && (decide (m < n) || (!excl && m == n))) with
            | [] => redIdentity op t nat
            | m :: ms => ms.foldl (fun y l => redCombine op t nat false y (x l)) (x m))
      ∧ (∀ op (t : ElemTy) nat j, op.isFloat = false → j < 32 / t.width →
          let e (y : Word) : Nat := y.toNat / 2 ^ (t.width * j) % 2 ^ t.width
          let signed : Bool := !nat && t != .n32
          let int (y : Word) : Int := if !signed || decide (e y < 2 ^ (t.width - 1)) then e y else (e y : Int) - 2 ^ t.width
          (∀ p q, e (redCombine op t nat false p q) = match op with
            | .add => (e p + e q) % 2 ^ t.width
            | .min => if int p ≤ int q then e p else e q
            | .max => if int p ≤ int q then e q else e p
            | .and => e p &&& e q | .or => e p ||| e q | .xor => e p ^^^ e q | _ => 0)
          ∧ e (redIdentity op t nat) = match op with
            | .min => if signed then 2 ^ (t.width - 1) - 1 else 2 ^ t.width - 1
            | .max => if signed then 2 ^ (t.width - 1) else 0
            | .and => 2 ^ t.width - 1
            | _ => 0)
      ∧ (∀ op t nat excl, op.isFloat = true → Ready s gid k g sp (.vscan op t nat excl u) → g.room u.vd.toNat = true →
          let z (w : Word) : Word := flush (g.gmode.getLsbD 0) w
          let out (w : Word) : Word := if (ofF32 w).isNan then canonNan else z w
          let both (p q : Word) : Word :=
            if op = .fadd then out (toF32 .rn ((ofF32 p).add false (ofF32 q))) else z (if op = .fmin then fMin p q else fMax p q)
          CompletesV (.vscan op t nat excl u) s gid k g sp u.vd.toNat fun n =>
            match lanes.filter (fun m => laneOn sp.mask m && (decide (m < n) || (!excl && m == n))) with
            | [] => if op = .fadd then 0 else if op = .fmin then 0x7F800000 else 0xFF800000
            | m :: ms => out (ms.foldl (fun y l => both y (z (x l))) (z (x m))))

/-- R73, R74, R411, R75: The tag of a destination: general where a lane is not active; else uniform where every source is; else the affine rows of VADD, VSUB, VMUL and
VSHL of 32 bits; else general; VMOV keeps its source's tag and VBCAST gives U. A rewrite of a tag keeps every lane's value, whatever the mask; it leaves the
requested tag where the values allow it, else the source's. An instruction that would leave more general registers than the budget traps TAGBUDGET and writes
nothing. -/
def Obligations.ShapeTags : Prop :=
  (∀ (s t : State) (gid k : Nat) (g g' : Group) (sp : Split) (ty : ElemTy) (o : VBin) (u : VUn),
        let full := sp.mask = BitVec.allOnes 96
        let tag (n : Nat) : Nat := (g'.v n).tag
        let x := s.srcTag g o.a
        let y := s.srcTag g o.b
        let ran (i : Instr) (vd : Nat) : Prop := Ready s gid k g sp i ∧ vd < g.vregs.length ∧ g.room vd = true ∧ exec i s = .next t
          ∧ t.group? gid = some g'
        let affine (i : Instr) (rows : Prop) : Prop := ran i o.vd.toNat →
          (¬ full → tag o.vd.toNat = 2) ∧ (full → x = 0 → y = 0 → tag o.vd.toNat = 0)
            ∧ (full → ty.width = 32 → rows → tag o.vd.toNat = 1)
            ∧ (full → ¬ (x = 0 ∧ y = 0) → ¬ (ty.width = 32 ∧ rows) → tag o.vd.toNat = 2)
        affine (.vadd ty o) ((x = 1 ∧ y ≤ 1) ∨ (x = 0 ∧ y = 1))
          ∧ affine (.vsub ty o) ((x = 1 ∧ y ≤ 1) ∨ (x = 0 ∧ y = 1))
          ∧ affine (.vmul ty o) ((x = 1 ∧ y = 0) ∨ (x = 0 ∧ y = 1))
          ∧ affine (.vshl ty o) (x = 1 ∧ y = 0)
          ∧ (∀ i, i = .vand o ∨ i = .vxor o ∨ i = .vshr ty o ∨ i = .vfadd o ∨ i = .vfmul o → ran i o.vd.toNat →
              tag o.vd.toNat = if sp.mask = BitVec.allOnes 96 ∧ x = 0 ∧ y = 0 then 0 else 2)
          ∧ (ran (.vmov u) u.vd.toNat → tag u.vd.toNat = if sp.mask = BitVec.allOnes 96 then s.srcTag g u.a else 2)
          ∧ (∀ ka kb vd sa, ran (.vbcast ka kb vd sa) vd.toNat → tag vd.toNat = if sp.mask = BitVec.allOnes 96 then 0 else 2)
          ∧ (∀ op nat excl, ran (.vscan op ty nat excl u) u.vd.toNat → tag u.vd.toNat = 2))
    ∧ (∀ (s : State) (gid k : Nat) (g : Group) (sp : Split) (u : VUn),
        let x (n : Nat) : Word := s.srcLane g u.a n
        let gives (i : Instr) (want : Nat) (can : Prop) : Prop := Ready s gid k g sp i → g.room u.vd.toNat = true →
          ∃ r : VReg, (∀ n, n < 96 → r.lane n = x n) ∧ (can → r.tag = want) ∧ (¬ can → r.tag = s.srcTag g u.a)
            ∧ Completes i s gid k { g with vregs := g.vregs.set u.vd.toNat r, cache := cacheAfter i (vDests i) } (sp.after i)
        gives (.vtag .toU u) 0 (∀ n, n < 96 → x n = x 0)
          ∧ gives (.vtag .toA u) 1 (∀ n, n < 96 → x n = x 0 + (x 1 - x 0) * BitVec.ofNat 32 n)
          ∧ gives (.vtag .toG u) 2 True)
    ∧ (∀ (s : State) (gid k : Nat) (g : Group) (sp : Split) (o : VBin) (u : VUn) (t : ElemTy),
        let full (vd : Nat) : Prop := sp.mask ≠ BitVec.allOnes 96 ∧ g.room vd = false
        let trap (i : Instr) : Prop := Ready s gid k g sp i → Traps i s gid k sp causeTAGBUDGET 127 0 0
        (full o.vd.toNat → trap (.vadd t o) ∧ trap (.vmul t o) ∧ trap (.vand o) ∧ trap (.vsel 0 o) ∧ trap (.vfadd o) ∧ trap (.vfma .pp o))
          ∧ (full u.vd.toNat → trap (.vmov u) ∧ trap (.vabs t u) ∧ trap (.vfrcp u) ∧ trap (.vscan .add t false false u))
          ∧ (g.room u.vd.toNat = false → trap (.vtag .toG u)))

/-! ### Memory (R126-R131, R142-R145, R326-R327, R335-R337, R349, R354-R355, R387-R389, R408-R409) -/

/-- R127, R128, R132, R273: The checks of one access in their order, and the cause of the first that fails. Where the spec leaves it open, this is the model's choice
(log entries 14 and 55). The walk of the five-level page table. With no translation held by the core, five valid entries give the frame of a 64 KiB page, and a LEAF
at level 1 or 2 a page of 2 MiB or 1 GiB; an entry that is not valid, or has a reserved bit set, gives none. Of the lanes of an access the lowest that fails decides:
the instruction traps with that lane's cause, lane and address, and nothing is accessed. The scalar accesses report lane 127. -/
def Obligations.AccessChecks : Prop :=
  (∀ (s : State) (g : Group) (size : Nat) (need : Need) (n : Nat) (a : DWord),
        let globalFails (c : Nat) : Prop := laneCheck s g false size need (n, a) = .error (.cause c)
        let scratchFails (c : Nat) : Prop := laneCheck s g true size need (n, a) = .error (.cause c)
        let canon : Prop := a.toNat / 2 ^ 56 = 0 ∨ a.toNat / 2 ^ 56 = 255
        (¬ canon → globalFails causeXLATE)
          ∧ (canon → a.toNat % size ≠ 0 → globalFails causeALIGN)
          ∧ (canon → a.toNat % size = 0 → s.translate g.core g.vf (a.toNat % 2 ^ 57) = none → globalFails causeXLATE)
          ∧ (∀ l, canon → a.toNat % size = 0 → s.translate g.core g.vf (a.toNat % 2 ^ 57) = some l →
              (match need with | .read => l.r = false | .write => l.r = false ∨ l.w = false | .exec => l.x = false) → globalFails causePROT)
          ∧ (s.scratchOff g.block g.core g.vf a size = none → scratchFails causeSCRATCH)
          ∧ (∀ off, s.scratchOff g.block g.core g.vf a size = some off → a.toNat % size ≠ 0 → scratchFails causeALIGN)
          ∧ (∀ off, s.scratchOff g.block g.core g.vf a size = some off → a.toNat % size = 0 →
              laneCheck s g true size need (n, a) = .ok ⟨n, a, g.core * 2 ^ 21 + off, 0, pkgOf g.vf, false⟩))
    ∧ (∀ (s : State) (core v va : Nat) (e4 e3 e2 e1 e0 : Nat),
        let entry (base i : Nat) : Nat := s.mem.read (s.devOf core * 2 ^ 57 + base + 8 * i) 8
        let frame (e : Nat) : Nat := bitField e 56 16 * 65536
        let good (e : Nat) : Prop := bitField e 63 57 = 0 ∧ e % 2 = 1
        let table (e : Nat) : Prop := good e ∧ bitField e 1 1 = 0
        let leaf (e : Nat) : Prop := good e ∧ bitField e 1 1 = 1
        let found (e size : Nat) : Prop := ∃ l, s.translate core v va = some l ∧ l.pa = frame e / size * size + va % size
          ∧ l.home = bitField e 15 6 ∧ l.page = size ∧ (l.pub = true ↔ bitField e 5 5 = 1) ∧ (l.x = true ↔ bitField e 4 4 = 1)
          ∧ (l.w = true ↔ bitField e 3 3 = 1) ∧ (l.r = true ↔ bitField e 2 2 = 1)
        tlbLookup v va (s.coreAt core).tlb = none →
        entry (s.vf v).ptRoot.toNat (bitField va 56 48) = e4 → entry (frame e4) (bitField va 47 39) = e3 →
        entry (frame e3) (bitField va 38 30) = e2 → entry (frame e2) (bitField va 29 21) = e1 → entry (frame e1) (bitField va 20 16) = e0 →
          (table e4 → table e3 → table e2 → table e1 → leaf e0 → found e0 65536)
            ∧ (table e4 → table e3 → table e2 → leaf e1 → found e1 (2 ^ 21))
            ∧ (table e4 → table e3 → leaf e2 → found e2 (2 ^ 30))
            ∧ (¬ good e4 ∨ table e4 ∧ ¬ good e3 ∨ table e4 ∧ table e3 ∧ ¬ good e2 ∨ table e4 ∧ table e3 ∧ table e2 ∧ ¬ good e1
                ∨ table e4 ∧ table e3 ∧ table e2 ∧ table e1 ∧ ¬ leaf e0 → s.translate core v va = none))
    ∧ (∀ (s : State) (gid k : Nat) (g : Group) (sp : Split) (scratch : Bool) (o : LmOp) (u : UmOp) (n : Nat) (a : DWord) (cause : Nat)
        (pre post : List (Nat × DWord)),
        (s.lmAt g sp o = pre ++ (n, a) :: post →
          let size := o.width.bytes
          let fails (need : Need) : Prop := (∀ p ∈ pre, ∃ x, laneCheck s g scratch size need p = .ok x)
            ∧ laneCheck s g scratch size need (n, a) = .error (.cause cause)
          let i := if scratch then Instr.vlds o else .vld o
          let j := if scratch then Instr.vsts o else .vst o
          (Ready s gid k g sp i → fails .read → Traps i s gid k sp cause n a 0)
            ∧ (Ready s gid k g sp j → fails .write → Traps j s gid k sp cause n a 0))
          ∧ (sp.mask ≠ 0 → u.ord = .none →
            let fails (need : Need) : Prop := laneCheck s g scratch 4 need (127, g.umAt sp u 4) = .error (.cause cause)
            let i := if scratch then Instr.slds u else .sld u
            let j := if scratch then Instr.ssts u else .sst u
            (Ready s gid k g sp i → fails .read → Traps i s gid k sp cause 127 (g.umAt sp u 4) 0)
              ∧ (Ready s gid k g sp j → fails .write → Traps j s gid k sp cause 127 (g.umAt sp u 4) 0)))

/-- R102, R388, R389: VLD and VLDS complete. Every active lane of vd holds the little-endian value at the lane's address, extended as the width says, with `.64` in vd
and vd + 1; the destination registers are general and have a write pending (R78); nothing else is changed. -/
def Obligations.VectorLoads : Prop :=
  ∀ (s : State) (gid k : Nat) (g : Group) (sp : Split) (o : LmOp) (scratch : Bool) (xs : List LaneAt),
    let i := if scratch then Instr.vlds o else .vld o
    let w64 := o.width = .w64
    let vd := o.vd.toNat
    let dests := if w64 then [vd, vd + 1] else [vd]
    Ready s gid k g sp i → g.roomFor dests = true →
    Reaches s g scratch o.width.bytes .read true false (s.lmAt g sp o) xs →
      ∃ t r0 r1, exec i s = .next t
        ∧ Loaded s t gid ({ g with
            vregs := if w64 then (g.vregs.set vd r0).set (vd + 1) r1 else g.vregs.set vd r0
            busy := g.busy ++ dests.map RegRef.v
            cache := cacheAfter i (vDests i) }.goesOn k (sp.after i) s.now)
        ∧ r0.tag = 2 ∧ r1.tag = 2
        ∧ (∀ n, n < 96 → laneOn sp.mask n = false → r0.lane n = (g.v vd).lane n ∧ r1.lane n = (g.v (vd + 1)).lane n)
        ∧ ∀ x ∈ xs, let b (j : Nat) : Nat := ((s.space scratch).get (x.key + j)).toNat
            r0.lane x.lane = (match o.width with
                | .w8 => if o.sx then (BitVec.ofNat 8 (b 0)).signExtend 32 else BitVec.ofNat 32 (b 0)
                | .w16 => let h := b 0 + 256 * b 1
                  if o.sx then (BitVec.ofNat 16 h).signExtend 32 else BitVec.ofNat 32 h
                | _ => BitVec.ofNat 32 (b 0 + 256 * b 1 + 65536 * b 2 + 16777216 * b 3))
              ∧ (w64 → r1.lane x.lane = BitVec.ofNat 32 (b 4 + 256 * b 5 + 65536 * b 6 + 16777216 * b 7))

/-- R102, R130, R408, R409: VST and VSTS complete. Every byte that an active lane stores holds the byte of vd (with `.64` of vd and vd + 1) of the highest lane that
stores it; every other byte and everything else is unchanged. -/
def Obligations.VectorStores : Prop :=
  ∀ (s : State) (gid k : Nat) (g : Group) (sp : Split) (o : LmOp) (scratch : Bool) (xs : List LaneAt),
    let i := if scratch then Instr.vsts o else .vst o
    let size := o.width.bytes
    let vd := o.vd.toNat
    Ready s gid k g sp i → s.Inv → Reaches s g scratch size .write false true (s.lmAt g sp o) xs →
    (scratch = false → s.mayPass g .none .core false true (xs.map LaneAt.home)) →
      ∃ t, exec i s = .next t
        ∧ Stored s t gid ({ g with cache := cacheAfter i (vDests i) }.goesOn k (sp.after i) s.now) scratch size xs
        ∧ Uncounted s t ∧ t.vfs = s.vfs ∧ t.lineCore = s.lineCore
        ∧ ∀ x ∈ xs, ∀ j, j < size → (∀ y ∈ xs, x.lane < y.lane → apart (x.key + j) 1 y.key size) → s.unclaimed scratch (x.key + j) 1 →
            (t.space scratch).get (x.key + j) = BitVec.ofNat 8 ((if j < 4 then ((g.v vd).lane x.lane).toNat else ((g.v (vd + 1)).lane x.lane).toNat) / 256 ^ (j % 4))

/-- R326, R335, R336, R354, R355: SLD, SLDS, SST and SSTS at an address of this package complete when their ordering need not wait and they pass no remote operation: a
load writes sd and leaves its write pending, a store writes four bytes; with no active lane they access nothing. One of a scratchpad orders at quad where its scope
is wider. A demotion of an ordered access is counted (R166). Nothing else is changed. Where the spec leaves it open, this is the model's choice (log entries 20, 21,
78 and 79). -/
def Obligations.ScalarAccesses : Prop :=
  ∀ (s : State) (gid k : Nat) (g : Group) (sp : Split) (o : UmOp) (scratch : Bool) (x : LaneAt),
    let load := if scratch then Instr.slds o else .sld o
    let store := if scratch then Instr.ssts o else .sst o
    let sd := o.sd.toNat
    let orders : Prop := o.ord ≠ .none ∧ (scratch = false ∨ o.scope = .core ∨ o.scope = .quad)
    let demoted : Prop := orders ∧ s.allowed g.vf o.scope ≠ o.scope
    let may : Prop := o.ord ≠ .none → s.mayOrder gid g o.ord (if scratch && o.scope != .core && o.scope != .quad then .quad else o.scope)
    let passes (write : Bool) : Prop := scratch = false → s.mayPass g o.ord o.scope false write [x.home]
    let at' := [(127, g.umAt sp o 4)]
    let b (j : Nat) : Nat := ((s.space scratch).get (x.key + j)).toNat
    let v : Word := BitVec.ofNat 32 (b 0 + 256 * b 1 + 65536 * b 2 + 16777216 * b 3)
    (Ready s gid k g sp load → may → passes false → sp.mask ≠ 0 → Reaches s g scratch 4 .read true false at' [x] →
        ∃ t, exec load s = .next t ∧ Demoted s t g.vf demoted
          ∧ Loaded { s with vfs := t.vfs } t gid ({ g.setS k sd v with busy := (g.setS k sd v).busy ++ [scalarRef k sd] }.goesOn k (sp.after load) s.now))
      ∧ (Ready s gid k g sp store → s.Inv → may → passes true → sp.mask ≠ 0 → Reaches s g scratch 4 .write false true at' [x] →
        ∃ t, exec store s = .next t ∧ Stored s t gid (g.goesOn k (sp.after store) s.now) scratch 4 [x] ∧ Uncounted s t ∧ Demoted s t g.vf demoted
          ∧ Recorded s t g (scratch = false ∧ o.ord.isRel = true ∧ s.allowed g.vf o.scope = .core) [x.key]
          ∧ ∀ j, j < 4 → s.unclaimed scratch (x.key + j) 1 → (t.space scratch).get (x.key + j) = BitVec.ofNat 8 ((g.sreg sp sd).toNat / 256 ^ j))
      ∧ (∀ i, i = load ∨ i = store → Ready s gid k g sp i → may → sp.mask = 0 →
        ∃ t, exec i s = .next t ∧ Demoted s t g.vf demoted
          ∧ OnlyGroup { s with vfs := t.vfs } t gid (g.goesOn k (sp.after i) s.now))

/-- R142, R143, R154, R327: SATOM on a location of this package reads it, leaves the new value there as the clause on `atomNew` of the scalar atomics gives it and
completes with the old value in sd (in sd and sd + 1 with `.64`), a write pending. One atomic is counted. With no active lane it accesses nothing and is a fence of
its ordering. Nothing else is changed. The record of a core-scope release that writes is the model's (log entry 79), as is what an ordered atomic waits for (log
entry 78). The value that an atomic leaves in memory, from the old value, the operand and the compare value of `w` bits. -/
def Obligations.ScalarAtomics : Prop :=
  (∀ (s : State) (gid k : Nat) (g : Group) (sp : Split) (o : UmOp) (c : SAtomCw) (x : LaneAt),
        let i := Instr.satom o c
        let sd := o.sd.toNat
        let size := if c.w64 then 8 else 4
        let opnd (n : Reg) : Nat := if c.w64 then (g.spair sp n.toNat).toNat else (g.sreg sp n.toNat).toNat
        let old := s.mem.read x.key size
        let new := (atomNew c.aop size old (opnd c.sb) (opnd c.sc)).getD old
        let g' := if c.w64 then { g.setPair k sd (BitVec.ofNat 64 old) with busy := (g.setPair k sd (BitVec.ofNat 64 old)).busy ++ [scalarRef k sd, scalarRef k (sd + 1)] }
          else { g.setS k sd (BitVec.ofNat 32 old) with busy := (g.setS k sd (BitVec.ofNat 32 old)).busy ++ [scalarRef k sd] }
        let demoted : Prop := s.allowed g.vf o.scope ≠ o.scope
        (Ready s gid k g sp i → s.Inv → sp.mask ≠ 0 → s.mayOrder gid g o.ord o.scope → s.promoted g c.rsp x.key →
        s.mayPass g o.ord o.scope true true [x.home] →
        Reaches s g false size (if c.aop = .ld then .read else .write) true true [(127, g.umAt sp o size)] [x] →
          ∃ t, exec i s = .next t ∧ Stored s t gid (g'.goesOn k (sp.after i) s.now) false size [x] ∧ Counted s t g.core 1
            ∧ Demoted s t g.vf demoted
            ∧ Recorded s t g (o.ord.isRel = true ∧ s.allowed g.vf o.scope = .core ∧ (atomNew c.aop size old (opnd c.sb) (opnd c.sc)).isSome = true) [x.key]
            ∧ ∀ j, j < size → s.unclaimed false (x.key + j) 1 → t.mem.get (x.key + j) = BitVec.ofNat 8 (new / 256 ^ j))
          ∧ (Ready s gid k g sp i → sp.mask = 0 → (o.ord ≠ .none → s.mayOrder gid g o.ord o.scope) →
            ∃ t, exec i s = .next t ∧ Demoted s t g.vf (o.ord ≠ .none ∧ demoted) ∧ OnlyGroup { s with vfs := t.vfs } t gid (g.goesOn k (sp.after i) s.now)))
    ∧ (∀ (w64 : Bool) (old d c : Nat), let size := if w64 then 8 else 4; let w := 8 * size
        old < 2 ^ w → d < 2 ^ w →
        let int (x : Nat) : Int := if x < 2 ^ (w - 1) then x else (x : Int) - 2 ^ w
        let gives (op : Aop) (v : Nat) : Prop := (atomNew op size old d c).getD old = v
        gives .add ((old + d) % 2 ^ w)
          ∧ gives .min (if int d < int old then d else old) ∧ gives .max (if int old < int d then d else old)
          ∧ gives .nmin (if d < old then d else old) ∧ gives .nmax (if old < d then d else old)
          ∧ gives .and (old &&& d) ∧ gives .or (old ||| d) ∧ gives .xor (old ^^^ d)
          ∧ gives .exch d ∧ gives .cas (if old = c then d else old) ∧ gives .ld old
          ∧ (w64 = false → ∃ v : Word, gives .fadd v.toNat
              ∧ v = let r := (ofF32 (BitVec.ofNat 32 old)).add false (ofF32 (BitVec.ofNat 32 d)); if r.isNan then canonNan else toF32 .rn r))

/-- R142, R143, R154, R367: VATOM on locations of this package completes; a lane whose location no other lane shares leaves there the new value of its own operand as the
clause on `atomNew` of the scalar atomics gives it, and with RET receives the old value in vd; lanes that share one act there one after the other in some order; one
atomic is counted for each active lane; with no active lane it accesses nothing, is a fence of its ordering and with RET leaves vd general with its values; nothing
else is changed. The record of a core-scope release that writes is the model's (log entry 79), as is what an ordered atomic waits for (log entry 78). -/
def Obligations.VectorAtomics : Prop :=
  ∀ (s : State) (gid k : Nat) (g : Group) (sp : Split) (o : VAtomOp) (xs : List LaneAt),
    let i := Instr.vatom o
    let size := if o.w64 then 8 else 4
    let vd := o.vd.toNat
    let dests := if o.w64 then [vd, vd + 1] else [vd]
    let word (r n : Nat) : Nat := ((g.v r).lane n).toNat + if o.w64 then ((g.v (r + 1)).lane n).toNat * 2 ^ 32 else 0
    let opnd (n : Nat) : Nat := if o.aop = .ld then 0 else word (match o.data with | .reg r => r.toNat | _ => 0) n
    let cmp (n : Nat) : Nat := if o.aop = .cas then word o.cmpv.toNat n else 0
    let addrs := (lanes.filter (laneOn sp.mask)).map fun n => (n, g.spair sp (2 * o.base.toNat) + (s.srcLane g o.off n).signExtend 64)
    let demoted : Prop := s.allowed g.vf o.scope ≠ o.scope
    let acts (x : LaneAt) (v : Nat) : Option Nat := atomNew o.aop size v (opnd x.lane) (cmp x.lane)
    let free (x : LaneAt) : Prop := ∀ y ∈ xs, y ≠ x → apart x.key size y.key size
    let after (ys : List LaneAt) (key : Nat) : Nat := ys.foldl (fun v y => if y.key = key then (acts y v).getD v else v) (s.mem.read key size)
    (Ready s gid k g sp i → s.Inv → (∃ n, n < 96 ∧ laneOn sp.mask n = true) → s.mayOrder gid g o.ord o.scope →
    (∀ x ∈ xs, s.promoted g o.rsp x.key) → s.mayPass g o.ord o.scope true true (xs.map LaneAt.home) →
    (o.ret = true → g.roomFor dests = true) →
    Reaches s g false size (if o.aop = .ld then .read else .write) true true addrs xs →
      ∃ t r0 r1, exec i s = .next t
        ∧ Stored s t gid ((if o.ret then ({ g with
              vregs := if o.w64 then (g.vregs.set vd r0).set (vd + 1) r1 else g.vregs.set vd r0
              busy := g.busy ++ dests.map RegRef.v
              cache := cacheAfter i (vDests i) } : Group) else { g with cache := cacheAfter i (vDests i) }).goesOn k (sp.after i) s.now) false size xs
        ∧ Counted s t g.core xs.length ∧ Demoted s t g.vf demoted
        ∧ (∃ ws : List LaneAt, (∀ x ∈ ws, x ∈ xs) ∧ (o.aop ≠ .ld → o.aop ≠ .cas → ws = xs)
            ∧ (∀ x ∈ xs, free x → (x ∈ ws ↔ (acts x (s.mem.read x.key size)).isSome = true))
            ∧ Recorded s t g (o.ord.isRel = true ∧ s.allowed g.vf o.scope = .core) (ws.map LaneAt.key))
        ∧ (∀ n, n < 96 → laneOn sp.mask n = false → r0.lane n = (g.v vd).lane n ∧ r1.lane n = (g.v (vd + 1)).lane n)
        ∧ (∀ x ∈ xs, free x →
            let old := s.mem.read x.key size
            let new := (acts x old).getD old
            (∀ j, j < size → s.unclaimed false (x.key + j) 1 → t.mem.get (x.key + j) = BitVec.ofNat 8 (new / 256 ^ j))
              ∧ r0.lane x.lane = BitVec.ofNat 32 old ∧ (o.w64 = true → r1.lane x.lane = BitVec.ofNat 32 (old / 2 ^ 32)))
        ∧ ((∀ x ∈ xs, s.unclaimed false x.key size) → ∃ ys : List LaneAt, ys.Perm xs
            ∧ (∀ x ∈ xs, ∀ j, j < size → t.mem.get (x.key + j) = BitVec.ofNat 8 (after ys x.key / 256 ^ j))
            ∧ ∀ pre x post, ys = pre ++ x :: post → r0.lane x.lane = BitVec.ofNat 32 (after pre x.key)
                ∧ (o.w64 = true → r1.lane x.lane = BitVec.ofNat 32 (after pre x.key / 2 ^ 32))))
      ∧ (Ready s gid k g sp i → sp.mask = 0 → (o.ord ≠ .none → s.mayOrder gid g o.ord o.scope) → (o.ret = true → g.roomFor dests = true) →
        ∃ t r0 r1, exec i s = .next t ∧ Demoted s t g.vf (o.ord ≠ .none ∧ demoted)
          ∧ OnlyGroup { s with vfs := t.vfs } t gid ({ g with
              vregs := if o.ret then (if o.w64 then (g.vregs.set vd r0).set (vd + 1) r1 else g.vregs.set vd r0) else g.vregs
              cache := cacheAfter i (vDests i) }.goesOn k (sp.after i) s.now)
          ∧ r0.tag = 2 ∧ r1.tag = 2 ∧ ∀ n, n < 96 → r0.lane n = (g.v vd).lane n ∧ r1.lane n = (g.v (vd + 1)).lane n)

/-- R144, R145, R154, R337, R349: SLR completes as a load and takes the group's reservation on the 128-byte line; SSC completes: with the reservation on its line it
stores and writes 0 to sd + 1, otherwise it stores nothing and writes 1; the reservation is gone; one that stores is recorded as a core-scope release of its core
(R165). With no active lane both access nothing and are fences of their ordering. Nothing else is changed. The record is the model's (log entry 79), as is what an
ordered access waits for (log entry 78). A store by any group clears every group's reservation on the lines that it touches, and no other. -/
def Obligations.Reservations : Prop :=
  (∀ (s : State) (gid k : Nat) (g : Group) (sp : Split) (o : UmOp) (x : LaneAt),
        let slr := Instr.slr o
        let ssc := Instr.ssc o
        let sd := o.sd.toNat
        let at' := [(127, g.umAt sp o 4)]
        let line := x.key / 128
        let demoted : Prop := s.allowed g.vf o.scope ≠ o.scope
        let passes : Prop := s.mayPass g o.ord o.scope true true [x.home]
        (Ready s gid k g sp slr → sp.mask ≠ 0 → s.mayOrder gid g o.ord o.scope → passes → Reaches s g false 4 .read true true at' [x] →
            let h := { g with reserv := some line }.setS k sd (BitVec.ofNat 32 (s.mem.read x.key 4))
            ∃ t, exec slr s = .next t ∧ Demoted s t g.vf demoted
              ∧ Loaded { s with vfs := t.vfs } t gid ({ h with busy := h.busy ++ [scalarRef k sd] }.goesOn k (sp.after slr) s.now))
          ∧ (Ready s gid k g sp ssc → s.Inv → sp.mask ≠ 0 → s.mayOrder gid g o.ord o.scope → passes → Reaches s g false 4 .write true true at' [x] →
            let ok := g.reserv = some line
            ∃ t, exec ssc s = .next t ∧ Uncounted s t ∧ Demoted s t g.vf demoted
              ∧ Recorded s t g (ok ∧ o.ord.isRel = true ∧ s.allowed g.vf o.scope = .core) [x.key]
              ∧ Stored s t gid (({ g with reserv := none }.setS k (sd + 1) (if ok then 0 else 1)).goesOn k (sp.after ssc) s.now) false 4 (if ok then [x] else [])
              ∧ (ok → ∀ j, j < 4 → s.unclaimed false (x.key + j) 1 → t.mem.get (x.key + j) = BitVec.ofNat 8 ((g.sreg sp sd).toNat / 256 ^ j)))
          ∧ (∀ i, i = slr ∨ i = ssc → Ready s gid k g sp i → sp.mask = 0 → (o.ord ≠ .none → s.mayOrder gid g o.ord o.scope) →
            ∃ t, exec i s = .next t ∧ Demoted s t g.vf (o.ord ≠ .none ∧ demoted) ∧ OnlyGroup { s with vfs := t.vfs } t gid (g.goesOn k (sp.after i) s.now)))
    ∧ (∀ (s : State) (key : Nat) (bs : List Byte) (j : Nat) (h : Group), bs ≠ [] → s.group? j = some h →
        ∃ r, (s.storeMem key bs).group? j = some { h with reserv := r }
          ∧ (∀ l, h.reserv = some l → (key / 128 ≤ l ∧ l ≤ (key + bs.length - 1) / 128 → r = none)
              ∧ (¬ (key / 128 ≤ l ∧ l ≤ (key + bs.length - 1) / 128) → r = some l))
          ∧ (h.reserv = none → r = none))

/-- R154, R156, R166, R252, R250: FENCE completes and changes nothing but the place of the split and, when it is demoted, the count; a release at pod scope waits for the
group's remote acknowledgements and the tenant's operations in flight (R159), an acquire for the reads of the tenant's atomics in flight. What they wait for is the
model's reading (log entry 78); where the spec leaves it open, this is the model's choice (log entries 1 and 20). A scalar load from a page of another package takes
an entry of the group, hands its request to the window of the pair of VFs, and the split waits for the reply. -/
def Obligations.FencesAndRemoteLoads : Prop :=
  (∀ (s : State) (gid k : Nat) (g : Group) (sp : Split) (ord : Ord4) (sc : Scope),
        let i := Instr.fence ord sc
        Ready s gid k g sp i →
          (s.mayOrder gid g ord sc → ∃ t, exec i s = .next t ∧ Demoted s t g.vf (s.allowed g.vf sc ≠ sc)
              ∧ OnlyGroup { s with vfs := t.vfs } t gid (g.goesOn k (sp.after i) s.now))
            ∧ (¬ s.mayRelease gid g ord sc → WaitsAgain i s gid k g sp .acks)
            ∧ (s.mayRelease gid g ord sc → ¬ s.mayAcquire g ord → WaitsAgain i s gid k g sp (.applied g.vf)))
    ∧ (∀ (s : State) (gid k : Nat) (g : Group) (sp : Split) (o : UmOp) (x : LaneAt),
        let i := Instr.sld o
        Ready s gid k g sp i → sp.mask ≠ 0 → o.ord = .none → laneChecks s g false 4 .read [(127, g.umAt sp o 4)] = .ok [x] → x.remote = true →
        (g.trap.isSome = true ∨ watchHit g.dbg true false 4 x.a = none) → s.ropCount gid < Config.remoteEntries →
          ∃ t g' n, exec i s = .next t ∧ t.group? gid = some g'
            ∧ tget k g'.splits = some { sp with wait := .replies, cont := sp.after i, exempt := false, stamp := n }
            ∧ g'.vregs = g.vregs ∧ g'.sregs = g.sregs ∧ (∀ j, j ≠ gid → t.group? j = s.group? j) ∧ t.mem = s.mem ∧ t.scratch = s.scratch
            ∧ ∃ id op, tget id t.rops = some op ∧ op.gid = gid ∧ op.split = k ∧ op.applied = false ∧ op.lane.kind = 0 ∧ op.lane.size = 4
                ∧ op.lane.va = x.a ∧ op.lane.home = x.home ∧ ∃ r ∈ g'.rinstr, r.split = k ∧ id ∈ r.waiting ∧ r.dest = .scal o.sd.toNat false)

/-! ### Traps (R98, R227-R235, R241, R288, R360, R361) -/

/-- R227-R229, R84, R85, R235, R227, R234: A cause raised by a split's instruction is recorded; once the scoreboard has drained the handler starts and the frame holds
the context, with `pc` as the raising split's address; with THANDLER 0 the group is killed. The wait kinds of SSTATE that R85 and R252 do not list, and its wait
token of 0, are the model's choice (log entry 71), as is what else the spec leaves open (log entry 56). A cause raised by the handler's own instruction starts the
handler again, with the frame kept and TNCAUSE and TNPC written; the fourth kills the group. UCE is no such cause, since it kills, nor are WATCH and STEP, which do
not act in trap mode. -/
def Obligations.TrapEntry : Prop :=
  (∀ (s : State) (gid : Nat) (g : Group) (info : TrapInfo) (pc : Word),
        let raised : Group := { g with
          splits := tmod info.split (fun x => { x with pc := pc, wait := .none, held := none, stamp := 0 }) g.splits
          rinstr := g.rinstr.filter fun r => r.split != info.split }
        let entry := (s.vf g.vf).thandler
        let noted : TrapInfo := if info.order = 0 then { info with order := s.nextId } else info
        s.group? gid = some g → (∀ p ∈ g.splits, p.2.due = none) →
          (g.trap = none → g.pend = none →
            (raised.drained info.split = false → OnlyGroup s (s.raise gid info pc) gid { raised with pend := some noted })
              ∧ (raised.drained info.split = true → exec (.trapEntry gid) (s.setGroup gid { raised with pend := some noted }) = .next (s.raise gid info pc)))
            ∧ (g.pend = some info → g.drained info.split = true → entry ≠ 0 → ∃ t f, exec (.trapEntry gid) s = .next t
              ∧ OnlyGroup (s.tellFate info) t gid (g.fresh entry s.now ⟨info, 0, 0, 0, f, g.splits.map (fun p => p.1), g.exited, g.splits, [], g.fl.length⟩)
              ∧ (g.sregs.length = 125 → g.vregs.length = g.count →
                f.getD 1 0 = g.window ∧ f.getD 55 0 = g.gmode
                  ∧ (∀ j x, j < 4 → tget j g.splits = some x → f.getD (2 + 4 * j) 0 = x.pc
                    ∧ (∀ w, w < 3 → f.getD (3 + 4 * j + w) 0 = maskWord x.mask w)
                    ∧ f.getD (18 + j) 0 = BitVec.ofNat 32 (2 ^ 31 + (if j = info.split then 6 else x.wait.kind) * 2 ^ 28))
                  ∧ (∀ j, j < 4 → tget j g.splits = none → f.getD (18 + j) 0 = 0)
                  ∧ (∀ n, n < 125 → f.getD (64 + n) 0 = g.sregs.getD n 0)
                  ∧ ∀ r l, r < g.count → l < 96 → f.getD (224 + 96 * r + l) 0 = (g.v r).lane l))
            ∧ (g.pend = some info → g.drained info.split = true → entry = 0 → g.life = .resident → g.task = none →
              ∃ t, exec (.trapEntry gid) s = .next t ∧ Killed s t gid g info.cause info.pc))
    ∧ (∀ (s : State) (gid n : Nat) (g : Group) (tm : TrapMode) (sp : Split) (rest : Table Split) (cause : Byte),
        s.group? gid = some g → g.trap = some tm → g.splits = (n, sp) :: rest →
          let can : Prop := 1 ≤ cause.toNat ∧ cause.toNat ≤ 0x14 ∧ cause.toNat ≠ 0x11 ∧ cause.toNat ≠ 0x09 ∧ cause.toNat ≠ 0x0A
          (¬ can → exec (.nestedTrap gid cause) s = .next s)
            ∧ (can → tm.nest < 3 → Leaves (.nestedTrap gid cause) s gid
              (g.fresh (s.vf g.vf).thandler s.now { tm with
                nest := tm.nest + 1
                ncause := cause.toNat
                npc := sp.pc
                known := if cause.toNat = causeFABLOST then g.fl.length else tm.known }))
            ∧ (can → 3 ≤ tm.nest → g.life = .resident → g.task = none → ∃ t, exec (.nestedTrap gid cause) s = .next t ∧ Killed s t gid g cause.toNat sp.pc))

/-- R98, R60, R62, R69, R78, R183: what stops an encoded instruction at issue before it has any effect, in this order: the sequencer family outside a sequencer, an
encoding beyond its limits, a register beyond the count or a port not declared, a register with a write pending, a port whose value has not arrived, a poisoned port. -/
def Obligations.IssueChecks : Prop :=
  ∀ (s : State) (gid k : Nat) (g : Group) (sp : Split) (i : Instr),
    let legal : Prop := isEngine i = false ∧ i.wf = true ∧ (∀ n ∈ vFields i, n < g.count) ∧ ∀ p ∈ vPorts i, s.portDecl g p ≠ none
    let idle : Prop := ∀ r ∈ uses s g k i, r ∉ g.pending k
    Issues s gid k g sp → isStep i = false →
      (isEngine i = true → Traps i s gid k sp causeSEQCTX 127 0 0)
        ∧ (isEngine i = false → ¬ legal → Traps i s gid k sp causeILLEGAL 127 0 0)
        ∧ (legal → ¬ idle → WaitsAgain i s gid k g sp (.regs (uses s g k i)))
        ∧ (legal → idle → (∃ p ∈ vPorts i, s.portVal g p = none) → WaitsAgain i s gid k g sp (.port (vPorts i)))
        ∧ (∀ p ps l, legal → idle → (∀ q ∈ vPorts i, s.portVal g q ≠ none) → vPorts i = p :: ps → s.portVal g p = some (.poisoned l) →
            Traps i s gid k sp causeFWDPOISON 127 0 (BitVec.ofNat 32 p))

/-- R288, R360, R241: BKPT and TRAP raise their causes with the 25-bit code as TCODE; the frame's PC is that of the next instruction. A split that the debug unit steps
completes its instruction and then traps STEP: TPC is the instruction's address, the frame's PC the next one's. It is stated of NOP, SMOVI, SMOV, SADD and VADD, and
of a waiting instruction, YIELD, which completes when its wait ends. -/
def Obligations.TrapInstructions : Prop :=
  (∀ (s : State) (gid k : Nat) (g : Group) (sp : Split) (code : BitVec 25),
        let raises (i : Instr) (cause : Nat) : Prop := Ready s gid k g sp i →
          exec i s = .next (s.raise gid { cause := cause, split := k, code := code.setWidth 32, pc := sp.pc } (sp.after i))
        raises (.bkpt code) causeBKPT ∧ raises (.trap code) causeTRAPI)
    ∧ (∀ (s : State) (gid k since : Nat) (g : Group) (sp : Split) (sd sa : Reg) (imm : BitVec 18) (b : SSrc) (o : VBin),
        let stepped : Prop := Issues s gid k g sp ∧ g.stepped k = true ∧ g.pend = none ∧ ∀ p ∈ g.splits, p.2.due = none
        let add := Instr.vadd .i32 o
        let steps (i : Instr) (h : Group) : Prop := Issues s gid k g sp → s.operable g k i = true → g.stepped k = true → g.pend = none → (∀ p ∈ g.splits, p.2.due = none) →
          ∃ t, exec i s = .next (t.raise gid { cause := causeSTEP, split := k, pc := sp.pc } (sp.after i)) ∧ OnlyGroup s t gid (h.goesOn k (sp.after i) s.now)
        steps .nop g ∧ steps (.smovi sd imm) (g.setS k sd.toNat (BitVec.ofInt 32 imm.toInt)) ∧ steps (.smov false sd b) (g.setS k sd.toNat (g.opB sp b))
          ∧ steps (.sadd { w64 := false, sd := sd, sa := sa, b := b }) (g.setS k sd.toNat (g.sreg sp sa.toNat + g.opB sp b))
          ∧ (stepped → s.operable g k add = true → g.room o.vd.toNat = true → ∃ t r,
              exec add s = .next (t.raise gid { cause := causeSTEP, split := k, pc := sp.pc } (sp.after add))
                ∧ OnlyGroup s t gid ({ g with vregs := g.vregs.set o.vd.toNat r, cache := cacheAfter add (vDests add) }.goesOn k (sp.after add) s.now)
                ∧ ∀ n, n < 96 → r.lane n = if laneOn sp.mask n then s.srcLane g o.a n + s.srcLane g o.b n else (g.v o.vd.toNat).lane n)
          ∧ (s.group? gid = some g → tget k g.splits = some sp → g.runs = true → g.stepped k = true → g.pend = none → (∀ p ∈ g.splits, p.2.due = none) →
              sp.wait = .yield since → since + 16 ≤ s.now → ∃ t, OnlyGroup s t gid (g.comesBack k sp.pc s.now)
                ∧ exec (.yieldTimeout gid k) s = .next (t.raise gid
                  { cause := causeSTEP, split := k, pc := sp.cont, order := if sp.stamp = 0 then s.nextId else sp.stamp } sp.pc)))

/-- R234, R361: TRET outside trap mode traps PRIV; in it, the group is rebuilt from the frame as it stands: the window, each valid split's PC and mask (without the lanes
that had exited), the scalar and vector registers and GMODE; a frame that fails one of its six checks traps ILLEGAL. -/
def Obligations.TrapReturn : Prop :=
  ∀ (s : State) (gid k : Nat) (g : Group) (sp : Split) (tm : TrapMode),
    let f := tm.frame
    let valid (j : Nat) : Prop := j < 4 ∧ (f.getD (18 + j) 0).msb = true
    let bit (w l : Nat) : Bool := (f.getD (w + l / 32) 0).getLsbD (l % 32)
    let held := (f.getD 54 0).toNat % 16
    let tag (r : Nat) : Nat := (f.getD (192 + r / 4) 0).toNat / 256 ^ (r % 4) % 256
    let lane (r l : Nat) : Word := f.getD (224 + 96 * r + l) 0
    (tretOk g f = true ↔ (∃ j, valid j) ∧ (∀ j, valid j → (f.getD (2 + 4 * j) 0).toNat % 4 = 0)
        ∧ (∀ l, l < 96 → ((List.range 4).filter fun j => (f.getD (18 + j) 0).msb && bit (3 + 4 * j) l).length
            + ((List.range held).filter fun e => bit (23 + 4 * e) l).length ≤ 1)
        ∧ held ≤ 8 ∧ (∀ e, e < held → valid (bitField (f.getD 54 0).toNat (5 + 2 * e) (4 + 2 * e)))
        ∧ (∀ r, r < g.count → tag r ≤ 2 ∧ (tag r = 0 → ∀ l, l < 96 → lane r l = lane r 0)
            ∧ (tag r = 1 → ∀ l, l < 96 → lane r l = lane r 0 + (lane r 1 - lane r 0) * BitVec.ofNat 32 l))
        ∧ ((List.range g.count).filter fun r => tag r == 2).length ≤ g.budget)
    ∧ (Ready s gid k g sp .tret →
      (g.trap = none → Traps .tret s gid k sp causePRIV 127 0 0)
        ∧ (g.trap = some tm → tretOk g f = false → Traps .tret s gid k sp causeILLEGAL 127 0 0)
        ∧ (g.trap = some tm → tretOk g f = true → g.life = .resident → (∀ p ∈ tm.splits, p.2.free) → ∃ h, Leaves .tret s gid h
          ∧ h.trap = none ∧ h.window = f.getD 1 0 ∧ h.gmode = f.getD 55 0 &&& 1 ∧ h.exited = tm.exited ∧ h.count = g.count ∧ h.budget = g.budget
          ∧ (∀ j, valid j → ∃ x, tget j h.splits = some x ∧ x.pc = f.getD (2 + 4 * j) 0 ∧ x.exempt = true
              ∧ ∀ l, l < 96 → x.mask.getLsbD l = ((f.getD (3 + 4 * j + l / 32) 0).getLsbD (l % 32) && !tm.exited.getLsbD l))
          ∧ (∀ j, ¬ valid j → tget j h.splits = none)
          ∧ (∀ n, n < 125 → h.sregs.getD n 0 = f.getD (64 + n) 0)
          ∧ ∀ r l, r < g.count → l < 96 → (h.v r).lane l = f.getD (224 + 96 * r + l) 0))

/-! ### Control flow (R41-R48, R80-R83, R286-R290, R300, R319, R322, R415, R416) -/

/-- R22, R83, R286, R289, R290, R319, R322, R80, R81, R415, R416: Transfers of control complete at their target, which lies in the group's window of 4 GiB; one outside
it traps XLATE, a return to an address that is not a multiple of four ILLEGAL. CALL writes the next address to s119; nothing else is changed. Where the spec leaves
it open, this is the model's choice (log entry 62). WAITC goes on when at most B operations of the kind are outstanding, else it waits. YIELD puts the split at its
target at once and parks it: with a counter until at most sa operations are outstanding, without one from now on; it keeps its place in the order of issue (R228).
Nothing else is changed. -/
def Obligations.BranchesAndWaits : Prop :=
  (∀ (s : State) (gid k : Nat) (g : Group) (sp : Split) (off : BitVec 25) (o : BitVec 16) (c : BccCond) (sa : Reg),
        let jumps (i : Instr) (h : Group) (words : Int) : Prop :=
          (hiWord (g.target sp words) = g.window → Completes i s gid k h (loWord (g.target sp words)))
            ∧ (hiWord (g.target sp words) ≠ g.window → Traps i s gid k sp causeXLATE 127 0 0)
        let a := g.sreg sp sa.toNat
        let holds : Prop := match c with | .ne => a ≠ 0 | .eq => a = 0 | .lt => a.toInt < 0 | .ge => 0 ≤ a.toInt
        let link := g.sreg sp 119
        (Ready s gid k g sp (.bra off) → jumps (.bra off) g off.toInt)
          ∧ (Ready s gid k g sp (.bcc c sa o) → (holds → jumps (.bcc c sa o) g o.toInt) ∧ (¬ holds → Completes (.bcc c sa o) s gid k g (sp.after (.bcc c sa o))))
          ∧ (Ready s gid k g sp (.call off) → jumps (.call off) (g.setS k 119 (sp.pc + 4)) off.toInt)
          ∧ (Ready s gid k g sp .ret → (link.toNat % 4 = 0 → Completes .ret s gid k g link) ∧ (link.toNat % 4 ≠ 0 → Traps .ret s gid k sp causeILLEGAL 127 0 0))
          ∧ (Ready s gid k g sp .nop → Completes .nop s gid k g (sp.after .nop)))
    ∧ (∀ (s : State) (gid k : Nat) (g : Group) (sp : Split) (q : Counter) (b : SSrc) (sa : Reg) (off : BitVec 16) (y : Option Counter),
        let outstanding : Nat := match q with
          | .cpy => (s.copies.filter fun x => x.2.gid == gid).length
          | .msg => (s.msgs.filter fun x => x.2.gid == gid).length
          | .pbl => (s.pubs.filter fun x => x.2.gid == gid).length
        let i := Instr.waitc q b
        let j := Instr.yield y sa off
        let to' := g.target sp off.toInt
        let parked (x : Split) : Split := { x with
          pc := loWord to'
          wait := match y with
            | some c => .counter c (g.sreg sp sa.toNat).toNat true
            | none => .yield s.now
          cont := sp.pc
          exempt := false
          held := none
          stamp := s.nextId }
        (Ready s gid k g sp i →
            (outstanding ≤ (g.opB sp b).toNat → Completes i s gid k g (sp.after i))
              ∧ ((g.opB sp b).toNat < outstanding → Parks i s gid k g (.counter q (g.opB sp b).toNat false) (sp.after i)))
          ∧ (Ready s gid k g sp j →
            (hiWord to' = g.window → ∃ t, exec j s = .next { t with nextId := s.nextId + 1 } ∧ OnlyGroup s t gid { g with splits := tmod k parked g.splits })
              ∧ (hiWord to' ≠ g.window → Traps j s gid k sp causeXLATE 127 0 0)))

/-- R42, R43, R287: BDIV. With no active lane taken it goes on, with all of them taken it branches; otherwise the others become a new split of the lowest free number if
the partition has an entry, else a deferral entry, joined to the split's last one where that has the same address; a full stack traps ILLEGAL, before the XLATE of a
branch out of the window (R98). That this XLATE has TADDR 0 and TLANE 127 is the model's choice (log entry 62). -/
def Obligations.Divergence : Prop :=
  ∀ (s : State) (gid k : Nat) (g : Group) (sp : Split) (clr : Bool) (sa : Reg) (off : BitVec 16) (taken rest : Mask),
    let i := Instr.bdiv clr sa off
    let next := sp.after i
    let to' := g.target sp off.toInt
    let part : Group := { g with splits := tmod k (fun x => { x with mask := taken }) g.splits }
    let used (j : Nat) : Prop := ∃ x, (j, x) ∈ g.splits
    let room (j : Nat) : Prop := j < 4 ∧ ¬ used j ∧ (∀ l, l < j → used l) ∧ s.splitFree gid g = true
    let push (d : List Defer) : Prop := Completes i s gid k { part with defer := d } (loWord to')
    let apart : Prop := (∀ d ∈ g.defer, d.owner ≠ k) ∨ (∃ l1 d l2, g.defer = l1 ++ d :: l2 ∧ d.owner = k ∧ d.addr ≠ next ∧ ∀ e ∈ l2, e.owner ≠ k)
    let full : Prop := rest ≠ 0 ∧ (∀ j, ¬ room j) ∧ apart ∧ 8 ≤ g.defer.length
    Ready s gid k g sp i →
    (∀ n, n < 96 → taken.getLsbD n = (sp.mask.getLsbD n && ((g.sreg sp (sa.toNat + n / 32)).getLsbD (n % 32) != clr))) →
    (∀ n, n < 96 → rest.getLsbD n = (sp.mask.getLsbD n && !taken.getLsbD n)) →
      (taken = 0 → Completes i s gid k g next)
        ∧ (taken ≠ 0 → full → Traps i s gid k sp causeILLEGAL 127 0 0)
        ∧ (taken ≠ 0 → ¬ full → hiWord to' ≠ g.window → Traps i s gid k sp causeXLATE 127 0 0)
        ∧ (taken ≠ 0 → hiWord to' = g.window →
          (rest = 0 → Completes i s gid k g (loWord to'))
            ∧ (rest ≠ 0 → ∀ j, room j → Completes i s gid k { part with splits := tset j { pc := next, mask := rest, since := s.now + 1 } part.splits } (loWord to'))
            ∧ (rest ≠ 0 → (∀ j, ¬ room j) →
              (apart → g.defer.length < 8 → push (g.defer ++ [⟨k, next, rest⟩]))
                ∧ ∀ l1 m l2, g.defer = l1 ++ ⟨k, next, m⟩ :: l2 → (∀ d ∈ l2, d.owner ≠ k) → push (l1 ++ ⟨k, next, m ||| rest⟩ :: l2)))

/-- R44, R46, R48, R62, R252, R300: EXIT. A split with a deferral entry leaves its lanes and goes on with the entry's; another split than the last ends; the last one's
EXIT retires the group, once its remote operations are acknowledged and its sends find room: each declared port that it has not sent sends its source (R62), each of
its opens is closed (R212, R219), and it drops out of the block, quad and grid barriers of which it is a member (R56, R57), and its split entry stays taken until its
context is free (R82); of other groups, only waits on barriers whose phase that completes end, and those do. Scenes where a REGRP or BAR.grp would complete with it
are not meant here. -/
def Obligations.Exits : Prop :=
  ∀ (s : State) (gid k : Nat) (g : Group) (sp : Split),
    Ready s gid k g sp .exit → g.trap = none →
      (∀ l1 d l2, g.defer = l1 ++ d :: l2 → d.owner = k → (∀ e ∈ l2, e.owner ≠ k) → Leaves .exit s gid { g with
            exited := g.exited ||| sp.mask
            defer := l1 ++ l2
            splits := tset k { pc := d.addr, mask := d.mask, since := s.now + 1 } g.splits })
        ∧ ((∀ e ∈ g.defer, e.owner ≠ k) →
          (1 < g.splits.length → g.life = .resident → (∀ p ∈ g.splits, p.2.free) → Leaves .exit s gid { g with exited := g.exited ||| sp.mask, splits := tdel k g.splits })
            ∧ (g.splits.length ≤ 1 → s.ropCount gid ≠ 0 → Holds .exit s gid k g sp .release)
            ∧ (g.splits.length ≤ 1 → s.ropCount gid = 0 → s.sendsFit g = false → Holds .exit s gid k g sp (.send 4))
            ∧ (g.splits.length ≤ 1 → s.ropCount gid = 0 → s.sendsFit g = true → g.life = .resident → (∀ p ∈ s.groups, p.2.atRegrp = false) →
              ∃ t, exec .exit s = .next t
                ∧ t.group? gid = some { g with life := .retired, splits := [], defer := [], reserv := none, trap := none, pend := none, rinstr := g.lastWrites, kept := 1 }
                ∧ (∀ j h, j ≠ gid → s.group? j = some h → ∃ w, t.group? j = some { h with splits := w }
                    ∧ ((∀ p ∈ h.splits, ∀ b q, p.2.wait ≠ .bar b q) → w = h.splits)
                    ∧ (tableOk h.splits = true → ∀ n x, tget n h.splits = some x → ∃ y, tget n w = some y
                      ∧ (y = x ∨ ∃ b q, x.wait = .bar b q ∧ (∀ c, t.barrier b = some c → c.phase ≠ q)
                        ∧ y = { x with pc := x.cont, wait := .none, held := none, stamp := 0, since := s.now, due := y.due })
                      ∧ (∀ b a c, h.life = .resident → x.wait = .bar b a.phase → s.barrier b = some a → t.barrier b = some c → c.phase ≠ a.phase → y.wait = .none)))
                ∧ (∀ l p d n, tget g.launch s.launches = some l → g.item = some n → p < 4 → p ∉ g.sent → s.portDecl g p = some d → d.k ≠ 0 →
                    n + d.k < l.kernel.grid → s.itemOver g.launch l (n + d.k) = false →
                      ∃ f ∈ t.fwds, f.launch = g.launch ∧ f.item = n + d.k ∧ f.port = p ∧ f.val = .arrived (g.portSource d) ∧ f.arrived = false)
                ∧ (∀ a ∈ s.cairns, g.task = none → (∀ u ∈ s.tasks, s.taskOver u.1 u.2 = false) → gid ∈ a.opens →
                    (∀ b ∈ s.cairns, b.vf = a.vf → b.name = a.name → b = a) →
                      let z := { a with opens := a.opens.filter (· != gid) }
                      let written : Prop := a.mir = true ∧ a.lost = false ∧ a.restorable = false
                      (written → t.cairn a.vf a.name = some a ∧ ∃ w ∈ t.wbacks, w.2 = ⟨a.vf, a.name, s.cairnBytes a, none, none, some (.group gid)⟩)
                        ∧ (¬ written → z.closed = false ∨ z.drop = false ∧ (∀ c, z.hand ≠ some (.core c)) → t.cairn a.vf a.name = some z)
                        ∧ (¬ written → z.closed = true → z.drop = true → t.cairn a.vf a.name = none))
                ∧ (∀ key a c, s.barrier key = some a → t.barrier key = some c → (s.barriers.map fun y => y.1).Nodup → key.level ≠ 4 →
                    let n := if gid ∈ a.arrived then a.count else a.count + 1
                    let late : Prop := a.doneAt = some s.now ∧ gid ∉ a.arrived
                    let full (m e : Nat) : Prop := e ≠ 0 ∧ m = e ∧ a.parts = 0 ∧ a.broken = false
                    let stands (b : Barrier) (ph : Word) (e m d : Nat) : Prop := b.phase = ph ∧ b.expected = e ∧ b.count = m ∧ b.drops = d
                    (gid ∉ a.members → c = a)
                      ∧ (gid ∈ a.members → c.members = a.members.filter (· != gid)
                        ∧ (¬ late → (full n a.expected → stands c (a.phase + 1) (a.expected - (a.drops + 1)) 0 0)
                          ∧ (¬ full n a.expected → stands c a.phase a.expected n (a.drops + 1)))
                        ∧ (late → (full a.count (a.expected - 1) → stands c (a.phase + 1) (a.expected - 1 - a.drops) 0 0)
                          ∧ (¬ full a.count (a.expected - 1) → stands c a.phase (a.expected - 1) a.count a.drops))))
                ∧ (s.tasks = [] → ∀ key, (s.barrier key).isSome = true →
                    (key.level ≠ 1 ∨ ∃ bid blk, g.block = some bid ∧ key.owner = bid + 1 ∧ tget bid s.blocks = some blk ∧ ∃ j ∈ blk.left, j ≠ gid) → (t.barrier key).isSome = true)
                ∧ t.mem = s.mem ∧ t.scratch = s.scratch
                ∧ tget g.launch t.launches = (tget g.launch s.launches).map fun l => { l with sums := { l.sums with retired := l.sums.retired + 1 } }))

/-! ### System registers (R11, R12, R134, R140, R230-R233, R295, R347, R357) -/

/-- R11, R12, R230, R231, R295, R347: SRD completes with the register's value in sd, and CLK with the time base (100 MHz) or the cycle counter of the core's die in the
pair; a register marked priv outside trap mode traps PRIV, a number that names none ILLEGAL. Nothing else is changed. That every die's time base is its package's
count, and the cycle counter's start, are the model's choices (log entries 19 and 64). -/
def Obligations.SystemReads : Prop :=
  ∀ (s : State) (gid k : Nat) (g : Group) (sp : Split) (sd : Reg) (b : SSrc) (tb : Bool) (n : Nat) (tm : TrapMode),
    let i := Instr.srd sd b
    let j := Instr.clk tb sd
    let core := s.coreAt g.core
    let reads (m : Nat) (v : Word) : Prop := n = m → Completes i s gid k (g.setS k sd.toNat v) (sp.after i)
    let p := s.pkg (pkgOf g.core)
    let known : Nat := if tm.info.cause = causeFABLOST ∨ tm.ncause = causeFABLOST then min 64 (min tm.known g.fl.length) else 0
    (Ready s gid k g sp i → (g.opB sp b).toNat % 65536 = n →
      reads 0x01 g.gmode ∧ reads 0x21 (if g.copyErr then 1 else 0) ∧ reads 0x30 (BitVec.ofNat 32 core.sdccnt)
        ∧ reads 0x31 core.atomloc ∧ reads 0x32 core.atomhome
        ∧ (∀ q, q < 16 → reads (0x40 + q) (s.queue (g.core * 16 + q)).cfg)
        ∧ (∀ off len, s.alloc g.block g.core = some (off, len) → 0 < len → reads 0x20 (BitVec.ofNat 32 off))
        ∧ (g.trap = none → (0x10 ≤ n ∧ n ≤ 0x18 ∨ n = 0x34 ∨ n = 0x100 ∨ 0x104 ≤ n ∧ n ≤ 0x113 ∨ 0x118 ≤ n ∧ n ≤ 0x123) → Traps i s gid k sp causePRIV 127 0 0)
        ∧ ((n = 0 ∨ 2 ≤ n ∧ n ≤ 0x0F ∨ 0x19 ≤ n ∧ n ≤ 0x1F ∨ 0x50 ≤ n ∧ n ≤ 0xFF ∨ 0x850 ≤ n ∧ n < 0x8000 ∨ 0x8000 + 224 + 96 * g.count ≤ n) →
            Traps i s gid k sp causeILLEGAL 127 0 0)
        ∧ (g.trap = some tm →
          reads 0x10 (BitVec.ofNat 32 (tm.info.cause + 2 ^ 8 * tm.info.split + 2 ^ 10 * tm.info.lane + 2 ^ 17 * tm.nest))
            ∧ reads 0x11 tm.info.pc ∧ reads 0x12 (loWord tm.info.addr) ∧ reads 0x13 (hiWord tm.info.addr) ∧ reads 0x14 tm.info.code
            ∧ reads 0x15 (BitVec.ofNat 32 tm.ncause) ∧ reads 0x16 tm.npc ∧ reads 0x17 (loWord (s.vf g.vf).thandler)
            ∧ reads 0x34 (BitVec.ofNat 32 known) ∧ reads 0x100 g.dbg.ctl
            ∧ (∀ e m, m < 64 → (known ≤ m → ∀ w, w < 6 → reads (0x600 + 8 * m + w) 0)
                ∧ (m < known → g.fl[m]? = some e →
                  reads (0x600 + 8 * m) (BitVec.ofNat 32 ((if e.applied then 1 else 2) + 4 * e.kind + 32 * e.w64.toNat + 65536 * e.dst))
                    ∧ reads (0x601 + 8 * m) (loWord e.addr) ∧ reads (0x602 + 8 * m) (hiWord e.addr) ∧ reads (0x603 + 8 * m) (loWord e.val)
                    ∧ reads (0x604 + 8 * m) (hiWord e.val) ∧ reads (0x605 + 8 * m) (BitVec.ofNat 32 e.lane)))
            ∧ (∀ l m key y, 1 ≤ l → l ≤ 4 → m < 16 → (s.barKey g l m = none →
                  n = 0x200 + 16 * l + m ∨ n = 0x800 + 16 * l + m ∨ n = 0x280 + 16 * l + m → Traps i s gid k sp causeILLEGAL 127 0 0)
                ∧ (s.barKey g l m = some key → s.barrier key = some y →
                  reads (0x200 + 16 * l + m) (BitVec.ofNat 32 y.expected) ∧ reads (0x800 + 16 * l + m) (BitVec.ofNat 32 y.count)
                    ∧ reads (0x280 + 16 * l + m) y.phase))
            ∧ (∀ m l d, m < 4 → (s.portDecl g m = none → n = 0x300 + m → Traps i s gid k sp causeILLEGAL 127 0 0)
                ∧ (s.portDecl g m = some d → reads (0x300 + m) (match s.portVal g m with
                      | none => 0 | some (.arrived _) => 1 | some (.poisoned _) => 2 | some (.defaulted _) => 3)
                    ∧ (l < 96 → reads (0x400 + 128 * m + l) (match s.portVal g m with
                      | none => 0 | some (.arrived v) => v.lane l | some (.poisoned ws) => ws.getD l 0 | some (.defaulted w) => w))))
            ∧ (∀ w, w < 4 → reads (0x104 + w) (g.dbg.bpa.getD w 0) ∧ reads (0x120 + w) (g.dbg.wpl.getD w 0)
                ∧ (∀ j, j < 3 → reads (0x108 + 3 * w + j) (maskWord (g.dbg.bpm.getD w 0) j))
                ∧ reads (0x118 + 2 * w) (loWord (g.dbg.wpa.getD w 0)) ∧ reads (0x119 + 2 * w) (hiWord (g.dbg.wpa.getD w 0)))
            ∧ (∀ w, w < 224 + 96 * g.count → w < 32768 → reads (0x8000 + w) (tm.frame.getD w 0))))
      ∧ (Ready s gid k g sp j → Completes j s gid k (g.setPair k sd.toNat (
          if tb then BitVec.ofNat 64 ((s.now - p.epoch) * 5 / 47)
          else p.counts.getD (g.core % 256 / 32) 0 + BitVec.ofNat 64 ((p.runFrom.map fun t => s.now - t).getD 0))) (sp.after j))

/-- R134, R140, R230, R231, R238, R357, R232, R233, R235, R261: SWR completes with the register written as its rule says, and the steps of system-register writes have
the same effect without moving the split; writes of read-only registers change nothing. Where the spec leaves it open, this is the model's choice (log entries 16 and
17). The writes that act beyond the group. MQCFG enables a queue whose conditions hold, with no entry and no credit, and disables one; BARECNT sets a barrier's
expected count, completing the phase where enough have arrived (at a pod barrier, once all parts of the launch have been accepted, R261); PORTSTAT 1 accepts and
PORTLANE patches a poisoned value; TKILL with a cause kills the group. Where the spec leaves it open, this is the model's choice (log entry 18). -/
def Obligations.SystemWrites : Prop :=
  (∀ (s : State) (gid k : Nat) (g : Group) (sp : Split) (sa : Reg) (b : SSrc) (n : BitVec 16) (v : Word) (tm : TrapMode),
        let i := Instr.swr sa b
        let both (m : Nat) (h : Group) : Prop := n.toNat = m →
          (Ready s gid k g sp i → (g.opB sp b).setWidth 16 = n → g.sreg sp sa.toNat = v → Completes i s gid k h (sp.after i))
            ∧ (Issues s gid k g sp → Leaves (.systemRegisterWrite n v) s gid h)
        both 0x01 { g with gmode := v &&& 1 }
          ∧ both 0x21 { g with copyErr := false }
          ∧ (Issues s gid k g sp → Leaves (.cpystatWrite v) s gid { g with copyErr := false })
          ∧ both 0x20 g ∧ both 0x30 g ∧ both 0x31 g ∧ both 0x32 g
          ∧ (g.trap = some tm →
            both 0x10 g ∧ both 0x11 g ∧ both 0x17 g
              ∧ both 0x100 { g with dbg := { g.dbg with ctl := v &&& 0xF000FF0F } }
              ∧ (∀ w, w < 4 → both (0x104 + w) { g with dbg := { g.dbg with bpa := g.dbg.bpa.set w v } }
                  ∧ both (0x120 + w) { g with dbg := { g.dbg with wpl := g.dbg.wpl.set w (v &&& 0xF) } }
                  ∧ both (0x118 + 2 * w) { g with dbg := { g.dbg with wpa := g.dbg.wpa.set w (pairOf (hiWord (g.dbg.wpa.getD w 0)) v) } }
                  ∧ both (0x119 + 2 * w) { g with dbg := { g.dbg with wpa := g.dbg.wpa.set w (pairOf v (loWord (g.dbg.wpa.getD w 0))) } })
              ∧ both (0x8000 + 55) { g with trap := some { tm with frame := tm.frame.set 55 (v &&& 1) } }
              ∧ ∀ w, (2 ≤ w ∧ w ≤ 17 ∨ 22 ≤ w ∧ w ≤ 54 ∨ 64 ≤ w ∧ w ≤ 188 ∨ 192 ≤ w ∧ w < 224 + 96 * g.count) → w < 32768 →
                  let h := { g with trap := some { tm with
                    frame := tm.frame.set w v
                    rewritten := if w ≤ 17 ∧ w % 4 = 2 then tm.rewritten ++ [(w - 2) / 4] else tm.rewritten } }
                  both (0x8000 + w) h ∧ (Issues s gid k g sp → Leaves (.frameWrite w v) s gid h)))
    ∧ (∀ (s : State) (gid k : Nat) (g : Group) (sp : Split) (q l id port lane : Nat) (v : Word) (tm : TrapMode) (key : BarKey) (b : Barrier) (f : Fwd) (ls : List Word),
        let old := s.queue (g.core * 16 + q)
        let bare (t : State) : Table Group := t.groups.map fun p => (p.1, { p.2 with splits := [], trap := none })
        let same (t : State) : Prop := bare t = bare s ∧ (old.cfg.msb = false → t.groups = s.groups)
        Issues s gid k g sp →
          (q < 16 → v.msb = true → old.cfg.msb = false → s.queueOk g.vf g.core v = true →
              ∃ t, exec (.mqcfgWrite q v) s = .next t ∧ t.queue (g.core * 16 + q) = { cfg := v &&& 0xF8007FFF } ∧ t.groups = s.groups ∧ t.mem = s.mem)
            ∧ (q < 16 → v.msb = true → s.queueOk g.vf g.core v = false ∨ old.cfg.msb = true →
              ∃ t, exec (.mqcfgWrite q v) s = .next t ∧ t.queue (g.core * 16 + q) = { cfg := old.cfg &&& 0x7FFFFFFF } ∧ same t ∧ t.mem = s.mem)
            ∧ (q < 16 → v.msb = false →
              ∃ t, exec (.mqcfgWrite q v) s = .next t ∧ t.queue (g.core * 16 + q) = { cfg := v &&& 0xF8007FFF } ∧ same t ∧ t.mem = s.mem)
            ∧ (g.trap = some tm →
              (1 ≤ l → l ≤ 4 → id < 16 → s.barKey g l id = some key → s.barrier key = some b → b.broken = false →
                  (b.count < v.toNat → v.toNat ≤ b.expected → ∃ t, exec (.barecntWrite l id v) s = .next t ∧ t.barrier key = some { b with expected := v.toNat } ∧ t.groups = s.groups)
                    ∧ (v.toNat ≤ b.count → b.parts ≠ 0 → ∃ t, exec (.barecntWrite l id v) s = .next t ∧ t.barrier key = some { b with expected := v.toNat } ∧ t.groups = s.groups)
                    ∧ (v.toNat ≤ b.count → b.parts = 0 → ∃ t c, exec (.barecntWrite l id v) s = .next t ∧ t.barrier key = some c ∧ c.phase = b.phase + 1 ∧ c.count = 0 ∧ c.expected = v.toNat - b.drops ∧ bare t = bare s
                        ∧ ∀ j h m x, s.group? j = some h → h.life = .resident → tableOk h.splits = true → tget m h.splits = some x → x.wait = .bar key b.phase →
                            ∃ h' y, t.group? j = some h' ∧ tget m h'.splits = some y ∧ y.wait = .none ∧ y.pc = x.cont)
                    ∧ (b.expected < v.toNat → b.count < v.toNat → (∃ p ∈ s.groups, p.2.waitsOn key b.phase = true) →
                      exec (.barecntWrite l id v) s = .next (s.raise gid { cause := causeBARBUSY, split := k, pc := sp.pc } sp.pc)))
                ∧ (port < 4 → (∃ d, s.portDecl g port = some d) → f ∈ s.fwds → f.launch = g.launch → some f.item = g.item → f.port = port → f.arrived = true → f.val = .poisoned ls →
                  (∃ t, exec (.portstatWrite port 1) s = .next t ∧ { f with val := .arrived (.g ls) } ∈ t.fwds ∧ t.groups = s.groups)
                    ∧ (lane < 96 → ∃ t, exec (.portlaneWrite port lane v) s = .next t ∧ { f with val := .poisoned (ls.set lane v) } ∈ t.fwds ∧ t.groups = s.groups))
                ∧ (1 ≤ v.toNat → v.toNat ≤ 0x14 → g.life = .resident → g.task = none →
                  ∃ t, exec (.tkillWrite v) s = .next t ∧ Killed s t gid g v.toNat tm.info.pc)
                ∧ (v = 0 ∨ 0x14 < v.toNat → exec (.tkillWrite v) s = .next s)))

/-! ### Groups together (R44, R49, R51-R68, R281-R285, R302, R321, R345) -/

/-- R49, R53-R55, R262, R281-R285: the barrier family above grp on a barrier of this package. An arrival counts once for a phase; the last one expected completes it; BAR
waits for the phase to change, BARW while it is the one in sa; BARA writes the phase (or, for no member, the one before) to sd; BARD leaves the barrier with its next
phase. An id that is not declared traps ILLEGAL, a broken barrier FABLOST. An arrival at pod level waits, as a release at pod scope, for the operations in flight
(log entry 78). A group that drops out in the clk in which a phase completed belongs to that phase. Only that barrier and the group are changed, and the splits that
wait for a completed phase, which go on. A pod barrier is kept and released in its home's record (log entry 22), and completes no phase until every part of the
launch has been accepted (R261). -/
def Obligations.Barriers : Prop :=
  ∀ (s : State) (gid k : Nat) (g : Group) (sp : Split) (l : BarLevel) (id : BitVec 4) (r : Reg) (key : BarKey) (b : Barrier),
    let bar := Instr.bar l id
    let bara := Instr.bara l id r
    let bard := Instr.bard l id
    let barw := Instr.barw l id r
    let done (c : Barrier) : Barrier := { c with
      phase := c.phase + 1
      count := 0
      expected := c.expected - c.drops
      drops := 0
      arrived := []
      doneAt := some s.now }
    let settle (c : Barrier) : Barrier := if c.expected ≠ 0 ∧ c.count = c.expected ∧ c.parts = 0 then done c else c
    let counted : Barrier := if gid ∈ b.arrived then b else { b with count := b.count + 1, arrived := gid :: b.arrived }
    let here : Barrier := if gid ∈ b.arrived then b else settle counted
    let rest := b.members.filter (· != gid)
    let gone : Barrier := if b.doneAt = some s.now ∧ gid ∉ b.arrived then settle { b with expected := b.expected - 1, members := rest }
      else settle { counted with drops := counted.drops + 1, members := rest }
    let acts (i : Instr) (c : Barrier) (h : Group) (n : Nat) : Prop := ∃ t, exec i s = .next t
      ∧ t = { s with barriers := t.barriers, groups := t.groups, nextId := s.nextId + n }
      ∧ t.group? gid = some h ∧ (∀ j, j ≠ gid → t.group? j = if c.phase = b.phase then s.group? j else (s.group? j).map fun x => x.wakeBar key c.phase s.now)
      ∧ t.barrier key = some c ∧ ∀ k', k' ≠ key → t.barrier k' = s.barrier k'
    let parked (i : Instr) (x : Split) : Split := { x with wait := .bar key b.phase, cont := sp.after i, exempt := false, held := none, stamp := s.nextId }
    let waits (i : Instr) : Group := { g with splits := tmod k (parked i) g.splits }
    let alone : Prop := ∀ x ∈ g.splits, ∀ q, x.2.wait ≠ .bar key q
    let acked : Prop := key.level = 4 → gid ∉ b.arrived → s.podReady g.vf gid = true
    let goes (i : Instr) (h : Group) : Group := h.goesOn k (sp.after i) s.now
    l ≠ .grp →
      ((s.barKey g l.code id.toNat = none → ∀ i, i = bar ∨ i = bara ∨ i = bard ∨ i = barw → Ready s gid k g sp i → Traps i s gid k sp causeILLEGAL 127 0 0))
        ∧ (s.barKey g l.code id.toNat = some key → s.barrier key = some b →
          (b.broken = true → ∀ i, i = bar ∨ i = bara ∨ i = bard ∨ i = barw → Ready s gid k g sp i → Traps i s gid k sp causeFABLOST 127 0 0)
            ∧ (b.broken = false → gid ∉ b.members →
              (Ready s gid k g sp bar → acts bar b (goes bar g) 0) ∧ (Ready s gid k g sp bara → acts bara b (goes bara (g.setS k r.toNat (b.phase - 1))) 0)
                ∧ (Ready s gid k g sp bard → acts bard b (goes bard g) 0) ∧ (Ready s gid k g sp barw → acts barw b (goes barw g) 0))
            ∧ (b.broken = false → gid ∈ b.members → (key.level = 4 → s.podHome key.owner = pkgOf g.vf) → acked → alone →
              (Ready s gid k g sp bar → if here.phase = b.phase then acts bar here (waits bar) 1 else acts bar here (goes bar g) 0)
                ∧ (Ready s gid k g sp bara → acts bara here (goes bara (g.setS k r.toNat b.phase)) 0)
                ∧ (Ready s gid k g sp bard → acts bard gone (goes bard g) 0))
            ∧ (b.broken = false → gid ∈ b.members → ¬ acked → ∀ i, i = bar ∨ i = bara ∨ i = bard → Ready s gid k g sp i → WaitsAgain i s gid k g sp .acks)
            ∧ (b.broken = false → gid ∈ b.members → Ready s gid k g sp barw →
              if b.phase = g.sreg sp r.toNat then acts barw b (waits barw) 1 else acts barw b (goes barw g) 0))
        ∧ ∀ (h : Group) (n : Nat) (x : Split) (phase : Word), h.life = .resident → h.splits = [(n, x)] →
            (∀ q, x.wait = .bar key q → q ≠ phase →
                h.wakeBar key phase s.now = { h with splits := [(n, { x with
                  pc := x.cont
                  wait := .none
                  held := none
                  stamp := 0
                  since := s.now
                  due := if h.stepped n = true then some (x.stamp, x.pc) else none })] })
              ∧ ((∀ q, x.wait ≠ .bar key q ∨ q = phase) → h.wakeBar key phase s.now = h)

/-- R49, R66, R67, R321, R44: REGRP. In trap mode it traps ILLEGAL; in an item, without a block or in a block on several cores REGRPX. While another split of the group
is elsewhere it waits. A block's only group with active lanes is packed: lane j of each named register takes the j-th active lane's value, the lanes behind them are
no longer active, and the group goes on. With the last of several groups of a block that comes, the active lanes of all are listed in order of (group index, lane)
and packed into the groups of the lowest indices, as many as they fill; those go on behind their REGRPs, and the others retire. BAR.grp. With no other split and no
deferral entry it completes; a split with deferral entries leaves its lanes in the newest place of the stack and goes on with its entry's; one of several splits
waits. With the last one that comes, while no deferral entry is held, the join is complete: every split that waits at a BAR.grp goes on behind its own, and one that
waits at a REGRP keeps waiting. -/
def Obligations.GroupBarrierAndRegrouping : Prop :=
  (∀ (s : State) (gid k : Nat) (g : Group) (sp : Split) (first count : Reg) (bid : Nat) (ps : List (Nat × Group × Nat × Split)),
        let listed := ps.flatMap fun p => (lanes.filter (laneOn p.2.2.2.mask)).map fun l => (p.2.1, l)
        let fused := (listed.length + 95) / 96
        let i := Instr.regrp first count
        let active := lanes.filter (laneOn sp.mask)
        let range := regsFrom first.toNat count.toNat
        Ready s gid k g sp i →
          (g.trap.isSome = true → Traps i s gid k sp causeILLEGAL 127 0 0)
            ∧ (g.trap = none → (g.item.isSome = true ∨ g.block = none ∨ s.spansCores g = true) → Traps i s gid k sp causeREGRPX 127 0 0)
            ∧ (g.trap = none → g.item = none → g.block = some bid → s.spansCores g = false → g.life = .resident →
              ((∀ e ∈ g.defer, e.owner ≠ k) → (∃ p ∈ g.splits, p.1 ≠ k ∧ p.2.free) →
                  Parks i s gid k g (.regrp first.toNat count.toNat) (sp.after i))
                ∧ (g.splits = [(k, sp)] → g.defer = [] → g.pend = none → active ≠ [] → g.roomFor range = true →
                  (s.groups.filter fun p => p.2.block == some bid && p.2.core == g.core && p.2.life != .retired) = [(gid, g)] →
                    ∃ t vregs m, exec i s = .next { t with nextId := s.nextId + 1 } ∧ OnlyGroup s t gid { g with
                        vregs := vregs
                        exited := ~~~m
                        cache := g.cache.filter fun e => !range.contains e.2
                        splits := [(k, { sp with
                          pc := sp.after i
                          mask := m
                          wait := .none
                          cont := sp.after i
                          exempt := false
                          held := none
                          stamp := 0
                          due := none
                          since := s.now })] }
                      ∧ (∀ n, n < 96 → m.getLsbD n = decide (n < active.length))
                      ∧ (∀ r, r ∉ range → vregs.getD r (.u 0) = g.v r)
                      ∧ ∀ r ∈ range, r < g.vregs.length → ∀ j, j < 96 → (vregs.getD r (.u 0)).lane j = (g.v r).lane (active.getD j j))
                ∧ ((gid, g, k, sp) ∈ ps → (ps.map fun p => p.1).Nodup → s.barriers = [] → s.cairns = [] → s.tasks = [] →
                  sortBy (fun p => p.2.gidx) (s.groups.filter fun p => p.2.block == some bid && p.2.core == g.core && p.2.life != .retired) = (ps.map fun p => (p.1, p.2.1)) →
                  (∀ p ∈ ps, s.group? p.1 = some p.2.1 ∧ p.2.1.splits = [(p.2.2.1, p.2.2.2)] ∧ p.2.1.defer = [] ∧ p.2.1.life = .resident ∧ p.2.1.trap = none ∧ p.2.1.pend = none
                    ∧ p.2.1.stepped p.2.2.1 = false ∧ p.2.2.2.due = none ∧ (p.1 = gid ∨ p.2.2.2.wait = .regrp first.toNat count.toNat)) →
                  (∀ p ∈ ps.take fused, p.2.1.roomFor range = true) → (∀ p ∈ ps.drop fused, s.ropCount p.1 = 0) →
                    ∃ t, exec i s = .next t ∧ (∀ j, j ∉ (ps.map fun p => p.1) → t.group? j = s.group? j)
                      ∧ (∀ p ∈ ps.drop fused, ∃ h, t.group? p.1 = some h ∧ h.life = .retired ∧ h.splits = [])
                      ∧ ∀ x id h n y, x < fused → ps[x]? = some (id, h, n, y) → ∃ vregs m,
                        let next := if id = gid then sp.after i else y.cont
                        t.group? id = some { h with
                            vregs := vregs
                            exited := ~~~m
                            cache := h.cache.filter fun e => !range.contains e.2
                            splits := [(n, { y with
                              pc := next
                              mask := m
                              wait := .none
                              cont := next
                              exempt := if id = gid then false else y.exempt
                              held := none
                              stamp := 0
                              due := none
                              since := s.now })] }
                          ∧ (∀ l, l < 96 → m.getLsbD l = decide (96 * x + l < listed.length))
                          ∧ (∀ r, r ∉ range → vregs.getD r (.u 0) = h.v r)
                          ∧ ∀ r ∈ range, r < h.vregs.length → ∀ l, l < 96 →
                              let src := listed.getD (96 * x + l) (h, l)
                              (vregs.getD r (.u 0)).lane l = (src.1.v r).lane src.2)))
    ∧ (∀ (s : State) (gid k : Nat) (g : Group) (sp : Split),
        let i := Instr.bar .grp 0
        Ready s gid k g sp i → g.life = .resident →
          (g.splits = [(k, sp)] → g.defer = [] →
              ∃ t, exec i s = .next { t with nextId := s.nextId + 1 }
                ∧ OnlyGroup s t gid ({ g with splits := [(k, { sp with cont := sp.after i })] }.goesOn k (sp.after i) s.now))
            ∧ (∀ l1 d l2, g.defer = l1 ++ d :: l2 → d.owner = k → (∀ e ∈ l2, e.owner ≠ k) → Leaves i s gid { g with
                defer := l1 ++ l2 ++ [⟨k, sp.pc, sp.mask⟩]
                splits := tset k { sp with pc := d.addr, mask := d.mask, wait := .none, since := s.now + 1 } g.splits })
            ∧ ((∀ e ∈ g.defer, e.owner ≠ k) → (∃ p ∈ g.splits, p.1 ≠ k ∧ p.2.free) → Parks i s gid k g .barGrp (sp.after i))
            ∧ (tableOk g.splits = true → g.defer = [] → (∀ p ∈ g.splits, p.1 = k ∨ p.2.wait = .barGrp ∨ ∃ a n, p.2.wait = .regrp a n) → (∀ p ∈ g.splits, g.stepped p.1 = false) →
              ∃ t h, exec i s = .next { t with nextId := s.nextId + 1 } ∧ OnlyGroup s t gid h ∧ h = { g with splits := h.splits }
                ∧ (∀ j, tget j g.splits = none → tget j h.splits = none)
                ∧ ∀ j x, tget j g.splits = some x → tget j h.splits = some (
                    if j = k then { x with pc := sp.after i, cont := sp.after i, wait := .none, held := none, stamp := 0, exempt := false, since := s.now + 1, due := none }
                    else if x.wait = .barGrp then { x with pc := x.cont, wait := .none, held := none, stamp := 0, since := s.now + 1, due := none }
                    else x)))

/-- R61-R63, R68, R302, R345: FSEND sends the source register's value to the item at the declared distance, unless that is beyond the grid or over, and marks the port; a
second send traps FWDTWICE, without a buffer entry, or behind another split that waits to send on the port, it waits with what it has read. SPAWN starts a group with
eight arguments, or answers status 1 without a free context and 2 in an item. Where the spec leaves it open, this is the model's choice (log entry 29). -/
def Obligations.SendsAndSpawns : Prop :=
  ∀ (s : State) (gid k : Nat) (g : Group) (sp : Split) (port : BitVec 2) (d : PortDecl) (item : Nat) (l : Launch) (off : BitVec 25) (sd sa : Reg) (part slot : Nat),
    let i := Instr.fsend port
    let p := port.toNat
    let j := Instr.spawn off sd sa
    let to' := g.target sp off.toInt
    let old := s.vf g.vf
    let before : Prop := ∃ x ∈ s.groups, x.2.life = .resident ∧ x.2.pend = none ∧ x.2.core = g.core ∧ x.2.part = g.part ∧ x.2.slot = g.slot
      ∧ ∃ y ∈ x.2.splits, y.2.wait = .again (.send p) ∧ ∃ h, y.2.held = some h ∧ h.stamp < s.nextId
    (Ready s gid k g sp i →
        (s.portDecl g p = none ∨ g.trap.isSome = true → Traps i s gid k sp causeILLEGAL 127 0 0)
          ∧ (g.trap = none → s.portDecl g p = some d → g.item = some item → tget g.launch s.launches = some l →
            (p ∈ g.sent → Traps i s gid k sp causeFWDTWICE 127 0 (BitVec.ofNat 32 p))
              ∧ (p ∉ g.sent → (s.fwdRoom g item (item + d.k) = false ∨ before) → Holds i s gid k g sp (.send p))
              ∧ (p ∉ g.sent → s.fwdRoom g item (item + d.k) = true → ¬ before → ∃ t, exec i s = .next t
                ∧ OnlyGroup { s with fwds := t.fwds } t gid ({ g with sent := g.sent ++ [p] }.goesOn k (sp.after i) s.now)
                ∧ t.fwds = if l.kernel.grid ≤ item + d.k ∨ s.itemOver g.launch l (item + d.k) = true then s.fwds else s.fwds ++ [{
                    launch := g.launch
                    item := item + d.k
                    port := p
                    val := .arrived (if d.scalar then .u (g.sregs.getD d.src 0) else g.v d.src)
                    spilled := !s.coreEntry g.launch (item + d.k) }])))
      ∧ (Ready s gid k g sp j →
        (g.trap.isSome = true → Traps j s gid k sp causeILLEGAL 127 0 0)
          ∧ (g.trap = none → hiWord to' ≠ g.window → Traps j s gid k sp causeXLATE 127 0 0)
          ∧ (g.trap = none → hiWord to' = g.window →
            (g.item.isSome = true → Completes j s gid k (g.setS k sd.toNat 2) (sp.after j))
              ∧ (g.item = none → s.freeContext g.core (grant g.budget g.count) = none → Completes j s gid k (g.setS k sd.toNat 1) (sp.after j))
              ∧ (g.item = none → s.freeContext g.core (grant g.budget g.count) = some (part, slot) → s.group? s.nextId = none → ∃ t h, exec j s = .next t
                ∧ t.group? gid = some ((g.setS k sd.toNat 0).goesOn k (sp.after j) s.now) ∧ t.group? s.nextId = some h
                ∧ (∀ n, n ≠ gid → n ≠ s.nextId → t.group? n = s.group? n) ∧ t.mem = s.mem ∧ t.scratch = s.scratch ∧ t.vfs = s.vfs ∧ t.cores = s.cores
                ∧ h.splits = [(0, { pc := loWord to', mask := BitVec.allOnes 96, since := s.now })] ∧ h.window = g.window
                ∧ (∀ n, n < 8 → h.sregs.getD n 0 = g.sreg sp (sa.toNat + n)) ∧ (∀ n, 8 ≤ n → n < 120 → h.sregs.getD n 0 = 0)
                ∧ h.sregs.getD 121 0 = 0xFFFFFFFF ∧ h.sregs.getD 124 0 = 96 ∧ (∀ n, n = 120 ∨ n = 122 ∨ n = 123 → h.sregs.getD n 0 = g.sregs.getD n 0)
                ∧ (∀ n m, (h.v n).lane m = 0) ∧ h.core = g.core ∧ h.part = part ∧ h.slot = slot ∧ h.count = g.count ∧ h.budget = g.budget ∧ h.gmode = 0
                ∧ h.dbg = old.debug ∧ h.block = none ∧ h.trap = none)))

/-! ### Asynchronous work (R79, R134-R140, R146, R147, R158, R174-R179, R298, R299, R307, R310-R314, R320) -/

/-- R138-R140, R298, R138, R140, R158, R299: CPY completes at once with its engine's work planned: byte by byte in the order of the destination, for a tile column by
column. A tile that breaks its terms and a copy within a scratchpad that overlaps itself fault (at completion). Bytes outside the destination and the registers are
unchanged. With 255 outstanding it waits with what it has read; while a remote page that it touches cannot be reached, or operations of its tenant are in flight to
it, it does not issue (log entry 11). When a copy completes that faults nowhere, at issue or now, and whose bytes nothing has touched meanwhile, its destination
holds its source, byte by byte, and nothing else of either memory is changed; a copy that breaks a rule at both ends, its tile's terms, an address's check or the
overlap within a scratchpad, sets CPYERR (what breaks one at one end only faults or not by a free choice: log entry 13). It does not complete while a page of it
cannot be reached (log entry 11), or while its writes to global memory would pass an atomic of the tenant in flight (R163). -/
def Obligations.Copies : Prop :=
  (∀ (s : State) (gid k : Nat) (g : Group) (sp : Split) (kind : CpyKind) (sh : Bool) (tr : CpyTr) (rows cols : Byte) (sd sa sb : Reg) (at' : List (DWord × DWord)) (home : Nat),
        let i := Instr.cpy kind sh tr rows cols sd sa sb
        let n := (g.sreg sp sd.toNat).toNat
        let dst := g.spair sp sa.toNat
        let src := g.spair sp sb.toNat
        let e := if tr = .t16 then 2 else 1
        let total := if tr = .none then n else (32 * cols.toNat) * (32 * rows.toNat) * e
        let from' := kind != .g2s
        let to' := kind != .s2g
        let addr (x : Nat) : DWord × DWord := at'.getD x (0, 0)
        let srcs := copyKeys s g.core g.vf g.launch g.block from' .read false (at'.map fun a => a.1)
        let dsts := copyKeys s g.core g.vf g.launch g.block to' .write sh (at'.map fun a => a.2)
        let far := (if from' then [] else at'.map fun a => a.1) ++ if to' then [] else at'.map fun a => a.2
        Ready s gid k g sp i → at'.length = total →
          (∀ x, x < total → (addr x).2 = dst + BitVec.ofNat 64 x) → (tr = .none → ∀ x, x < total → (addr x).1 = src + BitVec.ofNat 64 x) →
          (tr ≠ .none → ∀ x y b, x < 32 * cols.toNat → y < 32 * rows.toNat → b < e →
            (addr ((x * (32 * rows.toNat) + y) * e + b)).1 = src + BitVec.ofNat 64 (y * n + x * e + b)) →
          (255 ≤ s.counter gid .cpy → Holds i s gid k g sp (.count .cpy))
            ∧ (s.counter gid .cpy < 255 → s.busyHome g.core g.vf g.launch far = some home → WaitsAgain i s gid k g sp (.flight home))
            ∧ (s.counter gid .cpy < 255 → s.busyHome g.core g.vf g.launch far = none → s.Inv → ∃ t, exec i s = .next t
              ∧ t = { s with
                  mem := t.mem
                  scratch := t.scratch
                  written := t.written
                  fresh := t.fresh
                  groups := t.groups
                  quads := t.quads
                  copies := t.copies
                  nextId := t.nextId }
              ∧ (∃ r, t.group? gid = some { g.goesOn k (sp.after i) s.now with reserv := r })
              ∧ (∀ j, j ≠ gid → ∃ f : Group → Option Nat, t.group? j = (s.group? j).map fun h => { h with reserv := f h })
              ∧ t.space (!to') = s.space (!to') ∧ (∀ a, some a ∉ dsts → (t.space to').get a = (s.space to').get a)
              ∧ (0 < total → ∃ c, tget s.nextId t.copies = some c ∧ c.gid = gid ∧ c.vf = g.vf ∧ c.core = g.core ∧ c.block = g.block ∧ c.launch = g.launch ∧ c.finished = false
                ∧ c.dirty = [] ∧ c.raced = [] ∧ c.fromScratch = from' ∧ c.toScratch = to' ∧ c.addrs = at' ∧ c.srcs = srcs ∧ c.dsts = dsts ∧ c.sh = sh
                ∧ (∀ b, b ∈ c.regions ↔ sh = true ∧ ∃ x r, x < total ∧ s.region g.vf ((addr x).2.toNat % 2 ^ 57) = some r ∧ r.base = b)
                ∧ (c.faults = false ↔ (tr ≠ .none → src.toNat % e = 0 ∧ dst.toNat % e = 0 ∧ n % e = 0 ∧ 32 * cols.toNat * e ≤ n)))))
    ∧ (∀ (s : State) (id : Nat) (c : Copy) (g : Group), tget id s.copies = some c → c.finished = false →
        let reached : Prop := s.cutHome c.core c.vf c.launch c.globals = false ∧ (c.toScratch = false → s.passes c.core c.vf c.launch (c.addrs.map fun b => b.2) = false)
        let srcNow := s.rangeOk c.core c.vf c.block c.fromScratch (c.addrs.map fun b => b.1)
        let dstNow := s.rangeOk c.core c.vf c.block c.toScratch (c.addrs.map fun b => b.2)
        (¬ reached → exec (.copyComplete id) s = .next s)
          ∧ (reached → c.srcOk = true → c.dstOk = true → srcNow = true → dstNow = true →
            (c.fromScratch = true → ∀ a, some a ∈ c.srcs → s.emptyBytes a 1 = []) → (c.toScratch = true → ∀ a, some a ∈ c.dsts → s.engineBytes a 1 = []) →
            c.faults = false → c.srcsNow s = c.srcs → c.dstsNow s = c.dsts → none ∉ c.srcs → none ∉ c.dsts → c.dirty = [] → c.raced = [] → s.Inv →
            (c.fromScratch = true → c.toScratch = true → ∀ a, some a ∈ c.srcs → some a ∉ c.dsts) →
            (∀ x y a, c.dsts.getD x none = some a → c.dsts.getD y none = some a → x = y) →
            (∀ p ∈ s.copies, p.1 = id ∨ p.2.finished = true ∨ ∀ a, some a ∈ c.dsts → some a ∉ p.2.dsts) →
              ∃ t, exec (.copyComplete id) s = .next t ∧ t.space (!c.toScratch) = s.space (!c.toScratch)
                ∧ (∀ x a b, c.dsts.getD x none = some a → c.srcs.getD x none = some b → (t.space c.toScratch).get a = (s.space c.fromScratch).get b)
                ∧ (∀ a, some a ∉ c.dsts → (t.space c.toScratch).get a = (s.space c.toScratch).get a)
                ∧ ∀ h, s.group? c.gid = some h → ∃ r, t.group? c.gid = some { h with reserv := r })
          ∧ (reached →
              (c.faults = true ∨ (c.srcOk = false ∧ srcNow = false) ∨ (c.dstOk = false ∧ dstNow = false) ∨ (∃ x : Nat, c.srcs[x]? = some none ∧ (c.srcsNow s)[x]? = some none) ∨ (∃ x : Nat, c.dsts[x]? = some none ∧ (c.dstsNow s)[x]? = some none)
                ∨ (c.fromScratch = true ∧ c.toScratch = true ∧ (∃ a, some a ∈ c.srcs ∧ some a ∈ c.dsts) ∧ ∃ a, some a ∈ c.srcsNow s ∧ some a ∈ c.dstsNow s)) →
              s.group? c.gid = some g →
              ∃ t h, exec (.copyComplete id) s = .next t ∧ t.group? c.gid = some h ∧ h.copyErr = true))

/-- R146, R147, R320: PUBL of a region completes with the publish recorded; outside a region it traps PROT. The swap exchanges front and shadow of the whole region once
the group's earlier copies to the shadow and its programs are over, and, of a region of pod scope, the tenant's remote operations are applied; that one is swapped
for the tenant's VFs on the other packages too. Where the spec leaves it open, this is the model's choice (log entry 36). -/
def Obligations.Publishing : Prop :=
  ∀ (s : State) (gid k : Nat) (g : Group) (sp : Split) (sa : Reg) (l : Leaf) (r : Region) (id : Nat) (p : Pub),
    let i := Instr.publ sa
    let a := g.spair sp sa.toNat
    (Ready s gid k g sp i → s.checkGlobal g.core g.vf g.launch a 1 .read = .ok l →
        (s.region g.vf (a.toNat % 2 ^ 57) = none → Traps i s gid k sp causePROT 127 a 0)
          ∧ (s.region g.vf (a.toNat % 2 ^ 57) = some r → 255 ≤ s.counter gid .pbl → Holds i s gid k g sp (.count .pbl))
          ∧ (s.region g.vf (a.toNat % 2 ^ 57) = some r → s.counter gid .pbl < 255 → ∃ t q, exec i s = .next t
            ∧ OnlyGroup { s with pubs := t.pubs, nextId := t.nextId } t gid (g.goesOn k (sp.after i) s.now) ∧ tget s.nextId t.pubs = some q
            ∧ q.gid = gid ∧ q.vf = g.vf ∧ q.base = r.base ∧ q.finished = false ∧ ∀ j, j ≠ s.nextId → tget j t.pubs = tget j s.pubs))
      ∧ (tget id s.pubs = some p → p.finished = false →
        let ready : Prop := (∀ c ∈ s.copies, c.1 < id → c.2.gid = p.gid → c.2.sh = true → p.base ∈ c.2.regions → c.2.finished = true)
          ∧ (∀ x ∈ p.progs, x ∉ s.progsOf p.gid)
        let pod : Prop := ∃ x ∈ (s.vf p.vf).regions, x.base = p.base ∧ x.scope = .pod
        let peers := (s.vf p.vf).triples.map fun y => y.1 * 256 + y.2
        let swaps (v : Nat) : Prop := v = p.vf ∨ pod ∧ v ∈ peers ∧ ∃ x ∈ (s.vf v).regions, x.base = p.base ∧ x.scope = .pod
        let flip (v : Nat) (y : Vf) : Prop := ∃ f : Region → Region, y = { s.vf v with regions := (s.vf v).regions.map f }
          ∧ ∀ x, (x.base = p.base → f x = { x with flipped := !x.flipped }) ∧ (x.base ≠ p.base → f x = x)
        (¬ ready ∨ pod ∧ s.allApplied p.vf = false → exec (.publSwap id) s = .next s)
          ∧ (ready → (pod → s.allApplied p.vf = true) → peers.Nodup → p.vf ∉ peers →
            ∃ t, exec (.publSwap id) s = .next t ∧ (∀ v, (swaps v → flip v (t.vf v)) ∧ (¬ swaps v → t.vf v = s.vf v))
              ∧ ((∀ c ∈ s.copies, c.2.gid ≠ p.gid → swaps c.2.vf → c.2.shadows p.base = false) → (∀ v, swaps v → s.drainsInto v p.gid p.base = false) →
                t.mem = s.mem ∧ t.groups = s.groups)))

/-- R134-R137, R158, R310-R313: MQPUT answers 0 and sends its words for one credit, or 1 without a credit, 2 for a disabled queue, 3 for another quad, and traps PROT
outside the core set; MQGET takes the oldest entry, zeros behind it, and waits on an empty queue or behind an earlier MQGET that waits there; MQFREE gives credits,
trapping QFULL beyond the queue's entries; an arriving message joins its queue last. Where the spec leaves it open, this is the model's choice (log entry 30). -/
def Obligations.MessageQueues : Prop :=
  ∀ (s : State) (gid k : Nat) (g : Group) (sp : Split) (core : Byte) (queue : BitVec 4) (len : BitVec 5) (sd sa : Reg) (e : List Word) (rest : List (List Word)) (id : Nat) (m : Msg),
    let put := Instr.mqput core queue len sd sa
    let get' := Instr.mqget queue len sd
    let free := Instr.mqfree core queue sa
    let peer := pkgOf g.core * 256 + core.toNat
    let key := peer * 16 + queue.toNat
    let q := s.queue key
    let own := g.core * 16 + queue.toNat
    let o := s.queue own
    let credit (x : MQueue) (c : Nat) : Nat := x.credits.getD (c % 256 % 4) 0
    let sameQuad : Prop := quadOf peer = quadOf g.core
    let before : Prop := ∃ x ∈ s.groups, x.2.life = .resident ∧ x.2.pend = none ∧ x.2.core = g.core
      ∧ ∃ y ∈ x.2.splits, y.2.wait = .again (.queue queue.toNat) ∧ ∃ h, y.2.held = some h ∧ h.stamp < s.nextId
    let answers (v : Word) : Prop := Completes put s gid k (g.setS k sd.toNat v) (sp.after put)
    (Ready s gid k g sp put →
        (peer ∉ s.coreSet g.vf → Traps put s gid k sp causePROT 127 0 0)
          ∧ (peer ∈ s.coreSet g.vf → ¬ sameQuad → answers 3)
          ∧ (peer ∈ s.coreSet g.vf → sameQuad → q.cfg.msb = false → answers 2)
          ∧ (peer ∈ s.coreSet g.vf → sameQuad → q.cfg.msb = true → credit q g.core = 0 → answers 1)
          ∧ (peer ∈ s.coreSet g.vf → sameQuad → q.cfg.msb = true → 0 < credit q g.core → 255 ≤ s.counter gid .msg → Holds put s gid k g sp (.count .msg))
          ∧ (peer ∈ s.coreSet g.vf → sameQuad → q.cfg.msb = true → 0 < credit q g.core → s.counter gid .msg < 255 →
            ∃ t x, exec put s = .next t ∧ OnlyGroup { s with queues := t.queues, msgs := t.msgs, nextId := t.nextId } t gid ((g.setS k sd.toNat 0).goesOn k (sp.after put) s.now)
              ∧ t.queue key = { q with credits := q.credits.set (g.core % 256 % 4) (credit q g.core - 1) } ∧ (∀ j, j ≠ key → t.queue j = s.queue j)
              ∧ tget s.nextId t.msgs = some x ∧ x.gid = gid ∧ x.core = peer ∧ x.queue = queue.toNat ∧ x.finished = false
              ∧ x.words = (List.range len.toNat).map fun j => g.sreg sp (sa.toNat + j)))
      ∧ (Ready s gid k g sp get' →
        (o.cfg.msb = false ∨ sp.wait = .again .gone → Traps get' s gid k sp causePROT 127 0 0)
          ∧ (o.cfg.msb = true → sp.wait ≠ .again .gone → (o.entries = [] ∨ before) → Holds get' s gid k g sp (.queue queue.toNat))
          ∧ (o.cfg.msb = true → sp.wait ≠ .again .gone → o.entries = e :: rest → g.sregs.length = 125 → ¬ before →
            ∃ t regs, exec get' s = .next t ∧ OnlyGroup { s with queues := t.queues } t gid ({ g with sregs := regs }.goesOn k (sp.after get') s.now)
              ∧ t.queue own = { o with entries := rest } ∧ (∀ j, j ≠ own → t.queue j = s.queue j)
              ∧ (∀ j, j < len.toNat → regs.getD (sd.toNat + j) 0 = e.getD j 0)
              ∧ ∀ j, j < sd.toNat ∨ sd.toNat + len.toNat ≤ j → regs.getD j 0 = g.sregs.getD j 0))
      ∧ (Ready s gid k g sp free →
        let n := (g.sreg sp sa.toNat).toNat
        let taken := o.credits.foldl (· + ·) 0 + o.entries.length + s.msgsTo g.core queue.toNat
        let size := 2 ^ bitField o.cfg.toNat 30 27
        (¬ sameQuad ∨ peer ∉ s.coreSet g.vf ∨ o.cfg.msb = false → Traps free s gid k sp causePROT 127 0 0)
          ∧ (sameQuad → peer ∈ s.coreSet g.vf → o.cfg.msb = true → size < taken + n → Traps free s gid k sp causeQFULL 127 0 0)
          ∧ (sameQuad → peer ∈ s.coreSet g.vf → o.cfg.msb = true → taken + n ≤ size →
            ∃ t, exec free s = .next t ∧ OnlyGroup { s with queues := t.queues } t gid (g.goesOn k (sp.after free) s.now)
              ∧ t.queue own = { o with credits := o.credits.set (peer % 256 % 4) (credit o peer + n) } ∧ ∀ j, j ≠ own → t.queue j = s.queue j))
      ∧ (tget id s.msgs = some m → m.finished = false → m.words ≠ [] → (∀ x ∈ s.msgs, x.1 < id → x.2.gid = m.gid → x.2.core = m.core → x.2.queue = m.queue → x.2.finished = true) →
        let at' := m.core * 16 + m.queue
        (s.queue at').cfg.msb = true → ∃ t, exec (.messageAppend id) s = .next t ∧ t.groups = s.groups
          ∧ t.queue at' = { s.queue at' with entries := (s.queue at').entries ++ [m.words] } ∧ ∀ j, j ≠ at' → t.queue j = s.queue j)

/-- R174, R176-R179, R307, R314: MFORK queues a program with up to eight arguments and writes its ticket to sd, waits while the quad's queue is full, and traps PROT
where the VF holds no weight buffer of the quad. MRDV waits while the program lives, completes when it ended well, and traps with its cause when it was killed, UCE
too (the model's choice, log entry 88); another quad's ticket traps PROT. -/
def Obligations.ProgramForks : Prop :=
  ∀ (s : State) (gid k : Nat) (g : Group) (sp : Split) (narg : BitVec 4) (off : BitVec 25) (sd sa : Reg) (f : Fate),
    let i := Instr.mfork narg off sd sa
    let j := Instr.mrdv sa
    let qn := quadOf g.core
    let qd := s.quad qn
    let ticket := (g.sreg sp sa.toNat).toNat
    let serial := ticket % 2 ^ 26
    let behind := (qd.forks + 2 ^ 27 - 1 - serial) % 2 ^ 26
    let live : Prop := ∃ p ∈ qd.running.toList ++ qd.queue ++ qd.saved, p.serial = serial
    (Ready s gid k g sp i →
        (s.wbufSpace g.vf qn = 0 → Traps i s gid k sp causePROT 127 0 0)
          ∧ (s.wbufSpace g.vf qn ≠ 0 → Config.forkQueueEntries ≤ qd.queue.length → Holds i s gid k g sp .fork)
          ∧ (s.wbufSpace g.vf qn ≠ 0 → qd.queue.length < Config.forkQueueEntries → ∃ t p, exec i s = .next t
            ∧ OnlyGroup { s with quads := t.quads } t gid ((g.setS k sd.toNat (BitVec.ofNat 32 (qn % 64 * 2 ^ 26 + qd.forks))).goesOn k (sp.after i) s.now)
            ∧ t.quad qn = { qd with forks := (qd.forks + 1) % 2 ^ 26, queue := qd.queue ++ [p] } ∧ (∀ q, q ≠ qn → t.quad q = s.quad q)
            ∧ p.serial = qd.forks ∧ p.gid = gid ∧ p.vf = g.vf ∧ p.core = g.core ∧ pairOf p.window p.pc = g.target sp off.toInt ∧ p.ops = []
            ∧ (∀ n, n < narg.toNat → p.sregs.getD n 0 = g.sreg sp (sa.toNat + n)) ∧ ∀ n, narg.toNat ≤ n → p.sregs.getD n 0 = 0))
      ∧ (Ready s gid k g sp j → (∀ n x, sp.wait ≠ .again (.rdv n x)) →
        (ticket / 2 ^ 26 ≠ qn % 64 → Traps j s gid k sp causePROT 127 0 0)
          ∧ (ticket / 2 ^ 26 = qn % 64 → 2 ^ 25 < behind → Traps j s gid k sp causeILLEGAL 127 0 0)
          ∧ (ticket / 2 ^ 26 = qn % 64 → behind ≤ 2 ^ 25 →
            (live → Holds j s gid k g sp (.rdv serial none))
              ∧ (¬ live → (∀ x ∈ qd.fates, x.serial ≠ serial) → Completes j s gid k g (sp.after j))
              ∧ (¬ live → f ∈ qd.fates → f.serial = serial → (∀ x ∈ qd.fates, x.serial = serial → x = f) →
                (f.vf ≠ g.vf → Traps j s gid k sp causePROT 127 0 0)
                  ∧ (f.vf = g.vf → f.cause = 0 → ∃ t, exec j s = .next t ∧ OnlyGroup { s with quads := t.quads } t gid (g.goesOn k (sp.after j) s.now) ∧ ∀ q, t.quad q = s.quad q)
                  ∧ (f.vf = g.vf → f.cause ≠ 0 → exec j s = .next (s.raise gid
                    { cause := f.cause, split := k, code := f.pc, pc := sp.pc, fate := some (qn, serial) } sp.pc)))))

/-- R196-R199, R202, R207, R208, R303, R359, R362: TSUB makes a waiting task of a packet and writes its handle, or the status that refuses it. TEMIT appends one record
per active lane to its successor's queue, waits (or answers 1) without room or behind an earlier TEMIT that waits for the node (log entry 75), and traps QFULL for
more records than the queue holds. KREL gives up a key that the task holds, once the group's remote operations are acknowledged; its demotion counts whether or not
it releases one (log entry 61). TSUB of a packet in a remote page waits, before it issues, while that cannot be reached or operations of its tenant are in flight to
it (log entry 11). -/
def Obligations.TaskInstructions : Prop :=
  ∀ (s : State) (gid k : Nat) (g : Group) (sp : Split) (nb spm : Bool) (sd sa va : Reg) (key n : Nat) (x : Task) (st : Word) (succ : BitVec 3) (h : Word)
    (lid node home : Nat) (l : Launch) (nd : Node) (b : SSrc) (uid : Nat),
    let i := Instr.tsub nb spm sd sa
    let j := Instr.temit nb succ sd va
    let r := Instr.krel b
    let a := g.spair sp sa.toNat
    let ws := packetWords s g spm a key n
    let waiting := (s.tasks.filter fun y => y.2.vf == x.vf && y.2.prio == x.prio && y.2.place == .waiting).length
    let lanes' := lanes.filter (laneOn sp.mask)
    let w := nd.kernel.record / 4
    let status (v : Word) : Group := if nb then g.setS k sd.toNat v else g
    let parts := (List.range (n / 32)).map fun m => a + BitVec.ofNat 64 (32 * m)
    let near : Prop := spm = true ∨ s.busyHome g.core g.vf g.launch parts = none
    let sound : Prop := spm = true ∨ ∀ y ∈ packetKeys s g a n, s.badAt y 32 = false
    let before : Prop := lanes' ≠ [] ∧ ∃ y ∈ s.groups, y.2.life = .resident ∧ y.2.pend = none
      ∧ ∃ z ∈ y.2.splits, (∃ m, z.2.wait = .again (.emit lid node m)) ∧ ∃ e, z.2.held = some e ∧ e.stamp < s.nextId
    let narrow : Prop := s.allowed g.vf .pkg ≠ .pkg
    (Ready s gid k g sp i →
        (g.trap.isSome = true → Traps i s gid k sp causeILLEGAL 127 0 0)
          ∧ (g.trap = none → canonical a = false → Traps i s gid k sp causeXLATE 127 a 0)
          ∧ (g.trap = none → packetCheck s g spm a = .ok (key, n) → spm = false → s.busyHome g.core g.vf g.launch parts = some home → WaitsAgain i s gid k g sp (.flight home))
          ∧ (g.trap = none → packetCheck s g spm a = .ok (key, n) → near → sound →
            (readPacket s g.vf g.launch ws = .error st → Completes i s gid k (g.setS k sd.toNat st) (sp.after i))
              ∧ (readPacket s g.vf g.launch ws = .ok x → waiting < Config.taskQueueEntries →
                (let w0 := (ws.getD 0 0).toNat;
                  x.vf = g.vf ∧ x.launch = g.launch ∧ x.handle = BitVec.ofNat 32 ((s.vf g.vf).serial % 2 ^ 30) ∧ x.place = .waiting ∧ x.held = []
                    ∧ x.kind = bitField w0 28 26 ∧ x.prio = bitField w0 16 15 ∧ (x.retry = true ↔ bitField w0 19 19 = 1) ∧ (x.pin = true ↔ bitField w0 17 17 = 1)
                    ∧ s.kernelAt g.vf (ws.getD 1 0).toNat = some x.kernel
                    ∧ x.keys = ((ws.drop 2).take (bitField w0 25 23)).map fun y => (y.toNat % 2 ^ 31, y.msb))
                  ∧ ∃ t, exec i s = .next t ∧ OnlyGroup { s with tasks := t.tasks, nextId := s.nextId + 1, vfs := t.vfs } t gid ((g.setS k sd.toNat x.handle).goesOn k (sp.after i) s.now)
                    ∧ tget s.nextId t.tasks = some x ∧ (∀ u, u ≠ s.nextId → tget u t.tasks = tget u s.tasks)
                    ∧ t.vf g.vf = { s.vf g.vf with serial := (s.vf g.vf).serial + 1 } ∧ ∀ v, v ≠ g.vf → t.vf v = s.vf v)
              ∧ (readPacket s g.vf g.launch ws = .ok x → Config.taskQueueEntries ≤ waiting →
                if nb then Completes i s gid k (g.setS k sd.toNat 0x80000003) (sp.after i) else Holds i s gid k g sp (.tasks x.prio))))
      ∧ (Ready s gid k g sp j →
        (g.succ.length ≤ succ.toNat → Traps j s gid k sp causeILLEGAL 127 0 0)
          ∧ (g.succ[succ.toNat]? = some h → g.trap = none → s.nodeOf g.vf h = some (lid, l, node) → l.nodes[node]? = some nd → va.toNat + w ≤ g.count →
            (l.ended = true → if nb then Completes j s gid k (status 2) (sp.after j) else Traps j s gid k sp causePROT 127 0 0)
              ∧ (l.ended = false → nd.kernel.queue < lanes'.length → Traps j s gid k sp causeQFULL 127 0 0)
              ∧ (l.ended = false → lanes'.length ≤ nd.kernel.queue → (nd.kernel.queue - nd.queue.length < lanes'.length ∨ before) →
                if nb then Completes j s gid k (status 1) (sp.after j) else Holds j s gid k g sp (.emit lid node lanes'.length))
              ∧ (l.ended = false → lanes'.length ≤ nd.kernel.queue → lanes'.length ≤ nd.kernel.queue - nd.queue.length → ¬ before → ∃ t m, exec j s = .next t
                ∧ OnlyGroup { s with launches := t.launches } t gid ((status 0).goesOn k (sp.after j) s.now) ∧ tget lid t.launches = some m
                ∧ (∀ o, o ≠ lid → tget o t.launches = tget o s.launches) ∧ m.sums.appended = l.sums.appended + lanes'.length
                ∧ m.nodes[node]? = some { nd with queue := nd.queue ++ lanes'.map fun n => (s.now, (regsFrom va.toNat w).map fun r => (g.v r).lane n) })))
      ∧ (Ready s gid k g sp r →
        let rel := (g.opB sp b).toNat % 2 ^ 31
        (g.task = some uid → tget uid s.tasks = some x → (∃ e, (rel, e) ∈ x.held) → s.ropCount gid = 0 → ∃ t, exec r s = .next t
            ∧ OnlyGroup { s with tasks := t.tasks, vfs := t.vfs } t gid (g.goesOn k (sp.after r) s.now) ∧ Demoted s t g.vf narrow
            ∧ tget uid t.tasks = some { x with held := x.held.filter fun e => e.1 != rel } ∧ ∀ u, u ≠ uid → tget u t.tasks = tget u s.tasks)
          ∧ (g.task = some uid → tget uid s.tasks = some x → (∃ e, (rel, e) ∈ x.held) → s.ropCount gid ≠ 0 → Holds r s gid k g sp .release)
          ∧ ((∀ u y, g.task = some u → tget u s.tasks = some y → ∀ e, (rel, e) ∉ y.held) → ∃ t, exec r s = .next t
            ∧ OnlyGroup { s with vfs := t.vfs } t gid (g.goesOn k (sp.after r) s.now) ∧ Demoted s t g.vf narrow))

/-! ### Cairns (R211-R224, R291-R294, R296, R297) -/

/-- R211-R219, R291-R294, R296, R297: the cairn instructions on the directory's entry under a name. Each answers a status in sd and a value in sd + 1: CNEW makes a
zeroed cairn in the core's scratchpad; COPEN opens it where it lies, or begins its move; CHAND sets its target, a successor, a task or a core; CDROP closes it and
frees it at the last close; CINFO gives its state word. CHAND and CDROP of a mirrored cairn, and CINFO.sync, wait for its write-back. While the cairn moves, or a
write-back of it that an instruction waits for is under way, they wait with what they have read, one behind the other. The mirror's bytes, the directory's size and
what a full directory answers are the model's choices (log entries 15, 37 and 81). -/
def Obligations.CairnInstructions : Prop :=
  ∀ (s : State) (gid k : Nat) (g : Group) (sp : Split) (sd sa : Reg) (size : BitVec 10) (life : Life) (mir nomove free : Bool) (ck : ChandKind) (to' : Hand) (c : Cairn) (off : Nat),
    let new := Instr.cnew size life mir sd sa
    let opn := Instr.copen nomove sd sa
    let hand := Instr.chand ck sd sa
    let drop := Instr.cdrop free sd sa
    let info := Instr.cinfo false sd sa
    let sync := Instr.cinfo true sd sa
    let inRange : Prop := ∀ i, ck = .succ i → i.toNat < g.succ.length
    let target : Option Hand := match ck with
      | .core x => if pkgOf g.core * 256 + x.toNat ∈ s.coreSet g.vf then some (.core (pkgOf g.core * 256 + x.toNat)) else none
      | .task sb => (s.tasks.find? fun x => x.2.vf == g.vf && x.2.handle == g.sreg sp sb.toNat && x.2.place != .retired).map fun x => .task x.1
      | .succ i => (g.succ[i.toNat]?).bind fun h => (s.nodeOf g.vf h).bind fun y => if y.2.1.ended then none else some (.node y.1 y.2.2)
    let name := g.spair sp sa.toNat
    let n := 256 * (size.toNat + 1)
    let holder : Word := if c.lost ∨ c.restorable then 0 else BitVec.ofNat 32 (c.holder % 256)
    let narrow : Prop := s.allowed g.vf .pkg ≠ .pkg
    let setTo (d : Cairn) : List Cairn := s.cairns.map fun x => if x.vf = d.vf ∧ x.name = d.name then d else x
    let answers (i : Instr) (demoted : Prop) (st v : Word) (cairns : List Cairn) : Prop := ∃ t, exec i s = .next t
      ∧ OnlyGroup { s with cairns := t.cairns, vfs := t.vfs, wbacks := t.wbacks } t gid (((g.setS k sd.toNat st).setS k (sd.toNat + 1) v).goesOn k (sp.after i) s.now)
      ∧ Demoted s t g.vf demoted ∧ t.cairns = cairns
      ∧ (cairns.length = s.cairns.length → t.wbacks = s.wbacks) ∧ ∀ x, (x.2.vf ≠ c.vf ∨ x.2.name ≠ c.name ∨ x.2.waiter.isSome = true) → (x ∈ t.wbacks ↔ x ∈ s.wbacks)
    let moves (restore : Bool) : Prop := ∃ t, exec opn s = .next t
      ∧ OnlyGroup { s with cairns := t.cairns, vfs := t.vfs, nextId := s.nextId + 1 } t gid
          { g with splits := tmod k (fun x => { x with
              wait := .move name sd.toNat
              cont := sp.after opn
              exempt := false
              stamp := s.nextId
              held := some ⟨s.nextId, opn, g.sregs, g.vregs, sp.mask⟩ }) g.splits }
      ∧ Demoted s t g.vf narrow ∧ t.cairns = setTo { c with moving := some ⟨g.core, off, some (gid, k), restore, s.cairnBytes c⟩ }
    let backs (i : Instr) (demoted : Prop) (cairns : List Cairn) (v : Word) (close : Option Bool) : Prop := ∃ t, exec i s = .next t
      ∧ OnlyGroup { s with cairns := t.cairns, vfs := t.vfs, wbacks := t.wbacks, nextId := s.nextId + 2 } t gid
          { g with splits := tmod k (fun x => { x with
              wait := .writeback s.nextId sd.toNat
              cont := sp.after i
              exempt := false
              held := none
              stamp := s.nextId + 1 }) g.splits }
      ∧ Demoted s t g.vf demoted ∧ t.cairns = cairns
      ∧ t.wbacks = tset s.nextId ⟨c.vf, c.name, s.cairnBytes c, some (gid, k, sd.toNat, v), close, none⟩ s.wbacks
    let opens := s.cairns.foldl (fun m x => m + x.opens.count gid + ((x.moving.bind Move.opener).any fun o => o.1 == gid).toNat) 0
    let full : Prop := (s.vf g.vf).dirShare ≤ (s.cairns.filter fun x => x.vf == g.vf).length
      ∨ Config.directoryEntries ≤ (s.cairns.filter fun x => pkgOf x.vf == pkgOf g.vf).length ∨ 16 ≤ opens
    let before : Prop := ∃ x ∈ s.groups, x.2.life = .resident ∧ x.2.vf = g.vf
      ∧ ∃ y ∈ x.2.splits, (∃ m, y.2.wait = .again (.cairn name m)) ∧ ∃ h, y.2.held = some h ∧ h.stamp < s.nextId
    let busy : Prop := s.cairnBusy g.vf name = true ∨ before
    let handed (d : Cairn) : Prop := ∃ x, d.hand = some x ∧ x.isFor g = false
    (¬ inRange → Ready s gid k g sp hand → Traps hand s gid k sp causeILLEGAL 127 0 0)
      ∧ (busy → (∀ i, i = hand ∧ inRange ∨ i = info ∨ i = sync → Ready s gid k g sp i → Holds i s gid k g sp (.cairn name sd.toNat))
        ∧ ∀ i, i = new ∨ i = opn ∨ i = drop → Ready s gid k g sp i → ∃ u, u = { s with vfs := u.vfs } ∧ Demoted s u g.vf narrow ∧ HoldsIn u i s gid k g sp (.cairn name sd.toNat))
      ∧ (s.cairn g.vf name = none → ¬ busy →
        (Ready s gid k g sp new → full → answers new narrow 2 0 s.cairns)
          ∧ (Ready s gid k g sp new → ¬ full → s.scratchRoom g.vf g.core n = none → answers new narrow 2 0 s.cairns)
          ∧ (Ready s gid k g sp new → ¬ full → s.scratchRoom g.vf g.core n = some off → s.scratch.wf = true → ∃ t d, exec new s = .next t
            ∧ OnlyGroup { s with cairns := t.cairns, vfs := t.vfs, scratch := t.scratch, copies := t.copies } t gid
                (((g.setS k sd.toNat 0).setS k (sd.toNat + 1) (BitVec.ofNat 32 (2 ^ 31 + off))).goesOn k (sp.after new) s.now)
            ∧ Demoted s t g.vf narrow ∧ t.cairns = s.cairns ++ [d] ∧ d.vf = g.vf ∧ d.name = name ∧ d.holder = g.core ∧ d.off = off ∧ d.size = n ∧ d.life = life ∧ d.mir = mir
            ∧ d.opens = [gid] ∧ d.drop = false ∧ d.hand = none ∧ d.moving = none
            ∧ ∀ a, t.scratch.get a = if g.core * 2 ^ 21 + off ≤ a ∧ a < g.core * 2 ^ 21 + off + n then 0 else s.scratch.get a)
          ∧ (Ready s gid k g sp opn → answers opn narrow 6 0 s.cairns) ∧ (Ready s gid k g sp hand → inRange → answers hand False 6 0 s.cairns)
          ∧ (Ready s gid k g sp drop → answers drop narrow 6 0 s.cairns)
          ∧ (∀ i, i = info ∨ i = sync → Ready s gid k g sp i → answers i False 6 0 s.cairns))
      ∧ (s.cairn g.vf name = some c → ¬ busy →
        (Ready s gid k g sp new → answers new narrow 1 holder s.cairns)
          ∧ (Ready s gid k g sp opn →
            (c.drop = true → answers opn narrow 6 0 s.cairns) ∧ (c.drop = false → c.lost = true → answers opn narrow 5 0 s.cairns)
              ∧ (c.drop = false → c.lost = false → 16 ≤ opens → answers opn narrow 2 0 s.cairns)
              ∧ (c.drop = false → c.lost = false → opens < 16 → c.restorable = false →
                (c.holder = g.core → answers opn narrow 0 (BitVec.ofNat 32 (2 ^ 31 + c.off)) (setTo (c.openBy gid g)))
                  ∧ (c.holder ≠ g.core → handed c → answers opn narrow 4 holder s.cairns)
                  ∧ (c.holder ≠ g.core → ¬ handed c → (c.opens ≠ [] ∨ c.topens ≠ [] ∨ nomove = true) → answers opn narrow 3 holder s.cairns)
                  ∧ (c.holder ≠ g.core → ¬ handed c → c.opens = [] → c.topens = [] → nomove = false →
                    (s.scratchRoom c.vf g.core c.size = some off → moves false)
                      ∧ (s.scratchRoom c.vf g.core c.size = none → answers opn narrow 2 0 s.cairns)))
              ∧ (c.drop = false → c.lost = false → opens < 16 → c.restorable = true →
                (s.scratchRoom c.vf g.core c.size = some off → moves true) ∧ (s.scratchRoom c.vf g.core c.size = none → answers opn narrow 2 0 s.cairns)))
          ∧ (Ready s gid k g sp hand → inRange →
            let there : Prop := (∃ u, to' = .task u ∧ u ∈ c.topens) ∨ ∃ o ∈ c.opens, ∃ h, s.group? o = some h ∧ (match to' with
              | .node l n => h.launch = l ∧ h.node = some n
              | .task u => h.task = some u
              | .core x => h.core = x)
            (gid ∉ c.opens → answers hand False 7 0 s.cairns)
              ∧ (gid ∈ c.opens → target = none → answers hand False 8 0 s.cairns)
              ∧ (∀ d : Cairn, gid ∈ c.opens → target = some to' → (d = { c with hand := none } ∧ there ∨ d = { c with hand := some to' } ∧ ¬ there) →
                (c.mir = false → answers hand False 0 0 (setTo d)) ∧ (c.mir = true → backs hand False (setTo d) 0 none)))
          ∧ (Ready s gid k g sp drop →
            let d := { c with opens := c.opens.erase gid, drop := c.drop || free }
            (c.lost = true → answers drop narrow (if free then 0 else 5) 0 (if free then s.cairns.filter fun x => !(x.vf == c.vf && x.name == c.name) else s.cairns))
              ∧ (c.lost = false → gid ∉ c.opens → answers drop narrow 7 0 s.cairns)
              ∧ (c.lost = false → gid ∈ c.opens → c.mir = true → backs drop narrow s.cairns 0 (some free))
              ∧ (c.lost = false → gid ∈ c.opens → c.mir = false → c.hand = none →
                answers drop narrow 0 0 (if d.opens = [] ∧ d.topens = [] ∧ d.drop = true then (setTo d).filter fun x => !(x.vf == c.vf && x.name == c.name) else setTo d)))
          ∧ (c.lost = false → c.restorable = false → 256 ≤ c.size → c.size ≤ 262144 → ∃ v : Word, (Ready s gid k g sp info → answers info False 0 v s.cairns)
            ∧ (Ready s gid k g sp sync → (c.mir = false ∨ gid ∉ c.opens → answers sync False 7 v s.cairns)
              ∧ (c.mir = true → gid ∈ c.opens → backs sync False s.cairns v none))
            ∧ v.toNat / 2 ^ 24 = c.holder % 256 ∧ v.toNat / 2 ^ 17 % 2 ^ 7 = min 127 (c.opens.length + c.topens.length)
            ∧ v.toNat / 2 ^ 13 % 16 = (if c.hand.isSome then 1 else 0) ∧ v.getLsbD 12 = c.mir ∧ v.toNat % 2 ^ 10 = c.size / 256 - 1))

/-! ### Sequencer programs and the matrix engine (R117-R122, R174-R192, R194, R304-R309, R315-R318) -/

/-- R98, R99, R175-R177: a sequencer runs the scalar instructions on its own 64 registers, with every lane active; CALL and RET use s63; EXIT ends the program; TRAP and
an instruction that it may not execute kill it with the cause and the instruction's address. Only the program is changed. Where the spec leaves it open, this is the
model's choice (log entry 27). -/
def Obligations.SequencerInstructions : Prop :=
  ∀ (s : State) (q : Nat) (p : Prog) (o : SOp) (sd sa : Reg) (imm : BitVec 18) (off : BitVec 25) (bo : BitVec 16) (c : Counter) (b : SSrc) (code : BitVec 25) (i : Instr),
    let v (x : SSrc) : Word := match x with | .reg n => p.sreg n.toNat | .lit w => w
    let to' (words : Int) : DWord := pairOf p.window p.pc + BitVec.ofInt 64 (4 * words)
    let next (i : Instr) : Word := p.pc + BitVec.ofNat 32 i.len
    let ends (i : Instr) (x : Prog) : Prop := ∃ t, exec i s = .next t ∧ OnlyProg s t q x
    let writes (i : Instr) (r : Reg) (x : Word) : Prop := SeqReady s q p i → ends i (p.goesOn (p.sregs.set r.toNat x) (next i))
    writes (.sadd { o with w64 := false }) o.sd (p.sreg o.sa.toNat + v o.b)
      ∧ writes (.sand { o with w64 := false }) o.sd (p.sreg o.sa.toNat &&& v o.b)
      ∧ writes (.smov false sd b) sd (v b) ∧ writes (.smovi sd imm) sd (BitVec.ofInt 32 imm.toInt)
      ∧ (SeqReady s q p .nop → ends .nop (p.goesOn p.sregs (next .nop)))
      ∧ (SeqReady s q p (.waitc c b) → ends (.waitc c b) (p.goesOn p.sregs (next (.waitc c b))))
      ∧ (SeqReady s q p (.bra off) → hiWord (to' off.toInt) = p.window → ends (.bra off) (p.goesOn p.sregs (loWord (to' off.toInt))))
      ∧ (SeqReady s q p (.bcc .ne sa bo) → p.sreg sa.toNat ≠ 0 → hiWord (to' bo.toInt) = p.window → ends (.bcc .ne sa bo) (p.goesOn p.sregs (loWord (to' bo.toInt))))
      ∧ (SeqReady s q p (.call off) → hiWord (to' off.toInt) = p.window → ends (.call off) (p.goesOn (p.sregs.set 63 (p.pc + 4)) (loWord (to' off.toInt))))
      ∧ (SeqReady s q p .ret → (p.sreg 63).toNat % 4 = 0 → ends .ret (p.goesOn p.sregs (p.sreg 63)))
      ∧ (SeqReady s q p .exit → ends .exit { p with ending := true })
      ∧ (SeqReady s q p (.trap code) → p.stopped = none → ends (.trap code) { p with stopped := some (causeTRAPI, p.pc) })
      ∧ (s.cur = .seq q → (s.quad q).running = some p → isStep i = false → seqAllowed i = false → p.stopped = none → ends i { p with stopped := some (causeSEQCTX, p.pc) })

/-- R176, R184-R192, R305-R309, R315-R318: the engine instructions complete at once. MRES reserves the lowest free range of the tenant's weight buffer (or answers
0xFFFFFFFF), or with a size of 0 gives one back; MZERO clears regions of the accumulator; the others leave an operation in the program, for the engine. Where the
spec leaves it open, this is the model's choice (log entries 25 and 34). -/
def Obligations.EngineInstructions : Prop :=
  ∀ (s : State) (q : Nat) (p : Prog) (fmt : WFmt) (sps ts sh dst min : Bool) (sd sa sb : Reg) (len : BitVec 24) (blk : BitVec 12) (m acc : BitVec 10) (km : BitVec 4) (df : DFmt)
    (regs : BitVec 16) (r : WRange) (off : Nat) (ks : List Nat),
    let qd := s.quad q
    let rows := m.toNat + 1
    let ring := (List.range 4).map fun j => p.sreg (sa.toNat + j)
    let src := pairOf (p.sreg (sa.toNat + 1)) (p.sreg sa.toNat)
    let issues (i : Instr) (o : EngOp) : Prop := ∃ t, exec i s = .next t ∧ OnlyProg s t q (p.issued o i)
    let mine := qd.ranges.filter fun x => x.vf == p.vf
    let n := (p.sreg sa.toNat).toNat
    let mres := Instr.mres fmt sps ts sd sa
    let row (kind : EngKind) : EngOp := { kind := kind, pc := p.pc, rows := rows, acc := acc.toNat, ring := ring, sa := sa.toNat }
    let fits : Prop := s.rowsIn p q acc.toNat rows = true
    let norm := (p.sreg sd.toNat).toNat
    (SeqReady s q p mres → n ≠ 0 → n % 256 = 0 → ¬ (ts = true ∧ fmt = .bf16) →
        mine.length < Config.recordsPerQuarter * (tgetD (q % 64) [] (s.vf p.vf).quarters).length → freeOffset mine (s.wbufSpace p.vf q) n = some off →
        ∃ t, exec mres s = .next t ∧ t = { s with quads := t.quads, wbuf := t.wbuf, wdup := t.wdup, fresh := s.fresh + 1 }
          ∧ t.quad q = { qd with
              running := some (p.goesOn (p.sregs.set sd.toNat (BitVec.ofNat 32 off)) (p.pc + BitVec.ofNat 32 mres.len))
              ranges := qd.ranges ++ [{ vf := p.vf, base := off, bytes := n, fmt := fmt, sp := sps, ts := ts }] }
          ∧ ∀ j, j ≠ q → t.quad j = s.quad j)
      ∧ (SeqReady s q p mres → n ≠ 0 → n % 256 = 0 → ¬ (ts = true ∧ fmt = .bf16) → 
        (Config.recordsPerQuarter * (tgetD (q % 64) [] (s.vf p.vf).quarters).length ≤ mine.length ∨ freeOffset mine (s.wbufSpace p.vf q) n = none) →
        ∃ t, exec mres s = .next t ∧ OnlyProg s t q (p.goesOn (p.sregs.set sd.toNat 0xFFFFFFFF) (p.pc + BitVec.ofNat 32 mres.len)))
      ∧ (SeqReady s q p mres → n = 0 → p.ops = [] → (∃ x ∈ qd.ranges, x.vf = p.vf ∧ x.base = norm) → ∃ t, exec mres s = .next t
        ∧ (t.quad q).ranges = qd.ranges.filter (fun x => !(x.vf == p.vf && x.base == norm))
        ∧ (t.quad q).running = some { p.goesOn (p.sregs.set sd.toNat 0) (p.pc + BitVec.ofNat 32 mres.len) with nextOp := p.nextOp + 1 }
        ∧ t = { s with quads := t.quads })
      ∧ (SeqReady s q p (.mwld len sa sb) → let d := (p.sreg sb.toNat).toNat
        d % 256 = 0 → src.toNat % 256 = 0 → p.rangeHolding qd d (256 * len.toNat) = some r → sourceKeys s p.core p.vf p.launch src len.toNat = .ok ks →
        s.busyHome p.core p.vf p.launch ((List.range len.toNat).map fun m => src + BitVec.ofNat 64 (256 * m)) = none →
          issues (.mwld len sa sb) { kind := .mwld src d (256 * len.toNat), pc := p.pc, uses := [r.base], keys := ks })
      ∧ (SeqReady s q p (.mldw blk sa) → p.rangeAt qd n = some r → blk.toNat < r.bytes / r.stride →
        ∃ t x, exec (.mldw blk sa) s = .next t ∧ OnlyProg s t q { x with lastLoad := some p.nextOp }
          ∧ x = p.issued { kind := .mldw n blk.toNat, pc := p.pc, plane := some ⟨r, blk.toNat, []⟩, mldw := p.lastLoad, uses := [n] } (.mldw blk sa))
      ∧ (SeqReady s q p (.mma m acc sa sb) → fits → rowRange p qd false ring (p.sreg sb.toNat).toNat = some r →
        s.ringOutside p q ring (WFmt.rowBytes r.fmt) rows = false →
          issues (.mma m acc sa sb) { row .mma with plane := p.planeLoaded, mldw := p.lastLoad, uses := [r.base] })
      ∧ (∀ held, SeqReady s q p (.mdist m acc sd sa sb) → fits → rowRange p qd true ring (p.sreg sb.toNat).toNat = some r →
        s.ringOutside p q ring (WFmt.rowBytes r.fmt) rows = false → p.rangeHolding qd norm (2048 + 4 * rows) = some held →
          issues (.mdist m acc sd sa sb) { row (.mdist norm) with plane := p.planeLoaded, mldw := p.lastLoad, uses := [r.base, held.base] })
      ∧ (SeqReady s q p (.mtopk m acc km min sa sb) → fits → ringBad ring (8 * (km.toNat + 1)) = false → s.ringOutside p q ring (8 * (km.toNat + 1)) rows = false →
          issues (.mtopk m acc km min sa sb) (row (.mtopk (km.toNat + 1) min (p.sreg sb.toNat))))
      ∧ (SeqReady s q p (.mdrn m acc df sh dst sa sb) → fits → (dst = true ∨ ringBad ring (512 * DFmt.bytes df) = false ∧ s.ringOutside p q ring (512 * DFmt.bytes df) rows = false) →
          issues (.mdrn m acc df sh dst sa sb) { row (.mdrn df sh (if df = .f8 then p.sreg sb.toNat else 0) (if dst then some src else none)) with
            ring := if dst then [] else ring })
      ∧ (SeqReady s q p (.mzero regs) → p.ops = [] → s.acc.wf = true → (∀ j, j < 16 → regs.getLsbD j = true → s.rowsIn p q (64 * j) 64 = true) →
        ∃ t, exec (.mzero regs) s = .next t ∧ (t.quad q).running = some { p with nextOp := p.nextOp + 1, pc := p.pc + BitVec.ofNat 32 (Instr.mzero regs).len }
          ∧ t = { s with quads := t.quads, acc := t.acc, rows := t.rows }
          ∧ (∀ x a w, x < 1024 → regs.getLsbD (x / 64) = true → s.accRow p.vf q x = some w → w * 2048 ≤ a → a < w * 2048 + 2048 → t.acc.get a = 0)
          ∧ ∀ a, (∀ x, x < 1024 → regs.getLsbD (x / 64) = true → s.accRow p.vf q x ≠ some (a / 2048)) → t.acc.get a = s.acc.get a)

/-! ### The device's steps inside a group's life and in its programs -/

/-- R44, R45, R60, R63, R78, R81, R82, R239: the steps in a group's life. A YIELD's 16 clk end; writes in flight arrive; a retired group's context is released; splits
about to issue at one address merge into the lower number; a split takes back the lanes of its deferral entry; a value sent on a port arrives; a breakpoint traps
BKPT with its number. -/
def Obligations.GroupEvents : Prop :=
  ∀ (s : State) (gid k a b : Nat) (g : Group) (sp x y : Split) (since n : Nat) (l1 l2 : List Defer) (d : Defer) (lid item port : Nat),
    s.group? gid = some g →
      (tget k g.splits = some sp → sp.wait = .yield since → g.runs = true → g.stepped k = false → (∀ p ∈ g.splits, p.2.due = none) →
        ((since + 16 ≤ s.now ∨ s.aloneReady gid k g = true) → Leaves (.yieldTimeout gid k) s gid (g.comesBack k sp.pc s.now))
          ∧ (s.now < since + 16 → s.aloneReady gid k g = false → exec (.yieldTimeout gid k) s = .next s))
        ∧ Leaves (.pendingWriteComplete gid) s gid { g with busy := [] }
        ∧ (g.life = .retired → g.busy = [] → g.rinstr = [] → ∃ t, exec (.contextRelease gid) s = .next t ∧ t = { s with groups := t.groups } ∧ t.group? gid = none
            ∧ ∀ j, j ≠ gid → t.group? j = s.group? j)
        ∧ (g.runs = true → a < b → tget a g.splits = some x → tget b g.splits = some y → x.pc = y.pc →
            (∀ z, z = x ∨ z = y → z.held = none ∧ z.due = none ∧ (z.wait = .none ∨ ∃ l, z.wait = .again (.regs l))) →
          Leaves (.splitMerge gid a b) s gid { g with
            splits := tset a { x with mask := x.mask ||| y.mask, wait := .none, exempt := x.exempt && y.exempt, since := min x.since y.since } (tdel b g.splits)
            defer := g.defer.map fun e => if e.owner = b then { e with owner := a } else e })
        ∧ (g.runs = true → tget k g.splits = some sp → sp.wait = .none → sp.held = none → sp.due = none → g.defer = l1 ++ d :: l2 → d.owner = k → d.addr = sp.pc → (∀ e ∈ l1 ++ l2, e.owner ≠ k) →
          Leaves (.deferralRejoin gid k) s gid { g with defer := l1 ++ l2, splits := tset k { sp with mask := sp.mask ||| d.mask } g.splits })
        ∧ (exec (.forwardArrival lid item port) s = .next { s with fwds := s.fwds.map fun f =>
            if f.launch = lid ∧ f.item = item ∧ f.port = port ∧ (f.spilled = false ∨ (s.itemCore lid item).isSome = true) then
              { f with arrived := true, spilled := f.spilled && !s.coreEntry lid item } else f })
        ∧ (g.runs = true → g.trap = none → tget k g.splits = some sp → sp.wait = .none → sp.held = none → sp.exempt = false → n < 4 →
          (let fires (j : Nat) : Prop := g.dbg.ctl.getLsbD j = true ∧ g.dbg.bpa.getD j 0 = sp.pc ∧ (g.dbg.bpm.getD j 0 = 0 ∨ g.dbg.bpm.getD j 0 &&& sp.mask ≠ 0);
            fires n → (∀ j, j < n → ¬ fires j) →
              exec (.pcBreakpoint gid k) s = .next (s.raise gid { cause := causeBKPT, split := k, code := BitVec.ofNat 32 n, pc := sp.pc } sp.pc)))

/-- R244-R246: an uncorrectable error found by scrubbing is logged and waits; the SLD or VLD that reads it kills its group with UCE. A divergence of the shadow unit at a
VFADD, VFSUB, VFMUL or VFMA that does not come again is counted; one that does loses the core. Where the spec leaves it open, this is the model's choice (log entry
31). -/
def Obligations.MemoryAndComputeErrors : Prop :=
  ∀ (s s1 t0 : State) (gid k dev addr : Nat) (g h : Group) (sp : Split) (o : UmOp) (lm : LmOp) (x : LaneAt) (xs pre post : List LaneAt) (v : VBin) (ls : List Nat) (first second : List Word) (f : Instr) (exact : ExactVal → ExactVal → ExactVal → ExactVal),
    let i := Instr.sld o
    let vld := Instr.vld lm
    let recomputed : Prop := (f = .vfadd v ∧ exact = fun a b _ => a.add false b) ∨ (f = .vfsub v ∧ exact = fun a b _ => a.add false b.neg)
      ∨ (f = .vfmul v ∧ exact = fun a b _ => a.mul b) ∨ (f = .vfma .pp v ∧ exact = fun a b d => (a.mul b).add false d)
      ∨ (f = .vfma .np v ∧ exact = fun a b d => (a.mul b).neg.add false d) ∨ (f = .vfma .nc v ∧ exact = fun a b d => (a.mul b).add false d.neg)
      ∨ (f = .vfma .npc v ∧ exact = fun a b d => (a.mul b).neg.add false d.neg)
    let byte := dev * 2 ^ 57 + addr
    let retry := Instr.shadowRetry gid k ls first second
    let quiet := { s1 with cur := .group gid k }.modGroup gid fun y => { y with dbg := { y.dbg with ctl := 0 } }
    let z (w : Word) : Word := flush (g.gmode.getLsbD 0) w
    let sum (n : Nat) : Word := let y := exact (ofF32 (z (s1.srcLane g v.a n))) (ofF32 (z (s1.srcLane g v.b n))) (ofF32 (z ((g.v v.vd.toNat).lane n)))
      if y.isNan then canonNan else z (toF32 .rn y)
    let shadow (n : Nat) : Word := shadowBits (sum n)
    let on (l : List Word) : List (Nat × Word) := (ls.zip l).filter fun y => laneOn sp.mask y.1
    let bad (l : List Word) : Prop := ∃ y ∈ on l, diverges y.2 (shadow y.1) = true
    (∃ t, exec (.scrubError dev addr) s = .next t ∧ byte ∈ t.bad ∧ t.syslog = s.syslog ++ [.scrub dev addr] ∧ t = { s with bad := t.bad, syslog := t.syslog })
      ∧ (Ready s gid k g sp i → sp.mask ≠ 0 → o.ord = .none → laneChecks s g false 4 .read [(127, g.umAt sp o 4)] = .ok [x] → x.remote = false →
          (g.trap.isSome = true ∨ watchHit g.dbg true false 4 x.a = none) → s.badAt x.key 4 = true → g.life = .resident → g.task = none →
            ∃ t, exec i s = .next t ∧ Killed s t gid g causeUCE sp.pc ∧ ∀ b ∈ t.bad, apart b 1 x.key 4)
      ∧ (Ready s gid k g sp vld → laneChecks s g false lm.width.bytes .read (s.lmAt g sp lm) = .ok xs → (∀ y ∈ xs, y.remote = false) →
          (g.trap.isSome = true ∨ ∀ y ∈ xs, watchHit g.dbg true false lm.width.bytes y.a = none) → xs = pre ++ x :: post → (∀ y ∈ pre, s.badAt y.key lm.width.bytes = false) → s.badAt x.key lm.width.bytes = true →
          g.roomFor (if lm.width = .w64 then [lm.vd.toNat, lm.vd.toNat + 1] else [lm.vd.toNat]) = true → g.life = .resident → g.task = none →
            ∃ t, exec vld s = .next t ∧ Killed s t gid g causeUCE sp.pc ∧ ∀ b ∈ t.bad, apart b 1 x.key lm.width.bytes)
      ∧ (recomputed → s.group? gid = some g → tget k g.splits = some sp → g.issues = true → s.atIssue gid k g sp = true → g.stepped k = false → sp.wait = .none →
          g.breaks k = none → s.fetchInstr false g.core g.vf g.launch (pairOf g.window sp.pc) = .ok f s1 → s1.group? gid = some g → exec f quiet = .next t0 →
          t0.group? gid = some h → g.wentOn h k (sp.after f) = true → (∀ p ∈ h.splits, p.2.due = none) →
            (¬ bad first → exec retry s = .next s)
              ∧ (bad first → ¬ bad second → ∃ t, exec retry s = .next t ∧ t = { t0 with groups := t.groups, cores := t.cores, syslog := t0.syslog ++ [.sdc g.core] }
                ∧ t.group? gid = some { h with dbg := g.dbg, vregs := h.vregs.set v.vd.toNat ((h.v v.vd.toNat).setLanes (on second)) }
                ∧ (∀ j, j ≠ gid → t.group? j = t0.group? j)
                ∧ t.coreAt g.core = { t0.coreAt g.core with sdccnt := min 0xFFFF ((t0.coreAt g.core).sdccnt + 1) } ∧ ∀ c, c ≠ g.core → t.coreAt c = t0.coreAt c)
              ∧ (bad first → bad second → ∃ t, exec retry s = .next t ∧ (t.coreAt g.core).lost = true))
      ∧ (recomputed → s.group? gid = some g → tget k g.splits = some sp → g.issues = true → s.atIssue gid k g sp = true → g.stepped k = false → sp.wait = .none → sp.held = none → g.pend = none →
          g.breaks k = none → s.fetchInstr false g.core g.vf g.launch (pairOf g.window sp.pc) = .ok f s1 → s1.group? gid = some g →
          s1.operable g k f = true → g.room v.vd.toNat = true → (∀ p ∈ g.splits, p.2.due = none) → bad first → ¬ bad second →
          (sp.mask ≠ BitVec.allOnes 96 ∨ s1.srcTag g v.a ≠ 0 ∨ s1.srcTag g v.b ≠ 0) →
            ∃ t r, exec retry s = .next t ∧ t = { s1 with cur := .group gid k, groups := t.groups, cores := t.cores, syslog := s1.syslog ++ [.sdc g.core] }
              ∧ t.group? gid = some ({ g with vregs := g.vregs.set v.vd.toNat r, cache := cacheAfter f (vDests f) }.goesOn k (sp.after f) s1.now)
              ∧ ∀ n, n < 96 → r.lane n = if laneOn sp.mask n then (((on second).find? fun y => y.1 == n).map Prod.snd).getD (sum n) else (g.v v.vd.toNat).lane n)

/-- R195, R242: a group that may stop is pre-empted with its context saved, its reservation gone, and goes back to a free place; a sequencer's program without operations
under way likewise, and one with an operation at a point where it may stop, whose saved ring registers hold POS and LAP of the next slot (R187). -/
def Obligations.Preemption : Prop :=
  ∀ (s : State) (gid part slot q id : Nat) (g : Group) (p : Prog) (saved : List Word) (o : EngOp),
    (s.group? gid = some g → s.mates gid g = [(gid, g)] → g.life = .resident → g.mayStop = true → g.item = none →
        ∃ h f, Leaves (.preemption gid) s gid h ∧ h = { g with splits := h.splits, reserv := none, cache := [], life := .preempted f }
          ∧ (∀ j, tget j h.splits = (tget j g.splits).map Split.withdrawn) ∧ f.getD 1 0 = g.window ∧ f.getD 55 0 = g.gmode)
      ∧ (s.group? gid = some g → g.life = .preempted saved → s.mates gid g = [(gid, g)] → g.item = none → savedOk saved = true → part < Config.partitionsPerCore → slot < Config.slotsPerPartition →
          s.ctxRoom g.core part (grant g.budget g.count) (g.entries g.splits.length) = true → s.slotFree g.core part slot = true → (s.coreAt g.core).lost = false →
          (∀ x ∈ s.groups, x.2.away = true → x.2.vf = g.vf → x.2.core = g.core → s.groupPrio x.2 ≤ s.groupPrio g) →
            ∃ h, Leaves (.resumption gid [(gid, part, slot)]) s gid h ∧ h = { g with part := part, slot := slot, life := .resident, splits := h.splits }
              ∧ ∀ j, tget j h.splits = (tget j g.splits).map fun x => { x with since := s.now })
      ∧ ((s.quad q).running = some p → p.stopped = none → p.ops = [] → p.plane = none →
          ∃ t, exec (.sequencerPreemption q) s = .next t ∧ t = { s with quads := t.quads } ∧ t.quad q = { s.quad q with running := none, saved := (s.quad q).saved ++ [p] }
            ∧ ∀ j, j ≠ q → t.quad j = s.quad j)
      ∧ ((s.quad q).running = some p → p.stopped = none → p.ops = [(id, o)] → s.opMayStop q o = true → o.ring.length = 4 → o.sa + 3 < p.sregs.length →
          ∃ t x, exec (.sequencerPreemption q) s = .next t ∧ t = { s with quads := t.quads } ∧ t.quad q = { s.quad q with running := none, saved := (s.quad q).saved ++ [x] }
            ∧ (∀ j, j ≠ q → t.quad j = s.quad j) ∧ x = { p with sregs := x.sregs, ops := x.ops, plane := x.plane } ∧ (∃ y, x.ops = [(id, { o with plane := y })])
            ∧ ∀ n, x.sregs.getD n 0 = if n = o.sa + 2 then o.ring.getD 2 0 else if n = o.sa + 3 then o.ring.getD 3 0 else p.sregs.getD n 0)
      ∧ ((s.quad q).running = none → (s.quad q).saved = [p] → p.ops = [] → p.plane = none →
          ∃ t, exec (.sequencerResumption q p.serial) s = .next t ∧ t = { s with quads := t.quads } ∧ t.quad q = { s.quad q with running := some p, saved := [] }
            ∧ ∀ j, j ≠ q → t.quad j = s.quad j)

/-- R217-R219, R222-R224: a cairn's move ends with its bytes at the new place and its holder changed, and the COPEN that waited for it answers OK with the new handle; a
write-back ends with the mirror holding the bytes; a byte written meanwhile is carried with its old or its new value; a CDROP, CHAND or CINFO.sync that waited for it
answers OK, a CDROP with its close. Device memory changes at a write-back only inside the VF's mirror area, whose bytes the model leaves undefined (the model's
choice, log entry 15). -/
def Obligations.CairnEvents : Prop :=
  ∀ (s : State) (vf id gid k sd : Nat) (name : DWord) (c : Cairn) (m : Move) (g : Group) (sp : Split) (w : Writeback),
    let carried (now old : List Byte) (j : Nat) (b : Byte) : Prop := b = now.getD j 0 ∨ b = old.getD j 0
    let moved (bs now old : List Byte) : Prop := bs.length = old.length ∧ ∀ j, j < old.length → carried now old j (bs.getD j 0)
    (s.cairn vf name = some c → c.moving = some m → m.restore = false → m.bytes.length = c.size → c.hand = none → s.Inv → 0 < c.size →
        (c.holder ≠ m.core ∨ m.off + c.size ≤ c.off ∨ c.off + c.size ≤ m.off) → c.off + c.size ≤ 2 ^ 21 → m.off + c.size ≤ 2 ^ 21 → s.unclaimed true (m.core * 2 ^ 21 + m.off) c.size →
        (m.opener = none → c.drop = false → ∃ t d, exec (.cairnMoveComplete vf name) s = .next t ∧ t.cairn vf name = some d
            ∧ d = { c with holder := m.core, off := m.off, moving := none, restorable := false } ∧ t.groups = s.groups
            ∧ ∀ j, j < c.size → carried (s.cairnBytes c) m.bytes j (t.scratch.get (m.core * 2 ^ 21 + m.off + j)))
          ∧ (m.opener = some (gid, k) → s.group? gid = some g → tget k g.splits = some sp → sp.wait = .move name sd → g.stepped k = false →
            (∀ x ∈ g.splits, x.2.due = none) → ∃ t d, exec (.cairnMoveComplete vf name) s = .next t
            ∧ t.cairn vf name = some d ∧ d.holder = m.core ∧ d.off = m.off ∧ d.moving = none ∧ d.opens = c.opens ++ [gid]
            ∧ t.group? gid = some (((g.setS k sd 0).setS k (sd + 1) (BitVec.ofNat 32 (2 ^ 31 + m.off))).comesBack k sp.cont s.now)
            ∧ ∀ j, j < c.size → carried (s.cairnBytes c) m.bytes j (t.scratch.get (m.core * 2 ^ 21 + m.off + j))))
      ∧ (tget id s.wbacks = some w → s.cairn w.vf w.name = some c → c.lost = false → c.restorable = false →
        let x := s.vf w.vf
        let area := memKey (s.vfDev w.vf) x.mirrorBase.toNat;
          (∀ x ∈ s.wbacks, x.1 < id → x.2.vf ≠ w.vf ∨ x.2.name ≠ w.name) →
          (w.waiter = none → w.leaver = none → ∃ t d, exec (.cairnWritebackComplete id) s = .next t ∧ t.cairn w.vf w.name = some d ∧ (∃ bs, moved bs (s.cairnBytes c) w.bytes ∧ d = { c with mirror := bs })
            ∧ tget id t.wbacks = none
            ∧ t = { s with cairns := t.cairns, wbacks := t.wbacks, mem := t.mem, fresh := t.fresh, written := t.written, groups := t.groups, bad := t.bad, copies := t.copies, quads := t.quads }
            ∧ (∀ j, ∃ f : Group → Option Nat, (∀ h, f h = h.reserv ∨ f h = none) ∧ t.group? j = (s.group? j).map fun h => { h with reserv := f h })
            ∧ ∀ a, apart a 1 area x.mirrorSize → t.mem.get a = s.mem.get a)
            ∧ (w.waiter = none → w.leaver = some (.group gid) → c.opens = [gid] → c.hand = none → ∃ t bs, exec (.cairnWritebackComplete id) s = .next t
              ∧ moved bs (s.cairnBytes c) w.bytes ∧ t.cairn w.vf w.name = if c.topens = [] ∧ c.drop = true then none else some { c with mirror := bs, opens := [] })
            ∧ (∀ v : Word, w.waiter = some (gid, k, sd, v) → s.group? gid = some g → tget k g.splits = some sp → sp.wait = .writeback id sd → g.stepped k = false →
              (∀ x ∈ g.splits, x.2.due = none) → ∃ t bs, exec (.cairnWritebackComplete id) s = .next t ∧ moved bs (s.cairnBytes c) w.bytes
                ∧ (∃ r, t.group? gid = some { ((g.setS k sd 0).setS k (sd + 1) v).comesBack k sp.cont s.now with reserv := r } ∧ (r = g.reserv ∨ r = none))
                ∧ (∀ a, apart a 1 area x.mirrorSize → t.mem.get a = s.mem.get a)
                ∧ (w.close = none → t.cairn w.vf w.name = some { c with mirror := bs })
                ∧ ∀ free, w.close = some free → c.hand = none →
                    let d := { c with mirror := bs, opens := c.opens.erase gid, drop := c.drop || free }
                    t.cairn w.vf w.name = if d.opens = [] ∧ d.topens = [] ∧ d.drop = true then none else some d))

/-- R120-R122, R176-R179, R181, R185-R191, R194, R317: the engine's steps. A sequencer takes the oldest queued program, and ends one whose operations are complete;
MWLD's bytes arrive in both copies of the weight buffer; MLDW's block becomes the plane; a row of MMA adds the block sums of its slot in order to the accumulator's
row and hands the slot back, and one of MDIST the distance that they and the stored norms give. MTOPK writes the best entries in rank order with their indices, MDRN
the row in the format asked for, to its ring's slot or to global memory; a row whose check fails ends the program with MCHK. Where the spec leaves it open, this is
the model's choice (log entries 11, 32, 38 and 39). -/
def Obligations.EngineEvents : Prop :=
  ∀ (s : State) (q id row : Nat) (p : Prog) (rest : List Prog) (o : EngOp) (src : DWord) (dst len base blk : Nat) (pl : Plane),
    let qd := s.quad q
    let runs : Prop := qd.running = some p ∧ tget id p.ops = some o
    let still : Prop := ∀ x ∈ p.loads, x.2.2 = []
    let last' : Fate := ⟨p.serial, p.vf, p.launch, p.core, 0, 0, false⟩
    (qd.running = none → qd.queue = p :: rest → (∀ x ∈ qd.saved, x.vf ≠ p.vf) → ∃ t, exec (.sequencerProgramStart q) s = .next t ∧ t = { s with quads := t.quads }
        ∧ t.quad q = { qd with running := some p, queue := rest } ∧ ∀ j, j ≠ q → t.quad j = s.quad j)
      ∧ (qd.running = some p → p.ops = [] → p.ending = true → p.stopped = none → still → qd.fates.length < Config.fateEntries → ∃ t, exec (.sequencerProgramEnd q) s = .next t
        ∧ t.quad q = { qd with running := none, fates := qd.fates ++ [last'] } ∧ t.groups = s.groups.map (fun x => (x.1, x.2.seeEnd q last')) ∧ t.launches = s.launches)
      ∧ (∀ (g : Group) (n : Nat) (x : Split), g.splits = [(n, x)] → g.trap = none →
          (quadOf g.core = q → x.wait = .again (.rdv p.serial none) → g.seeEnd q last' = { g with splits := [(n, { x with wait := .again (.rdv p.serial (some (p.vf, 0, 0))) })] })
            ∧ ((quadOf g.core ≠ q ∨ x.wait ≠ .again (.rdv p.serial none)) → g.seeEnd q last' = g))
      ∧ (runs → p.ops = [(id, o)] → o.kind = .mwld src dst len → o.dirty = [] → (∀ x ∈ o.keys, s.badAt x 256 = false) → s.wbuf.wf = true → s.wdup.wf = true →
        dst + 256 * o.keys.length ≤ s.wbufSpace p.vf q → (tgetD (q % 64) [] (s.vf p.vf).quarters).Nodup → (∀ i ∈ tgetD (q % 64) [] (s.vf p.vf).quarters, i < 4) →
        s.cutHome p.core p.vf p.launch ((List.range o.keys.length).map fun i => src + BitVec.ofNat 64 (256 * i)) = false →
        ∃ t, exec (.mwldComplete q id) s = .next t ∧ (∃ ls, (t.quad q).running = some { p with ops := [], loads := ls }) ∧ t.mem = s.mem
          ∧ ∀ i x a, i < o.keys.length → x < 256 → s.wbufKey p.vf q (dst + 256 * i + x) = some a →
              t.wbuf.get a = s.mem.get (o.keys.getD i 0 + x) ∧ t.wdup.get a = s.mem.get (o.keys.getD i 0 + x))
      ∧ (runs → p.ops = [(id, o)] → o.kind = .mldw base blk → o.plane = some pl → p.lastLoad = some id → still →
        let bytes := s.wbufBytes false p.vf q (base + blk * pl.range.stride) pl.range.stride
        planeOk pl.range bytes (s.wbufBytes true p.vf q (base + blk * pl.range.stride) pl.range.stride)
            (s.wbufUndefined p.vf q (base + blk * pl.range.stride) pl.range.stride) = true →
        ∃ t, exec (.weightPlaneLoaded q id) s = .next t ∧ OnlyProg s t q { p with ops := [], plane := some { pl with bytes := bytes } })
      ∧ (runs → (∀ e ∈ p.ops, e.1 < id → e.2.conflicts o = false) → s.acc.wf = true → s.scratch.wf = true → s.slotReady q o = true → o.row + 1 < o.rows →
        s.accRow p.vf q (o.acc + o.row) = some row →
        let acc (j : Nat) : Word := BitVec.ofNat 32 (s.acc.read (row * 2048 + 4 * j) 4)
        let vals := (List.range 512).map acc
        let key := slotKey q o.ring
        s.unclaimed true key 4 →
        let slot := s.scratch.bytes (key + 64) (WFmt.rowBytes pl.range.fmt)
        let check := tgetD row {} s.rows
        let goesOn (t : State) : Prop := ∃ p' o', (t.quad q).running = some p' ∧ tget id p'.ops = some o' ∧ p'.sregs = p.sregs
          ∧ o' = { o with row := o.row + 1, ring := if o.ring = [] then [] else ringNext o.ring }
        let adds (f : Nat → Word) (t : State) : Prop := exec (.engineRingSlot q id) s = .next t ∧ t.mem = s.mem ∧ t.groups = s.groups ∧ goesOn t
          ∧ (∀ j, j < 512 → BitVec.ofNat 32 (t.acc.read (row * 2048 + 4 * j) 4) = f j) ∧ (∀ a, apart a 1 (row * 2048) 2048 → t.acc.get a = s.acc.get a)
          ∧ BitVec.ofNat 32 (t.scratch.read key 4) = 2 * ringLap o.ring + 2 ∧ ∀ a, apart a 1 key 4 → t.scratch.get a = s.scratch.get a
        let gives (n : Nat) (bs : Nat → Byte) (t : State) : Prop := exec (.engineRingSlot q id) s = .next t ∧ t.mem = s.mem ∧ t.groups = s.groups ∧ t.acc = s.acc ∧ goesOn t
          ∧ (∀ i, i < n → t.scratch.get (key + 64 + i) = bs i) ∧ BitVec.ofNat 32 (t.scratch.read key 4) = 2 * ringLap o.ring + 1
          ∧ ∀ a, apart a 1 key 4 → apart a 1 (key + 64) n → t.scratch.get a = s.scratch.get a
        let ranks (min : Bool) (x y : Nat × Word) : Prop := ranksAbove min x.2 y.2 = true ∨ (ranksAbove min y.2 x.2 = false ∧ x.1 < y.1)
        let elem (fmt : DFmt) (scale v : Word) : Nat := match fmt with
          | .f32 => v.toNat
          | .bf16 => packBin 8 (-133) .rn (ofF32 v)
          | .f8 => packE4m3 .rn false ((ofF32 v).mul (ofF32 scale))
        let elems (fmt : DFmt) (scale : Word) (i : Nat) : Byte := BitVec.ofNat 8 (elem fmt scale (acc (i / DFmt.bytes fmt)) / 256 ^ (i % DFmt.bytes fmt))
        (o.kind = .mma → o.plane = some pl → o.ring.length = 4 → ∃ t, adds (fun j => (pl.qs slot j).foldl fAdd (acc j)) t
            ∧ ∃ c, tget row t.rows = some c ∧ c.updates = check.updates + WFmt.blocks pl.range.fmt ∧ c.mdist = check.mdist)
          ∧ (∀ norm, o.kind = .mdist norm → o.plane = some pl → o.ring.length = 4 → p.loading id norm (2048 + 4 * o.rows) = false → still →
            let nB := wordsOf (s.wbufBytes false p.vf q norm 2048)
            let nA := (wordsOf (s.wbufBytes false p.vf q (norm + 2048 + 4 * o.row) 4)).getD 0 0
            ∃ t, adds (fun j => fAdd (acc j) (fSub (fAdd nA (nB.getD j 0)) (fMul 0x40000000 ((pl.qs slot j).foldl fAdd 0)))) t
              ∧ tget row t.rows = some { check with mdist := true })
          ∧ (∀ k' min w, o.kind = .mtopk k' min w → o.ring.length = 4 → k' ≤ 16 → ∃ (t : State) (best : List (Nat × Word)), best.length = k' ∧ (∀ e ∈ best, e.1 < 512 ∧ e.2 = acc e.1)
            ∧ best.Pairwise (ranks min) ∧ (∀ e ∈ best, ∀ j, j < 512 → (j, acc j) ∈ best ∨ ranks min e (j, acc j))
            ∧ gives (8 * k') (fun i => (best.flatMap fun e => leBytes 4 (w + BitVec.ofNat 32 e.1).toNat ++ leBytes 4 e.2.toNat).getD i 0) t)
          ∧ (∀ fmt sh scale, o.kind = .mdrn fmt sh scale none → o.ring.length = 4 → check.passes vals = true → ∃ t, gives (512 * DFmt.bytes fmt) (elems fmt scale) t)
          ∧ (∀ fmt sh scale a m, o.kind = .mdrn fmt sh scale (some a) → o.ring = [] → check.passes vals = true → s.mem.wf = true →
            (let ends := [a + BitVec.ofNat 64 (o.row * (512 * DFmt.bytes fmt)), a + BitVec.ofNat 64 ((o.row + 1) * (512 * DFmt.bytes fmt) - 1)];
              s.busyHome p.core p.vf p.launch ends = none ∧ s.passes p.core p.vf p.launch ends = false) →
            drainKeys s p (a + BitVec.ofNat 64 (o.row * (512 * DFmt.bytes fmt))) (512 * DFmt.bytes fmt) (DFmt.bytes fmt) sh = .ok [(m, 512 * DFmt.bytes fmt)] →
            ∃ t, exec (.engineRingSlot q id) s = .next t ∧ t.acc = s.acc ∧ t.scratch = s.scratch ∧ goesOn t
              ∧ (∀ i, i < 512 * DFmt.bytes fmt → t.mem.get (m + i) = elems fmt scale i) ∧ ∀ b, apart b 1 m (512 * DFmt.bytes fmt) → t.mem.get b = s.mem.get b)
          ∧ (∀ fmt sh scale dst, o.kind = .mdrn fmt sh scale dst → p.ops = [(id, o)] → check.passes vals = false →
            ∃ t, exec (.engineRingSlot q id) s = .next t ∧ t.acc = s.acc ∧ ((t.quad q).running.map Prog.stopped) = some (some (causeMCHK, o.pc))))
      ∧ (runs → s.slotReady q o = false → exec (.engineRingSlot q id) s = .next s)

/-! ### Host queues, launches and dispatch (R39, R51, R52, R200, R203-R210, R222, R267-R269) -/

/-- R267, R268, R269, R271, R278: a doorbell moves the tail and starts an exit from a power state, or records a bad one; a device that has not booted ignores it. The
command processor takes the next entry of an enabled queue: a launch that its entry describes is set up with the entry's priority, record, payload and kernels, any
other is refused with its status, and the head moves on; a graph launch waits for a free slot, and an entry while the payload or the record that it needs cannot be
reached. Where the spec leaves it open, this is the model's choice (log entries 11, 22, 40, 41, 44, 86 and 94). -/
def Obligations.HostQueues : Prop :=
  ∀ (s : State) (v q : Nat) (tail : Word) (k : Kernel) (ks : List Kernel) (payload : List Word) (st : Nat),
    let x := s.hostq v q
    let p := s.pkg (pkgOf v)
    let ws := s.memWords (s.vfDev v * 2 ^ 57 + (x.base.toNat + 64 * (x.head.toNat % 2 ^ bitField x.cfg.toNat 3 0))) 64
    let word (i : Nat) : Nat := (ws.getD i 0).toNat
    let graph : Bool := bitField (word 0) 31 24 == 2
    let i := if graph then Instr.graphLaunch v q else .launch v q
    let n := if graph then word 7 else 1
    let done := pairOf (ws.getD 5 0) (ws.getD 4 0)
    let moved (y : HostQ) : State := s.setVf v { s.vf v with queues := tset q y (s.vf v).queues }
    let s' := moved { x with head := x.head + 1 }
    let ready : Prop := p.booted = true ∧ p.wiping = false ∧ p.life ≠ .decommissioned ∧ p.power = .active ∧ p.lost = false ∧ x.cfg.msb = true ∧ x.head ≠ x.tail
      ∧ (graph = true → s.nextSlot v ≠ none)
    let far : Prop := s.vfFar v (payloadEnds (pairOf (ws.getD 3 0) (ws.getD 2 0))) = true
    let formed : Prop := (graph = true ∨ bitField (word 0) 31 24 = 1) ∧ bitField (word 0) 23 10 = 0 ∧ bitField (word 0) 7 0 = 0 ∧ (∀ w ∈ ws.drop 8, w = 0)
      ∧ (if graph then 1 ≤ word 7 ∧ word 7 ≤ 4096 else word 7 = 0) ∧ (word 6 = 0 ∨ ∃ ps acc, tget (word 6) s.pods = some (ps, acc) ∧ pkgOf v ∈ ps ∧ pkgOf v ∉ acc)
    let described : Prop := s'.kernelsAt v (word 1) n = some (k :: ks) ∧ s'.payload v (pairOf (ws.getD 3 0) (ws.getD 2 0)) = some payload
      ∧ ∀ y ∈ k :: ks, ((y.kind = 2 ↔ graph = true) ∧ ∀ j ∈ y.succ, j < n) ∧ s'.fits v y = true
    let placed : Prop := ∀ m ∈ (s.vf v).images, (∃ d ∈ m.descs, word 1 ≤ d ∧ d < word 1 + n) → ∀ c ∈ m.coords, c.2 < (s'.coreSet v).length
    let l : Launch := {
      vf := v
      queue := q
      graph := graph
      slot := if graph then (s.nextSlot v).getD 0 else 0
      kernel := k
      payload := payload
      prio := bitField (word 0) 9 8
      done := done
      podl := word 6
      first := word 1
      nodes := if graph then (k :: ks).map fun y => { kernel := y } else [] }
    (q < (match p.mode with | .whole => 64 | .halves => 32 | .dies => 8) → p.booted = true →
        ((tail - x.head).toNat ≤ 2 ^ bitField x.cfg.toNat 3 0 → (p.power = .active ∨ p.exitAt ≠ none) → exec (.doorbellWrite v q tail) s = .next (moved { x with tail := tail }))
          ∧ ((tail - x.head).toNat ≤ 2 ^ bitField x.cfg.toNat 3 0 → p.power ≠ .active → p.exitAt = none →
            exec (.doorbellWrite v q tail) s = .next ((moved { x with tail := tail }).setPkg (pkgOf v) { p with exitAt := some (s.now + Power.latency p.power) }))
          ∧ (2 ^ bitField x.cfg.toNat 3 0 < (tail - x.head).toNat → exec (.doorbellWrite v q tail) s = .next (s.setVf v { s.vf v with baddb := true })))
      ∧ ((Mode.queues p.mode ≤ q ∨ p.booted = false) → exec (.doorbellWrite v q tail) s = .next s)
      ∧ (ready → ¬ far → formed → described → placed → ∃ t, exec i s = .next t ∧ t.launches = tset s.nextId l s.launches ∧ t.nextId = s.nextId + 1 ∧ t.vfs = s'.vfs
        ∧ t.tasks = s.tasks ∧ t.cairns = s.cairns ∧ t.scratch = s.scratch ∧ t.mem = s.mem
        ∧ (tget (word 6) s.pods = none → t.groups = s.groups ∧ t.barriers = s.barriers ∧ t.pods = s.pods)
        ∧ (∀ b, ¬ (b.level = 4 ∧ b.owner = word 6) → t.barrier b = s.barrier b)
        ∧ (∀ ps acc, tget (word 6) s.pods = some (ps, acc) → (s.barriers.map fun b => b.1).Nodup →
          let mine := if graph then 0 else k.grid * ((k.lanes + 95) / 96)
          let left := (ps.filter fun y => !(acc ++ [pkgOf v]).contains y).length
          tget (word 6) t.pods = some (ps, acc ++ [pkgOf v]) ∧ ∀ j, j < k.pbars →
            (s.barrier ⟨4, word 6, 0, j⟩ = none → t.barrier ⟨4, word 6, 0, j⟩ = some { expected := mine, members := [], parts := left })
              ∧ ∀ b, s.barrier ⟨4, word 6, 0, j⟩ = some b →
                t.barrier ⟨4, word 6, 0, j⟩ = some (({ b with parts := left, expected := b.expected + mine } : Barrier).settle s.now)))
      ∧ (ready → ¬ far → s'.vfFar v (recordEnds done) = false → s'.readLaunch v q graph ws = .error st → ∃ t, exec i s = .next t ∧ t.launches = s.launches ∧ t.vfs = s'.vfs ∧ t.tasks = s.tasks
        ∧ t = { s'.writeRecord v done st 0 0 0 with launches := s.launches })
      ∧ (ready → ¬ formed → s'.readLaunch v q graph ws = .error 1)
      ∧ (ready → far ∨ (s'.vfFar v (recordEnds done) = true ∧ s'.readLaunch v q graph ws = .error st) → exec i s = .next s)
      ∧ (x.head = x.tail → exec (.launch v q) s = .next s ∧ exec (.graphLaunch v q) s = .next s)
      ∧ (graph = true → s.nextSlot v = none → exec (.graphLaunch v q) s = .next s)

/-- R52, R177, R210, R269, R34, R37-R39, R51, R203, R209: A launch whose blocks are placed and whose groups, tasks and operations are over completes with its record:
status, cause, core, PC and the time base; until then nothing happens. A graph launch ends at the second wave that finds it idle with every sum unchanged. Where the
spec leaves it open, this is the model's choice (log entry 40). A block of one group goes to a free context of a core of the core set. The group starts at the
kernel's entry with the payload in s0 to s55, its indices in s120 to s124, every other register zero, and its first lanes active. A queued task's next block goes to
the core that holds it, a node's records to the core of the shallowest queue; without a free context nothing is placed. As its placing begins, a launch's images are
loaded for the core set of now: a placement that is loaded already is used again, the first goes into memory, a further one into a copy of the image beside it, each
COORD8 byte the coordinate that its index names, and the launch's accesses to the image go to that copy; it is refused where an index lies beyond the core set, and
waits while pages that it needs cannot be reached. Where the spec leaves it open, this is the model's choice (log entries 11, 29, 42, 43, 63, 69 and 76). -/
def Obligations.DispatchAndCompletion : Prop :=
  (∀ (s : State) (lid key : Nat) (l : Launch) (w : Sums),
        let sums : Sums := { l.sums with ops := s.opsOf lid }
        let done : Prop := l.next = l.kernel.grid ∧ s.tasksOver lid = true ∧ s.opsOf lid = 0 ∧ ∀ p ∈ s.groups, p.2.launch = lid → p.2.life = .retired
        let status := if l.fablost then 5 else if l.killed then 4 else 0
        let f := l.fault.getD ⟨0, 0, 0, false⟩
        let bs := leBytes 4 (status + 2 ^ 8 * f.cause + 2 ^ 16 * f.core) ++ leBytes 4 f.pc.toNat ++ leBytes 8 (s.timeBase (pkgOf l.vf)).toNat
        let ends (i : Instr) : Prop := ∃ t, exec i s = .next t ∧ tget lid t.launches = some { l with ended := true } ∧ (∀ j, j ≠ lid → tget j t.launches = tget j s.launches)
          ∧ t.tasks = s.tasks ∧ t.scratch = s.scratch ∧ t.vfs = s.vfs
          ∧ (∀ c ∈ t.cairns, ¬ (c.vf = l.vf ∧ c.life = .launch ∧ c.launch = lid ∧ c.opens = [] ∧ c.topens = [] ∧ c.moving = none))
          ∧ (s.unclaimed false key 16 → (∀ n, n < 16 → (s.storeMem key (bs.take n)).vfKey l.vf (l.done + BitVec.ofNat 64 n) true = some (key + n)) → s.mem.wf = true →
              (∀ n, n < 16 → t.mem.get (key + n) = bs.getD n 0) ∧ ∀ a, apart a 1 key 16 → t.mem.get a = s.mem.get a)
        let far : Prop := s.vfFar l.vf (recordEnds l.done) = true
        tget lid s.launches = some l → l.ended = false → (∀ q ∈ s.quads, ∀ x ∈ q.2.fates, x.launch ≠ lid) →
          (l.graph = false → done → ¬ far → ends (.launchComplete lid))
            ∧ (l.graph = false → ¬ done ∨ far → exec (.launchComplete lid) s = .next s)
            ∧ (l.graph = true → l.sums.appended ≠ 0 →
              (l.wave = none → exec (.terminationWave lid) s = .next { s with launches := tset lid { l with wave := some sums } s.launches })
                ∧ (l.wave = some w → s.graphIdle lid l = true → w = sums → (¬ far → ends (.terminationWave lid)) ∧ (far → exec (.terminationWave lid) s = .next s))
                ∧ (l.wave = some w → ¬ (s.graphIdle lid l = true ∧ w = sums) → exec (.terminationWave lid) s = .next { s with launches := tset lid { l with wave := none } s.launches })))
    ∧ (∀ (s u : State) (lid c part slot uid i off idx key : Nat) (l : Launch) (x : Task) (nd : Node) (m : Image) (a : DWord) (n size core : Nat) (need : Need) (lf : Leaf),
        let s0 := if l.begun then s else s.loadImages lid l
        let begins : Prop := l.begun = true ∨ (s.coordRange l.vf l.first (max 1 l.nodes.length) = false ∧ s.imagesFar l = false)
        (tget lid s.launches = some l → (s.vf l.vf).images = [m] → m.coords = [(off, idx)] → (∃ d ∈ m.descs, l.first ≤ d ∧ d < l.first + max 1 l.nodes.length) →
            idx < (s.coreSet l.vf).length → off < m.size → s.mem.wf = true →
            let t := s.loadImages lid l
            let coord : Byte := BitVec.ofNat 8 (coordOf ((sortBy id (s.coreSet l.vf)).getD idx 0))
            let uses (y : Option Nat) : Prop := tget lid t.launches = some { l with images := [⟨m.base, m.size, y⟩] }
            let base := copyKey s.nextId m.base
            (∀ y, m.loaded.find? (fun z => z.1 == [coord]) = some ([coord], y) → t.mem = s.mem ∧ uses y)
              ∧ (m.loaded = [] → s.imageKey l.vf m none off = some key → s.unclaimed false key 1 → uses none ∧ t.mem.get key = coord ∧ ∀ a, a ≠ key → t.mem.get a = s.mem.get a)
              ∧ (m.loaded = [] → s.imageKey l.vf m none off = none → uses none ∧ t.mem = s.mem)
              ∧ (m.loaded ≠ [] → (∀ y ∈ m.loaded, y.1 ≠ [coord]) → m.file.length = m.size → s.unclaimed false (base + off) 1 →
                uses (some s.nextId) ∧ (∀ x, x < m.size → t.mem.get (base + x) = if x = off then coord else m.file.getD x 0)
                  ∧ ∀ a, apart a 1 base m.size → t.mem.get a = s.mem.get a))
        ∧ (tget lid s.launches = some l → s.checkGlobal core l.vf lid a size need = .ok lf →
            (l.images = [] → s.leafKey core l.vf lf = memKey (s.homeDev core l.vf lf.home) lf.pa)
              ∧ (∀ m : ImageUse, l.images = [m] → m.copy = some n → s.region l.vf (va57 a) = none → m.base ≤ va57 a → va57 a < m.base + m.size →
                s.leafKey core l.vf lf = copyKey n (va57 a) ∧ lf.home = pkgOf l.vf))
        ∧ (tget lid s.launches = some l → l.graph = false →
          (l.ended = false → l.next < l.kernel.grid → 1 ≤ l.kernel.lanes → l.kernel.lanes ≤ 96 → l.kernel.kind = 0 → l.kernel.scratch = 0 →
            l.kernel.bars = 0 → l.kernel.qbars = 0 → l.kernel.gbars = 0 → l.kernel.pbars = 0 → l.payload.length = 56 → s.group? (s0.nextId + 1) = none →
            begins → c ∈ s.coreSet l.vf → (s.pkg (pkgOf l.vf)).accepts = true →
              (s.freeContext c (grant l.kernel.budget l.kernel.count) = some (part, slot) →
                ∃ t h, exec (.blockDispatch (.launch lid) [c]) s = .next t ∧ t.group? (s0.nextId + 1) = some h ∧ (∀ j, j ≠ s0.nextId + 1 → t.group? j = s0.group? j)
                  ∧ t.mem = s0.mem ∧ t.scratch = s.scratch ∧ t.vfs = s0.vfs
                  ∧ tget lid t.launches = (tget lid s0.launches).map (fun y => { y with next := l.next + 1, sums := { y.sums with started := y.sums.started + 1 } })
                  ∧ h.core = c ∧ h.part = part ∧ h.slot = slot ∧ h.vf = l.vf ∧ h.launch = lid ∧ h.task = none ∧ h.block = some s0.nextId ∧ h.gidx = 0 ∧ h.item = none
                  ∧ h.count = l.kernel.count ∧ h.budget = l.kernel.budget ∧ h.window = hiWord l.kernel.entry ∧ h.life = .resident ∧ h.trap = none ∧ h.gmode = 0
                  ∧ h.dbg = (s.vf l.vf).debug
                  ∧ (∃ m : Mask, h.splits = [(0, { pc := loWord l.kernel.entry, mask := m, since := s.now })] ∧ h.exited = ~~~m
                      ∧ ∀ n, n < 96 → m.getLsbD n = decide (n < l.kernel.lanes))
                  ∧ h.vregs = List.replicate l.kernel.count (.u 0)
                  ∧ (∀ n, n < 56 → h.sregs.getD n 0 = l.payload.getD n 0) ∧ (∀ n, 56 ≤ n → n < 120 → h.sregs.getD n 0 = 0)
                  ∧ h.sregs.getD 120 0 = BitVec.ofNat 32 l.next ∧ h.sregs.getD 121 0 = 0 ∧ h.sregs.getD 122 0 = BitVec.ofNat 32 l.kernel.grid
                  ∧ h.sregs.getD 123 0 = BitVec.ofNat 32 (c % 256) ∧ h.sregs.getD 124 0 = BitVec.ofNat 32 l.kernel.lanes)
                ∧ (s.freeContext c (grant l.kernel.budget l.kernel.count) = none → exec (.blockDispatch (.launch lid) [c]) s = .next s0))
            ∧ ((l.ended = true ∨ l.kernel.grid ≤ l.next) → exec (.blockDispatch (.launch lid) [c]) s = .next s)
            ∧ (l.ended = false → l.next < l.kernel.grid → l.begun = false → (s.pkg (pkgOf l.vf)).accepts = true →
              (s.coordRange l.vf l.first (max 1 l.nodes.length) = true → s.vfFar l.vf (recordEnds l.done) = true → exec (.blockDispatch (.launch lid) [c]) s = .next s)
                ∧ (s.coordRange l.vf l.first (max 1 l.nodes.length) = true → s.vfFar l.vf (recordEnds l.done) = false → ∃ t, exec (.blockDispatch (.launch lid) [c]) s = .next t
                  ∧ tget lid t.launches = some { l with ended := true } ∧ t.tasks = s.tasks ∧ t.scratch = s.scratch ∧ ∀ j, (t.group? j).isSome = (s.group? j).isSome)
                ∧ (s.coordRange l.vf l.first (max 1 l.nodes.length) = false → s.imagesFar l = true → exec (.blockDispatch (.launch lid) [c]) s = .next s)))
          ∧ (tget uid s.tasks = some x → x.place = .queued c → x.aff = none → s.taskCairn uid x = none → x.kernel.qbars = 0 → x.kernel.gbars = 0 →
            (s.pkg (pkgOf x.vf)).accepts = true → s.firstTask c = some uid → c ∈ s.coreSet x.vf →
              (s.placeNear (x.work uid) x.next c false [c] = some u → exec (.blockDispatch (.task uid) [c]) s = .next { u with
                  tasks := tset uid { x with
                    next := x.next + 1
                    opened := true
                    place := if x.next + 1 = (if x.kind = 0 then 1 else x.kernel.grid) then .running else .queued c } u.tasks })
                ∧ (s.placeNear (x.work uid) x.next c false [c] = none → exec (.blockDispatch (.task uid) [c]) s = .next s))
          ∧ (tget lid s.launches = some l → l.nodes[i]? = some nd → l.ended = false → begins → (s.pkg (pkgOf l.vf)).accepts = true → s.cairns = [] → s0.shallowest l.vf = some c →
            (1 ≤ nd.kernel.coalesce → nd.kernel.coalesce ≤ nd.queue.length →
              s0.placeAny { vf := l.vf, launch := lid, task := none, node := some i, kernel := nd.kernel, payload := l.payload, blocks := l.nodes.length
                            succ := nd.kernel.succ.map (nodeHandle l.slot), records := (nd.queue.take nd.kernel.coalesce).map fun y => y.2 } i nd.kernel.coalesce [c] = some u →
                ∃ t, exec (.blockDispatch (.node lid i) [c]) s = .next t ∧ t = { u with launches := t.launches }
                  ∧ ∀ m, tget lid u.launches = some m → tget lid t.launches = some { m with
                      nodes := m.nodes.set i { nd with queue := nd.queue.drop nd.kernel.coalesce }
                      sums := { m.sums with taken := m.sums.taken + nd.kernel.coalesce } })
              ∧ (nd.queue.length < nd.kernel.coalesce → exec (.blockDispatch (.node lid i) [c]) s = .next s)))

/-- R200, R203, R204, R209, R222: an admission round gives every waiting task of the package its keys and a place in a core's queue, or raises its rounds; a task alone
is admitted where a queue has room, and one is refused while another task holds one of its keys and either is exclusive. A depth exchange changes only the place of
queued tasks that may move, and starts moves of cairns; of two quads whose depths differ by more than T, half the difference moves, the youngest first, and a core
deeper than its quad's mean by more than T2 starts to give its closed cairns away. A node's records that are too few start a group only after its timeout. Destroying
a host queue frees its closed STREAM cairns. Where the spec leaves it open, this is the model's choice (log entries 35, 43, 45, 76 and 92). -/
def Obligations.WorkEvents : Prop :=
  ∀ (s : State) (pkg uid other c lid node vf q : Nat) (t x : Task) (l : Launch) (nd : Node) (r : Nat × List Word) (rest : List (Nat × List Word)) (k : Cairn) (kn : Nat) (e1 e2 : Bool),
    (tableOk s.tasks = true → ∃ u, exec (.admissionRound pkg) s = .next u ∧ u = { s with tasks := u.tasks, vfs := u.vfs }
        ∧ (∀ v, ∃ n, u.vf v = { s.vf v with reserve := n })
        ∧ ∀ id y, tget id s.tasks = some y → ∃ z, tget id u.tasks = some z
          ∧ ((y.place ≠ .waiting ∨ pkgOf y.vf ≠ pkg) → z = y)
          ∧ (y.place = .waiting → pkgOf y.vf = pkg → z = { y with rounds := y.rounds + 1 } ∨ ∃ d, z = { y with held := y.keys, place := .queued d }))
      ∧ (s.tasks = [(uid, t)] → t.place = .waiting → pkgOf t.vf = pkg → (s.vf t.vf).reserve = none →
        (s.taskTarget uid t = (some c, false) → s.queueDepth c < Config.coreQueueEntries → s.keyRoom t.vf t.keys = true →
          exec (.admissionRound pkg) s = .next { s with tasks := [(uid, { t with held := t.keys, place := .queued c })] })
          ∧ ((s.taskTarget uid t).1 = none → t.rounds < 15 → exec (.admissionRound pkg) s = .next { s with tasks := [(uid, { t with rounds := t.rounds + 1 })] }))
      ∧ (s.tasks = [(other, x), (uid, t)] → other < uid → x.place = .running → t.place = .waiting → pkgOf t.vf = pkg → x.vf = t.vf → (s.vf t.vf).reserve = none → t.rounds < 15 →
        (kn, e1) ∈ x.held → (kn, e2) ∈ t.keys → (e1 = true ∨ e2 = true) →
          exec (.admissionRound pkg) s = .next { s with tasks := [(other, x), (uid, { t with rounds := t.rounds + 1 })] })
      ∧ (tableOk s.tasks = true → ∃ u, exec (.queueDepthExchange pkg) s = .next u ∧ u = { s with tasks := u.tasks, cairns := u.cairns }
        ∧ (∀ id, tget id s.tasks = none → tget id u.tasks = none)
        ∧ (∀ id y, tget id s.tasks = some y → (∀ d, y.place ≠ .queued d) → tget id u.tasks = some y)
        ∧ (∀ id y d, tget id s.tasks = some y → y.place = .queued d → ∃ d', tget id u.tasks = some { y with place := .queued d' }
          ∧ (d' ≠ d → pkgOf y.vf = pkg ∧ d' ∈ s.coreSet y.vf ∧ y.aff = none ∧ y.pin = false ∧ y.next = 0))
        ∧ ∀ v name, ∃ f : Cairn → Option Move, u.cairn v name = (s.cairn v name).map fun y => { y with moving := f y })
      ∧ (∀ v a b, tableOk s.tasks = true → (∀ y ∈ s.tasks, y.2.vf = v) → pkgOf v = pkg → s.tasks ≠ [] →
        let da := s.queueDepth a
        let db := s.queueDepth b
        (s.coreSet v = [a, b] → quadOf a ≠ quadOf b →
          (da ≤ db + (s.vf v).t → db ≤ da + (s.vf v).t → exec (.queueDepthExchange pkg) s = .next s)
            ∧ (db + (s.vf v).t < da → db + (da - db) / 2 ≤ Config.coreQueueEntries → (∀ y ∈ s.tasks, y.2.aff = none ∧ y.2.pin = false ∧ y.2.next = 0) →
              ∃ u, exec (.queueDepthExchange pkg) s = .next u ∧ u = { s with tasks := u.tasks } ∧ u.queueDepth a = da - (da - db) / 2 ∧ u.queueDepth b = db + (da - db) / 2
                ∧ ∀ x y, (tget x s.tasks).map Task.place = some (.queued a) → (tget x u.tasks).map Task.place = some (.queued b) →
                  (tget y s.tasks).map Task.place = some (.queued a) → (tget y u.tasks).map Task.place = some (.queued a) → y < x))
          ∧ (∀ name off, s.coreSet v = [a, b] → quadOf a = quadOf b → a ≠ b → (∀ y ∈ s.tasks, y.2.aff = some name ∧ y.2.place = .queued a) → 2 * (s.vf v).t2 < da →
            s.cairn v name = some k → k.vf = v → k.name = name → k.holder = a → k.closed = true → k.hand = none → k.moving = none → k.lost = false → k.restorable = false →
            s.scratchRoom v b k.size = some off → exec (.queueDepthExchange pkg) s = .next (s.setCairn { k with moving := some ⟨b, off, none, false, s.cairnBytes k⟩ })))
      ∧ (tget lid s.launches = some l → l.nodes[node]? = some nd → nd.queue = r :: rest → l.ended = false → (s.pkg (pkgOf l.vf)).accepts = true →
        (nd.kernel.coalesce ≤ nd.queue.length ∨ s.now < r.1 + nd.kernel.timeout → exec (.flushTimeout lid node) s = .next s)
          ∧ (nd.queue.length < nd.kernel.coalesce → r.1 + nd.kernel.timeout ≤ s.now → s.cairns = [] →
            let s0 := if l.begun then s else s.loadImages lid l
            s0.shallowest l.vf = some c → (l.begun = true ∨ (s.coordRange l.vf l.first (max 1 l.nodes.length) = false ∧ s.imagesFar l = false)) →
            ∀ u, s0.placeAny { vf := l.vf, launch := lid, task := none, node := some node, kernel := nd.kernel, payload := l.payload, blocks := l.nodes.length
                               succ := nd.kernel.succ.map (nodeHandle l.slot), records := nd.queue.map fun y => y.2 } node nd.queue.length [c] = some u →
              ∃ u', exec (.flushTimeout lid node) s = .next u' ∧ u' = { u with launches := u'.launches }
                ∧ ∀ m, tget lid u.launches = some m → ∃ m', tget lid u'.launches = some m' ∧ m'.sums.taken = m.sums.taken + nd.queue.length
                  ∧ m'.nodes[node]? = (m.nodes[node]?).map fun _ => { nd with queue := [] }))
      ∧ ((∀ y ∈ s.launches, ¬ (y.2.vf = vf ∧ y.2.queue = q ∧ y.2.graph = true ∧ y.2.ended = false)) → ∃ u, exec (.hostQueueDestroy vf q) s = .next u
        ∧ u = { s with cairns := u.cairns, vfs := u.vfs, wbacks := u.wbacks } ∧ u.vf vf = { s.vf vf with queues := tset q {} (s.vf vf).queues }
        ∧ (k ∈ s.cairns → k.vf = vf → k.life = .stream → k.queue = q →
            (k.opens = [] → k.topens = [] → k.moving = none → k ∉ u.cairns) ∧ (k.opens ≠ [] → { k with drop := true } ∈ u.cairns))
        ∧ (k ∈ s.cairns → k.life ≠ .stream → k ∈ u.cairns))

/-! ### The fabric (R252-R263) -/

/-- R252, R254, R256-R260: a packet in order is applied once, with its reply kept (a write has none); one seen before is not applied again; a reply completes the
instruction that waits for it; link errors are counted, and the eighth retry's failure loses the link. Where the spec leaves it open, this is the model's choice (log
entries 23 and 46). -/
def Obligations.PacketsAndLinks : Prop :=
  ∀ (s : State) (pkg port fid wid id gid n : Nat) (f : Flight) (w : Win) (rl : RLane) (r : ROp) (g : Group) (ri : RInstr) (sp : Split) (sd : Nat) (v : Nat),
    let x := s.pkg pkg
    let p := tgetD port {} x.ports
    let put (y : Port) : State := s.setPkg pkg { x with ports := tset port y x.ports }
    let tick := (s.now * 5) / 47
    let recent := p.degradeAt.filter fun t => decide (tick < t + Config.degradeTicks)
    let here : Prop := tget fid s.flights = some f ∧ s.winOf f.triple = some (wid, w) ∧ (s.pkg f.triple.dstPkg).takes = true ∧ (s.pkg f.triple.dstPkg).power = .active
      ∧ w.closed = false ∧ w.early = [] ∧ ∀ y ∈ s.barriers, y.2.late = []
    (p.lost = false → n ≤ 1 → exec (.flitCheckFail pkg port (.goodAt n)) s = .next (put { p with transient := p.transient + 1 }))
      ∧ (p.lost = false → 2 ≤ n → recent.length < 15 →
        exec (.flitCheckFail pkg port (.goodAt n)) s = .next (put { p with degraded := p.degraded + 1, degradeAt := recent ++ [tick] }))
      ∧ (∃ t, exec (.flitCheckFail pkg port .bad) s = .next t ∧ (tgetD port {} (t.pkg pkg).ports).lost = true
        ∧ ∀ e, p.peer = some e → (tgetD e.2 {} (t.pkg e.1).ports).lost = true)
      ∧ (p.lost = false → 2 ≤ n → 15 ≤ recent.length → ∃ t, exec (.flitCheckFail pkg port (.goodAt n)) s = .next t ∧ (tgetD port {} (t.pkg pkg).ports).lost = true)
      ∧ (∃ t, exec (.linkReturn pkg port) s = .next t ∧ (tgetD port {} (t.pkg pkg).ports).lost = false ∧ t.groups = s.groups ∧ t.mem = s.mem
        ∧ ∀ e, p.peer = some e → (tgetD e.2 {} (t.pkg e.1).ports).lost = false)
      ∧ (here → f.body = .req id rl → tget id s.rops = some r → r.applied = false → w.h < 65536 → f.seq = (w.h + 1) % 65536 →
        (r.lane.kind = 0 → s.badAt r.lane.pa r.lane.size = false → (∀ y, s.group? r.gid = some y → ∀ z ∈ y.rinstr, z.waiting.contains id = true → z.seen = []) →
          ∃ t, exec (.packetArrival fid) s = .next t ∧ t.mem = s.mem ∧ (∀ j, ∃ z : Group → List RInstr, t.group? j = (s.group? j).map fun y => { y with rinstr := z y })
            ∧ tget id t.rops = some { r with applied := true, reply := s.mem.read r.lane.pa r.lane.size })
          ∧ (r.lane.kind = 1 → s.mem.wf = true → s.unclaimed false r.lane.pa r.lane.size → ∃ t, exec (.packetArrival fid) s = .next t ∧ tget id t.rops = some { r with applied := true, reply := 0 }
            ∧ (∀ j, j < r.lane.size → t.mem.get (r.lane.pa + j) = BitVec.ofNat 8 (r.lane.d / 256 ^ j))
            ∧ ∀ a, apart a 1 r.lane.pa r.lane.size → t.mem.get a = s.mem.get a))
      ∧ (here → f.body = .req id rl → ((f.seq + 65536 - w.h) % 65536 = 0 ∨ 1024 < (f.seq + 65536 - w.h) % 65536) →
        ∃ t, exec (.packetArrival fid) s = .next t ∧ t.mem = s.mem ∧ t.rops = s.rops ∧ t.groups = s.groups)
      ∧ (here → f.body = .rsp id v → tget id s.rops = some r → r.gid = gid → s.group? gid = some g → g.rinstr = [ri] → ri.waiting = [id] → ri.unsent = [] → ri.values = [] → ri.lost = false → g.life = .resident →
        (∀ y ∈ s.groups, y.1 = gid ∨ y.2.rinstr = []) → (∀ y ∈ g.splits, y.2.due = none) → ri.dest = .scal sd false → sd < 125 → tget ri.split g.splits = some sp → g.stepped ri.split = false → w.h < 65536 → f.seq = (w.h + 1) % 65536 →
        ∃ t h, exec (.packetArrival fid) s = .next t ∧ t.mem = s.mem ∧ tget id t.rops = none ∧ t.group? gid = some h ∧ h.sregs = g.sregs.set sd (BitVec.ofNat 32 v)
          ∧ h.rinstr = [] ∧ (tget ri.split h.splits).map Split.pc = some sp.cont ∧ h.vregs = g.vregs)

/-- R255, R258-R263: routes, stranding and resets. A packet unacknowledged for 2,000 ticks fails its route; new routes clear the marks. A window without a route for
1,000,000 ticks is closed; at its resolution every operation on it ends as applied or not, reported to its group. A broken pod barrier stays broken; a reset begins
the windows of the pair anew, and a function-level reset ends the VF's work and sends every package that holds a triple of it a reset. Where the spec leaves it open,
this is the model's choice (log entries 46, 47, 48 and 49). -/
def Obligations.RoutesAndResets : Prop :=
  ∀ (s : State) (pkg dst win number peer vf id sent seq port lid : Nat) (ports ps : List Nat) (w : Win) (b : Body) (before rest : List (Nat × Nat × Nat × Body)) (r : ROp) (g : Group) (since : Nat)
    (accepted : List Nat) (l : Launch),
    let x := s.pkg pkg
    let tick (c : Nat) : Nat := c * 5 / 47
    (∃ t cut, exec (.routeTableChange pkg dst ports) s = .next t ∧ t.pkg pkg = { x with
          cut := cut
          routes := ((x.routes.filter fun y => y.dst != dst).map fun y => { y with failed := false }) ++ ports.map fun p => { dst := dst, port := p } }
        ∧ t.groups = s.groups ∧ t.mem = s.mem)
      ∧ (tget win s.wins = some w → (w.closed = true ∨ ∀ y ∈ w.held, y.1 ∈ w.again) → exec (.replayTimeout win) s = .next s)
      ∧ (tget win s.wins = some w → w.held = before ++ (seq, sent, port, b) :: rest → (∀ y ∈ before, y.1 ∈ w.again) → seq ∉ w.again → w.closed = false →
        (tick s.now < tick sent + Config.replayTicks → exec (.replayTimeout win) s = .next s)
          ∧ (tick sent + Config.replayTicks ≤ tick s.now → ∃ t, exec (.replayTimeout win) s = .next t ∧ t.groups = s.groups ∧ t.mem = s.mem ∧ t.rops = s.rops
            ∧ (t.pkg w.triple.srcPkg).routes = (s.pkg w.triple.srcPkg).routes.map fun y => if y.dst = w.triple.dstPkg ∧ y.port = port then { y with failed := true } else y))
      ∧ (tget win s.wins = some w → (s.routeTo w.triple.srcPkg w.triple.dstPkg ≠ none ∨ w.closed = true ∨ 2 ≤ w.triple.cls ∨ (w.held = [] ∧ w.queue = [])) →
        exec (.strandTimeout win) s = .next s)
      ∧ (tget win s.wins = some w → s.cutSince w.triple.srcPkg w.triple.dstPkg = some since → w.closed = false → w.triple.cls < 2 → (w.held ≠ [] ∨ w.queue ≠ []) →
        (tick s.now < tick since + Config.strandTicks → exec (.strandTimeout win) s = .next s)
          ∧ (tick since + Config.strandTicks ≤ tick s.now → exec (.strandTimeout win) s = .next { s with
              wins := tset win { w with closed := true, stranded := true } s.wins
              flights := s.flights.filter fun y => !(y.2.triple == w.triple) }))
      ∧ (tget win s.wins = some w → (w.closed = false ∨ w.stranded = false) → ∀ y, exec (.strandResolution win y) s = .next s)
      ∧ (tget win s.wins = some w → w.stranded = true → w.closed = true → s.opsOn w.triple = [(id, r)] → s.group? r.gid = some g → g.life = .resident →
        (∀ y ∈ s.groups, y.1 = r.gid ∨ y.2.rinstr = []) → (∀ z ∈ g.rinstr, z.unsent = []) → (s.vf g.vf).thandler ≠ 0 →
        let entry : FlEntry := { op := id, applied := r.applied, kind := r.lane.kind, w64 := r.lane.size == 8, dst := r.lane.home, addr := r.lane.va, val := if r.applied = true ∧ r.lane.kind ≠ 1 then BitVec.ofNat 64 r.reply else 0, lane := r.lane.lane }
        ∃ t h, exec (.strandResolution win true) s = .next t ∧ tget id t.rops = none ∧ t.group? r.gid = some h
          ∧ h.fl.Perm (g.fl ++ [entry]) ∧ (g.trap = none → h.fl = sortBy FlEntry.op (g.fl ++ [entry])))
      ∧ (tget win s.wins = some w → w.stranded = true → w.closed = true → ∃ t, exec (.strandResolution win false) s = .next t
        ∧ (t.pkg (if w.triple.cls = 1 then w.triple.srcPkg else w.triple.dstPkg)).lost = true)
      ∧ (tget number s.pods = some (ps, accepted) → pkg ∈ ps →
        (x.lost = true ∨ pkg ≠ s.podHome number ∧ s.cutSince (s.podHome number) pkg = some since ∧ tick since + Config.strandTicks ≤ tick s.now) → (∀ p ∈ s.groups, ∀ y ∈ p.2.splits, ∀ key ph, y.2.wait ≠ .bar key ph) →
        exec (.podBarrierBreak number pkg) s = .next { s with barriers := s.barriers.map fun y =>
          if y.1.level = 4 ∧ y.1.owner = number then (y.1, { y.2 with broken := true }) else y })
      ∧ (tget number s.pods = some (ps, accepted) → x.lost = false → (pkg = s.podHome number ∨ s.routeTo (s.podHome number) pkg ≠ none) → exec (.podBarrierBreak number pkg) s = .next s)
      ∧ ((peer, vf) ∉ s.resets → exec (.ctlReset peer vf) s = .next s)
      ∧ ((peer, vf) ∈ s.resets → (∀ y ∈ s.wins, y.2.queue = [] ∧ y.2.again = []) → (s.pkg peer).power = .active →
        (let mine (t : Triple) : Bool := (t.srcPkg == pkgOf vf && t.srcVf == vf && t.dstPkg == peer) || (t.dstPkg == pkgOf vf && t.dstVf == vf && t.srcPkg == peer);
          exec (.ctlReset peer vf) s = .next { s with
            resets := s.resets.filter (· != (peer, vf))
            flights := s.flights.filter fun y => !mine y.2.triple
            wins := s.wins.map fun y => if mine y.2.triple = true then
              (y.1, { y.2 with closed := false, next := 0, held := [], h := 0xFFFF, early := [], again := [] }) else y }))
      ∧ (∃ t, exec (.functionLevelReset vf) s = .next t ∧ t.vf vf = { s.vf vf with queues := [], baddb := false, demote := 0, tolns := 0, reserve := none }
        ∧ (∀ y ∈ (s.vf vf).triples, y.1 ≠ pkgOf vf → (y.1, vf) ∈ t.resets) ∧ (∀ y ∈ s.vfs, (pkgOf vf, vf % 256) ∈ y.2.triples → pkgOf y.1 ≠ pkgOf vf → (pkgOf y.1, vf) ∈ t.resets)
        ∧ (tget lid s.launches = some l → l.vf = vf → ∃ m, tget lid t.launches = some m ∧ m.ended = true))

/-! ### Reset, trust, policy, power and the host (R11-R13, R126, R128, R148, R167, R237, R267, R270, R272-R276) -/

/-- R11, R148, R275, R276: a cold reset zeroes every memory of the package (HBM, the loader's copies of images in it, scratchpads, both copies of the weight buffers,
accumulators, register files and queues), ends its work and policies and starts its wipe, debug-unlocked becoming deployed; the counts of forks stay at a life-cycle
command. Firmware boots only with both signatures, and never once decommissioned. The life-cycle commands act under their conditions, and are refused otherwise.
Where the spec leaves it open, this is the model's choice (log entry 50). -/
def Obligations.ResetAndTrust : Prop :=
  ∀ (s : State) (pkg vf : Nat) (rsa slh ok : Bool) (nonce : List Byte),
    let p := s.pkg pkg
    let refused : State := { s with host := s.host ++ [.refused] }
    let measures := (List.range Config.firmwareStages).map (Config.measurement pkg)
    let turned (t : State) : Prop := t = { s with pkgs := t.pkgs, host := s.host ++ [.refused] } ∧ (p.power = .active → t.pkgs = s.pkgs)
    let mine (a : Nat) : Prop := 8 * pkg * 2 ^ 57 ≤ a ∧ a < 8 * (pkg + 1) * 2 ^ 57
    let zeroed (x y : Mem) (n : Nat) : Prop := x.wf = true → ∀ a, y.get a = if pkg * n ≤ a ∧ a < (pkg + 1) * n then 0 else x.get a
    let wiped (t : State) : Prop := (s.mem.wf = true → (∀ a, a < 2 ^ 70 → t.mem.get a = if mine a then 0 else s.mem.get a)
        ∧ ∀ v ∈ s.vfs, pkgOf v.1 = pkg → ∀ m ∈ v.2.images, ∀ y ∈ m.loaded, ∀ n, y.2 = some n → ∀ x, x < 2 ^ 57 → t.mem.get (copyKey n x) = 0)
      ∧ zeroed s.scratch t.scratch (256 * 2 ^ 21) ∧ zeroed s.wbuf t.wbuf (64 * 2 ^ 24) ∧ zeroed s.wdup t.wdup (64 * 2 ^ 24) ∧ zeroed s.acc t.acc (64 * 1024 * 2048)
      ∧ (∀ q, q / 16 / 256 = pkg → t.queue q = {}) ∧ (∀ c, c / 256 = pkg → t.coreAt c = { lost := (s.coreAt c).lost })
      ∧ ∀ j h, t.group? j = some h → h.vf / 256 ≠ pkg
    let changes (i : Instr) (may : Prop) (to' : LifeCycle) : Prop :=
      (may → ∃ t, exec i s = .next t ∧ (t.pkg pkg).life = to' ∧ (t.pkg pkg).wiping = true ∧ wiped t
      ∧ ∀ q, q / 64 = pkg → let y := s.quad q
        ∃ fates, t.quad q = { forks := y.forks, fates := fates } ∧ (y.running = none → y.queue = [] → y.saved = [] → fates = y.fates)) ∧ (¬ may → ∃ t, exec i s = .next t ∧ turned t)
    (∃ t, exec (.coldReset pkg) s = .next t ∧ wiped t ∧ (∀ q, q / 64 = pkg → t.quad q = {}) ∧ (∀ v, pkgOf v = pkg → t.vf v = {})
        ∧ t.pkg pkg = { life := if p.life = .debugUnlocked then .deployed else p.life, epoch := s.now, runFrom := some s.now, badQuads := p.badQuads, ports := p.ports, routes := p.routes, cut := p.cut })
      ∧ exec (.wipeComplete pkg) s = .next (s.setPkg pkg { p with wiping := false })
      ∧ (p.life = .decommissioned → exec (.firmwareBoot pkg rsa slh) s = .next refused)
      ∧ (p.life ≠ .decommissioned → p.booted = true → exec (.firmwareBoot pkg rsa slh) s = .next s)
      ∧ (p.life ≠ .decommissioned → p.booted = false → exec (.firmwareBoot pkg rsa slh) s = .next (s.setPkg pkg { p with booted := rsa && slh, bootfail := !(rsa && slh) }))
      ∧ (pkgOf vf = pkg → p.life ≠ .decommissioned → p.booted = true → nonce.length ≤ 64 →
        exec (.attestationRequest vf nonce) s = .next { s with host := s.host ++ [.report pkg p.life vf (s.vf vf) nonce measures
          ((List.range 2).map fun n => Config.signature pkg n (p.life, vf, s.vf vf, nonce, measures))] })
      ∧ (pkgOf vf = pkg → (p.life = .decommissioned ∨ p.booted = false ∨ 64 < nonce.length) → exec (.attestationRequest vf nonce) s = .next refused)
      ∧ changes (.deployCommand pkg rsa slh) (p.life = .manufacturing ∧ rsa = true ∧ slh = true) .deployed
      ∧ changes (.unlockCommand pkg ok) (p.life = .deployed ∧ ok = true) .debugUnlocked
      ∧ changes (.relockCommand pkg) (p.life = .debugUnlocked) .deployed
      ∧ changes (.decommissionCommand pkg ok) ((p.life = .deployed ∨ p.life = .debugUnlocked) ∧ ok = true) .decommissioned

/-- R13, R128, R148, R270, R272-R274: a policy change of an idle unit takes effect, of a busy one answers BUSY; a slice received is zero. TLB entries of a VF are
dropped; the wipe engine zeroes a range; a lost core's quad moves to the die's spare. A package without work enters the deepest power state that the tolerances
allow, a shallower one only by an exit, and leaves it after its latency. A device that has not booted refuses policy. Where the spec leaves it open, this is the
model's choice (log entries 51 and 59). -/
def Obligations.PolicyAndPower : Prop :=
  ∀ (s : State) (vf core dev addr len pkg die quad at' : Nat) (a : DWord) (sc : Scope) (c i : Nat),
    let p := s.pkg pkg
    let x := s.vf vf
    let q := pkg * 64 + die * 8 + quad
    let sets (f : PolicyField) (y : Vf) : Prop := s.unitIdle vf f = true → exec (.policyWrite vf f) s = .next (s.setVf vf y)
    let home := s.pkg (pkgOf vf)
    (home.power = .active → home.booted = false → ∀ f, exec (.policyWrite vf f) s = .next { s with host := s.host ++ [.refused] })
      ∧ (home.power = .active → home.booted = true →
        (∀ f, s.policyOk vf f = true → s.unitIdle vf f = true → exec (.policyWrite vf f) s = .next (s.setPolicy vf f))
          ∧ (∀ f, s.policyOk vf f = false → exec (.policyWrite vf f) s = .next { s with host := s.host ++ [.refused] })
          ∧ sets (.ptRoot a) { x with ptRoot := a } ∧ sets (.thandler a) { x with thandler := a } ∧ sets (.scopeMax sc) { x with scopeMax := sc }
          ∧ (∀ f, s.policyOk vf f = true → s.unitIdle vf f = false → exec (.policyWrite vf f) s = .next { s with host := s.host ++ [.busy] })
          ∧ (c < 256 → i < 8 → i ∉ tgetD c [] x.slices → s.unitIdle vf (.slices c [i]) = true → s.scratch.wf = true → ∃ t, exec (.policyWrite vf (.slices c [i])) s = .next t
            ∧ t = { s with vfs := t.vfs, scratch := t.scratch } ∧ t.vf vf = { x with slices := tset c [i] x.slices }
            ∧ ∀ b, t.scratch.get b = if (pkgOf vf * 256 + c) * 2 ^ 21 + i * Config.sliceBytes ≤ b ∧ b < (pkgOf vf * 256 + c) * 2 ^ 21 + i * Config.sliceBytes + Config.sliceBytes then 0 else s.scratch.get b))
      ∧ (∃ t, exec (.tlbInvalidation core vf) s = .next t ∧ t = { s with cores := t.cores, pkgs := t.pkgs } ∧ ((s.pkg (pkgOf core)).power = .active → t.pkgs = s.pkgs) ∧ t.coreAt core = { s.coreAt core with tlb := (s.coreAt core).tlb.filter fun e => e.1 != vf }
        ∧ ∀ d, d ≠ core → t.coreAt d = s.coreAt d)
      ∧ (addr + len ≤ s.devBytes dev → ∃ t, exec (.hbmWipe dev addr len) s = .next t ∧ t.vfs = s.vfs ∧ t.scratch = s.scratch
        ∧ (s.mem.wf = true → ∀ b, t.mem.get b = if dev * 2 ^ 57 + addr ≤ b ∧ b < dev * 2 ^ 57 + addr + len then 0 else s.mem.get b))
      ∧ (s.devBytes dev < addr + len → exec (.hbmWipe dev addr len) s = .fault (.noMemory (addr + len)))
      ∧ (i < 4 → (s.coreAt (quadCore q i)).lost = true → (∀ b ∈ p.badQuads, b.1 ≠ die) → s.quadEmpty q = true → ∃ t, exec (.quadRemap pkg die quad) s = .next t
        ∧ t.pkg pkg = { p with badQuads := (die, quad) :: p.badQuads } ∧ (∀ j, j < 4 → t.coreAt (quadCore q j) = {}) ∧ t.mem = s.mem ∧ t.groups = s.groups)
      ∧ (s.quadEmpty q = false → exec (.quadRemap pkg die quad) s = .next s)
      ∧ ((s.pkgWorks pkg = true ∨ p.exitAt ≠ none) → exec (.powerStateEntry pkg) s = .next s)
      ∧ (s.pkgWorks pkg = false → p.exitAt = none → Power.latency (s.powerGoal pkg) < Power.latency p.power →
        exec (.powerStateEntry pkg) s = .next (s.setPkg pkg { p with exitAt := some (s.now + Power.latency p.power) }))
      ∧ (s.pkgWorks pkg = false → p.exitAt = none → Power.latency p.power ≤ Power.latency (s.powerGoal pkg) → ∃ t y, exec (.powerStateEntry pkg) s = .next t ∧ t = s.setPkg pkg y ∧ y.power = s.powerGoal pkg ∧ y.life = p.life ∧ y.booted = p.booted ∧ y.mode = p.mode)
      ∧ (p.exitAt = some at' → s.now < at' → exec (.powerStateExit pkg) s = .next s)
      ∧ (p.exitAt = some at' → at' ≤ s.now → ∃ t y, exec (.powerStateExit pkg) s = .next t ∧ t = s.setPkg pkg y ∧ y.power = .active ∧ y.exitAt = none ∧ y.runFrom ≠ none)
      ∧ (p.exitAt = none → p.power = .active → exec (.powerStateExit pkg) s = .next s)
      ∧ (p.exitAt = none → p.power ≠ .active → exec (.powerStateExit pkg) s = .next (s.setPkg pkg { p with
          exitAt := some (s.now + match p.power with | .active => 0 | .idleWarm => 188 | .idleCold => 18800 | .parked => 1880000) }))

/-- R167, R237, R267, R276: the host reads and writes device memory of a device that has booted, outside a wipe, and a VF's BAR0 registers; its debug access reaches the
debug registers of a group in trap mode where the policy permits it, and on a debug-unlocked package what the management block's scan holds. Where the spec leaves it
open, this is the model's choice (log entries 52, 53 and 82). -/
def Obligations.HostAccesses : Prop :=
  ∀ (s : State) (dev addr len vf q gid w : Nat) (bs : List Byte) (x : DWord) (v : Word) (g : Group),
    let told (m : HostMsg) : State := { s with host := s.host ++ [m] }
    let permitted : Prop := g.trap.isSome = true ∧ (s.vf g.vf).debugHost = true ∧ ((s.pkg (pkgOf g.vf)).life = .deployed ∨ (s.pkg (pkgOf g.vf)).life = .debugUnlocked)
    let open' : Prop := (s.pkg (dev / 8)).wiping = false ∧ (s.pkg (dev / 8)).booted = true
    let up : Prop := (s.pkg (pkgOf vf)).booted = true
    (addr + len ≤ s.devBytes dev → open' →
        exec (.hostMemoryAccess (.read dev addr len)) s = .next (told (.bytes ((List.range len).map fun i => s.mem.get (dev * 2 ^ 57 + addr + i)))))
      ∧ (addr + bs.length ≤ s.devBytes dev → open' → s.mem.wf = true → s.unclaimed false (dev * 2 ^ 57 + addr) bs.length → ∃ t, exec (.hostMemoryAccess (.write dev addr bs)) s = .next t
        ∧ (∀ i, i < bs.length → t.mem.get (dev * 2 ^ 57 + addr + i) = bs.getD i 0) ∧ ∀ a, apart a 1 (dev * 2 ^ 57 + addr) bs.length → t.mem.get a = s.mem.get a)
      ∧ (¬ open' → addr + len ≤ s.devBytes dev → exec (.hostMemoryAccess (.read dev addr len)) s = .next (told .refused))
      ∧ (s.devBytes dev < addr + len → exec (.hostMemoryAccess (.read dev addr len)) s = .fault (.noMemory (addr + len)))
      ∧ (¬ up → exec (.hostMemoryAccess (.barRead vf w)) s = .next (told .refused) ∧ exec (.hostMemoryAccess (.barWrite vf w x)) s = .next s)
      ∧ (up → exec (.hostMemoryAccess (.barRead vf 0)) s = .next (told (.value (if (s.vf vf).baddb then 1 else 0))))
      ∧ (up → exec (.hostMemoryAccess (.barRead vf 8)) s = .next (told (.value (s.vf vf).demote.toNat)))
      ∧ (up → exec (.hostMemoryAccess (.barWrite vf 0x10 x)) s = .next (s.setVf vf { s.vf vf with tolns := loWord x }))
      ∧ (up → q < 8 → exec (.hostMemoryAccess (.barRead vf (0x1000 + 32 * q + 0x18))) s = .next (told (.value (tgetD q {} (s.vf vf).queues).head.toNat)))
      ∧ (up → q < 8 → exec (.hostMemoryAccess (.barWrite vf (0x1000 + 32 * q + 0x10) x)) s = exec (.doorbellWrite vf q (loWord x)) s)
      ∧ (up → q < 8 → (tgetD q {} (s.vf vf).queues).cfg.msb = false → exec (.hostMemoryAccess (.barWrite vf (0x1000 + 32 * q) x)) s =
          .next (s.setVf vf { s.vf vf with queues := tset q { tgetD q {} (s.vf vf).queues with base := x &&& 0xFFFFFFFFFFFFF000 } (s.vf vf).queues }))
      ∧ ((s.pkg q).life = .debugUnlocked → ∀ n : BitVec 16, exec (.hostDebugAccess (.scan q) n none) s = .next (told (.value (Config.scan s.fresh n.toNat).toNat)))
      ∧ ((s.pkg q).life ≠ .debugUnlocked → ∀ n : BitVec 16, exec (.hostDebugAccess (.scan q) n none) s = .next (told .refused))
      ∧ (∀ n : BitVec 16, exec (.hostDebugAccess (.scan q) n (some v)) s = .next (told .refused))
      ∧ (s.group? gid = some g → w < 4 →
        (permitted → exec (.hostDebugAccess (.group gid) (BitVec.ofNat 16 (0x104 + w)) none) s = .next (told (.value (g.dbg.bpa.getD w 0).toNat))
          ∧ Leaves (.hostDebugAccess (.group gid) (BitVec.ofNat 16 (0x104 + w)) (some v)) s gid { g with dbg := { g.dbg with bpa := g.dbg.bpa.set w v } })
          ∧ (¬ permitted → exec (.hostDebugAccess (.group gid) (BitVec.ofNat 16 (0x104 + w)) none) s = .next (told .refused)
            ∧ exec (.hostDebugAccess (.group gid) (BitVec.ofNat 16 (0x104 + w)) (some v)) s = .next (told .refused)))

/-! ### Encodings, reset and the step (R8, R11, R86, R98, R148) -/

/-- R86-R98: words that the spec writes out decode to the instructions that they stand for. -/
def Obligations.DecodesSpecWords : Prop :=
  (decodeWords 0x2201027F 0x318).toOption = some (.vbfx false { keepA := false, keepB := false, vd := 4, a := .reg 4, b := .lit 0x318 })
    ∧ (decodeWords 0x63030208 0).toOption = some (.vst { width := .w32, vd := 3, off := .reg 1, pair := 1, sx := false, policy := 0 })
    ∧ (decodeWords 0x830FBC00 1).toOption = some (.sadd { w64 := false, sd := 62, sa := 120, b := .lit 1 })
    ∧ (decodeWords 0xB828A000 0x600).toOption = some (.satom { sd := 10, pair := 10, ord := .none, scope := .core, off := 0 }
        { rsp := false, aop := .add, w64 := false, sb := 12, sc := 0 })
    ∧ (decodeWords 0xC1FFFFFD 0).toOption = some (.bra (-3))
    ∧ (decodeWords 0xD2000005 0).toOption = some (.bkpt 5)
    ∧ (decodeWords 0xE0000040 0).toOption = some (.bar .pod 0)
    ∧ (decodeWords 0xEE024500 0x40000028).toOption = some (.mfork 4 40 9 10)
    ∧ (decodeWords 0xF2028A00 0).toOption = some (.tsub false false 10 20)
    ∧ (decodeWords 0xFC600608 0x00C00000).toOption = some (.mma 3 0 12 8)
    ∧ (decodeWords 0xCC000000 0).toOption = some .nop
    ∧ (decodeWords 0xCC000001 0).toOption = none

/-- R86, R90, R93: every well-formed L-set instruction is read back from its bytes, whatever follows them. -/
def Obligations.VectorRoundTrip : Prop :=
  ∀ (i : Instr) (rest : List Byte), isVector i = true → i.wf = true → decode (encodeBytes i ++ rest) = .ok (i, rest)

/-- R86, R92, R94: every well-formed U-set instruction is read back from its bytes, whatever follows them. -/
def Obligations.ScalarRoundTrip : Prop :=
  ∀ (i : Instr) (rest : List Byte), isVector i = false → encode i ≠ [] → i.wf = true → decode (encodeBytes i ++ rest) = .ok (i, rest)

/-- R11, R148: after reset every memory of every package is zero, the packages are being wiped and the time base is zero; nothing runs. Where the spec leaves it open,
this is the model's choice (log entries 4 and 54). -/
def Obligations.ResetState : Prop :=
  (∀ a, State.reset.mem.get a = 0 ∧ State.reset.scratch.get a = 0 ∧ State.reset.wbuf.get a = 0 ∧ State.reset.wdup.get a = 0 ∧ State.reset.acc.get a = 0)
    ∧ (∀ p, (State.reset.pkg p).wiping = true ∧ (State.reset.pkg p).booted = false ∧ State.reset.timeBase p = 0)
    ∧ State.reset.groups = [] ∧ State.reset.launches = [] ∧ State.reset.tasks = [] ∧ State.reset.cairns = [] ∧ State.reset.cur = .none

/-- The invariant that every memory is in its canonical form holds after reset. Where the spec leaves it open, this is the model's choice (log entry 54). -/
def Obligations.ResetInv : Prop :=
 State.reset.Inv

/-- Every step keeps the invariant, from every state that meets it. Where the spec leaves it open, this is the model's choice (log entry 54). -/
def Obligations.StepKeepsMemoryForm : Prop :=
 ∀ s t : State, s.Inv → step s = .next t → t.Inv

/-- R83, R86, R98: a step runs what its mover issues. A word is fetched from the memory that an executable page gives for its address, unless the instruction cache holds
it or the launch has changed it; a split that may issue (and at which no breakpoint is met and nothing rejoins or merges) and a sequencer's program run the
instruction that their words decode to, with themselves as the issuer; a split whose instruction has issued and waited tries it again once what it waits for has
come; a step of the device runs its own meaning. Around it the step passes the turn's clk, takes the turn off the agenda, ends the waits that are over, counts one
free value and notes the partition's issue. Where the spec leaves it open, this is the model's choice (log entries 3 and 5). -/
def Obligations.StepRunsInstruction : Prop :=
  ∀ (s : State) (gid k q : Nat) (g : Group) (sp : Split) (p : Prog) (i ev : Instr) (w x : Word) (s1 s2 : State) (seq : Bool) (core v launch : Nat) (a : DWord) (l : Leaf) (rest : List Byte)
    (why : Again) (h : Held),
    let t := s.advance
    let pc := pairOf g.window sp.pc
    let qc := pairOf p.window p.pc
    let fits : Prop := decode (leBytes 4 w.toNat ++ leBytes 4 x.toNat) = .ok (i, rest)
    let after : State := if i.len = 8 then s2 else s1
    let noted (o : Host.Outcome State Fault Refusal) : Host.Outcome State Fault Refusal :=
      match o with
      | .next u => .next (u.noteIssue gid k (g.core * Config.partitionsPerCore + g.part) i sp.mask)
      | o => o
    let begun : State := { s with now := s.now + s.turn.clks, fresh := s.fresh + 1, agenda := s.agenda.tail, cur := .none }
    ((∀ y ∈ s.groups, ∀ z ∈ y.2.splits, y.2.stepped z.1 = false ∧ z.2.due = none) →
        t = { begun with groups := t.groups }
          ∧ (∀ j, t.group? j = (s.group? j).map fun y => { y with splits := ((t.group? j).map Group.splits).getD [] })
          ∧ ∀ j y n z, s.group? j = some y → tableOk y.splits = true → tget n y.splits = some z →
            let alone : Prop := s.turn.clks ≠ 0 ∧ (j, n) ∈ ({ s with now := s.now + 1 } : State).aloneYields
            let ends : Prop := alone ∨ y.runs = true ∧ begun.waitOver j z.wait = true
            let cont := match z.wait with | .yield _ | .counter _ _ true => z.pc | _ => z.cont
            ∃ y' c, t.group? j = some y' ∧ (¬ alone → z.since ≤ c)
              ∧ (ends → tget n y'.splits = some { z with pc := cont, wait := .none, held := none, stamp := 0, since := c, due := none })
              ∧ (¬ ends → tget n y'.splits = some { z with since := c } ∧ (z.wait ≠ .none → (∀ e, z.wait ≠ .again e) → c = z.since)))
      ∧ (canonical a = true → s.checkPage core v launch a .exec false = .ok l → tget (launch * 2 ^ 160 + s.leafKey core v l) (s.icache seq core) = none →
        s.badAt (s.leafKey core v l) 4 = false → s.wordsSince launch (s.leafKey core v l) = [] →
        ∃ u, s.fetchWord seq core v launch a = .ok (BitVec.ofNat 32 (s.mem.read (s.leafKey core v l) 4), u)
          ∧ u = { s with cores := u.cores, quads := u.quads, fresh := s.fresh + 1 })
      ∧ (s.turn.mover = .split gid k → t.group? gid = some g → tget k g.splits = some sp → g.life = .resident → g.pend = none → g.fabDue = false →
        (sp.wait = .none ∨ sp.held = none ∧ ∃ y, sp.wait = .again y) → (sp.due = none ∨ g.trap.isSome = true) → t.mayIssue gid k g sp = true →
        t.gather gid k = (t, k) → g.breaks k = none → t.codeFar g.core g.vf g.launch pc = false → (i.len = 8 → s1.codeFar g.core g.vf g.launch (pc + 4) = false) →
        t.fetchWord false g.core g.vf g.launch pc = .ok (w, s1) → (i.len = 8 → s1.fetchWord false g.core g.vf g.launch (pc + 4) = .ok (x, s2)) → fits → isEngine i = false →
          step s = noted (exec i { after with cur := .group gid k }))
      ∧ (s.turn.mover = .split gid k → t.group? gid = some g → tget k g.splits = some sp → g.life = .resident → g.pend = none → g.fabDue = false →
        (sp.due = none ∨ g.trap.isSome = true) → sp.wait = .again why → sp.held = some h → t.comes gid k g why = true →
          step s = exec h.instr { t with cur := .group gid k })
      ∧ (s.turn.mover = .seq q → (t.quad q).running = some p → p.ending = false → p.stopped = none → t.codeFar p.core p.vf p.launch qc = false → (i.len = 8 → s1.codeFar p.core p.vf p.launch (qc + 4) = false) →
        t.fetchWord true p.core p.vf p.launch qc = .ok (w, s1) → (i.len = 8 → s1.fetchWord true p.core p.vf p.launch (qc + 4) = .ok (x, s2)) → fits → seqAllowed i = true →
          step s = exec i { after with cur := .seq q })
      ∧ (s.turn.mover = .event ev → isStep ev = true → step s = exec ev t)

/-- R108: the error bounds of the special functions, for every finite operand but zero: one unit in the last place for VFRCP and VFRSQ, two for VFEX2 and VFLG2, and
2^−22 for VFLG2 of an operand in [0.5, 2]. A reciprocal beyond the format is an infinity. The unit is that of the result or of the true value, whichever is the
larger (the model's choice, log entry 65). -/
def Obligations.SpecialFunctionBounds : Prop :=
  ∀ (x : Word) (neg : Bool) (m : Nat) (e : Int), ofF32 x = .fin neg m e → m ≠ 0 →
    let val (v : ExactVal) : ℝ := match v with | .fin n k q => (if n then -1 else 1) * (k : ℝ) * (2 : ℝ) ^ q | _ => 0
    let unit (y : ℝ) (u : Int) : Prop := -149 ≤ u ∧ |y| < (2 : ℝ) ^ (u + 24) ∧ (u = -149 ∨ (2 : ℝ) ^ (u + 23) ≤ |y|)
    let a := val (ofF32 x)
    let r (fn : Config.SpecialFn) : ExactVal := ofF32 (special fn x)
    let finite (fn : Config.SpecialFn) : Prop := ∃ n k q, r fn = .fin n k q
    let keeps (fn : Config.SpecialFn) (y : ℝ) (n : Nat) : Prop :=
      finite fn ∧ ∃ u, (unit (val (r fn)) u ∨ unit y u) ∧ |val (r fn) - y| ≤ (n : ℝ) * (2 : ℝ) ^ u
    ((2 : ℝ) ^ (-128 : Int) < |a| → keeps .rcp (1 / a) 1)
      ∧ (|a| < (2 : ℝ) ^ (-128 : Int) → r .rcp = .inf neg)
      ∧ (neg = false → keeps .rsq (1 / Real.sqrt a) 1)
      ∧ (-150 < a → a < 128 → keeps .ex2 ((2 : ℝ) ^ a) 2)
      ∧ (neg = false → 1 / 2 ≤ a → a ≤ 2 → finite .lg2 ∧ |val (r .lg2) - Real.logb 2 a| ≤ (2 : ℝ) ^ (-22 : Int))
      ∧ (neg = false → (a < 1 / 2 ∨ 2 < a) → keeps .lg2 (Real.logb 2 a) 2)
end

