-- ==== Sys2Proof/Laws/Access.lean ====
section
/-! SUPPORT. Accesses that meet no slot of an engine's ring are plain ones (R141), and the shadow unit finds no fault in a right result
(R244). -/

namespace Sys2Proof.Machine

/-- A read of a scratchpad that meets no slot which an engine is still to fill. -/
theorem readScratch_plain {s : State} {key n : Nat} (h : s.emptyBytes key n = []) : s.readScratch key n = s.scratch.read key n := by
  simp [State.readScratch, h]

/-- A write of a scratchpad that meets no copy and no slot whose turn is an engine's. -/
theorem writeScratch_plain {s : State} {key n : Nat} (v : Nat) (h : s.claimed true key n = []) : s.writeScratch key n v = s.storeScratch key (leBytes n v) := by
  have h' : s.engineBytes key n = [] := by simp_all [State.claimed]
  simp [State.writeScratch, h']

/-- A result does not diverge from its own leading bits: a NaN that float operations give has its fraction bits there (R107, R244). -/
theorem diverges_shadowBits {w : Word} (h : shadowClass w = 3 → w = canonNan) : diverges w (shadowBits w) = false := by
  by_cases hn : shadowClass w = 3
  · rw [h hn]; decide
  · have e : (shadowBits w).toNat = w.toNat / 2 ^ 17 * 2 ^ 17 := by
      have := w.isLt
      simp [shadowBits, Nat.shiftRight_eq_div_pow, Nat.shiftLeft_eq]; omega
    have m : (shadowBits w).msb = w.msb := by
      have := w.isLt
      simp only [BitVec.msb_eq_decide, e]; simp; omega
    have b : bitField (shadowBits w).toNat 30 17 = bitField w.toNat 30 17 := by simp [bitField, e]
    have c : bitField (shadowBits w).toNat 30 23 = bitField w.toNat 30 23 := by simp only [bitField, e]; omega
    have d : shadowClass (shadowBits w) = shadowClass w := by
      unfold shadowClass at hn ⊢
      by_cases h0 : bitField w.toNat 30 23 = 0
      · simp [c, h0]
      · by_cases h1 : bitField w.toNat 30 23 = 255
        · simp [h1] at hn
          have z : (shadowBits w).toNat % 8388608 = 0 := by omega
          simp [c, h1, z, hn]
        · simp [c, h0, h1]
    simp [diverges, m, b, d]

end Sys2Proof.Machine
end

