-- ==== Sys2Proof/Laws/Memory.lean ====
section
/-! SUPPORT. Memories: every operation keeps the canonical form, and what a read finds after a write. -/

namespace Sys2Proof.Machine

/-- Cells from address `b` on, rising, none zero. -/
def CellsFrom (b : Nat) : List Host.Cell → Prop
  | [] => True
  | c :: t => b ≤ c.1 ∧ c.2 ≠ 0 ∧ CellsFrom (c.1 + 1) t

/-- Ranges from address `b` on, rising, none empty. -/
def RangesFrom (b : Nat) : List (Nat × Nat × Nat) → Prop
  | [] => True
  | r :: t => b ≤ r.1 ∧ r.1 < r.2.1 ∧ RangesFrom r.2.1 t

theorem CellsFrom.mono {b c : Nat} (h : c ≤ b) : ∀ {l}, CellsFrom b l → CellsFrom c l
  | [], _ => trivial
  | _ :: _, ⟨h1, h2, h3⟩ => ⟨by omega, h2, h3⟩

theorem RangesFrom.mono {b c : Nat} (h : c ≤ b) : ∀ {l}, RangesFrom b l → RangesFrom c l
  | [], _ => trivial
  | _ :: _, ⟨h1, h2, h3⟩ => ⟨by omega, h2, h3⟩

theorem cellsOk_iff : ∀ l, cellsOk l = true ↔ CellsFrom 0 l
  | [] => by simp [cellsOk, CellsFrom]
  | [c] => by simp [cellsOk, CellsFrom]
  | c :: d :: t => by
    have ih := cellsOk_iff (d :: t)
    simp only [cellsOk, CellsFrom, Bool.and_eq_true, decide_eq_true_eq, bne_iff_ne] at ih ⊢
    rw [ih]
    refine ⟨fun ⟨⟨a, b⟩, _, e, f⟩ => ⟨Nat.zero_le _, a, b, e, f⟩, fun ⟨_, a, b, e, f⟩ => ⟨⟨a, b⟩, Nat.zero_le _, e, f⟩⟩

theorem rangesOk_iff : ∀ l, rangesOk l = true ↔ RangesFrom 0 l
  | [] => by simp [rangesOk, RangesFrom]
  | [r] => by simp [rangesOk, RangesFrom]
  | r :: s :: t => by
    have ih := rangesOk_iff (s :: t)
    simp only [rangesOk, RangesFrom, Bool.and_eq_true, decide_eq_true_eq] at ih ⊢
    rw [ih]
    refine ⟨fun ⟨⟨a, b⟩, _, e, f⟩ => ⟨Nat.zero_le _, a, b, e, f⟩, fun ⟨_, a, b, e, f⟩ => ⟨⟨a, b⟩, Nat.zero_le _, e, f⟩⟩

theorem cellAt_below {a b : Nat} (h : a < b) : ∀ {l}, CellsFrom b l → cellAt a l = 0
  | [], _ => rfl
  | c :: t, ⟨h1, _, h3⟩ => by
    simp only [cellAt]
    rw [if_neg (by omega)]
    exact cellAt_below (by omega) h3

theorem cellAt_putCell (a x : Nat) (v : Byte) : ∀ {b l}, CellsFrom b l → cellAt x (putCell a v l) = if x = a then v else cellAt x l
  | _, [], _ => by
    simp only [putCell]
    split <;> split <;> simp_all [cellAt] <;> omega
  | b, (j, c) :: t, h => by
    obtain ⟨h1, h2, h3⟩ := h
    simp only [putCell]
    split
    · have ih := cellAt_putCell a x v h3
      simp only [cellAt, ih]
      split <;> split <;> first | rfl | omega
    · next hj =>
      by_cases e : j = a
      · subst e
        simp only [if_true]
        split
        · next hv =>
          by_cases hx : x = j
          · subst hx; simp [hv, cellAt_below (Nat.lt_succ_self x) h3]
          · simp [cellAt, hx, Ne.symm hx]
        · by_cases hx : x = j
          · subst hx; simp [cellAt]
          · simp [cellAt, hx, Ne.symm hx]
      · rw [if_neg e]
        have hf : CellsFrom j ((j, c) :: t) := ⟨Nat.le_refl _, h2, h3⟩
        split
        · next hv =>
          by_cases hx : x = a
          · subst hx; rw [cellAt_below (by omega) hf, if_pos rfl, hv]
          · rw [if_neg hx]
        · by_cases hx : x = a
          · simp [cellAt, hx]
          · rw [if_neg hx]; simp only [cellAt]; rw [if_neg (Ne.symm hx)]

theorem CellsFrom.put (a : Nat) (v : Byte) : ∀ {b l}, b ≤ a → CellsFrom b l → CellsFrom b (putCell a v l)
  | _, [], hb, _ => by
    simp only [putCell]; split
    · trivial
    · next h => exact ⟨hb, h, trivial⟩
  | b, (j, c) :: t, hb, ⟨h1, h2, h3⟩ => by
    simp only [putCell]
    split
    · exact ⟨h1, h2, CellsFrom.put a v (by omega) h3⟩
    · by_cases e : j = a
      · subst e; simp only [if_true]; split
        · exact h3.mono (by omega)
        · next hv => exact ⟨hb, hv, h3⟩
      · rw [if_neg e]; split
        · exact ⟨h1, h2, h3⟩
        · next hv => exact ⟨hb, hv, (by omega : a + 1 ≤ j), h2, h3⟩

theorem mem_putCell {a : Nat} {v : Byte} : ∀ {l c}, c ∈ putCell a v l → c.1 = a ∨ c ∈ l
  | [], c, h => by
    simp only [putCell] at h
    split at h <;> simp_all
  | (j, d) :: t, c, h => by
    simp only [putCell] at h
    split at h
    · rcases List.mem_cons.1 h with h | h
      · exact .inr (by simp [h])
      · rcases mem_putCell h with h | h
        · exact .inl h
        · exact .inr (List.mem_cons_of_mem _ h)
    · split at h <;> split at h <;> simp only [List.mem_cons] at h ⊢ <;> first | exact .inr (.inr h) | exact .inr h | skip
      · rcases h with h | h
        · exact .inl (by rw [h])
        · exact .inr (.inr h)
      · rcases h with h | h
        · exact .inl (by rw [h])
        · exact .inr h

theorem undefAt_cutRanges (lo hi x : Nat) : ∀ l, undefAt x (cutRanges lo hi l) = if lo ≤ x ∧ x < hi then none else undefAt x l
  | [] => by simp [cutRanges, undefAt]
  | (l, h, n) :: t => by
    have ih := undefAt_cutRanges lo hi x t
    simp only [cutRanges]
    split <;> split <;> simp only [List.cons_append, List.nil_append, List.append_nil, undefAt, ih] <;> (repeat' split) <;>
      first | rfl | omega

theorem RangesFrom.cut (lo hi : Nat) (hh : lo ≤ hi) : ∀ {b l}, RangesFrom b l → RangesFrom b (cutRanges lo hi l)
  | _, [], _ => trivial
  | b, (l, h, n) :: t, ⟨h1, h2, h3⟩ => by
    have ih := RangesFrom.cut lo hi hh h3
    dsimp only at h1 h2 ih
    simp only [cutRanges]
    split <;> split <;> simp only [List.cons_append, List.nil_append, List.append_nil, RangesFrom]
    · refine ⟨h1, by omega, by omega, by omega, ih⟩
    · exact ⟨h1, by omega, ih.mono (by omega)⟩
    · exact ⟨by omega, by omega, ih⟩
    · exact ih.mono (by omega)

theorem undefAt_below {x b : Nat} (h : x < b) : ∀ {l}, RangesFrom b l → undefAt x l = none
  | [], _ => rfl
  | (l, e, n) :: t, ⟨h1, h2, h3⟩ => by
    simp only [undefAt]
    rw [if_neg (by dsimp at *; omega)]
    exact undefAt_below (by dsimp at *; omega) h3

/-- Ranges of which none reaches into [lo, hi) take that range in. -/
theorem RangesFrom.put (lo hi n : Nat) (h : lo < hi) : ∀ {b l}, b ≤ lo → RangesFrom b l → (∀ x, lo ≤ x → x < hi → undefAt x l = none) →
    RangesFrom b (putRange (lo, hi, n) l)
  | _, [], hb, _, _ => ⟨hb, h, trivial⟩
  | b, (l, e, m) :: t, hb, ⟨h1, h2, h3⟩, hx => by
    have hx' : ∀ x, lo ≤ x → x < hi → ¬ (l ≤ x ∧ x < e) ∧ undefAt x t = none := fun x a c => by
      have := hx x a c
      simp only [undefAt] at this
      split at this
      · exact absurd this (by simp)
      · exact ⟨by assumption, this⟩
    simp only [putRange]
    split
    · next hl =>
      refine ⟨h1, h2, RangesFrom.put lo hi n h ?_ h3 fun x a c => (hx' x a c).2⟩
      have := (hx' lo (Nat.le_refl _) h).1
      dsimp at *; omega
    · next hl =>
      refine ⟨hb, h, ?_, h2, h3⟩
      by_cases c : hi ≤ l
      · exact c
      · have := (hx' l (by dsimp at *; omega) (by omega)).1
        dsimp at *; omega

theorem undefAt_putRange (lo hi n x : Nat) : ∀ {l}, (∀ y, lo ≤ y → y < hi → undefAt y l = none) →
    undefAt x (putRange (lo, hi, n) l) = if lo ≤ x ∧ x < hi then some n else undefAt x l
  | [], _ => by simp [putRange, undefAt]
  | (l, e, m) :: t, hx => by
    have hx' : ∀ y, lo ≤ y → y < hi → ¬ (l ≤ y ∧ y < e) ∧ undefAt y t = none := fun y a c => by
      have := hx y a c
      simp only [undefAt] at this
      split at this
      · exact absurd this (by simp)
      · exact ⟨by assumption, this⟩
    simp only [putRange]
    split
    · simp only [undefAt, undefAt_putRange lo hi n x fun y a c => (hx' y a c).2]
      by_cases a : lo ≤ x ∧ x < hi
      · simp [a, (hx' x a.1 a.2).1]
      · simp [a]
    · simp only [undefAt]

/-- The canonical form, part by part. -/
theorem Mem.wf_iff (m : Mem) :
    m.wf = true ↔ CellsFrom 0 m.cells ∧ RangesFrom 0 m.undef ∧ ∀ c ∈ m.cells, undefAt c.1 m.undef = none := by
  simp [Mem.wf, cellsOk_iff, rangesOk_iff, and_assoc]

theorem Mem.wf_put {m : Mem} (a : Nat) (b : Byte) (h : m.wf = true) : (m.put a b).wf = true := by
  obtain ⟨h1, h2, h3⟩ := m.wf_iff.1 h
  refine (Mem.wf_iff _).2 ⟨h1.put a b (Nat.zero_le _), h2.cut _ _ (by omega), fun c hc => ?_⟩
  rw [Mem.put, undefAt_cutRanges]
  rcases mem_putCell hc with e | e
  · rw [if_pos (by omega)]
  · split
    · rfl
    · exact h3 c e

theorem Mem.wf_putAll (bs : List Byte) : ∀ {m : Mem} {a : Nat}, m.wf = true → (m.putAll a bs).wf = true := by
  induction bs with
  | nil => exact fun h => h
  | cons b bs ih => exact fun h => ih (Mem.wf_put _ _ h)

theorem Mem.wf_write : ∀ (n v : Nat) {m : Mem} {a : Nat}, m.wf = true → (m.write a n v).wf = true
  | 0, _, _, _, h => h
  | n + 1, v, _, _, h => Mem.wf_write n (v / 256) (Mem.wf_put _ _ h)

theorem CellsFrom.filter (p : Host.Cell → Bool) : ∀ {b l}, CellsFrom b l → CellsFrom b (l.filter p)
  | _, [], _ => trivial
  | _, c :: t, ⟨h1, h2, h3⟩ => by
    rw [List.filter_cons]; split
    · exact ⟨h1, h2, h3.filter p⟩
    · exact (h3.filter p).mono (by omega)

theorem Mem.wf_zero {m : Mem} (a len : Nat) (h : m.wf = true) : (m.zero a len).wf = true := by
  obtain ⟨h1, h2, h3⟩ := m.wf_iff.1 h
  refine (Mem.wf_iff _).2 ⟨h1.filter _, h2.cut _ _ (by omega), fun c hc => ?_⟩
  rw [Mem.zero, undefAt_cutRanges, h3 c (List.mem_filter.1 hc).1]
  split <;> rfl

theorem Mem.wf_undefine {m : Mem} (a len n : Nat) (h : m.wf = true) : (m.undefine a len n).wf = true := by
  obtain ⟨h1, h2, h3⟩ := m.wf_iff.1 h
  rw [Mem.undefine]
  split
  · exact h
  · have hc : ∀ x, a ≤ x → x < a + len → undefAt x (cutRanges a (a + len) m.undef) = none := fun x p q => by
      rw [undefAt_cutRanges, if_pos ⟨p, q⟩]
    refine (Mem.wf_iff _).2 ⟨h1.filter _, (h2.cut _ _ (by omega)).put _ _ _ (by omega) (Nat.zero_le _) hc, fun c hm => ?_⟩
    have := (List.mem_filter.1 hm).2
    simp only [Bool.or_eq_true, decide_eq_true_eq] at this
    dsimp only
    rw [undefAt_putRange _ _ _ _ hc, if_neg (by omega), undefAt_cutRanges, if_neg (by omega)]
    exact h3 c (List.mem_filter.1 hm).1

theorem Mem.wf_undefAll (n : Nat) (ks : List Nat) : ∀ {m : Mem}, m.wf = true → (m.undefAll n ks).wf = true := by
  induction ks with
  | nil => exact fun h => h
  | cons k ks ih => exact fun h => ih (Mem.wf_undefine k 1 n h)

theorem RangesFrom.part (lo hi : Nat) : ∀ {b l}, RangesFrom b l →
    RangesFrom b ((l.map fun r => (max lo r.1, min hi r.2.1, r.2.2)).filter fun r => r.1 < r.2.1)
  | _, [], _ => trivial
  | b, (l, h, n) :: t, ⟨h1, h2, h3⟩ => by
    have ih := RangesFrom.part lo hi h3
    dsimp only at h1 h2 ih
    simp only [List.map_cons, List.filter_cons]
    split
    · next c => simp only [decide_eq_true_eq] at c; exact ⟨by dsimp only; omega, c, ih.mono (by dsimp only; omega)⟩
    · exact ih.mono (by omega)

theorem undefAt_part (lo hi x : Nat) : ∀ l, undefAt x ((l.map fun r => (max lo r.1, min hi r.2.1, r.2.2)).filter fun r => r.1 < r.2.1)
    = if lo ≤ x ∧ x < hi then undefAt x l else none
  | [] => by simp [undefAt]
  | (l, h, n) :: t => by
    have ih := undefAt_part lo hi x t
    simp only [List.map_cons, List.filter_cons]
    split <;> rename_i c <;> simp only [decide_eq_true_eq] at c <;> simp only [undefAt, ih] <;> (repeat' split) <;> first | rfl | omega

theorem Mem.wf_part {m : Mem} (lo hi : Nat) (h : m.wf = true) : (m.part lo hi).wf = true := by
  obtain ⟨h1, h2, h3⟩ := m.wf_iff.1 h
  refine (Mem.wf_iff _).2 ⟨h1.filter _, h2.part _ _, fun c hm => ?_⟩
  have := (List.mem_filter.1 hm).2
  simp only [Bool.and_eq_true, decide_eq_true_eq] at this
  simp only [Mem.part, undefAt_part, if_pos this]
  exact h3 c (List.mem_filter.1 hm).1

/-- A read after a write of one byte. -/
theorem Mem.get_put {m : Mem} (h : m.wf = true) (a x : Nat) (b : Byte) : (m.put a b).get x = if x = a then b else m.get x := by
  obtain ⟨h1, -, -⟩ := m.wf_iff.1 h
  simp only [Mem.get, Mem.put, undefAt_cutRanges, cellAt_putCell a x b h1]
  by_cases e : x = a
  · subst e; simp
  · rw [if_neg (by omega), if_neg e, if_neg e]

/-- A read after a write of bytes: inside them the byte written, elsewhere what was there. -/
theorem Mem.get_putAll (bs : List Byte) : ∀ {m : Mem} (_ : m.wf = true) (a x : Nat),
    (m.putAll a bs).get x = if a ≤ x ∧ x < a + bs.length then bs.getD (x - a) 0 else m.get x := by
  induction bs with
  | nil => intro m _ a x; simp only [Mem.putAll, List.length_nil]; rw [if_neg (by omega)]
  | cons b bs ih =>
    intro m h a x
    simp only [Mem.putAll, ih (Mem.wf_put a b h), Mem.get_put h, List.length_cons]
    by_cases e : x = a
    · subst e; rw [if_neg (by omega), if_pos rfl, if_pos (by omega)]; simp
    · rw [if_neg e]
      by_cases c : a + 1 ≤ x ∧ x < a + 1 + bs.length
      · rw [if_pos c, if_pos (by omega)]
        obtain ⟨d, rfl⟩ : ∃ d, x = a + 1 + d := ⟨x - (a + 1), by omega⟩
        rw [show a + 1 + d - (a + 1) = d by omega, show a + 1 + d - a = d + 1 by omega]; rfl
      · rw [if_neg c, if_neg (by omega)]

theorem cellAt_filter {x lo hi : Nat} : ∀ {b l}, CellsFrom b l →
    cellAt x (l.filter fun c => c.1 < lo || hi ≤ c.1) = if lo ≤ x ∧ x < hi then 0 else cellAt x l
  | _, [], _ => by simp [cellAt]
  | b, (j, c) :: t, ⟨h1, h2, h3⟩ => by
    have ih := @cellAt_filter x lo hi _ _ h3
    rw [List.filter_cons]
    split
    · next hp =>
      simp only [cellAt, ih]
      simp only [Bool.or_eq_true, decide_eq_true_eq] at hp
      by_cases e : j = x
      · subst e; rw [if_pos rfl, if_pos rfl, if_neg (by omega)]
      · rw [if_neg e, if_neg e]
    · next hp =>
      simp only [Bool.or_eq_true, decide_eq_true_eq, not_or] at hp
      rw [ih]
      simp only [cellAt]
      by_cases e : j = x
      · subst e; rw [if_pos (by omega), if_pos (by omega)]
      · rw [if_neg e]

/-- A read after bytes were written zero. -/
theorem Mem.get_zero {m : Mem} (h : m.wf = true) (a len x : Nat) :
    (m.zero a len).get x = if a ≤ x ∧ x < a + len then 0 else m.get x := by
  obtain ⟨h1, -, -⟩ := m.wf_iff.1 h
  simp only [Mem.get, Mem.zero, undefAt_cutRanges, cellAt_filter h1]
  by_cases c : a ≤ x ∧ x < a + len
  · simp [c]
  · simp [c]

/-- A read after bytes became undefined: a free value inside, unchanged elsewhere. -/
theorem Mem.get_undefine {m : Mem} (h : m.wf = true) (a len n x : Nat) :
    (m.undefine a len n).get x = if a ≤ x ∧ x < a + len then Config.freeByte n x else m.get x := by
  obtain ⟨h1, -, -⟩ := m.wf_iff.1 h
  rw [Mem.undefine]
  split
  · next e => subst e; rw [if_neg (by omega)]
  · have hc : ∀ y, a ≤ y → y < a + len → undefAt y (cutRanges a (a + len) m.undef) = none := fun y p q => by
      rw [undefAt_cutRanges, if_pos ⟨p, q⟩]
    simp only [Mem.get, undefAt_putRange _ _ _ _ hc, undefAt_cutRanges, cellAt_filter h1]
    by_cases c : a ≤ x ∧ x < a + len
    · simp [c]
    · simp [c]

end Sys2Proof.Machine
end

