-- ==== Sys2Proof/Laws/Tables.lean ====
section
/-! SUPPORT. What a lookup finds in a table after a change of it. -/

namespace Sys2Proof.Machine

@[simp] theorem tget_tset_self (k : Nat) (x : α) (t : Table α) : tget k (tset k x t) = some x := by
  induction t with
  | nil => simp [tset, tget]
  | cons p t ih =>
    obtain ⟨j, y⟩ := p
    simp only [tset]
    split
    · simp [tget, show j ≠ k by omega, ih]
    · split <;> simp [tget]

theorem tget_tset_ne {k j : Nat} (h : j ≠ k) (x : α) (t : Table α) : tget j (tset k x t) = tget j t := by
  induction t with
  | nil => simp [tset, tget, Ne.symm h]
  | cons p t ih =>
    obtain ⟨i, y⟩ := p
    simp only [tset]
    split
    · simp [tget, ih]
    · split
      · next e => subst e; simp [tget, Ne.symm h]
      · simp [tget, Ne.symm h]

theorem tget_tset (j k : Nat) (x : α) (t : Table α) : tget j (tset k x t) = if j = k then some x else tget j t := by
  split
  · next h => rw [h, tget_tset_self]
  · next h => exact tget_tset_ne h x t

theorem tget_tmod (j k : Nat) (f : α → α) (t : Table α) :
    tget j (tmod k f t) = if j = k then (tget j t).map f else tget j t := by
  induction t with
  | nil => simp [tmod, tget]
  | cons p t ih =>
    obtain ⟨i, y⟩ := p
    simp only [tmod, List.map_cons] at ih ⊢
    by_cases hi : i = k <;> by_cases hj : i = j <;> simp_all [tget]

@[simp] theorem tget_tmod_self (k : Nat) (f : α → α) (t : Table α) : tget k (tmod k f t) = (tget k t).map f := by
  simp [tget_tmod]

theorem tget_tmod_ne {k j : Nat} (h : j ≠ k) (f : α → α) (t : Table α) : tget j (tmod k f t) = tget j t := by
  simp [tget_tmod, h]

/-- Two changes of one record are one change. -/
@[simp] theorem tmod_tmod (k : Nat) (f g : α → α) (t : Table α) : tmod k f (tmod k g t) = tmod k (fun x => f (g x)) t := by
  simp only [tmod, List.map_map]
  refine List.map_congr_left fun p _ => ?_
  by_cases h : p.1 = k <;> simp [h]

theorem tget_tdel (j k : Nat) (t : Table α) : tget j (tdel k t) = if j = k then none else tget j t := by
  induction t with
  | nil => simp [tdel, tget]
  | cons p t ih =>
    obtain ⟨i, y⟩ := p
    simp only [tdel, List.filter_cons] at ih ⊢
    by_cases hi : i = k <;> by_cases hj : i = j <;> simp_all [tget]

@[simp] theorem tgetD_tset_self (k : Nat) (d x : α) (t : Table α) : tgetD k d (tset k x t) = x := by simp [tgetD]

theorem tgetD_tset_ne {k j : Nat} (h : j ≠ k) (d x : α) (t : Table α) : tgetD j d (tset k x t) = tgetD j d t := by
  simp [tgetD, tget_tset_ne h]

/-- A lookup finds nothing below the first number of a rising table. -/
theorem tableOk_tail {p : Nat × α} {t : Table α} (h : tableOk (p :: t) = true) : tableOk t = true := by
  cases t with
  | nil => rfl
  | cons q t => simp_all [tableOk]

theorem tableOk_tset (k : Nat) (x : α) (t : Table α) (h : tableOk t = true) : tableOk (tset k x t) = true := by
  induction t with
  | nil => simp [tset, tableOk]
  | cons p t ih =>
    obtain ⟨j, y⟩ := p
    have ih := ih (tableOk_tail h)
    simp only [tset]
    split
    · next hj =>
      cases t with
      | nil => simp [tset, tableOk, hj]
      | cons q t =>
        obtain ⟨i, z⟩ := q
        simp only [tableOk, Bool.and_eq_true, decide_eq_true_eq] at h
        simp only [tset] at ih ⊢
        split <;> simp_all [tableOk]
        split <;> simp_all [tableOk]
    · split
      · next e => subst e; cases t with
        | nil => rfl
        | cons q t => obtain ⟨i, z⟩ := q; simpa [tableOk] using h
      · simp [tableOk, h]; omega

/-- Sorting keeps the elements. -/
theorem mem_insertBy (f : α → Nat) (x y : α) (l : List α) : y ∈ insertBy f x l ↔ y = x ∨ y ∈ l := by
  induction l with
  | nil => simp [insertBy]
  | cons z l ih =>
    simp only [insertBy]
    split
    · simp
    · simp only [List.mem_cons, ih]
      constructor
      · rintro (h | h | h) <;> simp [h]
      · rintro (h | h | h) <;> simp [h]

theorem mem_sortBy (f : α → Nat) (y : α) (l : List α) : y ∈ sortBy f l ↔ y ∈ l := by
  induction l with
  | nil => simp [sortBy]
  | cons z l ih => simp [sortBy, mem_insertBy, ih]

theorem insertBy_perm (f : α → Nat) (x : α) (l : List α) : (insertBy f x l).Perm (x :: l) := by
  induction l with
  | nil => simp [insertBy]
  | cons z l ih =>
    simp only [insertBy]
    split
    · exact List.Perm.refl _
    · exact (List.Perm.cons z ih).trans (List.Perm.swap x z l)

/-- Sorting permutes. -/
theorem sortBy_perm (f : α → Nat) (l : List α) : (sortBy f l).Perm l := by
  induction l with
  | nil => simp [sortBy]
  | cons z l ih => exact (insertBy_perm f z _).trans (List.Perm.cons z ih)

end Sys2Proof.Machine
end

