-- ==== Sys2Proof/Laws/State.lean ====
section
/-! SUPPORT. The fields of a state after each update of one table, and what the lookups find then. -/

namespace Sys2Proof.Machine

namespace State

variable (s : State)

@[simp] theorem setGroup_now (i : Nat) (x : Group) : (s.setGroup i x).now = s.now := rfl
@[simp] theorem setGroup_fresh (i : Nat) (x : Group) : (s.setGroup i x).fresh = s.fresh := rfl
@[simp] theorem setGroup_nextId (i : Nat) (x : Group) : (s.setGroup i x).nextId = s.nextId := rfl
@[simp] theorem setGroup_agenda (i : Nat) (x : Group) : (s.setGroup i x).agenda = s.agenda := rfl
@[simp] theorem setGroup_cur (i : Nat) (x : Group) : (s.setGroup i x).cur = s.cur := rfl
@[simp] theorem setGroup_mem (i : Nat) (x : Group) : (s.setGroup i x).mem = s.mem := rfl
@[simp] theorem setGroup_bad (i : Nat) (x : Group) : (s.setGroup i x).bad = s.bad := rfl
@[simp] theorem setGroup_lineCore (i : Nat) (x : Group) : (s.setGroup i x).lineCore = s.lineCore := rfl
@[simp] theorem setGroup_written (i : Nat) (x : Group) : (s.setGroup i x).written = s.written := rfl
@[simp] theorem setGroup_issued (i : Nat) (x : Group) : (s.setGroup i x).issued = s.issued := rfl
@[simp] theorem setGroup_pipe (i : Nat) (x : Group) : (s.setGroup i x).pipe = s.pipe := rfl
@[simp] theorem setGroup_trace (i : Nat) (x : Group) : (s.setGroup i x).trace = s.trace := rfl
@[simp] theorem setGroup_resets (i : Nat) (x : Group) : (s.setGroup i x).resets = s.resets := rfl
@[simp] theorem setGroup_scratch (i : Nat) (x : Group) : (s.setGroup i x).scratch = s.scratch := rfl
@[simp] theorem setGroup_wbuf (i : Nat) (x : Group) : (s.setGroup i x).wbuf = s.wbuf := rfl
@[simp] theorem setGroup_wdup (i : Nat) (x : Group) : (s.setGroup i x).wdup = s.wdup := rfl
@[simp] theorem setGroup_acc (i : Nat) (x : Group) : (s.setGroup i x).acc = s.acc := rfl
@[simp] theorem setGroup_rows (i : Nat) (x : Group) : (s.setGroup i x).rows = s.rows := rfl
@[simp] theorem setGroup_pkgs (i : Nat) (x : Group) : (s.setGroup i x).pkgs = s.pkgs := rfl
@[simp] theorem setGroup_vfs (i : Nat) (x : Group) : (s.setGroup i x).vfs = s.vfs := rfl
@[simp] theorem setGroup_cores (i : Nat) (x : Group) : (s.setGroup i x).cores = s.cores := rfl
@[simp] theorem setGroup_quads (i : Nat) (x : Group) : (s.setGroup i x).quads = s.quads := rfl
@[simp] theorem setGroup_queues (i : Nat) (x : Group) : (s.setGroup i x).queues = s.queues := rfl
@[simp] theorem setGroup_launches (i : Nat) (x : Group) : (s.setGroup i x).launches = s.launches := rfl
@[simp] theorem setGroup_blocks (i : Nat) (x : Group) : (s.setGroup i x).blocks = s.blocks := rfl
@[simp] theorem setGroup_tasks (i : Nat) (x : Group) : (s.setGroup i x).tasks = s.tasks := rfl
@[simp] theorem setGroup_groups (i : Nat) (x : Group) : (s.setGroup i x).groups = tset i x s.groups := rfl
@[simp] theorem setGroup_barriers (i : Nat) (x : Group) : (s.setGroup i x).barriers = s.barriers := rfl
@[simp] theorem setGroup_fwds (i : Nat) (x : Group) : (s.setGroup i x).fwds = s.fwds := rfl
@[simp] theorem setGroup_cairns (i : Nat) (x : Group) : (s.setGroup i x).cairns = s.cairns := rfl
@[simp] theorem setGroup_copies (i : Nat) (x : Group) : (s.setGroup i x).copies = s.copies := rfl
@[simp] theorem setGroup_msgs (i : Nat) (x : Group) : (s.setGroup i x).msgs = s.msgs := rfl
@[simp] theorem setGroup_pubs (i : Nat) (x : Group) : (s.setGroup i x).pubs = s.pubs := rfl
@[simp] theorem setGroup_wbacks (i : Nat) (x : Group) : (s.setGroup i x).wbacks = s.wbacks := rfl
@[simp] theorem setGroup_wins (i : Nat) (x : Group) : (s.setGroup i x).wins = s.wins := rfl
@[simp] theorem setGroup_flights (i : Nat) (x : Group) : (s.setGroup i x).flights = s.flights := rfl
@[simp] theorem setGroup_rops (i : Nat) (x : Group) : (s.setGroup i x).rops = s.rops := rfl
@[simp] theorem setGroup_pods (i : Nat) (x : Group) : (s.setGroup i x).pods = s.pods := rfl
@[simp] theorem setGroup_syslog (i : Nat) (x : Group) : (s.setGroup i x).syslog = s.syslog := rfl
@[simp] theorem setGroup_host (i : Nat) (x : Group) : (s.setGroup i x).host = s.host := rfl

@[simp] theorem modGroup_now (i : Nat) (f : Group → Group) : (s.modGroup i f).now = s.now := rfl
@[simp] theorem modGroup_fresh (i : Nat) (f : Group → Group) : (s.modGroup i f).fresh = s.fresh := rfl
@[simp] theorem modGroup_nextId (i : Nat) (f : Group → Group) : (s.modGroup i f).nextId = s.nextId := rfl
@[simp] theorem modGroup_agenda (i : Nat) (f : Group → Group) : (s.modGroup i f).agenda = s.agenda := rfl
@[simp] theorem modGroup_cur (i : Nat) (f : Group → Group) : (s.modGroup i f).cur = s.cur := rfl
@[simp] theorem modGroup_mem (i : Nat) (f : Group → Group) : (s.modGroup i f).mem = s.mem := rfl
@[simp] theorem modGroup_bad (i : Nat) (f : Group → Group) : (s.modGroup i f).bad = s.bad := rfl
@[simp] theorem modGroup_lineCore (i : Nat) (f : Group → Group) : (s.modGroup i f).lineCore = s.lineCore := rfl
@[simp] theorem modGroup_written (i : Nat) (f : Group → Group) : (s.modGroup i f).written = s.written := rfl
@[simp] theorem modGroup_issued (i : Nat) (f : Group → Group) : (s.modGroup i f).issued = s.issued := rfl
@[simp] theorem modGroup_pipe (i : Nat) (f : Group → Group) : (s.modGroup i f).pipe = s.pipe := rfl
@[simp] theorem modGroup_trace (i : Nat) (f : Group → Group) : (s.modGroup i f).trace = s.trace := rfl
@[simp] theorem modGroup_resets (i : Nat) (f : Group → Group) : (s.modGroup i f).resets = s.resets := rfl
@[simp] theorem modGroup_scratch (i : Nat) (f : Group → Group) : (s.modGroup i f).scratch = s.scratch := rfl
@[simp] theorem modGroup_wbuf (i : Nat) (f : Group → Group) : (s.modGroup i f).wbuf = s.wbuf := rfl
@[simp] theorem modGroup_wdup (i : Nat) (f : Group → Group) : (s.modGroup i f).wdup = s.wdup := rfl
@[simp] theorem modGroup_acc (i : Nat) (f : Group → Group) : (s.modGroup i f).acc = s.acc := rfl
@[simp] theorem modGroup_rows (i : Nat) (f : Group → Group) : (s.modGroup i f).rows = s.rows := rfl
@[simp] theorem modGroup_pkgs (i : Nat) (f : Group → Group) : (s.modGroup i f).pkgs = s.pkgs := rfl
@[simp] theorem modGroup_vfs (i : Nat) (f : Group → Group) : (s.modGroup i f).vfs = s.vfs := rfl
@[simp] theorem modGroup_cores (i : Nat) (f : Group → Group) : (s.modGroup i f).cores = s.cores := rfl
@[simp] theorem modGroup_quads (i : Nat) (f : Group → Group) : (s.modGroup i f).quads = s.quads := rfl
@[simp] theorem modGroup_queues (i : Nat) (f : Group → Group) : (s.modGroup i f).queues = s.queues := rfl
@[simp] theorem modGroup_launches (i : Nat) (f : Group → Group) : (s.modGroup i f).launches = s.launches := rfl
@[simp] theorem modGroup_blocks (i : Nat) (f : Group → Group) : (s.modGroup i f).blocks = s.blocks := rfl
@[simp] theorem modGroup_tasks (i : Nat) (f : Group → Group) : (s.modGroup i f).tasks = s.tasks := rfl
@[simp] theorem modGroup_groups (i : Nat) (f : Group → Group) : (s.modGroup i f).groups = tmod i f s.groups := rfl
@[simp] theorem modGroup_barriers (i : Nat) (f : Group → Group) : (s.modGroup i f).barriers = s.barriers := rfl
@[simp] theorem modGroup_fwds (i : Nat) (f : Group → Group) : (s.modGroup i f).fwds = s.fwds := rfl
@[simp] theorem modGroup_cairns (i : Nat) (f : Group → Group) : (s.modGroup i f).cairns = s.cairns := rfl
@[simp] theorem modGroup_copies (i : Nat) (f : Group → Group) : (s.modGroup i f).copies = s.copies := rfl
@[simp] theorem modGroup_msgs (i : Nat) (f : Group → Group) : (s.modGroup i f).msgs = s.msgs := rfl
@[simp] theorem modGroup_pubs (i : Nat) (f : Group → Group) : (s.modGroup i f).pubs = s.pubs := rfl
@[simp] theorem modGroup_wbacks (i : Nat) (f : Group → Group) : (s.modGroup i f).wbacks = s.wbacks := rfl
@[simp] theorem modGroup_wins (i : Nat) (f : Group → Group) : (s.modGroup i f).wins = s.wins := rfl
@[simp] theorem modGroup_flights (i : Nat) (f : Group → Group) : (s.modGroup i f).flights = s.flights := rfl
@[simp] theorem modGroup_rops (i : Nat) (f : Group → Group) : (s.modGroup i f).rops = s.rops := rfl
@[simp] theorem modGroup_pods (i : Nat) (f : Group → Group) : (s.modGroup i f).pods = s.pods := rfl
@[simp] theorem modGroup_syslog (i : Nat) (f : Group → Group) : (s.modGroup i f).syslog = s.syslog := rfl
@[simp] theorem modGroup_host (i : Nat) (f : Group → Group) : (s.modGroup i f).host = s.host := rfl

@[simp] theorem setPkg_now (i : Nat) (x : Pkg) : (s.setPkg i x).now = s.now := rfl
@[simp] theorem setPkg_fresh (i : Nat) (x : Pkg) : (s.setPkg i x).fresh = s.fresh := rfl
@[simp] theorem setPkg_nextId (i : Nat) (x : Pkg) : (s.setPkg i x).nextId = s.nextId := rfl
@[simp] theorem setPkg_agenda (i : Nat) (x : Pkg) : (s.setPkg i x).agenda = s.agenda := rfl
@[simp] theorem setPkg_cur (i : Nat) (x : Pkg) : (s.setPkg i x).cur = s.cur := rfl
@[simp] theorem setPkg_mem (i : Nat) (x : Pkg) : (s.setPkg i x).mem = s.mem := rfl
@[simp] theorem setPkg_bad (i : Nat) (x : Pkg) : (s.setPkg i x).bad = s.bad := rfl
@[simp] theorem setPkg_lineCore (i : Nat) (x : Pkg) : (s.setPkg i x).lineCore = s.lineCore := rfl
@[simp] theorem setPkg_written (i : Nat) (x : Pkg) : (s.setPkg i x).written = s.written := rfl
@[simp] theorem setPkg_issued (i : Nat) (x : Pkg) : (s.setPkg i x).issued = s.issued := rfl
@[simp] theorem setPkg_pipe (i : Nat) (x : Pkg) : (s.setPkg i x).pipe = s.pipe := rfl
@[simp] theorem setPkg_trace (i : Nat) (x : Pkg) : (s.setPkg i x).trace = s.trace := rfl
@[simp] theorem setPkg_resets (i : Nat) (x : Pkg) : (s.setPkg i x).resets = s.resets := rfl
@[simp] theorem setPkg_scratch (i : Nat) (x : Pkg) : (s.setPkg i x).scratch = s.scratch := rfl
@[simp] theorem setPkg_wbuf (i : Nat) (x : Pkg) : (s.setPkg i x).wbuf = s.wbuf := rfl
@[simp] theorem setPkg_wdup (i : Nat) (x : Pkg) : (s.setPkg i x).wdup = s.wdup := rfl
@[simp] theorem setPkg_acc (i : Nat) (x : Pkg) : (s.setPkg i x).acc = s.acc := rfl
@[simp] theorem setPkg_rows (i : Nat) (x : Pkg) : (s.setPkg i x).rows = s.rows := rfl
@[simp] theorem setPkg_pkgs (i : Nat) (x : Pkg) : (s.setPkg i x).pkgs = tset i x s.pkgs := rfl
@[simp] theorem setPkg_vfs (i : Nat) (x : Pkg) : (s.setPkg i x).vfs = s.vfs := rfl
@[simp] theorem setPkg_cores (i : Nat) (x : Pkg) : (s.setPkg i x).cores = s.cores := rfl
@[simp] theorem setPkg_quads (i : Nat) (x : Pkg) : (s.setPkg i x).quads = s.quads := rfl
@[simp] theorem setPkg_queues (i : Nat) (x : Pkg) : (s.setPkg i x).queues = s.queues := rfl
@[simp] theorem setPkg_launches (i : Nat) (x : Pkg) : (s.setPkg i x).launches = s.launches := rfl
@[simp] theorem setPkg_blocks (i : Nat) (x : Pkg) : (s.setPkg i x).blocks = s.blocks := rfl
@[simp] theorem setPkg_tasks (i : Nat) (x : Pkg) : (s.setPkg i x).tasks = s.tasks := rfl
@[simp] theorem setPkg_groups (i : Nat) (x : Pkg) : (s.setPkg i x).groups = s.groups := rfl
@[simp] theorem setPkg_barriers (i : Nat) (x : Pkg) : (s.setPkg i x).barriers = s.barriers := rfl
@[simp] theorem setPkg_fwds (i : Nat) (x : Pkg) : (s.setPkg i x).fwds = s.fwds := rfl
@[simp] theorem setPkg_cairns (i : Nat) (x : Pkg) : (s.setPkg i x).cairns = s.cairns := rfl
@[simp] theorem setPkg_copies (i : Nat) (x : Pkg) : (s.setPkg i x).copies = s.copies := rfl
@[simp] theorem setPkg_msgs (i : Nat) (x : Pkg) : (s.setPkg i x).msgs = s.msgs := rfl
@[simp] theorem setPkg_pubs (i : Nat) (x : Pkg) : (s.setPkg i x).pubs = s.pubs := rfl
@[simp] theorem setPkg_wbacks (i : Nat) (x : Pkg) : (s.setPkg i x).wbacks = s.wbacks := rfl
@[simp] theorem setPkg_wins (i : Nat) (x : Pkg) : (s.setPkg i x).wins = s.wins := rfl
@[simp] theorem setPkg_flights (i : Nat) (x : Pkg) : (s.setPkg i x).flights = s.flights := rfl
@[simp] theorem setPkg_rops (i : Nat) (x : Pkg) : (s.setPkg i x).rops = s.rops := rfl
@[simp] theorem setPkg_pods (i : Nat) (x : Pkg) : (s.setPkg i x).pods = s.pods := rfl
@[simp] theorem setPkg_syslog (i : Nat) (x : Pkg) : (s.setPkg i x).syslog = s.syslog := rfl
@[simp] theorem setPkg_host (i : Nat) (x : Pkg) : (s.setPkg i x).host = s.host := rfl

@[simp] theorem setVf_now (i : Nat) (x : Vf) : (s.setVf i x).now = s.now := rfl
@[simp] theorem setVf_fresh (i : Nat) (x : Vf) : (s.setVf i x).fresh = s.fresh := rfl
@[simp] theorem setVf_nextId (i : Nat) (x : Vf) : (s.setVf i x).nextId = s.nextId := rfl
@[simp] theorem setVf_agenda (i : Nat) (x : Vf) : (s.setVf i x).agenda = s.agenda := rfl
@[simp] theorem setVf_cur (i : Nat) (x : Vf) : (s.setVf i x).cur = s.cur := rfl
@[simp] theorem setVf_mem (i : Nat) (x : Vf) : (s.setVf i x).mem = s.mem := rfl
@[simp] theorem setVf_bad (i : Nat) (x : Vf) : (s.setVf i x).bad = s.bad := rfl
@[simp] theorem setVf_lineCore (i : Nat) (x : Vf) : (s.setVf i x).lineCore = s.lineCore := rfl
@[simp] theorem setVf_written (i : Nat) (x : Vf) : (s.setVf i x).written = s.written := rfl
@[simp] theorem setVf_issued (i : Nat) (x : Vf) : (s.setVf i x).issued = s.issued := rfl
@[simp] theorem setVf_pipe (i : Nat) (x : Vf) : (s.setVf i x).pipe = s.pipe := rfl
@[simp] theorem setVf_trace (i : Nat) (x : Vf) : (s.setVf i x).trace = s.trace := rfl
@[simp] theorem setVf_resets (i : Nat) (x : Vf) : (s.setVf i x).resets = s.resets := rfl
@[simp] theorem setVf_scratch (i : Nat) (x : Vf) : (s.setVf i x).scratch = s.scratch := rfl
@[simp] theorem setVf_wbuf (i : Nat) (x : Vf) : (s.setVf i x).wbuf = s.wbuf := rfl
@[simp] theorem setVf_wdup (i : Nat) (x : Vf) : (s.setVf i x).wdup = s.wdup := rfl
@[simp] theorem setVf_acc (i : Nat) (x : Vf) : (s.setVf i x).acc = s.acc := rfl
@[simp] theorem setVf_rows (i : Nat) (x : Vf) : (s.setVf i x).rows = s.rows := rfl
@[simp] theorem setVf_pkgs (i : Nat) (x : Vf) : (s.setVf i x).pkgs = s.pkgs := rfl
@[simp] theorem setVf_vfs (i : Nat) (x : Vf) : (s.setVf i x).vfs = tset i x s.vfs := rfl
@[simp] theorem setVf_cores (i : Nat) (x : Vf) : (s.setVf i x).cores = s.cores := rfl
@[simp] theorem setVf_quads (i : Nat) (x : Vf) : (s.setVf i x).quads = s.quads := rfl
@[simp] theorem setVf_queues (i : Nat) (x : Vf) : (s.setVf i x).queues = s.queues := rfl
@[simp] theorem setVf_launches (i : Nat) (x : Vf) : (s.setVf i x).launches = s.launches := rfl
@[simp] theorem setVf_blocks (i : Nat) (x : Vf) : (s.setVf i x).blocks = s.blocks := rfl
@[simp] theorem setVf_tasks (i : Nat) (x : Vf) : (s.setVf i x).tasks = s.tasks := rfl
@[simp] theorem setVf_groups (i : Nat) (x : Vf) : (s.setVf i x).groups = s.groups := rfl
@[simp] theorem setVf_barriers (i : Nat) (x : Vf) : (s.setVf i x).barriers = s.barriers := rfl
@[simp] theorem setVf_fwds (i : Nat) (x : Vf) : (s.setVf i x).fwds = s.fwds := rfl
@[simp] theorem setVf_cairns (i : Nat) (x : Vf) : (s.setVf i x).cairns = s.cairns := rfl
@[simp] theorem setVf_copies (i : Nat) (x : Vf) : (s.setVf i x).copies = s.copies := rfl
@[simp] theorem setVf_msgs (i : Nat) (x : Vf) : (s.setVf i x).msgs = s.msgs := rfl
@[simp] theorem setVf_pubs (i : Nat) (x : Vf) : (s.setVf i x).pubs = s.pubs := rfl
@[simp] theorem setVf_wbacks (i : Nat) (x : Vf) : (s.setVf i x).wbacks = s.wbacks := rfl
@[simp] theorem setVf_wins (i : Nat) (x : Vf) : (s.setVf i x).wins = s.wins := rfl
@[simp] theorem setVf_flights (i : Nat) (x : Vf) : (s.setVf i x).flights = s.flights := rfl
@[simp] theorem setVf_rops (i : Nat) (x : Vf) : (s.setVf i x).rops = s.rops := rfl
@[simp] theorem setVf_pods (i : Nat) (x : Vf) : (s.setVf i x).pods = s.pods := rfl
@[simp] theorem setVf_syslog (i : Nat) (x : Vf) : (s.setVf i x).syslog = s.syslog := rfl
@[simp] theorem setVf_host (i : Nat) (x : Vf) : (s.setVf i x).host = s.host := rfl

@[simp] theorem setCore_now (i : Nat) (x : Core) : (s.setCore i x).now = s.now := rfl
@[simp] theorem setCore_fresh (i : Nat) (x : Core) : (s.setCore i x).fresh = s.fresh := rfl
@[simp] theorem setCore_nextId (i : Nat) (x : Core) : (s.setCore i x).nextId = s.nextId := rfl
@[simp] theorem setCore_agenda (i : Nat) (x : Core) : (s.setCore i x).agenda = s.agenda := rfl
@[simp] theorem setCore_cur (i : Nat) (x : Core) : (s.setCore i x).cur = s.cur := rfl
@[simp] theorem setCore_mem (i : Nat) (x : Core) : (s.setCore i x).mem = s.mem := rfl
@[simp] theorem setCore_bad (i : Nat) (x : Core) : (s.setCore i x).bad = s.bad := rfl
@[simp] theorem setCore_lineCore (i : Nat) (x : Core) : (s.setCore i x).lineCore = s.lineCore := rfl
@[simp] theorem setCore_written (i : Nat) (x : Core) : (s.setCore i x).written = s.written := rfl
@[simp] theorem setCore_issued (i : Nat) (x : Core) : (s.setCore i x).issued = s.issued := rfl
@[simp] theorem setCore_pipe (i : Nat) (x : Core) : (s.setCore i x).pipe = s.pipe := rfl
@[simp] theorem setCore_trace (i : Nat) (x : Core) : (s.setCore i x).trace = s.trace := rfl
@[simp] theorem setCore_resets (i : Nat) (x : Core) : (s.setCore i x).resets = s.resets := rfl
@[simp] theorem setCore_scratch (i : Nat) (x : Core) : (s.setCore i x).scratch = s.scratch := rfl
@[simp] theorem setCore_wbuf (i : Nat) (x : Core) : (s.setCore i x).wbuf = s.wbuf := rfl
@[simp] theorem setCore_wdup (i : Nat) (x : Core) : (s.setCore i x).wdup = s.wdup := rfl
@[simp] theorem setCore_acc (i : Nat) (x : Core) : (s.setCore i x).acc = s.acc := rfl
@[simp] theorem setCore_rows (i : Nat) (x : Core) : (s.setCore i x).rows = s.rows := rfl
@[simp] theorem setCore_pkgs (i : Nat) (x : Core) : (s.setCore i x).pkgs = s.pkgs := rfl
@[simp] theorem setCore_vfs (i : Nat) (x : Core) : (s.setCore i x).vfs = s.vfs := rfl
@[simp] theorem setCore_cores (i : Nat) (x : Core) : (s.setCore i x).cores = tset i x s.cores := rfl
@[simp] theorem setCore_quads (i : Nat) (x : Core) : (s.setCore i x).quads = s.quads := rfl
@[simp] theorem setCore_queues (i : Nat) (x : Core) : (s.setCore i x).queues = s.queues := rfl
@[simp] theorem setCore_launches (i : Nat) (x : Core) : (s.setCore i x).launches = s.launches := rfl
@[simp] theorem setCore_blocks (i : Nat) (x : Core) : (s.setCore i x).blocks = s.blocks := rfl
@[simp] theorem setCore_tasks (i : Nat) (x : Core) : (s.setCore i x).tasks = s.tasks := rfl
@[simp] theorem setCore_groups (i : Nat) (x : Core) : (s.setCore i x).groups = s.groups := rfl
@[simp] theorem setCore_barriers (i : Nat) (x : Core) : (s.setCore i x).barriers = s.barriers := rfl
@[simp] theorem setCore_fwds (i : Nat) (x : Core) : (s.setCore i x).fwds = s.fwds := rfl
@[simp] theorem setCore_cairns (i : Nat) (x : Core) : (s.setCore i x).cairns = s.cairns := rfl
@[simp] theorem setCore_copies (i : Nat) (x : Core) : (s.setCore i x).copies = s.copies := rfl
@[simp] theorem setCore_msgs (i : Nat) (x : Core) : (s.setCore i x).msgs = s.msgs := rfl
@[simp] theorem setCore_pubs (i : Nat) (x : Core) : (s.setCore i x).pubs = s.pubs := rfl
@[simp] theorem setCore_wbacks (i : Nat) (x : Core) : (s.setCore i x).wbacks = s.wbacks := rfl
@[simp] theorem setCore_wins (i : Nat) (x : Core) : (s.setCore i x).wins = s.wins := rfl
@[simp] theorem setCore_flights (i : Nat) (x : Core) : (s.setCore i x).flights = s.flights := rfl
@[simp] theorem setCore_rops (i : Nat) (x : Core) : (s.setCore i x).rops = s.rops := rfl
@[simp] theorem setCore_pods (i : Nat) (x : Core) : (s.setCore i x).pods = s.pods := rfl
@[simp] theorem setCore_syslog (i : Nat) (x : Core) : (s.setCore i x).syslog = s.syslog := rfl
@[simp] theorem setCore_host (i : Nat) (x : Core) : (s.setCore i x).host = s.host := rfl

@[simp] theorem setQuad_now (i : Nat) (x : Quad) : (s.setQuad i x).now = s.now := rfl
@[simp] theorem setQuad_fresh (i : Nat) (x : Quad) : (s.setQuad i x).fresh = s.fresh := rfl
@[simp] theorem setQuad_nextId (i : Nat) (x : Quad) : (s.setQuad i x).nextId = s.nextId := rfl
@[simp] theorem setQuad_agenda (i : Nat) (x : Quad) : (s.setQuad i x).agenda = s.agenda := rfl
@[simp] theorem setQuad_cur (i : Nat) (x : Quad) : (s.setQuad i x).cur = s.cur := rfl
@[simp] theorem setQuad_mem (i : Nat) (x : Quad) : (s.setQuad i x).mem = s.mem := rfl
@[simp] theorem setQuad_bad (i : Nat) (x : Quad) : (s.setQuad i x).bad = s.bad := rfl
@[simp] theorem setQuad_lineCore (i : Nat) (x : Quad) : (s.setQuad i x).lineCore = s.lineCore := rfl
@[simp] theorem setQuad_written (i : Nat) (x : Quad) : (s.setQuad i x).written = s.written := rfl
@[simp] theorem setQuad_issued (i : Nat) (x : Quad) : (s.setQuad i x).issued = s.issued := rfl
@[simp] theorem setQuad_pipe (i : Nat) (x : Quad) : (s.setQuad i x).pipe = s.pipe := rfl
@[simp] theorem setQuad_trace (i : Nat) (x : Quad) : (s.setQuad i x).trace = s.trace := rfl
@[simp] theorem setQuad_resets (i : Nat) (x : Quad) : (s.setQuad i x).resets = s.resets := rfl
@[simp] theorem setQuad_scratch (i : Nat) (x : Quad) : (s.setQuad i x).scratch = s.scratch := rfl
@[simp] theorem setQuad_wbuf (i : Nat) (x : Quad) : (s.setQuad i x).wbuf = s.wbuf := rfl
@[simp] theorem setQuad_wdup (i : Nat) (x : Quad) : (s.setQuad i x).wdup = s.wdup := rfl
@[simp] theorem setQuad_acc (i : Nat) (x : Quad) : (s.setQuad i x).acc = s.acc := rfl
@[simp] theorem setQuad_rows (i : Nat) (x : Quad) : (s.setQuad i x).rows = s.rows := rfl
@[simp] theorem setQuad_pkgs (i : Nat) (x : Quad) : (s.setQuad i x).pkgs = s.pkgs := rfl
@[simp] theorem setQuad_vfs (i : Nat) (x : Quad) : (s.setQuad i x).vfs = s.vfs := rfl
@[simp] theorem setQuad_cores (i : Nat) (x : Quad) : (s.setQuad i x).cores = s.cores := rfl
@[simp] theorem setQuad_quads (i : Nat) (x : Quad) : (s.setQuad i x).quads = tset i x s.quads := rfl
@[simp] theorem setQuad_queues (i : Nat) (x : Quad) : (s.setQuad i x).queues = s.queues := rfl
@[simp] theorem setQuad_launches (i : Nat) (x : Quad) : (s.setQuad i x).launches = s.launches := rfl
@[simp] theorem setQuad_blocks (i : Nat) (x : Quad) : (s.setQuad i x).blocks = s.blocks := rfl
@[simp] theorem setQuad_tasks (i : Nat) (x : Quad) : (s.setQuad i x).tasks = s.tasks := rfl
@[simp] theorem setQuad_groups (i : Nat) (x : Quad) : (s.setQuad i x).groups = s.groups := rfl
@[simp] theorem setQuad_barriers (i : Nat) (x : Quad) : (s.setQuad i x).barriers = s.barriers := rfl
@[simp] theorem setQuad_fwds (i : Nat) (x : Quad) : (s.setQuad i x).fwds = s.fwds := rfl
@[simp] theorem setQuad_cairns (i : Nat) (x : Quad) : (s.setQuad i x).cairns = s.cairns := rfl
@[simp] theorem setQuad_copies (i : Nat) (x : Quad) : (s.setQuad i x).copies = s.copies := rfl
@[simp] theorem setQuad_msgs (i : Nat) (x : Quad) : (s.setQuad i x).msgs = s.msgs := rfl
@[simp] theorem setQuad_pubs (i : Nat) (x : Quad) : (s.setQuad i x).pubs = s.pubs := rfl
@[simp] theorem setQuad_wbacks (i : Nat) (x : Quad) : (s.setQuad i x).wbacks = s.wbacks := rfl
@[simp] theorem setQuad_wins (i : Nat) (x : Quad) : (s.setQuad i x).wins = s.wins := rfl
@[simp] theorem setQuad_flights (i : Nat) (x : Quad) : (s.setQuad i x).flights = s.flights := rfl
@[simp] theorem setQuad_rops (i : Nat) (x : Quad) : (s.setQuad i x).rops = s.rops := rfl
@[simp] theorem setQuad_pods (i : Nat) (x : Quad) : (s.setQuad i x).pods = s.pods := rfl
@[simp] theorem setQuad_syslog (i : Nat) (x : Quad) : (s.setQuad i x).syslog = s.syslog := rfl
@[simp] theorem setQuad_host (i : Nat) (x : Quad) : (s.setQuad i x).host = s.host := rfl

@[simp] theorem setQueue_now (i : Nat) (x : MQueue) : (s.setQueue i x).now = s.now := rfl
@[simp] theorem setQueue_fresh (i : Nat) (x : MQueue) : (s.setQueue i x).fresh = s.fresh := rfl
@[simp] theorem setQueue_nextId (i : Nat) (x : MQueue) : (s.setQueue i x).nextId = s.nextId := rfl
@[simp] theorem setQueue_agenda (i : Nat) (x : MQueue) : (s.setQueue i x).agenda = s.agenda := rfl
@[simp] theorem setQueue_cur (i : Nat) (x : MQueue) : (s.setQueue i x).cur = s.cur := rfl
@[simp] theorem setQueue_mem (i : Nat) (x : MQueue) : (s.setQueue i x).mem = s.mem := rfl
@[simp] theorem setQueue_bad (i : Nat) (x : MQueue) : (s.setQueue i x).bad = s.bad := rfl
@[simp] theorem setQueue_lineCore (i : Nat) (x : MQueue) : (s.setQueue i x).lineCore = s.lineCore := rfl
@[simp] theorem setQueue_written (i : Nat) (x : MQueue) : (s.setQueue i x).written = s.written := rfl
@[simp] theorem setQueue_issued (i : Nat) (x : MQueue) : (s.setQueue i x).issued = s.issued := rfl
@[simp] theorem setQueue_pipe (i : Nat) (x : MQueue) : (s.setQueue i x).pipe = s.pipe := rfl
@[simp] theorem setQueue_trace (i : Nat) (x : MQueue) : (s.setQueue i x).trace = s.trace := rfl
@[simp] theorem setQueue_resets (i : Nat) (x : MQueue) : (s.setQueue i x).resets = s.resets := rfl
@[simp] theorem setQueue_scratch (i : Nat) (x : MQueue) : (s.setQueue i x).scratch = s.scratch := rfl
@[simp] theorem setQueue_wbuf (i : Nat) (x : MQueue) : (s.setQueue i x).wbuf = s.wbuf := rfl
@[simp] theorem setQueue_wdup (i : Nat) (x : MQueue) : (s.setQueue i x).wdup = s.wdup := rfl
@[simp] theorem setQueue_acc (i : Nat) (x : MQueue) : (s.setQueue i x).acc = s.acc := rfl
@[simp] theorem setQueue_rows (i : Nat) (x : MQueue) : (s.setQueue i x).rows = s.rows := rfl
@[simp] theorem setQueue_pkgs (i : Nat) (x : MQueue) : (s.setQueue i x).pkgs = s.pkgs := rfl
@[simp] theorem setQueue_vfs (i : Nat) (x : MQueue) : (s.setQueue i x).vfs = s.vfs := rfl
@[simp] theorem setQueue_cores (i : Nat) (x : MQueue) : (s.setQueue i x).cores = s.cores := rfl
@[simp] theorem setQueue_quads (i : Nat) (x : MQueue) : (s.setQueue i x).quads = s.quads := rfl
@[simp] theorem setQueue_queues (i : Nat) (x : MQueue) : (s.setQueue i x).queues = tset i x s.queues := rfl
@[simp] theorem setQueue_launches (i : Nat) (x : MQueue) : (s.setQueue i x).launches = s.launches := rfl
@[simp] theorem setQueue_blocks (i : Nat) (x : MQueue) : (s.setQueue i x).blocks = s.blocks := rfl
@[simp] theorem setQueue_tasks (i : Nat) (x : MQueue) : (s.setQueue i x).tasks = s.tasks := rfl
@[simp] theorem setQueue_groups (i : Nat) (x : MQueue) : (s.setQueue i x).groups = s.groups := rfl
@[simp] theorem setQueue_barriers (i : Nat) (x : MQueue) : (s.setQueue i x).barriers = s.barriers := rfl
@[simp] theorem setQueue_fwds (i : Nat) (x : MQueue) : (s.setQueue i x).fwds = s.fwds := rfl
@[simp] theorem setQueue_cairns (i : Nat) (x : MQueue) : (s.setQueue i x).cairns = s.cairns := rfl
@[simp] theorem setQueue_copies (i : Nat) (x : MQueue) : (s.setQueue i x).copies = s.copies := rfl
@[simp] theorem setQueue_msgs (i : Nat) (x : MQueue) : (s.setQueue i x).msgs = s.msgs := rfl
@[simp] theorem setQueue_pubs (i : Nat) (x : MQueue) : (s.setQueue i x).pubs = s.pubs := rfl
@[simp] theorem setQueue_wbacks (i : Nat) (x : MQueue) : (s.setQueue i x).wbacks = s.wbacks := rfl
@[simp] theorem setQueue_wins (i : Nat) (x : MQueue) : (s.setQueue i x).wins = s.wins := rfl
@[simp] theorem setQueue_flights (i : Nat) (x : MQueue) : (s.setQueue i x).flights = s.flights := rfl
@[simp] theorem setQueue_rops (i : Nat) (x : MQueue) : (s.setQueue i x).rops = s.rops := rfl
@[simp] theorem setQueue_pods (i : Nat) (x : MQueue) : (s.setQueue i x).pods = s.pods := rfl
@[simp] theorem setQueue_syslog (i : Nat) (x : MQueue) : (s.setQueue i x).syslog = s.syslog := rfl
@[simp] theorem setQueue_host (i : Nat) (x : MQueue) : (s.setQueue i x).host = s.host := rfl

@[simp] theorem setGroup_pkg (i : Nat) (x : Group) (j : Nat) : (s.setGroup i x).pkg j = s.pkg j := rfl
@[simp] theorem setGroup_vf (i : Nat) (x : Group) (j : Nat) : (s.setGroup i x).vf j = s.vf j := rfl
@[simp] theorem setGroup_coreAt (i : Nat) (x : Group) (j : Nat) : (s.setGroup i x).coreAt j = s.coreAt j := rfl
@[simp] theorem setGroup_quad (i : Nat) (x : Group) (j : Nat) : (s.setGroup i x).quad j = s.quad j := rfl
@[simp] theorem setGroup_queue (i : Nat) (x : Group) (j : Nat) : (s.setGroup i x).queue j = s.queue j := rfl
@[simp] theorem modGroup_pkg (i : Nat) (f : Group → Group) (j : Nat) : (s.modGroup i f).pkg j = s.pkg j := rfl
@[simp] theorem modGroup_vf (i : Nat) (f : Group → Group) (j : Nat) : (s.modGroup i f).vf j = s.vf j := rfl
@[simp] theorem modGroup_coreAt (i : Nat) (f : Group → Group) (j : Nat) : (s.modGroup i f).coreAt j = s.coreAt j := rfl
@[simp] theorem modGroup_quad (i : Nat) (f : Group → Group) (j : Nat) : (s.modGroup i f).quad j = s.quad j := rfl
@[simp] theorem modGroup_queue (i : Nat) (f : Group → Group) (j : Nat) : (s.modGroup i f).queue j = s.queue j := rfl
@[simp] theorem setPkg_group (i : Nat) (x : Pkg) (j : Nat) : (s.setPkg i x).group? j = s.group? j := rfl
@[simp] theorem setPkg_vf (i : Nat) (x : Pkg) (j : Nat) : (s.setPkg i x).vf j = s.vf j := rfl
@[simp] theorem setPkg_coreAt (i : Nat) (x : Pkg) (j : Nat) : (s.setPkg i x).coreAt j = s.coreAt j := rfl
@[simp] theorem setPkg_quad (i : Nat) (x : Pkg) (j : Nat) : (s.setPkg i x).quad j = s.quad j := rfl
@[simp] theorem setPkg_queue (i : Nat) (x : Pkg) (j : Nat) : (s.setPkg i x).queue j = s.queue j := rfl
@[simp] theorem setVf_group (i : Nat) (x : Vf) (j : Nat) : (s.setVf i x).group? j = s.group? j := rfl
@[simp] theorem setVf_pkg (i : Nat) (x : Vf) (j : Nat) : (s.setVf i x).pkg j = s.pkg j := rfl
@[simp] theorem setVf_coreAt (i : Nat) (x : Vf) (j : Nat) : (s.setVf i x).coreAt j = s.coreAt j := rfl
@[simp] theorem setVf_quad (i : Nat) (x : Vf) (j : Nat) : (s.setVf i x).quad j = s.quad j := rfl
@[simp] theorem setVf_queue (i : Nat) (x : Vf) (j : Nat) : (s.setVf i x).queue j = s.queue j := rfl
@[simp] theorem setCore_group (i : Nat) (x : Core) (j : Nat) : (s.setCore i x).group? j = s.group? j := rfl
@[simp] theorem setCore_pkg (i : Nat) (x : Core) (j : Nat) : (s.setCore i x).pkg j = s.pkg j := rfl
@[simp] theorem setCore_vf (i : Nat) (x : Core) (j : Nat) : (s.setCore i x).vf j = s.vf j := rfl
@[simp] theorem setCore_quad (i : Nat) (x : Core) (j : Nat) : (s.setCore i x).quad j = s.quad j := rfl
@[simp] theorem setCore_queue (i : Nat) (x : Core) (j : Nat) : (s.setCore i x).queue j = s.queue j := rfl
@[simp] theorem setQuad_group (i : Nat) (x : Quad) (j : Nat) : (s.setQuad i x).group? j = s.group? j := rfl
@[simp] theorem setQuad_pkg (i : Nat) (x : Quad) (j : Nat) : (s.setQuad i x).pkg j = s.pkg j := rfl
@[simp] theorem setQuad_vf (i : Nat) (x : Quad) (j : Nat) : (s.setQuad i x).vf j = s.vf j := rfl
@[simp] theorem setQuad_coreAt (i : Nat) (x : Quad) (j : Nat) : (s.setQuad i x).coreAt j = s.coreAt j := rfl
@[simp] theorem setQuad_queue (i : Nat) (x : Quad) (j : Nat) : (s.setQuad i x).queue j = s.queue j := rfl
@[simp] theorem setQueue_group (i : Nat) (x : MQueue) (j : Nat) : (s.setQueue i x).group? j = s.group? j := rfl
@[simp] theorem setQueue_pkg (i : Nat) (x : MQueue) (j : Nat) : (s.setQueue i x).pkg j = s.pkg j := rfl
@[simp] theorem setQueue_vf (i : Nat) (x : MQueue) (j : Nat) : (s.setQueue i x).vf j = s.vf j := rfl
@[simp] theorem setQueue_coreAt (i : Nat) (x : MQueue) (j : Nat) : (s.setQueue i x).coreAt j = s.coreAt j := rfl
@[simp] theorem setQueue_quad (i : Nat) (x : MQueue) (j : Nat) : (s.setQueue i x).quad j = s.quad j := rfl
@[simp] theorem pkg_setPkg_self (i : Nat) (x : Pkg) : (s.setPkg i x).pkg i = x := tgetD_tset_self i _ x _
theorem pkg_setPkg_ne {i j : Nat} (h : j ≠ i) (x : Pkg) : (s.setPkg i x).pkg j = s.pkg j := tgetD_tset_ne h _ x _
@[simp] theorem vf_setVf_self (i : Nat) (x : Vf) : (s.setVf i x).vf i = x := tgetD_tset_self i _ x _
theorem vf_setVf_ne {i j : Nat} (h : j ≠ i) (x : Vf) : (s.setVf i x).vf j = s.vf j := tgetD_tset_ne h _ x _
@[simp] theorem coreAt_setCore_self (i : Nat) (x : Core) : (s.setCore i x).coreAt i = x := tgetD_tset_self i _ x _
theorem coreAt_setCore_ne {i j : Nat} (h : j ≠ i) (x : Core) : (s.setCore i x).coreAt j = s.coreAt j := tgetD_tset_ne h _ x _
@[simp] theorem quad_setQuad_self (i : Nat) (x : Quad) : (s.setQuad i x).quad i = x := tgetD_tset_self i _ x _
theorem quad_setQuad_ne {i j : Nat} (h : j ≠ i) (x : Quad) : (s.setQuad i x).quad j = s.quad j := tgetD_tset_ne h _ x _
@[simp] theorem queue_setQueue_self (i : Nat) (x : MQueue) : (s.setQueue i x).queue i = x := tgetD_tset_self i _ x _
theorem queue_setQueue_ne {i j : Nat} (h : j ≠ i) (x : MQueue) : (s.setQueue i x).queue j = s.queue j := tgetD_tset_ne h _ x _
@[simp] theorem group_setGroup_self (i : Nat) (x : Group) : (s.setGroup i x).group? i = some x := tget_tset_self i x _
theorem group_setGroup_ne {i j : Nat} (h : j ≠ i) (x : Group) : (s.setGroup i x).group? j = s.group? j := tget_tset_ne h x _
@[simp] theorem group_modGroup_self (i : Nat) (f : Group → Group) : (s.modGroup i f).group? i = (s.group? i).map f := tget_tmod_self i f _
theorem group_modGroup_ne {i j : Nat} (h : j ≠ i) (f : Group → Group) : (s.modGroup i f).group? j = s.group? j := tget_tmod_ne h f _

end State

end Sys2Proof.Machine
end

