-- ==== Sys2Proof/Laws/Ops.lean ====
section
/-! SUPPORT. What the shared operations of an instruction do: issue, completion, register writes and traps. -/

namespace Sys2Proof.Machine

/-- The issuer's view of a ready instruction. -/
def groupCtx (gid k : Nat) (g : Group) (sp : Split) (i : Instr) : Ctx := { who := .group gid k, g := g, pc := sp.pc, len := i.len, mask := sp.mask }

@[simp] theorem groupCtx_who (gid k : Nat) (g : Group) (sp : Split) (i : Instr) : (groupCtx gid k g sp i).who = .group gid k := rfl
@[simp] theorem groupCtx_g (gid k : Nat) (g : Group) (sp : Split) (i : Instr) : (groupCtx gid k g sp i).g = g := rfl
@[simp] theorem groupCtx_pc (gid k : Nat) (g : Group) (sp : Split) (i : Instr) : (groupCtx gid k g sp i).pc = sp.pc := rfl
@[simp] theorem groupCtx_mask (gid k : Nat) (g : Group) (sp : Split) (i : Instr) : (groupCtx gid k g sp i).mask = sp.mask := rfl
@[simp] theorem groupCtx_seq (gid k : Nat) (g : Group) (sp : Split) (i : Instr) : (groupCtx gid k g sp i).seq = false := rfl
@[simp] theorem groupCtx_next (gid k : Nat) (g : Group) (sp : Split) (i : Instr) : (groupCtx gid k g sp i).next = sp.after i := rfl
@[simp] theorem groupCtx_s (gid k : Nat) (g : Group) (sp : Split) (i : Instr) (n : Nat) : (groupCtx gid k g sp i).s n = g.sreg sp n := by
  simp [Ctx.s, Group.sreg]
@[simp] theorem groupCtx_pair (gid k : Nat) (g : Group) (sp : Split) (i : Instr) (n : Nat) : (groupCtx gid k g sp i).pair n = g.spair sp n := by
  simp [Ctx.pair, Group.spair]
@[simp] theorem groupCtx_b (gid k : Nat) (g : Group) (sp : Split) (i : Instr) (b : SSrc) : (groupCtx gid k g sp i).b b = g.opB sp b := by
  cases b <;> simp [Ctx.b, Group.opB]
@[simp] theorem groupCtx_b64 (gid k : Nat) (g : Group) (sp : Split) (i : Instr) (b : SSrc) :
    (groupCtx gid k g sp i).b64 b = g.opB64 sp b := by
  cases b <;> simp [Ctx.b64, Group.opB64]
@[simp] theorem groupCtx_ftz (gid k : Nat) (g : Group) (sp : Split) (i : Instr) : (groupCtx gid k g sp i).ftz = g.gmode.getLsbD 0 := rfl

theorem groupCtx_src (gid k : Nat) (g : Group) (sp : Split) (i : Instr) (s : State) (x : VSrc) (n : Nat) :
    ((groupCtx gid k g sp i).src s x).lane n = s.srcLane g x n := by
  cases x <;> simp [Ctx.src, State.srcLane, VReg.lane]

/-- The issuer's view of a split that issues. -/
theorem Issues.ctx {s : State} {gid k : Nat} {g : Group} {sp : Split} (h : Issues s gid k g sp) (i : Instr) :
    s.ctx i.len = some (groupCtx gid k g sp i) := by
  simp only [State.ctx, h.cur, h.group, h.split, h.unheld, groupCtx, Option.map_some]
  cases sp.wait <;> rfl

theorem portReady_val {s : State} {g : Group} {p : Nat} (h : s.portReady g p = true) :
    (s.portVal g p).isNone = false ∧ (s.portDecl g p).isNone = false ∧ ∀ l, s.portVal g p ≠ some (.poisoned l) := by
  unfold State.portReady at h
  have hd : s.portDecl g p = none → s.portVal g p = none := by
    intro e; unfold State.portVal; rw [e]; split <;> simp_all
  cases e : s.portVal g p with
  | none => simp [e] at h
  | some v =>
    refine ⟨rfl, ?_, fun l hl => ?_⟩
    · cases f : s.portDecl g p with
      | none => simp [hd f] at e
      | some _ => rfl
    · rw [e] at h; cases v <;> simp_all

/-- The common checks find nothing in the way of an instruction that is ready. -/
theorem groupCheck_none {s : State} {gid k : Nat} {g : Group} {sp : Split} {i : Instr} (h : s.operable g k i = true)
    (he : isEngine i = false) : groupCheck s (groupCtx gid k g sp i) i = none := by
  simp only [State.operable, Bool.and_eq_true, List.all_eq_true, decide_eq_true_eq] at h
  obtain ⟨⟨⟨hw, hf⟩, hb⟩, hp⟩ := h
  have p1 : (vPorts i).any (fun p => (s.portDecl g p).isNone) = false := by
    simp only [List.any_eq_false]; intro p m; simp [(portReady_val (hp p m)).2.1]
  have p2 : (vPorts i).any (fun p => (s.portVal g p).isNone) = false := by
    simp only [List.any_eq_false]; intro p m; simp [(portReady_val (hp p m)).1]
  have p3 : (vPorts i).find? (fun p => match s.portVal g p with | some (.poisoned _) => true | _ => false) = none := by
    rw [List.find?_eq_none]
    intro p m c
    have := (portReady_val (hp p m)).2.2
    split at c
    · next l hl => exact this l hl
    · cases c
  have f1 : (vFields i).any (fun n => decide (g.count ≤ n)) = false := by
    simp only [List.any_eq_false, decide_eq_true_eq]; intro n m; have := hf n m; omega
  have b1 : (Machine.uses s g k i).any (g.pending k).contains = false := by simpa using hb
  have c2 : ¬ ((!i.wf || (vFields i).any (fun n => decide (g.count ≤ n)) || (vPorts i).any fun p => (s.portDecl g p).isNone) = true) := by
    simp only [hw, f1, p1]; decide
  refine (if_neg (by rw [he]; decide)).trans ((if_neg c2).trans ((if_neg (by simp [groupCtx])).trans ((if_neg ?_).trans ((if_neg ?_).trans ?_))))
  · exact fun c => absurd (b1.symm.trans c) (by decide)
  · exact fun c => absurd (p2.symm.trans c) (by decide)
  · split
    · next p hp => exact absurd (p3.symm.trans hp) (by simp)
    · rfl

/-- A ready instruction runs its own meaning. -/
theorem issue_ready {s : State} {gid k : Nat} {g : Group} {sp : Split} {i : Instr} (h : Ready s gid k g sp i) (he : isEngine i = false)
    (body : Ctx → State → Act) :
    issue i s body = (groupCtx gid k g sp i).settle i s (body (groupCtx gid k g sp i) s) := by
  simp only [issue, h.issues.ctx i]
  rw [show s.check (groupCtx gid k g sp i) i = groupCheck s (groupCtx gid k g sp i) i from rfl, groupCheck_none h.operable he]
  rfl

theorem OnlyGroup.refl {s : State} {gid : Nat} {g : Group} (h : s.group? gid = some g) : OnlyGroup s s gid g := ⟨rfl, h, fun _ _ => rfl⟩

theorem OnlyGroup.setGroup {s t : State} {gid : Nat} {g : Group} (h : OnlyGroup s t gid g) (x : Group) : OnlyGroup s (t.setGroup gid x) gid x where
  rest := by rw [h.rest]; rfl
  group := by simp
  others j hj := by rw [State.group_setGroup_ne _ hj]; exact h.others j hj

theorem OnlyGroup.modGroup {s t : State} {gid : Nat} {g : Group} (h : OnlyGroup s t gid g) (f : Group → Group) :
    OnlyGroup s (t.modGroup gid f) gid (f g) where
  rest := by rw [h.rest]; rfl
  group := by simp [h.group]
  others j hj := by rw [State.group_modGroup_ne _ hj]; exact h.others j hj

theorem OnlyGroup.now {s t : State} {gid : Nat} {g : Group} (h : OnlyGroup s t gid g) : t.now = s.now := by rw [h.rest]

@[simp] theorem Group.setS_trap (g : Group) (k n : Nat) (x : Word) : (g.setS k n x).trap = g.trap := by unfold Group.setS; split <;> rfl
@[simp] theorem Group.setS_dbg (g : Group) (k n : Nat) (x : Word) : (g.setS k n x).dbg = g.dbg := by unfold Group.setS; split <;> rfl
@[simp] theorem Group.setS_stepped (g : Group) (k n : Nat) (x : Word) : (g.setS k n x).stepped k = g.stepped k := by
  simp [Group.stepped]

theorem Group.setS_split {g : Group} {k : Nat} {sp : Split} (h : tget k g.splits = some sp) (n : Nat) (x : Word) :
    ∃ sp', tget k (g.setS k n x).splits = some sp' := by
  unfold Group.setS; split
  · exact ⟨sp, h⟩
  · exact ⟨_, by simp [h]; rfl⟩

/-- No STEP is due in the group. -/
def Group.noStep (g : Group) : Prop := ∀ p ∈ g.splits, p.2.due = none

theorem Group.noStep_setS {g : Group} (h : g.noStep) (k n : Nat) (x : Word) : (g.setS k n x).noStep := by
  unfold Group.setS; split
  · exact h
  · intro p hp
    simp only [tmod, List.mem_map] at hp
    obtain ⟨q, hq, rfl⟩ := hp
    split <;> exact h q hq

/-- Nothing is due after a split that is not stepped has completed. -/
theorem Group.noStep_complete {g : Group} {k : Nat} (h : g.noStep) (hf : g.stepped k = false) (own pc : Word) (now : Nat) :
    (g.complete k own pc now).noStep := by
  intro p hp
  simp only [Group.complete, hf, tmod, List.mem_map] at hp
  obtain ⟨q, hq, rfl⟩ := hp
  split
  · rfl
  · exact h q hq

theorem stepDue_none {t : State} {gid : Nat} {g : Group} (h : t.group? gid = some g) (hq : g.noStep) : t.stepDue gid = t := by
  have : g.dues t.nextId = [] := by
    simp only [Group.dues, List.filterMap_eq_nil_iff]; intro p hp; simp [hq p hp]
  simp [State.stepDue, h, this, leastBy]

/-- A split that is not stepped goes on: nothing but its group changes. -/
theorem finish_only {s t : State} {gid k : Nat} {g : Group} {sp : Split} (h : OnlyGroup s t gid g) (hs : tget k g.splits = some sp)
    (hf : g.stepped k = false) (hq : g.noStep) (pc : Word) (since : Nat) :
    OnlyGroup s (t.finishAt gid k pc since) gid (g.complete k sp.pc pc since) := by
  have e : t.finishAt gid k pc since = t.modGroup gid fun g => g.complete k sp.pc pc since := by
    simp only [State.finishAt, State.finishFrom, h.group, Option.bind_some, hs]
    exact stepDue_none (g := g.complete k sp.pc pc since) (by simp [h.group]) (Group.noStep_complete hq hf _ _ _)
  rw [e]
  exact h.modGroup _

/-- The operand cache of a group after an instruction that is no vector instruction and writes no vector register (R77). -/
theorem Group.keeps_scalar {i : Instr} (hv : isVector i = false) (hd : vDests i = []) (g : Group) : g.keeps i = g := by
  have : g.cache.filter (fun _ => true) = g.cache := by simp
  simp [Group.keeps, hv, hd, this]

/-- The operand cache of a group after an L-set instruction (R77). -/
theorem Group.keeps_vector {i : Instr} (hv : isVector i = true) (g : Group) : g.keeps i = { g with cache := cacheAfter i (vDests i) } := by
  simp [Group.keeps, hv]

/-- Completion at `pc`. -/
theorem settle_goto' {s t : State} {gid k : Nat} {g g' : Group} {sp sp' : Split} {i : Instr} (h : OnlyGroup s t gid g')
    (hs : tget k g'.splits = some sp') (hf : g'.stepped k = false) (hq : g'.noStep) (pc : Word) :
    ∃ u, (groupCtx gid k g sp i).settle i s (.goto t pc) = .next u ∧ OnlyGroup s u gid ((g'.keeps i).goesOn k pc s.now) := by
  refine ⟨_, rfl, ?_⟩
  have h2 := h.modGroup fun g => { g.keeps i with splits := tmod k (fun sp => { sp with exempt := false, stamp := 0 }) g.splits }
  have hq2 : Group.noStep { g'.keeps i with splits := tmod k (fun sp => { sp with exempt := false, stamp := 0 }) g'.splits } := by
    intro p hp
    simp only [tmod, List.mem_map] at hp
    obtain ⟨q, hq', rfl⟩ := hp
    split <;> exact hq q hq'
  have h3 := finish_only h2 (k := k) (sp := { sp' with exempt := false, stamp := 0 }) (by simp [hs]) hf hq2 pc (s.now + 1)
  have e : ∀ o n, Group.complete { g'.keeps i with splits := tmod k (fun sp => { sp with exempt := false, stamp := 0 }) g'.splits } k o pc (n + 1)
      = (g'.keeps i).goesOn k pc n := by
    intro o n
    have : ∀ l, Group.stepped { g'.keeps i with splits := l } k = g'.stepped k := fun _ => rfl
    simp only [Group.complete, Group.goesOn, this, hf, tmod_tmod, Split.rest, Bool.false_eq_true, if_false]
    rfl
  rw [e] at h3
  simp only [Ctx.finish, groupCtx_who, show (groupCtx gid k g sp i).held = none from rfl, Option.isSome_none, Bool.and_false, Bool.false_eq_true,
    if_false]
  simp only [State.modGroup_now, h.now]
  exact h3

/-- Completion at `pc` of an instruction that writes no vector register. -/
theorem settle_goto {s t : State} {gid k : Nat} {g g' : Group} {sp sp' : Split} {i : Instr} (hv : isVector i = false) (hd : vDests i = [])
    (h : OnlyGroup s t gid g') (hs : tget k g'.splits = some sp') (hf : g'.stepped k = false) (hq : g'.noStep) (pc : Word) :
    ∃ u, (groupCtx gid k g sp i).settle i s (.goto t pc) = .next u ∧ OnlyGroup s u gid (g'.goesOn k pc s.now) := by
  have := settle_goto' (g := g) (sp := sp) (i := i) h hs hf hq pc
  rwa [Group.keeps_scalar hv hd] at this

theorem settle_done {s t : State} {gid k : Nat} {g g' : Group} {sp sp' : Split} {i : Instr} (hv : isVector i = false) (hd : vDests i = [])
    (h : OnlyGroup s t gid g') (hs : tget k g'.splits = some sp') (hf : g'.stepped k = false) (hq : g'.noStep) :
    ∃ u, (groupCtx gid k g sp i).settle i s (.done t) = .next u ∧ OnlyGroup s u gid (g'.goesOn k (sp.after i) s.now) :=
  settle_goto hv hd h hs hf hq _

/-- Completion of an L-set instruction: its keep bits decide what the operand cache holds (R77). -/
theorem settle_doneV {s t : State} {gid k : Nat} {g g' : Group} {sp sp' : Split} {i : Instr} (hv : isVector i = true)
    (h : OnlyGroup s t gid g') (hs : tget k g'.splits = some sp') (hf : g'.stepped k = false) (hq : g'.noStep) :
    ∃ u, (groupCtx gid k g sp i).settle i s (.done t) = .next u
      ∧ OnlyGroup s u gid ({ g' with cache := cacheAfter i (vDests i) }.goesOn k (sp.after i) s.now) := by
  have := settle_goto' (g := g) (sp := sp) (i := i) h hs hf hq (sp.after i)
  rwa [Group.keeps_vector hv] at this

/-- One scalar register written. -/
theorem setS_only {s t : State} {gid k : Nat} {g g' : Group} {sp : Split} {i : Instr} (h : OnlyGroup s t gid g') (n : Nat) (x : Word) :
    OnlyGroup s ((groupCtx gid k g sp i).setS n x t) gid (g'.setS k n x) := h.modGroup _

theorem setPair_only {s t : State} {gid k : Nat} {g g' : Group} {sp : Split} {i : Instr} (h : OnlyGroup s t gid g') (n : Nat) (x : DWord) :
    OnlyGroup s ((groupCtx gid k g sp i).setPair n x t) gid (g'.setPair k n x) := setS_only (setS_only h _ _) _ _

/-- An instruction outside the L-set that writes one scalar register completes. -/
theorem completes_setS {s : State} {gid k : Nat} {g : Group} {sp : Split} {i : Instr} (h : Ready s gid k g sp i) (he : isEngine i = false)
    (hv : isVector i = false) (hd : vDests i = []) {body : Ctx → State → Act} (n : Nat) (x : Word)
    (hb : body (groupCtx gid k g sp i) s = .done ((groupCtx gid k g sp i).setS n x s)) :
    ∃ u, issue i s body = .next u ∧ OnlyGroup s u gid ((g.setS k n x).goesOn k (sp.after i) s.now) := by
  rw [issue_ready h he, hb]
  obtain ⟨sp', hs⟩ := Group.setS_split h.issues.split n x
  exact settle_done hv hd (setS_only (.refl h.issues.group) n x) hs (by rw [Group.setS_stepped]; exact h.free)
    (Group.noStep_setS h.quiet k n x)

theorem completes_setPair {s : State} {gid k : Nat} {g : Group} {sp : Split} {i : Instr} (h : Ready s gid k g sp i) (he : isEngine i = false)
    (hv : isVector i = false) (hd : vDests i = []) {body : Ctx → State → Act} (n : Nat) (x : DWord)
    (hb : body (groupCtx gid k g sp i) s = .done ((groupCtx gid k g sp i).setPair n x s)) :
    ∃ u, issue i s body = .next u ∧ OnlyGroup s u gid ((g.setPair k n x).goesOn k (sp.after i) s.now) := by
  rw [issue_ready h he, hb]
  obtain ⟨sp', hs⟩ := Group.setS_split h.issues.split n (loWord x)
  obtain ⟨sp2, hs2⟩ := Group.setS_split hs (n + 1) (hiWord x)
  exact settle_done hv hd (setPair_only (.refl h.issues.group) n x) hs2 (by simp only [Group.setPair, Group.setS_stepped]; exact h.free)
    (Group.noStep_setS (Group.noStep_setS h.quiet k n _) k (n + 1) _)

/-- A trap of a ready instruction. -/
theorem settle_trap {s : State} {gid k : Nat} {g : Group} {sp : Split} {i : Instr} (cause lane : Nat) (addr : DWord) (code : Word) :
    (groupCtx gid k g sp i).settle i s (.trap cause lane addr code)
      = .next (s.raise gid { cause := cause, split := k, lane := lane, addr := addr, code := code, pc := sp.pc } sp.pc) := rfl

/-- A write of one vector register within the budget. -/
theorem writeV_done {s : State} {gid k : Nat} {g : Group} {sp : Split} {i : Instr} (vd : Nat) (r : VReg)
    (h : generalCount (g.claimed.set vd r) ≤ g.budget) :
    (groupCtx gid k g sp i).writeV [(vd, r)] s = .done (s.modGroup gid fun g => { g with vregs := g.vregs.set vd r }) := by
  simp [Ctx.writeV, Ctx.over, Ctx.putV, setRegs, show ¬ g.budget < generalCount (g.claimed.set vd r) by omega]

theorem generalCount_le_set (l : List VReg) (n : Nat) (r : VReg) : generalCount (l.set n r) ≤ generalCount (l.set n (.g [])) := by
  simp only [generalCount]
  induction l generalizing n with
  | nil => simp
  | cons x l ih =>
    cases n with
    | zero =>
      simp only [List.set_cons_zero, List.filter_cons]
      split <;> simp [VReg.tag]
    | succ n =>
      simp only [List.set_cons_succ, List.filter_cons]
      split <;> simp [ih n]

/-- An L-set instruction that writes vd completes where the budget has room. -/
theorem completes_writeV {s : State} {gid k : Nat} {g : Group} {sp : Split} {i : Instr} (h : Ready s gid k g sp i) (he : isEngine i = false)
    (hv : isVector i = true) {body : Ctx → State → Act} (vd : Nat) (r : VReg) (hr : g.room vd = true)
    (hb : body (groupCtx gid k g sp i) s = (groupCtx gid k g sp i).writeV [(vd, r)] s) :
    ∃ u, issue i s body = .next u ∧ OnlyGroup s u gid
      ({ g with vregs := g.vregs.set vd r, cache := cacheAfter i (vDests i) }.goesOn k (sp.after i) s.now) := by
  have hr : generalCount (g.claimed.set vd r) ≤ g.budget := Nat.le_trans (generalCount_le_set _ _ _) (by simpa [Group.room] using hr)
  rw [issue_ready h he, hb, writeV_done vd r hr]
  exact settle_doneV hv ((OnlyGroup.refl h.issues.group).modGroup fun g => { g with vregs := g.vregs.set vd r }) h.issues.split h.free
    h.quiet

theorem getD_map_lanes (f : Nat → Word) {n : Nat} (h : n < 96) : (lanes.map f).getD n 0 = f n := by
  simp [lanes, List.getD_eq_getElem?_getD, List.getElem?_map, List.getElem?_range (by simpa using h)]

theorem laneOn_full (n : Nat) (h : n < 96) : laneOn fullMask n = true := by
  simp only [laneOn, fullMask, BitVec.getLsbD_allOnes]; simpa using h

end Sys2Proof.Machine
end

