-- ==== Sys2Proof/Laws/PerInstr.lean ====
section
/-! SUPPORT. The family Encoding: what holds of the words of every instruction, one lemma for each constructor (R86, R90, R92). -/

namespace Sys2Proof.Laws.Encoding

/-- At most two words, each of 32 bits. -/
def Words (l : List Nat) : Prop := l.length ≤ 2 ∧ ∀ w ∈ l, w < 2 ^ 32

/-- An instruction is its first word and at most one trailing word, of 32 bits each (R86). -/
def Statement (i : Instr) : Prop := Words (encode i)

theorem words_nil : Words [] := by simp [Words]
theorem words_one {a : Nat} (h : a < 2 ^ 32) : Words [a] := by simpa [Words] using h
theorem words_two {a b : Nat} (h : a < 2 ^ 32) (k : b < 2 ^ 32) : Words [a, b] := by simp only [Words]; simp; omega
theorem words_lit {a : Nat} (h : a < 2 ^ 32) (w : Word) : Words [a, w.toNat] := words_two h w.isLt

theorem boolCode_lt (b : Bool) : boolCode b < 2 := by cases b <;> decide
theorem vsrc_lt (x : VSrc) : x.code < 128 := by
  cases x with
  | reg n => exact n.isLt
  | port p => have := p.isLt; simp only [VSrc.code]; omega
  | zero | lane | lit _ => simp [VSrc.code]
theorem ssrc_lt (x : SSrc) : x.code < 128 := by
  cases x with
  | reg n => exact n.isLt
  | lit _ => simp [SSrc.code]
theorem isLit_lt (x : SSrc) : x.isLit < 2 := by cases x <;> simp [SSrc.isLit]
theorem elemTy_lt (x : ElemTy) : x.code < 4 := by cases x <;> decide
theorem cond_lt (x : Cond) : x.code < 8 := by cases x <;> decide
theorem fCond_lt (x : FCond) : x.code < 8 := by cases x <;> decide
theorem signPat_lt (x : SignPat) : x.code < 4 := by cases x <;> decide
theorem tagFn_lt (x : TagFn) : x.code < 4 := by cases x <;> decide
theorem voteFn_lt (x : VoteFn) : x.code < 4 := by cases x <;> decide
theorem fmt_lt (x : Fmt) : x.code < 16 := by cases x <;> decide
theorem rm_lt (x : Rm) : x.code < 4 := by cases x <;> decide
theorem shflMode_lt (x : ShflMode) : x.code < 8 := by cases x <;> decide
theorem redOp_lt (x : RedOp) : x.code < 16 := by cases x <;> decide
theorem aop_lt (x : Aop) : x.code < 16 := by cases x <;> decide
theorem ord4_lt (x : Ord4) : x.code < 4 := by cases x <;> decide
theorem scope_lt (x : Scope) : x.code < 8 := by cases x <;> decide
theorem width_lt (x : Width) : x.code < 4 := by cases x <;> decide
theorem bccCond_lt (x : BccCond) : x.code < 4 := by cases x <;> decide
theorem counter_lt (x : Counter) : x.code < 3 := by cases x <;> decide
theorem sCond_lt (x : SCond) : x.code < 8 := by cases x <;> decide
theorem barLevel_lt (x : BarLevel) : x.code < 8 := by cases x <;> decide
theorem cpyKind_lt (x : CpyKind) : x.code < 3 := by cases x <;> decide
theorem cpyTr_lt (x : CpyTr) : x.code < 4 := by cases x <;> decide
theorem life_lt (x : Life) : x.code < 4 := by cases x <;> decide
theorem wFmt_lt (x : WFmt) : x.code < 4 := by cases x <;> decide
theorem dFmt_lt (x : DFmt) : x.code < 4 := by cases x <;> decide
theorem yieldCode_lt (x : Option Counter) : yieldCode x < 4 := by
  cases x with
  | none => decide
  | some c => have := counter_lt c; simp only [yieldCode]; omega

theorem encLR_lt {op fn vd va vb : Nat} (ka kb : Bool) (h : op < 64) (hf : fn < 4) (hd : vd < 128) (ha : va < 128) (hb : vb < 128) :
    encLR op fn ka kb vd va vb < 2 ^ 32 := by
  have := boolCode_lt ka
  have := boolCode_lt kb
  simp only [encLR]; omega

theorem encLM_lt {op : Nat} (o : LmOp) (h : op < 64) : encLM op o < 2 ^ 32 := by
  have := width_lt o.width
  have := o.vd.isLt
  have := vsrc_lt o.off
  have := o.pair.isLt
  have := boolCode_lt o.sx
  have := o.policy.isLt
  simp only [encLM]; omega

theorem encUR_lt {op l sub sd sa sb : Nat} (h : op < 64) (hl : l < 2) (hs : sub < 8) (hd : sd < 128) (ha : sa < 128) (hb : sb < 128) :
    encUR op l sub sd sa sb < 2 ^ 32 := by simp only [encUR]; omega

theorem encUM_lt {op : Nat} (o : UmOp) (h : op < 64) : encUM op o < 2 ^ 32 := by
  have := o.sd.isLt
  have := o.pair.isLt
  have := ord4_lt o.ord
  have := scope_lt o.scope
  have := o.off.isLt
  simp only [encUM]; omega

theorem encUB_lt {op sa cc off : Nat} (h : op < 64) (ha : sa < 128) (hc : cc < 4) (ho : off < 2 ^ 16) : encUB op sa cc off < 2 ^ 32 := by
  simp only [encUB]; omega

theorem encUJ_lt {op code : Nat} (h : op < 64) (hc : code < 2 ^ 25) : encUJ op code < 2 ^ 32 := by simp only [encUJ]; omega

theorem encRow_lt (m a : BitVec 10) {low : Nat} (h : low < 2 ^ 12) : encRow m a low < 2 ^ 32 := by
  have := m.isLt
  have := a.isLt
  simp only [encRow]; omega

theorem encBin_ok {op fn : Nat} (o : VBin) (h : op < 64) (hf : fn < 4) : Words (encBin op fn o) := by
  have := encLR_lt o.keepA o.keepB h hf o.vd.isLt (vsrc_lt o.a) (vsrc_lt o.b)
  unfold encBin
  cases ha : o.a <;> cases hb : o.b <;> simp only [VSrc.litWord, ha, hb] at * <;> first | exact words_one this | exact words_lit this _

theorem encUn_ok {op fn : Nat} (o : VUn) (h : op < 64) (hf : fn < 4) : Words (encUn op fn o) := by
  have := encLR_lt (vb := 124) o.keepA o.keepB h hf o.vd.isLt (vsrc_lt o.a) (by decide)
  unfold encUn
  cases ha : o.a <;> simp only [VSrc.litWord, ha] at * <;> first | exact words_one this | exact words_lit this _

theorem encBinX_ok {op fn cw : Nat} (o : VBin) (h : op < 64) (hf : fn < 4) (hc : cw < 2 ^ 32) : Words (encBinX op fn o cw) :=
  words_two (encLR_lt o.keepA o.keepB h hf o.vd.isLt (vsrc_lt o.a) (vsrc_lt o.b)) hc

theorem encUnX_ok {op fn cw : Nat} (o : VUn) (h : op < 64) (hf : fn < 4) (hc : cw < 2 ^ 32) : Words (encUnX op fn o cw) :=
  words_two (encLR_lt o.keepA o.keepB h hf o.vd.isLt (vsrc_lt o.a) (by decide)) hc

theorem encS_ok {op sub : Nat} (sd sa : Reg) (b : SSrc) (h : op < 64) (hs : sub < 8) : Words (encS op sub sd sa b) := by
  have := encUR_lt h (isLit_lt b) hs sd.isLt sa.isLt (ssrc_lt b)
  unfold encS
  cases b <;> first | exact words_one this | exact words_lit this _

theorem vadd (t : ElemTy) (o : VBin) : Statement (.vadd t o) := encBin_ok o (by decide) (by have := elemTy_lt t; omega)
theorem vsub (t : ElemTy) (o : VBin) : Statement (.vsub t o) := encBin_ok o (by decide) (by have := elemTy_lt t; omega)
theorem vmul (t : ElemTy) (o : VBin) : Statement (.vmul t o) := encBin_ok o (by decide) (by have := elemTy_lt t; omega)
theorem vmulh (n : Bool) (o : VBin) : Statement (.vmulh n o) := encBin_ok o (by decide) (by have := boolCode_lt n; omega)
theorem vmad (t : ElemTy) (o : VBin) : Statement (.vmad t o) := encBin_ok o (by decide) (by have := elemTy_lt t; omega)
theorem vmin (t : ElemTy) (n : Bool) (o : VBin) : Statement (.vmin t n o) :=
  encBinX_ok o (by decide) (by have := elemTy_lt t; omega) (by have := boolCode_lt n; omega)
theorem vmax (t : ElemTy) (n : Bool) (o : VBin) : Statement (.vmax t n o) :=
  encBinX_ok o (by decide) (by have := elemTy_lt t; omega) (by have := boolCode_lt n; omega)
theorem vabs (t : ElemTy) (o : VUn) : Statement (.vabs t o) := encUn_ok o (by decide) (by have := elemTy_lt t; omega)
theorem vand (o : VBin) : Statement (.vand o) := encBin_ok o (by decide) (by decide)
theorem vor (o : VBin) : Statement (.vor o) := encBin_ok o (by decide) (by decide)
theorem vxor (o : VBin) : Statement (.vxor o) := encBin_ok o (by decide) (by decide)
theorem vshl (t : ElemTy) (o : VBin) : Statement (.vshl t o) := encBin_ok o (by decide) (by have := elemTy_lt t; omega)
theorem vshr (t : ElemTy) (o : VBin) : Statement (.vshr t o) := encBin_ok o (by decide) (by have := elemTy_lt t; omega)
theorem vsar (t : ElemTy) (o : VBin) : Statement (.vsar t o) := encBin_ok o (by decide) (by have := elemTy_lt t; omega)
theorem vclz (t : ElemTy) (o : VUn) : Statement (.vclz t o) := encUn_ok o (by decide) (by have := elemTy_lt t; omega)
theorem vpopc (t : ElemTy) (o : VUn) : Statement (.vpopc t o) := encUn_ok o (by decide) (by have := elemTy_lt t; omega)
theorem vbfx (sx : Bool) (o : VBin) : Statement (.vbfx sx o) := encBin_ok o (by decide) (by have := boolCode_lt sx; omega)
theorem vbfi (o : VBin) : Statement (.vbfi o) := encBin_ok o (by decide) (by decide)
theorem vcmp (c : Cond) (t : ElemTy) (n : Bool) (o : VBin) : Statement (.vcmp c t n o) :=
  encBinX_ok o (by decide) (by have := elemTy_lt t; omega) (by have := cond_lt c; have := boolCode_lt n; omega)
theorem vsel (m : Reg) (o : VBin) : Statement (.vsel m o) := encBinX_ok o (by decide) (by decide) (by have := m.isLt; omega)
theorem vmov (o : VUn) : Statement (.vmov o) := encUn_ok o (by decide) (by decide)
theorem vbcast (ka : Bool) (kb : Bool) (vd : Reg) (sa : Reg) : Statement (.vbcast ka kb vd sa) :=
  words_one (encLR_lt ka kb (by decide) (by decide) (by have := vd.isLt; omega) (by have := sa.isLt; omega) (by decide))
theorem vtag (f : TagFn) (o : VUn) : Statement (.vtag f o) := encUn_ok o (by decide) (by have := tagFn_lt f; omega)
theorem vfadd (o : VBin) : Statement (.vfadd o) := encBin_ok o (by decide) (by decide)
theorem vfsub (o : VBin) : Statement (.vfsub o) := encBin_ok o (by decide) (by decide)
theorem vfmul (o : VBin) : Statement (.vfmul o) := encBin_ok o (by decide) (by decide)
theorem vfma (p : SignPat) (o : VBin) : Statement (.vfma p o) := encBin_ok o (by decide) (by have := signPat_lt p; omega)
theorem vfmin (o : VBin) : Statement (.vfmin o) := encBin_ok o (by decide) (by decide)
theorem vfmax (o : VBin) : Statement (.vfmax o) := encBin_ok o (by decide) (by decide)
theorem vfcmp (c : FCond) (o : VBin) : Statement (.vfcmp c o) := encBinX_ok o (by decide) (by decide) (by have := fCond_lt c; omega)
theorem vfrcp (o : VUn) : Statement (.vfrcp o) := encUn_ok o (by decide) (by decide)
theorem vfrsq (o : VUn) : Statement (.vfrsq o) := encUn_ok o (by decide) (by decide)
theorem vfex2 (o : VUn) : Statement (.vfex2 o) := encUn_ok o (by decide) (by decide)
theorem vflg2 (o : VUn) : Statement (.vflg2 o) := encUn_ok o (by decide) (by decide)
theorem vcvt (e : BitVec 2) (scl : Bool) (ns : Bool) (rm : Rm) (dst : Fmt) (src : Fmt) (o : VBin) : Statement (.vcvt e scl ns rm dst src o) :=
  encBinX_ok o (by decide) (by decide) (by have := rm_lt rm; have := fmt_lt dst; have := fmt_lt src; have := boolCode_lt scl; have := boolCode_lt ns; have := e.isLt; omega)
theorem vpack (ns : Bool) (rm : Rm) (dst : Fmt) (o : VBin) : Statement (.vpack ns rm dst o) :=
  encBinX_ok o (by decide) (by decide) (by have := rm_lt rm; have := fmt_lt dst; have := boolCode_lt ns; omega)
theorem vunpk (p : BitVec 2) (src : Fmt) (o : VUn) : Statement (.vunpk p src o) := encUnX_ok o (by decide) (by decide) (by have := fmt_lt src; have := p.isLt; omega)
theorem vbperm (hi : Bool) (o : VBin) : Statement (.vbperm hi o) := encBinX_ok o (by decide) (by decide) (by have := boolCode_lt hi; omega)
theorem vshfl (m : ShflMode) (d : Reg) (o : VBin) : Statement (.vshfl m d o) := encBinX_ok o (by decide) (by decide) (by have := shflMode_lt m; have := d.isLt; omega)
theorem vscan (op : RedOp) (t : ElemTy) (n : Bool) (x : Bool) (o : VUn) : Statement (.vscan op t n x o) :=
  encUnX_ok o (by decide) (by have := elemTy_lt t; omega) (by have := redOp_lt op; have := boolCode_lt n; have := boolCode_lt x; omega)
theorem vred (op : RedOp) (t : ElemTy) (n : Bool) (o : VUn) : Statement (.vred op t n o) :=
  encUnX_ok o (by decide) (by have := elemTy_lt t; omega) (by have := redOp_lt op; have := boolCode_lt n; omega)
theorem vvote (f : VoteFn) (o : VUn) : Statement (.vvote f o) := encUn_ok o (by decide) (by have := voteFn_lt f; omega)
theorem vld (o : LmOp) : Statement (.vld o) := words_one (encLM_lt o (by decide))
theorem vst (o : LmOp) : Statement (.vst o) := words_one (encLM_lt o (by decide))
theorem vlds (o : LmOp) : Statement (.vlds o) := words_one (encLM_lt o (by decide))
theorem vsts (o : LmOp) : Statement (.vsts o) := words_one (encLM_lt o (by decide))
theorem vatom (o : VAtomOp) : Statement (.vatom o) :=
  words_two (encLR_lt o.keepA o.keepB (by decide) (by split <;> decide) (by have := o.vd.isLt; omega) (by have := vsrc_lt o.off; omega) (by have := vsrc_lt o.data; omega)) (by have := aop_lt o.aop; have := ord4_lt o.ord; have := scope_lt o.scope; have := boolCode_lt o.ret; have := boolCode_lt o.rsp; have := o.base.isLt; have := o.cmpv.isLt; omega)
theorem sadd (o : SOp) : Statement (.sadd o) := encS_ok o.sd o.sa o.b (by decide) (by have := boolCode_lt o.w64; omega)
theorem ssub (o : SOp) : Statement (.ssub o) := encS_ok o.sd o.sa o.b (by decide) (by have := boolCode_lt o.w64; omega)
theorem smul (o : SOp) : Statement (.smul o) := encS_ok o.sd o.sa o.b (by decide) (by have := boolCode_lt o.w64; omega)
theorem smulh (n : Bool) (o : SOp) : Statement (.smulh n o) := encS_ok o.sd o.sa o.b (by decide) (by have := boolCode_lt n; have := boolCode_lt o.w64; omega)
theorem sand (o : SOp) : Statement (.sand o) := encS_ok o.sd o.sa o.b (by decide) (by have := boolCode_lt o.w64; omega)
theorem sor (o : SOp) : Statement (.sor o) := encS_ok o.sd o.sa o.b (by decide) (by have := boolCode_lt o.w64; omega)
theorem sxor (o : SOp) : Statement (.sxor o) := encS_ok o.sd o.sa o.b (by decide) (by have := boolCode_lt o.w64; omega)
theorem sshl (o : SOp) : Statement (.sshl o) := encS_ok o.sd o.sa o.b (by decide) (by have := boolCode_lt o.w64; omega)
theorem sshr (o : SOp) : Statement (.sshr o) := encS_ok o.sd o.sa o.b (by decide) (by have := boolCode_lt o.w64; omega)
theorem ssar (o : SOp) : Statement (.ssar o) := encS_ok o.sd o.sa o.b (by decide) (by have := boolCode_lt o.w64; omega)
theorem smin (n : Bool) (o : SOp) : Statement (.smin n o) := encS_ok o.sd o.sa o.b (by decide) (by have := boolCode_lt n; have := boolCode_lt o.w64; omega)
theorem smax (n : Bool) (o : SOp) : Statement (.smax n o) := encS_ok o.sd o.sa o.b (by decide) (by have := boolCode_lt n; have := boolCode_lt o.w64; omega)
theorem scmp (c : SCond) (sd : Reg) (sa : Reg) (b : SSrc) : Statement (.scmp c sd sa b) := encS_ok sd sa b (by decide) (by have := sCond_lt c; omega)
theorem ssel (o : SOp) : Statement (.ssel o) := encS_ok o.sd o.sa o.b (by decide) (by have := boolCode_lt o.w64; omega)
theorem smov (w : Bool) (sd : Reg) (b : SSrc) : Statement (.smov w sd b) := encS_ok sd 0 b (by decide) (by have := boolCode_lt w; omega)
theorem smovi (sd : Reg) (imm : BitVec 18) : Statement (.smovi sd imm) := words_one (by have := sd.isLt; have := imm.isLt; omega)
theorem sclz (w : Bool) (sd : Reg) (sa : Reg) : Statement (.sclz w sd sa) :=
  words_one (encUR_lt (by decide) (by decide) (by have := boolCode_lt w; omega) (by have := sd.isLt; omega) (by have := sa.isLt; omega) (by decide))
theorem spopc (w : Bool) (sd : Reg) (sa : Reg) : Statement (.spopc w sd sa) :=
  words_one (encUR_lt (by decide) (by decide) (by have := boolCode_lt w; omega) (by have := sd.isLt; omega) (by have := sa.isLt; omega) (by decide))
theorem sbfx (sx : Bool) (sd : Reg) (sa : Reg) (b : SSrc) : Statement (.sbfx sx sd sa b) := encS_ok sd sa b (by decide) (by have := boolCode_lt sx; omega)
theorem sfadd (sd : Reg) (sa : Reg) (b : SSrc) : Statement (.sfadd sd sa b) := encS_ok sd sa b (by decide) (by decide)
theorem sfmul (sd : Reg) (sa : Reg) (b : SSrc) : Statement (.sfmul sd sa b) := encS_ok sd sa b (by decide) (by decide)
theorem sfma (p : SignPat) (sd : Reg) (sa : Reg) (b : SSrc) : Statement (.sfma p sd sa b) := encS_ok sd sa b (by decide) (by have := signPat_lt p; omega)
theorem sld (o : UmOp) : Statement (.sld o) := words_one (encUM_lt o (by decide))
theorem sst (o : UmOp) : Statement (.sst o) := words_one (encUM_lt o (by decide))
theorem slds (o : UmOp) : Statement (.slds o) := words_one (encUM_lt o (by decide))
theorem ssts (o : UmOp) : Statement (.ssts o) := words_one (encUM_lt o (by decide))
theorem satom (o : UmOp) (c : SAtomCw) : Statement (.satom o c) :=
  words_two (encUM_lt o (by decide)) (by have := aop_lt c.aop; have := boolCode_lt c.rsp; have := boolCode_lt c.w64; have := c.sb.isLt; have := c.sc.isLt; omega)
theorem slr (o : UmOp) : Statement (.slr o) := words_one (encUM_lt o (by decide))
theorem ssc (o : UmOp) : Statement (.ssc o) := words_one (encUM_lt o (by decide))
theorem fence (ord : Ord4) (sc : Scope) : Statement (.fence ord sc) := words_one (encUM_lt _ (by decide))
theorem bra (off : BitVec 25) : Statement (.bra off) := words_one (encUJ_lt (by decide) (by have := off.isLt; omega))
theorem bcc (c : BccCond) (sa : Reg) (off : BitVec 16) : Statement (.bcc c sa off) :=
  words_one (encUB_lt (by decide) (by have := sa.isLt; omega) (by have := bccCond_lt c; omega) (by have := off.isLt; omega))
theorem bdiv (clr : Bool) (sa : Reg) (off : BitVec 16) : Statement (.bdiv clr sa off) :=
  words_one (encUB_lt (by decide) (by have := sa.isLt; omega) (by have := boolCode_lt clr; omega) (by have := off.isLt; omega))
theorem call (off : BitVec 25) : Statement (.call off) := words_one (encUJ_lt (by decide) (by have := off.isLt; omega))
theorem ret : Statement (.ret) := words_one (encUJ_lt (by decide) (by decide))
theorem exit : Statement (.exit) := words_one (encUJ_lt (by decide) (by decide))
theorem nop : Statement (.nop) := words_one (encUJ_lt (by decide) (by decide))
theorem yield (c : Option Counter) (sa : Reg) (off : BitVec 16) : Statement (.yield c sa off) :=
  words_one (encUB_lt (by decide) (by have := sa.isLt; omega) (by have := yieldCode_lt c; omega) (by have := off.isLt; omega))
theorem waitc (c : Counter) (b : SSrc) : Statement (.waitc c b) := encS_ok 0 0 b (by decide) (by have := counter_lt c; omega)
theorem bkpt (code : BitVec 25) : Statement (.bkpt code) := words_one (encUJ_lt (by decide) (by have := code.isLt; omega))
theorem trap (code : BitVec 25) : Statement (.trap code) := words_one (encUJ_lt (by decide) (by have := code.isLt; omega))
theorem tret : Statement (.tret) := words_one (encUJ_lt (by decide) (by decide))
theorem srd (sd : Reg) (b : SSrc) : Statement (.srd sd b) := encS_ok sd 0 b (by decide) (by decide)
theorem swr (sa : Reg) (b : SSrc) : Statement (.swr sa b) := encS_ok 0 sa b (by decide) (by decide)
theorem clk (tb : Bool) (sd : Reg) : Statement (.clk tb sd) :=
  words_one (encUR_lt (by decide) (by decide) (by have := boolCode_lt tb; omega) (by have := sd.isLt; omega) (by decide) (by decide))
theorem regrp (f : Reg) (n : Reg) : Statement (.regrp f n) :=
  words_one (encUR_lt (by decide) (by decide) (by decide) (by decide) (by have := f.isLt; omega) (by have := n.isLt; omega))
theorem bar (l : BarLevel) (i : BitVec 4) : Statement (.bar l i) :=
  words_one (encUR_lt (by decide) (by decide) (by decide) (by decide) (by decide) (by have := barLevel_lt l; have := i.isLt; omega))
theorem bara (l : BarLevel) (i : BitVec 4) (sd : Reg) : Statement (.bara l i sd) :=
  words_one (encUR_lt (by decide) (by decide) (by decide) (by have := sd.isLt; omega) (by decide) (by have := barLevel_lt l; have := i.isLt; omega))
theorem bard (l : BarLevel) (i : BitVec 4) : Statement (.bard l i) :=
  words_one (encUR_lt (by decide) (by decide) (by decide) (by decide) (by decide) (by have := barLevel_lt l; have := i.isLt; omega))
theorem barw (l : BarLevel) (i : BitVec 4) (sa : Reg) : Statement (.barw l i sa) :=
  words_one (encUR_lt (by decide) (by decide) (by decide) (by decide) (by have := sa.isLt; omega) (by have := barLevel_lt l; have := i.isLt; omega))
theorem fsend (p : BitVec 2) : Statement (.fsend p) := words_one (encUR_lt (by decide) (by decide) (by have := p.isLt; omega) (by decide) (by decide) (by decide))
theorem cpy (k : CpyKind) (sh : Bool) (tr : CpyTr) (r : Byte) (c : Byte) (sd : Reg) (sa : Reg) (sb : Reg) : Statement (.cpy k sh tr r c sd sa sb) :=
  words_two (encUR_lt (by decide) (by decide) (by have := cpyKind_lt k; omega) (by have := sd.isLt; omega) (by have := sa.isLt; omega) (by have := sb.isLt; omega)) (by have := cpyTr_lt tr; have := boolCode_lt sh; have := r.isLt; have := c.isLt; omega)
theorem publ (sa : Reg) : Statement (.publ sa) := words_one (encUR_lt (by decide) (by decide) (by decide) (by decide) (by have := sa.isLt; omega) (by decide))
theorem mqput (core : Byte) (q : BitVec 4) (len : BitVec 5) (sd : Reg) (sa : Reg) : Statement (.mqput core q len sd sa) :=
  words_two (encUR_lt (by decide) (by decide) (by decide) (by have := sd.isLt; omega) (by have := sa.isLt; omega) (by decide)) (by have := core.isLt; have := q.isLt; have := len.isLt; omega)
theorem mqget (q : BitVec 4) (len : BitVec 5) (sd : Reg) : Statement (.mqget q len sd) :=
  words_two (encUR_lt (by decide) (by decide) (by decide) (by have := sd.isLt; omega) (by decide) (by decide)) (by have := q.isLt; have := len.isLt; omega)
theorem mqfree (core : Byte) (q : BitVec 4) (sa : Reg) : Statement (.mqfree core q sa) :=
  words_two (encUR_lt (by decide) (by decide) (by decide) (by decide) (by have := sa.isLt; omega) (by decide)) (by have := core.isLt; have := q.isLt; omega)
theorem mfork (n : BitVec 4) (off : BitVec 25) (sd : Reg) (sa : Reg) : Statement (.mfork n off sd sa) :=
  words_two (encUR_lt (by decide) (by decide) (by decide) (by have := sd.isLt; omega) (by have := sa.isLt; omega) (by decide)) (by have := n.isLt; have := off.isLt; omega)
theorem mrdv (sa : Reg) : Statement (.mrdv sa) := words_one (encUR_lt (by decide) (by decide) (by decide) (by decide) (by have := sa.isLt; omega) (by decide))
theorem tsub (nb : Bool) (spm : Bool) (sd : Reg) (sa : Reg) : Statement (.tsub nb spm sd sa) :=
  words_two (encUR_lt (by decide) (by decide) (by decide) (by have := sd.isLt; omega) (by have := sa.isLt; omega) (by decide)) (by have := boolCode_lt nb; have := boolCode_lt spm; omega)
theorem temit (nb : Bool) (s : BitVec 3) (sd : Reg) (va : Reg) : Statement (.temit nb s sd va) :=
  words_two (encUR_lt (by decide) (by decide) (by decide) (by have := sd.isLt; omega) (by have := va.isLt; omega) (by decide)) (by have := boolCode_lt nb; have := s.isLt; omega)
theorem spawn (off : BitVec 25) (sd : Reg) (sa : Reg) : Statement (.spawn off sd sa) :=
  words_two (encUR_lt (by decide) (by decide) (by decide) (by have := sd.isLt; omega) (by have := sa.isLt; omega) (by decide)) (by have := off.isLt; omega)
theorem krel (b : SSrc) : Statement (.krel b) := encS_ok 0 0 b (by decide) (by decide)
theorem cnew (size : BitVec 10) (life : Life) (mir : Bool) (sd : Reg) (sa : Reg) : Statement (.cnew size life mir sd sa) :=
  words_two (encUR_lt (by decide) (by decide) (by decide) (by have := sd.isLt; omega) (by have := sa.isLt; omega) (by decide)) (by have := life_lt life; have := boolCode_lt mir; have := size.isLt; omega)
theorem copen (nm : Bool) (sd : Reg) (sa : Reg) : Statement (.copen nm sd sa) :=
  words_two (encUR_lt (by decide) (by decide) (by decide) (by have := sd.isLt; omega) (by have := sa.isLt; omega) (by decide)) (by have := boolCode_lt nm; omega)
theorem chand (k : ChandKind) (sd sa : Reg) : Statement (.chand k sd sa) := by
  cases k with
  | succ i => exact words_two (encUR_lt (by decide) (by decide) (by decide) sd.isLt sa.isLt (by decide)) (by have := i.isLt; omega)
  | task sb => exact words_two (encUR_lt (by decide) (by decide) (by decide) sd.isLt sa.isLt sb.isLt) (by decide)
  | core c => exact words_two (encUR_lt (by decide) (by decide) (by decide) sd.isLt sa.isLt (by decide)) (by have := c.isLt; omega)
theorem cdrop (f : Bool) (sd : Reg) (sa : Reg) : Statement (.cdrop f sd sa) :=
  words_two (encUR_lt (by decide) (by decide) (by decide) (by have := sd.isLt; omega) (by have := sa.isLt; omega) (by decide)) (by have := boolCode_lt f; omega)
theorem cinfo (s : Bool) (sd : Reg) (sa : Reg) : Statement (.cinfo s sd sa) :=
  words_two (encUR_lt (by decide) (by decide) (by decide) (by have := sd.isLt; omega) (by have := sa.isLt; omega) (by decide)) (by have := boolCode_lt s; omega)
theorem mres (fmt : WFmt) (sp : Bool) (ts : Bool) (sd : Reg) (sa : Reg) : Statement (.mres fmt sp ts sd sa) :=
  words_two (encUR_lt (by decide) (by decide) (by decide) (by have := sd.isLt; omega) (by have := sa.isLt; omega) (by decide)) (by have := wFmt_lt fmt; have := boolCode_lt sp; have := boolCode_lt ts; omega)
theorem mwld (len : BitVec 24) (sa : Reg) (sb : Reg) : Statement (.mwld len sa sb) :=
  words_two (encUR_lt (by decide) (by decide) (by decide) (by decide) (by have := sa.isLt; omega) (by have := sb.isLt; omega)) (by have := len.isLt; omega)
theorem mldw (blk : BitVec 12) (sa : Reg) : Statement (.mldw blk sa) :=
  words_two (encUR_lt (by decide) (by decide) (by decide) (by decide) (by have := sa.isLt; omega) (by decide)) (by have := blk.isLt; omega)
theorem mma (m : BitVec 10) (a : BitVec 10) (sa : Reg) (sb : Reg) : Statement (.mma m a sa sb) :=
  words_two (encUR_lt (by decide) (by decide) (by decide) (by decide) (by have := sa.isLt; omega) (by have := sb.isLt; omega)) (encRow_lt m a (by decide))
theorem mdist (m : BitVec 10) (a : BitVec 10) (sd : Reg) (sa : Reg) (sb : Reg) : Statement (.mdist m a sd sa sb) :=
  words_two (encUR_lt (by decide) (by decide) (by decide) (by have := sd.isLt; omega) (by have := sa.isLt; omega) (by have := sb.isLt; omega)) (encRow_lt m a (by decide))
theorem mtopk (m : BitVec 10) (a : BitVec 10) (k : BitVec 4) (mn : Bool) (sa : Reg) (sb : Reg) : Statement (.mtopk m a k mn sa sb) :=
  words_two (encUR_lt (by decide) (by decide) (by decide) (by decide) (by have := sa.isLt; omega) (by have := sb.isLt; omega)) (encRow_lt m a (by have := boolCode_lt mn; have := k.isLt; omega))
theorem mdrn (m : BitVec 10) (a : BitVec 10) (f : DFmt) (sh : Bool) (dst : Bool) (sa : Reg) (sb : Reg) : Statement (.mdrn m a f sh dst sa sb) :=
  words_two (encUR_lt (by decide) (by decide) (by decide) (by decide) (by have := sa.isLt; omega) (by have := sb.isLt; omega)) (encRow_lt m a (by have := dFmt_lt f; have := boolCode_lt sh; have := boolCode_lt dst; omega))
theorem mzero (regs : BitVec 16) : Statement (.mzero regs) :=
  words_two (encUR_lt (by decide) (by decide) (by decide) (by decide) (by decide) (by decide)) (by have := regs.isLt; omega)
theorem doorbellWrite (_vf : Nat) (_q : Nat) (_tail : Word) : Statement (.doorbellWrite _vf _q _tail) := words_nil
theorem launch (_vf : Nat) (_q : Nat) : Statement (.launch _vf _q) := words_nil
theorem graphLaunch (_vf : Nat) (_q : Nat) : Statement (.graphLaunch _vf _q) := words_nil
theorem launchComplete (_lid : Nat) : Statement (.launchComplete _lid) := words_nil
theorem terminationWave (_lid : Nat) : Statement (.terminationWave _lid) := words_nil
theorem blockDispatch (_t : DispatchTarget) (_cores : List Nat) : Statement (.blockDispatch _t _cores) := words_nil
theorem admissionRound (_pkg : Nat) : Statement (.admissionRound _pkg) := words_nil
theorem queueDepthExchange (_pkg : Nat) : Statement (.queueDepthExchange _pkg) := words_nil
theorem flushTimeout (_lid : Nat) (_node : Nat) : Statement (.flushTimeout _lid _node) := words_nil
theorem yieldTimeout (_gid : Nat) (_split : Nat) : Statement (.yieldTimeout _gid _split) := words_nil
theorem pendingWriteComplete (_gid : Nat) : Statement (.pendingWriteComplete _gid) := words_nil
theorem contextRelease (_gid : Nat) : Statement (.contextRelease _gid) := words_nil
theorem splitMerge (_gid : Nat) (_a : Nat) (_b : Nat) : Statement (.splitMerge _gid _a _b) := words_nil
theorem deferralRejoin (_gid : Nat) (_split : Nat) : Statement (.deferralRejoin _gid _split) := words_nil
theorem forwardArrival (_lid : Nat) (_item : Nat) (_port : Nat) : Statement (.forwardArrival _lid _item _port) := words_nil
theorem trapEntry (_gid : Nat) : Statement (.trapEntry _gid) := words_nil
theorem nestedTrap (_gid : Nat) (_cause : Byte) : Statement (.nestedTrap _gid _cause) := words_nil
theorem tkillWrite (_v : Word) : Statement (.tkillWrite _v) := words_nil
theorem barecntWrite (_level : Nat) (_id : Nat) (_v : Word) : Statement (.barecntWrite _level _id _v) := words_nil
theorem portstatWrite (_port : Nat) (_v : Word) : Statement (.portstatWrite _port _v) := words_nil
theorem portlaneWrite (_port : Nat) (_lane : Nat) (_v : Word) : Statement (.portlaneWrite _port _lane _v) := words_nil
theorem frameWrite (_w : Nat) (_v : Word) : Statement (.frameWrite _w _v) := words_nil
theorem mqcfgWrite (_q : Nat) (_v : Word) : Statement (.mqcfgWrite _q _v) := words_nil
theorem cpystatWrite (_v : Word) : Statement (.cpystatWrite _v) := words_nil
theorem systemRegisterWrite (_n : BitVec 16) (_v : Word) : Statement (.systemRegisterWrite _n _v) := words_nil
theorem pcBreakpoint (_gid : Nat) (_split : Nat) : Statement (.pcBreakpoint _gid _split) := words_nil
theorem shadowRetry (_gid : Nat) (_split : Nat) (_lanes : List Nat) (_first : List Word) (_second : List Word) : Statement (.shadowRetry _gid _split _lanes _first _second) := words_nil
theorem scrubError (_dev : Nat) (_addr : Nat) : Statement (.scrubError _dev _addr) := words_nil
theorem preemption (_gid : Nat) : Statement (.preemption _gid) := words_nil
theorem resumption (_gid : Nat) (_places : List (Nat × Nat × Nat)) : Statement (.resumption _gid _places) := words_nil
theorem sequencerPreemption (_quad : Nat) : Statement (.sequencerPreemption _quad) := words_nil
theorem sequencerResumption (_quad : Nat) (_serial : Nat) : Statement (.sequencerResumption _quad _serial) := words_nil
theorem copyComplete (_id : Nat) : Statement (.copyComplete _id) := words_nil
theorem messageAppend (_id : Nat) : Statement (.messageAppend _id) := words_nil
theorem publSwap (_id : Nat) : Statement (.publSwap _id) := words_nil
theorem cairnMoveComplete (_vf : Nat) (_name : DWord) : Statement (.cairnMoveComplete _vf _name) := words_nil
theorem cairnWritebackComplete (_id : Nat) : Statement (.cairnWritebackComplete _id) := words_nil
theorem sequencerProgramStart (_quad : Nat) : Statement (.sequencerProgramStart _quad) := words_nil
theorem sequencerProgramEnd (_quad : Nat) : Statement (.sequencerProgramEnd _quad) := words_nil
theorem mwldComplete (_quad : Nat) (_op : Nat) : Statement (.mwldComplete _quad _op) := words_nil
theorem weightPlaneLoaded (_quad : Nat) (_op : Nat) : Statement (.weightPlaneLoaded _quad _op) := words_nil
theorem engineRingSlot (_quad : Nat) (_op : Nat) : Statement (.engineRingSlot _quad _op) := words_nil
theorem flitCheckFail (_pkg : Nat) (_port : Nat) (_o : FlitOutcome) : Statement (.flitCheckFail _pkg _port _o) := words_nil
theorem packetArrival (_flight : Nat) : Statement (.packetArrival _flight) := words_nil
theorem replayTimeout (_win : Nat) : Statement (.replayTimeout _win) := words_nil
theorem routeTableChange (_pkg : Nat) (_dst : Nat) (_ports : List Nat) : Statement (.routeTableChange _pkg _dst _ports) := words_nil
theorem linkReturn (_pkg : Nat) (_port : Nat) : Statement (.linkReturn _pkg _port) := words_nil
theorem strandTimeout (_win : Nat) : Statement (.strandTimeout _win) := words_nil
theorem strandResolution (_win : Nat) (_reachable : Bool) : Statement (.strandResolution _win _reachable) := words_nil
theorem podBarrierBreak (_number : Nat) (_pkg : Nat) : Statement (.podBarrierBreak _number _pkg) := words_nil
theorem ctlReset (_peer : Nat) (_vf : Nat) : Statement (.ctlReset _peer _vf) := words_nil
theorem functionLevelReset (_vf : Nat) : Statement (.functionLevelReset _vf) := words_nil
theorem coldReset (_pkg : Nat) : Statement (.coldReset _pkg) := words_nil
theorem wipeComplete (_pkg : Nat) : Statement (.wipeComplete _pkg) := words_nil
theorem firmwareBoot (_pkg : Nat) (_rsaOk : Bool) (_slhOk : Bool) : Statement (.firmwareBoot _pkg _rsaOk _slhOk) := words_nil
theorem attestationRequest (_vf : Nat) (_nonce : List Byte) : Statement (.attestationRequest _vf _nonce) := words_nil
theorem deployCommand (_pkg : Nat) (_rsaOk : Bool) (_slhOk : Bool) : Statement (.deployCommand _pkg _rsaOk _slhOk) := words_nil
theorem unlockCommand (_pkg : Nat) (_tokenOk : Bool) : Statement (.unlockCommand _pkg _tokenOk) := words_nil
theorem relockCommand (_pkg : Nat) : Statement (.relockCommand _pkg) := words_nil
theorem decommissionCommand (_pkg : Nat) (_signed : Bool) : Statement (.decommissionCommand _pkg _signed) := words_nil
theorem policyWrite (_vf : Nat) (_f : PolicyField) : Statement (.policyWrite _vf _f) := words_nil
theorem tlbInvalidation (_core : Nat) (_vf : Nat) : Statement (.tlbInvalidation _core _vf) := words_nil
theorem hbmWipe (_dev : Nat) (_addr : Nat) (_len : Nat) : Statement (.hbmWipe _dev _addr _len) := words_nil
theorem quadRemap (_pkg : Nat) (_die : Nat) (_quad : Nat) : Statement (.quadRemap _pkg _die _quad) := words_nil
theorem powerStateEntry (_pkg : Nat) : Statement (.powerStateEntry _pkg) := words_nil
theorem powerStateExit (_pkg : Nat) : Statement (.powerStateExit _pkg) := words_nil
theorem hostDebugAccess (_target : DebugTarget) (_n : BitVec 16) (_write : Option Word) : Statement (.hostDebugAccess _target _n _write) := words_nil
theorem hostMemoryAccess (_a : HostAccess) : Statement (.hostMemoryAccess _a) := words_nil
theorem hostQueueDestroy (_vf : Nat) (_q : Nat) : Statement (.hostQueueDestroy _vf _q) := words_nil

end Sys2Proof.Laws.Encoding
end

