-- ==== Sys2Proof/Laws/Vector.lean ====
section
/-! SUPPORT. The moulds of the L-set instructions: a destination's lanes and tag (R73), elements of lanes (R102), completion. -/

namespace Sys2Proof.Machine

theorem packGeneral_lane (m : Mask) (old : VReg) (f : Nat → Word) {n : Nat} (h : n < 96) :
    (packGeneral m old f).lane n = if laneOn m n then f n else old.lane n := by
  simp only [packGeneral, VReg.lane]; exact getD_map_lanes _ h

/-- A destination's lanes, where the shape given holds the values and uniform sources give equal values. -/
theorem packReg_lane {m : Mask} {old : VReg} {allU : Bool} {shaped : Option VReg} {f : Nat → Word}
    (hs : ∀ r, shaped = some r → ∀ n, n < 96 → r.lane n = f n) (hu : allU = true → ∀ n, n < 96 → f 0 = f n) {n : Nat} (h : n < 96) :
    (packReg m old allU shaped f).lane n = if laneOn m n then f n else old.lane n := by
  unfold packReg
  split
  · exact getD_map_lanes _ h
  · next hm =>
    rw [Decidable.not_not.1 hm, laneOn_full n h, if_pos rfl]
    cases shaped with
    | some r => exact hs r rfl n h
    | none =>
      dsimp only
      split
      · next hU => exact hu hU n h
      · exact getD_map_lanes _ h

/-- A uniform register's lanes are equal. -/
theorem lane_uniform {r : VReg} (h : r.tag = 0) (n : Nat) : r.lane 0 = r.lane n := by
  cases r <;> simp_all [VReg.tag, VReg.lane]

theorem allUniform_mem {l : List VReg} (h : allUniform l = true) {r : VReg} (hr : r ∈ l) : r.tag = 0 := by
  simp only [allUniform, List.all_eq_true, beq_iff_eq] at h; exact h r hr

/-- The affine rows of R73 hold the sums, differences, products and shifted values. -/
theorem shapeAdd_lane {sub : Bool} {x y r : VReg} (h : shapeAdd sub x y = some r) (n : Nat) :
    r.lane n = if sub then x.lane n - y.lane n else x.lane n + y.lane n := by
  cases x <;> cases y <;> simp only [shapeAdd, reduceCtorEq, Option.some.injEq] at h <;> subst h <;> cases sub <;>
    simp only [VReg.lane, if_true, Bool.false_eq_true, if_false] <;> ring

theorem shapeMul_lane {x y r : VReg} (h : shapeMul x y = some r) (n : Nat) : r.lane n = x.lane n * y.lane n := by
  cases x <;> cases y <;> simp only [shapeMul, reduceCtorEq, Option.some.injEq] at h <;> subst h <;>
    simp only [VReg.lane] <;> ring

theorem shapeShl_lane {x y r : VReg} (h : shapeShl x y = some r) (n : Nat) : r.lane n = x.lane n <<< ((y.lane n).toNat % 32) := by
  cases x <;> cases y <;> simp only [shapeShl, reduceCtorEq, Option.some.injEq] at h
  subst h
  simp only [VReg.lane, BitVec.shiftLeft_eq_mul_twoPow]; ring

/-- The mould of the binary L-set instructions. -/
theorem vecBin_completes {s : State} {gid k : Nat} {g : Group} {sp : Split} {i : Instr} {o : VBin} {vdSource : Bool}
    {shaped : VReg → VReg → Option VReg} {f : Word → Word → Word → Word} (h : Ready s gid k g sp i) (he : isEngine i = false)
    (hv : isVector i = true) (hr : g.room o.vd.toNat = true) (hx : exec i s = issue i s (vecBin o vdSource shaped f))
    (hd : vdSource = false → ∀ a b d e, f a b d = f a b e)
    (hs : ∀ x y r, shaped x y = some r → ∀ n d, r.lane n = f (x.lane n) (y.lane n) d) :
    CompletesV i s gid k g sp o.vd.toNat
      fun n => f (s.srcLane g o.a n) (s.srcLane g o.b n) ((g.v o.vd.toNat).lane n) := by
  obtain ⟨u, h1, h2⟩ := completes_writeV h he hv (body := vecBin o vdSource shaped f) o.vd.toNat _ hr rfl
  refine ⟨_, fun n hn => ?_, u, hx.trans h1, h2⟩
  rw [packReg_lane (fun r hr n _ => hs _ _ _ hr n _) (fun hu n _ => ?_) hn]
  · simp only [groupCtx_src, groupCtx_g, groupCtx_mask]
  · have ha := lane_uniform (allUniform_mem hu (r := (groupCtx gid k g sp i).src s o.a) (by split <;> simp)) n
    have hb := lane_uniform (allUniform_mem hu (r := (groupCtx gid k g sp i).src s o.b) (by split <;> simp)) n
    rw [ha, hb]
    cases vdSource with
    | false => exact hd rfl _ _ _ _
    | true => rw [lane_uniform (allUniform_mem hu (r := (groupCtx gid k g sp i).g.v o.vd.toNat) (by simp)) n]

/-- The mould of the unary L-set instructions. -/
theorem vecUn_completes {s : State} {gid k : Nat} {g : Group} {sp : Split} {i : Instr} {o : VUn} {shaped : VReg → Option VReg}
    {f : Word → Word} (h : Ready s gid k g sp i) (he : isEngine i = false) (hv : isVector i = true) (hr : g.room o.vd.toNat = true)
    (hx : exec i s = issue i s (vecUn o shaped f)) (hs : ∀ x r, shaped x = some r → ∀ n, r.lane n = f (x.lane n)) :
    CompletesV i s gid k g sp o.vd.toNat fun n => f (s.srcLane g o.a n) := by
  obtain ⟨u, h1, h2⟩ := completes_writeV h he hv (body := vecUn o shaped f) o.vd.toNat _ hr rfl
  refine ⟨_, fun n hn => ?_, u, hx.trans h1, h2⟩
  rw [packReg_lane (fun r hr n _ => hs _ _ hr n) (fun hu n _ => ?_) hn]
  · simp only [groupCtx_src, groupCtx_g, groupCtx_mask]
  · rw [lane_uniform (allUniform_mem hu (r := (groupCtx gid k g sp i).src s o.a) (by simp)) n]

/-- An element of a lane built from elements (R102). -/
theorem elem_ofElems (t : ElemTy) (f : Nat → Nat) {j : Nat} (h : j < 32 / t.width) : elem t.width j (ofElems t.width f) = f j % 2 ^ t.width := by
  have one : ∀ f : Nat → Nat, (List.range 1).foldl (fun n j => n + f j) 0 = 0 + f 0 := fun _ => rfl
  have two : ∀ f : Nat → Nat, (List.range 2).foldl (fun n j => n + f j) 0 = 0 + f 0 + f 1 := fun _ => rfl
  have four : ∀ f : Nat → Nat, (List.range 4).foldl (fun n j => n + f j) 0 = 0 + f 0 + f 1 + f 2 + f 3 := fun _ => rfl
  cases t <;> simp only [ElemTy.width] at h ⊢
  · obtain rfl : j = 0 := by omega
    simp only [elem, ofElems, show 32 / 32 = 1 from rfl, one, BitVec.toNat_ofNat]; omega
  · obtain rfl : j = 0 := by omega
    simp only [elem, ofElems, show 32 / 32 = 1 from rfl, one, BitVec.toNat_ofNat]; omega
  · obtain rfl | rfl : j = 0 ∨ j = 1 := by omega
    all_goals simp only [elem, ofElems, show 32 / 16 = 2 from rfl, two, BitVec.toNat_ofNat]; omega
  · obtain rfl | rfl | rfl | rfl : j = 0 ∨ j = 1 ∨ j = 2 ∨ j = 3 := by omega
    all_goals simp only [elem, ofElems, show 32 / 8 = 4 from rfl, four, BitVec.toNat_ofNat]; omega

theorem elem_mapElems (t : ElemTy) (f : Nat → Nat → Nat → Nat) (a b d : Word) {j : Nat} (h : j < 32 / t.width) :
    elem t.width j (mapElems t.width f a b d) = f (elem t.width j a) (elem t.width j b) (elem t.width j d) % 2 ^ t.width :=
  elem_ofElems t _ h

/-- The lane whose only element is given (the 32-bit types). -/
theorem mapElems_wide {t : ElemTy} (h : t.width = 32) (f : Nat → Nat → Nat → Nat) (a b d : Word) :
    mapElems t.width f a b d = BitVec.ofNat 32 (f a.toNat b.toNat d.toNat) := by
  rw [h]
  have one : ∀ f : Nat → Nat, (List.range 1).foldl (fun n j => n + f j) 0 = 0 + f 0 := fun _ => rfl
  apply BitVec.eq_of_toNat_eq
  simp only [mapElems, ofElems, elem, show 32 / 32 = 1 from rfl, one, BitVec.toNat_ofNat, Nat.mul_zero, Nat.pow_zero, Nat.div_one, Nat.mul_one]
  rw [Nat.mod_eq_of_lt a.isLt, Nat.mod_eq_of_lt b.isLt, Nat.mod_eq_of_lt d.isLt]; omega

/-- The lanes of a mask where a condition holds. -/
theorem maskWhere_lane (p : Nat → Bool) {n : Nat} (h : n < 96) : laneOn (maskWhere p) n = p n := by
  have key : ∀ (l : List Nat) (m : Mask), (∀ x ∈ l, x < 96) →
      (l.foldl (fun m n => if p n then m ||| ((1 : Mask) <<< n) else m) m).getLsbD n = (m.getLsbD n || (decide (n ∈ l) && p n)) := by
    intro l
    induction l with
    | nil => simp
    | cons x l ih =>
      intro m hl
      rw [List.foldl_cons, ih _ fun y hy => hl y (List.mem_cons_of_mem _ hy)]
      have hx := hl x (by simp)
      by_cases e : n = x
      · subst e
        cases hp : p n <;> simp [hx]
      · have : ((1 : Mask) <<< x).getLsbD n = false := by
          have h2 : n < x ∨ n - x ≠ 0 := by omega
          rcases h2 with h2 | h2 <;> simp [h2]
        cases hp : p x
        · simp [e]
        · rw [if_pos rfl, BitVec.getLsbD_or, this]; simp [e]
  have := key lanes 0 fun x hx => by simpa [lanes] using hx
  simp only [laneOn, maskWhere, this]
  simp [lanes, h]

end Sys2Proof.Machine
end

