-- ==== Sys2Proof/Tests/Slice0.lean ====
section
/-! SUPPORT. Tests: ill-formed terms that WellFormed refuses, words of the spec and the instructions that they stand for, small
results of the spec's own examples, and for each statement of the certificates states and operands that meet its hypotheses. -/

namespace Sys2Proof.Tests

set_option Elab.async false

open Sys2Proof Sys2Proof.Machine

/-! ### The laboratory: one group about to issue -/

/-- A group of 16 registers in slot 0 of core 0 (group 0, launch 1, block 2) about to issue at 0x40000. The low 1 GiB is mapped one to one,
the core's scratchpad and the quad's weight buffer are the tenant's, the block holds 4 KiB of scratch, and a trap handler stands at 0x50000. -/
def lab : State :=
  let s := State.reset.withFetchWord 32 0xCC000000
  { s with
    cur := .group 0 0
    now := 100
    agenda := []
    pkgs := tset 0 { s.pkg 0 with wiping := false, booted := true } s.pkgs
    vfs := tset 0 { s.vf 0 with
      slices := [(0, [0, 1, 2, 3, 4, 5, 6, 7])]
      quarters := [(0, [0, 1, 2, 3])]
      coreSet := [0, 1, 4]
      scopeMax := .pod
      thandler := 0x50000
      dirShare := 4 } s.vfs
    blocks := [(2, ⟨1, none, 0, 0, [(0, 0, 4096)], [0], false, [0]⟩)]
    groups := tmod 0 (fun g => { g with
      count := 16
      budget := 16
      vregs := List.replicate 16 (.u 0) }) s.groups }

/-- The group, and its split 0. -/
def gOf (s : State) : Group := (s.group? 0).getD (probeGroup 0 0)
def spOf (s : State) : Split := (tget 0 (gOf s).splits).getD { pc := 0, mask := 0 }

/-- The machine with the group changed. -/
def withG (s : State) (f : Group → Group) : State := s.modGroup 0 f
/-- The machine with split 0 changed. -/
def withSp (s : State) (f : Split → Split) : State := withG s fun g => { g with splits := tmod 0 f g.splits }
/-- Scalar registers set. -/
def sets (l : List (Nat × Word)) (s : State) : State := withG s fun g => { g with sregs := l.foldl (fun r p => r.set p.1 p.2) g.sregs }
/-- Vector registers set. -/
def setv (l : List (Nat × VReg)) (s : State) : State := withG s fun g => { g with vregs := l.foldl (fun r p => r.set p.1 p.2) g.vregs }
/-- Lanes `0 .. n - 1` active. -/
def active (n : Nat) (s : State) : State := withSp s fun sp => { sp with mask := BitVec.ofNat 96 (2 ^ n - 1) }
/-- The group in trap mode. -/
def trapMode (s : State) : State := withG s fun g => { g with trap := some ⟨{ cause := 8, pc := 0x40000 }, 0, 0, 0, flatFrame s 0 g 0, [0], 0, g.splits, [], g.fl.length⟩ }

/-- `i` answers a next state in which `p` holds. -/
def after (i : Instr) (s : State) (p : State → Bool) : Bool := match exec i s with | .next t => p t | _ => false

/-- The hypothesis `Ready` of the group's instruction, computed. -/
def ready (i : Instr) (s : State) : Bool :=
  s.cur == .group 0 0 && (s.group? 0).isSome && (tget 0 (gOf s).splits).isSome && (spOf s).held == none && s.operable (gOf s) 0 i && !(gOf s).stepped 0
    && (gOf s).splits.all fun p => p.2.due == none

/-- What `ready` computes is `Ready`. -/
theorem ready_meets {i : Instr} {s : State} (h : ready i s = true) : Ready s 0 0 (gOf s) (spOf s) i := by
  simp only [ready, Bool.and_eq_true, beq_iff_eq, Bool.not_eq_true', List.all_eq_true] at h
  obtain ⟨⟨⟨⟨⟨⟨h1, h2⟩, h3⟩, h6⟩, h4⟩, h5⟩, h7⟩ := h
  obtain ⟨g, hg⟩ := Option.isSome_iff_exists.mp h2
  obtain ⟨x, hx⟩ := Option.isSome_iff_exists.mp h3
  exact ⟨⟨h1, by simp [gOf, hg], by simp [spOf, hx], h6⟩, h4, h5, h7⟩

/-- `i` is ready, completes, and `p` holds then. -/
def runs (i : Instr) (s : State) (p : State → Bool := fun _ => true) : Bool :=
  ready i s && after i s fun t => p t && (spOf t).pc == (spOf s).after i && (spOf t).wait == .none && (gOf t).trap == (gOf s).trap

/-- `i` is ready and traps with a cause; the handler starts. -/
def traps (i : Instr) (s : State) (cause : Nat) : Bool :=
  ready i s && (gOf s).trap.isNone && after i s fun t => ((gOf t).trap.map fun x => x.info.cause) == some cause && (spOf t).pc == 0x50000

/-- `i` is ready in trap mode and raises a nested cause. -/
def nests (i : Instr) (s : State) (cause : Nat) : Bool :=
  ready i s && after i s fun t => ((gOf t).trap.map fun x => (x.nest, x.ncause)) == some (1, cause)

/-- `i` is ready and waits to issue again. -/
def waits (i : Instr) (s : State) (why : Again) : Bool := ready i s && after i s fun t => (spOf t).wait == .again why && (spOf t).pc == (spOf s).pc

/-- `i` is ready, has read its operands and waits (R78). -/
def holds (i : Instr) (s : State) (why : Again) : Bool :=
  ready i s && after i s fun t => (spOf t).wait == .again why && (spOf t).pc == (spOf s).pc && (spOf t).held.map (fun h => (h.instr, h.stamp)) == some (i, s.nextId)

/-- The words name an instruction that completes, and `p` holds then. -/
def wordRuns (w c : Nat) (s : State) (p : State → Bool) : Bool := match decodeWords w c with | .ok i => runs i s p | .error _ => false

/-- Scalar register n, lane l of vector register r. -/
def sAt (s : State) (n : Nat) : Word := (gOf s).sregs.getD n 0
def vAt (s : State) (r l : Nat) : Word := ((gOf s).v r).lane l

/-! ### Decoding: words written out in the spec (its opcode map and the reference entries) -/

/-- The words decode to the instructions beside them. -/
def decodes (l : List (Nat × Nat × Instr)) : Bool := l.all fun x => decide ((decodeWords x.1 x.2.1).toOption = some x.2.2)

theorem test_decode_integer : decodes [
    (0x0200C082, 0x0, .vadd .i32 { keepA := false, keepB := false, vd := 3, a := .reg 1, b := .reg 2 }),
    (0x04017EFF, 0x1, .vsub .i32 { keepA := false, keepB := false, vd := 5, a := .lane, b := .lit 1 }),
    (0x07818287, 0x0, .vmul .i8x4 { keepA := false, keepB := false, vd := 6, a := .reg 5, b := .reg 7 }),
    (0x08818205, 0x0, .vmulh true { keepA := false, keepB := false, vd := 6, a := .reg 4, b := .reg 5 }),
    (0x0B010103, 0x0, .vmad .i16x2 { keepA := false, keepB := false, vd := 4, a := .reg 2, b := .reg 3 }),
    (0x0D80C082, 0x10, .vmin .i8x4 true { keepA := false, keepB := false, vd := 3, a := .reg 1, b := .reg 2 }),
    (0x0E80C082, 0x0, .vmax .n32 false { keepA := false, keepB := false, vd := 3, a := .reg 1, b := .reg 2 }),
    (0x1180C17C, 0x0, .vabs .i8x4 { keepA := false, keepB := false, vd := 3, a := .reg 2 }),
    (0x120101FF, 0x3, .vand { keepA := false, keepB := false, vd := 4, a := .reg 3, b := .lit 3 }),
    (0x1401C3FF, 0x80000000, .vor { keepA := false, keepB := false, vd := 7, a := .reg 7, b := .lit 0x80000000 }),
    (0x16024489, 0x0, .vxor { keepA := false, keepB := false, vd := 9, a := .reg 9, b := .reg 9 }),
    (0x1800C104, 0x0, .vshl .i32 { keepA := false, keepB := false, vd := 3, a := .reg 2, b := .reg 4 }),
    (0x1A023EFF, 0x1, .vshr .i32 { keepA := false, keepB := false, vd := 8, a := .lane, b := .lit 1 }),
    (0x1D00C17F, 0x4, .vsar .i16x2 { keepA := false, keepB := false, vd := 3, a := .reg 2, b := .lit 4 }),
    (0x1F8182FC, 0x0, .vclz .i8x4 { keepA := false, keepB := false, vd := 6, a := .reg 5 }),
    (0x210182FC, 0x0, .vpopc .i16x2 { keepA := false, keepB := false, vd := 6, a := .reg 5 })] = true := by decide +kernel

theorem test_decode_float_and_lanes : decodes [
    (0x2201027F, 0x318, .vbfx false { keepA := false, keepB := false, vd := 4, a := .reg 4, b := .lit 792 }),
    (0x240081FF, 0x708, .vbfi { keepA := false, keepB := false, vd := 2, a := .reg 3, b := .lit 1800 }),
    (0x278A0103, 0x15, .vcmp .ge .i8x4 true { keepA := false, keepB := false, vd := 40, a := .reg 2, b := .reg 3 }),
    (0x28018205, 0x28, .vsel 40 { keepA := false, keepB := false, vd := 6, a := .reg 4, b := .reg 5 }),
    (0x2A037FFC, 0x8, .vmov { keepA := false, keepB := false, vd := 13, a := .lit 8 }),
    (0x2C009E7C, 0x0, .vbcast false false 2 60),
    (0x2E81027C, 0x0, .vtag .toU { keepA := false, keepB := false, vd := 4, a := .reg 4 }),
    (0x30008104, 0x0, .vfadd { keepA := false, keepB := false, vd := 2, a := .reg 2, b := .reg 4 }),
    (0x320142FF, 0x3F800000, .vfsub { keepA := false, keepB := false, vd := 5, a := .reg 5, b := .lit 0x3F800000 }),
    (0x34018307, 0x0, .vfmul { keepA := false, keepB := false, vd := 6, a := .reg 6, b := .reg 7 }),
    (0x3702048A, 0x0, .vfma .nc { keepA := false, keepB := false, vd := 8, a := .reg 9, b := .reg 10 }),
    (0x3800C082, 0x0, .vfmin { keepA := false, keepB := false, vd := 3, a := .reg 1, b := .reg 2 }),
    (0x3A00C0FF, 0x0, .vfmax { keepA := false, keepB := false, vd := 3, a := .reg 1, b := .lit 0 }),
    (0x3C0A0103, 0x2, .vfcmp .lt { keepA := false, keepB := false, vd := 40, a := .reg 2, b := .reg 3 }),
    (0x3E0101FC, 0x0, .vfrcp { keepA := false, keepB := false, vd := 4, a := .reg 3 }),
    (0x400101FC, 0x0, .vfrsq { keepA := false, keepB := false, vd := 4, a := .reg 3 })] = true := by decide +kernel

theorem test_decode_vector_memory_and_scalar : decodes [
    (0x420101FC, 0x0, .vfex2 { keepA := false, keepB := false, vd := 4, a := .reg 3 }),
    (0x440101FC, 0x0, .vflg2 { keepA := false, keepB := false, vd := 4, a := .reg 3 }),
    (0x46014186, 0x1842, .vcvt 1 true false .rn .e4m3 .f32 { keepA := false, keepB := false, vd := 5, a := .reg 3, b := .reg 6 }),
    (0x48010103, 0x3, .vpack false .rn .bf16 { keepA := false, keepB := false, vd := 4, a := .reg 2, b := .reg 3 }),
    (0x4A0182FC, 0x24, .vunpk 2 .e4m3 { keepA := false, keepB := false, vd := 6, a := .reg 5 }),
    (0x4C010108, 0x1, .vbperm true { keepA := false, keepB := false, vd := 4, a := .reg 2, b := .reg 8 }),
    (0x4E01C37C, 0x201, .vshfl .down 1 { keepA := false, keepB := false, vd := 7, a := .reg 6, b := .zero }),
    (0x500141FC, 0x10, .vscan .add .i32 false true { keepA := false, keepB := false, vd := 5, a := .reg 3 }),
    (0x538501FC, 0x21, .vred .min .i8x4 true { keepA := false, keepB := false, vd := 20, a := .reg 3 }),
    (0x540B027C, 0x0, .vvote .ballot { keepA := false, keepB := false, vd := 44, a := .reg 4 }),
    (0x61050820, 0x0, .vld { width := .w32, vd := 5, off := .reg 4, pair := 4, sx := false, policy := 0 }),
    (0x63030208, 0x0, .vst { width := .w32, vd := 3, off := .reg 1, pair := 1, sx := false, policy := 0 }),
    (0x6484020C, 0x0, .vlds { width := .w16, vd := 4, off := .reg 1, pair := 1, sx := true, policy := 0 }),
    (0x67020210, 0x0, .vsts { width := .w32, vd := 2, off := .reg 1, pair := 2, sx := false, policy := 0 }),
    (0x6901C185, 0x2099400, .vatom { w64 := false, keepA := false, keepB := false, vd := 7, off := .reg 3, data := .reg 5, ret := true, rsp := false, aop := .add, ord := .rel, scope := .pkg, base := 10, cmpv := 0 }),
    (0x8221003C, 0x0, .sadd { w64 := true, sd := 4, sa := 0, b := .reg 60 })] = true := by decide +kernel

theorem test_decode_scalar : decodes [
    (0x84210208, 0x0, .ssub { w64 := true, sd := 4, sa := 4, b := .reg 8 }),
    (0x87210200, 0xA, .smul { w64 := true, sd := 4, sa := 4, b := .lit 10 }),
    (0x88418103, 0x0, .smulh true { w64 := false, sd := 6, sa := 2, b := .reg 3 }),
    (0x8B073D80, 0x3, .sand { w64 := false, sd := 28, sa := 123, b := .lit 3 }),
    (0x8C0AD429, 0x0, .sor { w64 := false, sd := 43, sa := 40, b := .reg 41 }),
    (0x8F0AD400, 0xFF, .sxor { w64 := false, sd := 43, sa := 40, b := .lit 255 }),
    (0x91070E00, 0x1E, .sshl { w64 := false, sd := 28, sa := 28, b := .lit 30 }),
    (0x930C9900, 0x8, .sshr { w64 := false, sd := 50, sa := 50, b := .lit 8 }),
    (0x95024480, 0x1F, .ssar { w64 := false, sd := 9, sa := 9, b := .lit 31 }),
    (0x97210200, 0xFFFFFFFF, .smin false { w64 := true, sd := 4, sa := 4, b := .lit 0xFFFFFFFF }),
    (0x98418307, 0x0, .smax true { w64 := false, sd := 6, sa := 6, b := .reg 7 }),
    (0x9B438500, 0xC0, .scmp .lt 14 10 (.lit 192)),
    (0x9D078F80, 0x0, .ssel { w64 := false, sd := 30, sa := 31, b := .lit 0 }),
    (0x9E210008, 0x0, .smov true 4 (.reg 8)),
    (0xA023FFFF, 0x0, .smovi 8 0x3FFFF),
    (0xA200C100, 0x0, .sclz false 3 2)] = true := by decide +kernel

theorem test_decode_memory_and_control : decodes [
    (0xA40B1400, 0x0, .spopc false 44 40),
    (0xA7214200, 0x708, .sbfx true 5 4 (.lit 1800)),
    (0xA9050A00, 0x3FC00000, .sfadd 20 20 (.lit 0x3FC00000)),
    (0xAA054A16, 0x0, .sfmul 21 20 (.reg 22)),
    (0xAC42048A, 0x0, .sfma .nc 8 9 (.reg 10)),
    (0xB00C4482, 0x0, .sld { sd := 3, pair := 4, ord := .acq, scope := .quad, off := 2 }),
    (0xB2200981, 0x0, .sst { sd := 8, pair := 0, ord := .rel, scope := .pkg, off := 1 }),
    (0xB41434FF, 0x0, .slds { sd := 5, pair := 3, ord := .acq, scope := .quad, off := 127 }),
    (0xB6203880, 0x0, .ssts { sd := 8, pair := 3, ord := .rel, scope := .quad, off := 0 }),
    (0xB828A502, 0x90060E, .satom { sd := 10, pair := 10, ord := .acq, scope := .die, off := 2 } { rsp := false, aop := .cas, w64 := false, sb := 12, sc := 14 }),
    (0xBA28A580, 0x0, .slr { sd := 10, pair := 10, ord := .acq, scope := .pkg, off := 0 }),
    (0xBC28A980, 0x0, .ssc { sd := 10, pair := 10, ord := .rel, scope := .pkg, off := 0 }),
    (0xBE000400, 0x0, .fence .acq .core),
    (0xC1FFFFFD, 0x0, .bra 0x1FFFFFD),
    (0xC2B10004, 0x0, .bcc .eq 44 4),
    (0xC4A0FFF8, 0x0, .bdiv false 40 0xFFF8)] = true := by decide +kernel

theorem test_decode_system_and_barriers : decodes [
    (0xC600000C, 0x0, .call 12),
    (0xC8000000, 0x0, .ret),
    (0xCA000000, 0x0, .exit),
    (0xCC000000, 0x0, .nop),
    (0xCE240005, 0x0, .yield (some .cpy) 9 5),
    (0xD1000000, 0x0, .waitc .cpy (.lit 0)),
    (0xD2000005, 0x0, .bkpt 5),
    (0xD4000012, 0x0, .trap 18),
    (0xD6000000, 0x0, .tret),
    (0xD9014000, 0x8205, .srd 5 (.lit 0x8205)),
    (0xDB000300, 0x1, .swr 6 (.lit 1)),
    (0xDC210000, 0x0, .clk true 4),
    (0xDE000181, 0x0, .regrp 3 1),
    (0xE0000013, 0x0, .bar .block 3),
    (0xE0228022, 0x0, .bara .quad 2 10),
    (0xE0400010, 0x0, .bard .block 0)] = true := by decide +kernel

theorem test_decode_work : decodes [
    (0xE0600522, 0x0, .barw .quad 2 10),
    (0xE2400000, 0x0, .fsend 2),
    (0xE4028200, 0x40000201, .cpy .g2s false .t16 2 1 10 4 0),
    (0xE6000A00, 0x0, .publ 20),
    (0xE8020A00, 0x2A030004, .mqput 42 3 4 8 20),
    (0xEA050000, 0x30004, .mqget 3 4 20),
    (0xEC000480, 0x28030000, .mqfree 40 3 9),
    (0xEE024500, 0x40000028, .mfork 4 40 9 10),
    (0xF0000480, 0x0, .mrdv 9),
    (0xF2028A00, 0x3, .tsub true true 10 20),
    (0xF4078400, 0x80000001, .temit true 1 30 8),
    (0xF6000000, 0x0, .spawn 0 0 0),
    (0xF9000000, 0x7, .krel (.lit 7)),
    (0xFA028800, 0x10000, .cnew 1 .launch false 10 16),
    (0xFA228800, 0x1, .copen true 10 16),
    (0xFA428812, 0x400000, .chand (.task 18) 10 16)] = true := by decide +kernel

theorem test_decode_cairns_and_engine : decodes [
    (0xFA628800, 0x1, .cdrop true 10 16),
    (0xFA828800, 0x1, .cinfo true 10 16),
    (0xFC020A00, 0xA0000000, .mres .bf16 true false 8 20),
    (0xFC200008, 0x401, .mwld 1025 0 8),
    (0xFC400400, 0x0, .mldw 0 8),
    (0xFC600608, 0xC00000, .mma 3 0 12 8),
    (0xFC850608, 0xC40000, .mdist 3 64 20 12 8),
    (0xFCA00818, 0xC00100, .mtopk 3 0 1 false 16 24),
    (0xFCC00A00, 0xFC00300, .mdrn 63 0 .f32 true true 20 0),
    (0xFCE00000, 0xF, .mzero 15)] = true := by decide +kernel
/-- Words that the spec's decoding examples refuse: a condition of 6, a literal code in an LX instruction, two reserved majors, code 126,
a reserved fn, an or-ed bit of NOP. -/
theorem test_decode_refuses : [(0x260A0103, 6), (0x260A017F, 2), (0xAE000000, 0), (0x80000000, 0), (0x0200C0FE, 0), (0x1280C082, 0), (0xCC000001, 0)].all
    (fun x => (decodeWords x.1 x.2).toOption.isNone) = true := by decide +kernel

/-- Every instruction of the opcode map that a word names is also the one that its table word names. -/
theorem test_decodeTableWord : decodeTableWord 64 (0x64 * 2 ^ 32 + 0x0200C0FF) = some (.vadd .i32 { keepA := false, keepB := false, vd := 3, a := .reg 1, b := .lit 100 })
    ∧ decodeTableWord 32 0xCA000000 = some .exit ∧ decodeTableWord 32 0xAE000000 = none := by decide +kernel

/-! ### Ill-formed terms, one for each check -/

/-- Operand shapes for the ill-formed terms: v3, v1, v2 with one field changed. -/
def vb : VBin := { keepA := false, keepB := false, vd := 3, a := .reg 1, b := .reg 2 }
def vu : VUn := { keepA := false, keepB := false, vd := 3, a := .reg 1 }
def lm : LmOp := { width := .w32, vd := 4, off := .reg 1, pair := 5, sx := false, policy := 0 }
def um : UmOp := { sd := 10, pair := 10, ord := .none, scope := .core, off := 0 }
def va : VAtomOp := { w64 := false, keepA := false, keepB := false, vd := 6, off := .reg 1, data := .reg 2, ret := true, rsp := false, aop := .add, ord := .none,
                      scope := .core, base := 5, cmpv := 0 }
def so : SOp := { w64 := false, sd := 4, sa := 6, b := .reg 8 }
def cw : SAtomCw := { rsp := false, aop := .add, w64 := false, sb := 12, sc := 0 }

/-- The shapes themselves are well formed. -/
theorem test_wf_shapes : [Instr.vadd .i32 vb, .vabs .i32 vu, .vmin .i8x4 true vb, .vcmp .eq .i32 false vb, .vld lm, .vsts lm, .vatom va, .sadd so, .sld um, .ssc um,
    .satom um cw].all Instr.wf = true := by decide +kernel

/-- L-set limits (R69, R87, R27, R363, R371, R374, R398, R400, R403, R411-R413): a destination or source of 120, two different literals, a literal in LX, NAT with an
unpacked type, `n32` where the rule has none, mask triples above 125, formats, elements, quads of registers, shuffles, reductions. -/
theorem test_wf_vector : [Instr.vadd .i32 { vb with vd := 120 }, .vand { vb with a := .reg 120 }, .vor { vb with a := .lit 1, b := .lit 2 }, .vabs .n32 vu,
    .vsar .n32 vb, .vabs .i32 { vu with vd := 124 }, .vmin .i32 true vb, .vmax .i32 false { vb with b := .lit 1 }, .vcmp .lt .n32 true vb, .vcmp .lt .i32 false { vb with vd := 126 },
    .vsel 126 vb, .vsel 0 { vb with a := .lit 1 }, .vbcast false false 120 0, .vtag .read { vu with a := .lane }, .vfcmp .lt { vb with vd := 126 },
    .vcvt 0 true false .rn .i16 .i8 vb, .vcvt 0 true false .rn .f32 .f32 vb, .vcvt 2 true false .rn .bf16 .f32 vb, .vcvt 0 false false .rn .f32 .i32 vb,
    .vpack false .rn .f32 vb, .vunpk 0 .f32 vu, .vunpk 2 .bf16 vu, .vbperm false vb, .vbperm false { vb with b := .reg 118 }, .vshfl .idx 1 vb, .vshfl .up 1 vb,
    .vshfl .rot 96 { vb with b := .zero }, .vscan .fadd .i16x2 false false vu, .vred .add .i8x4 true vu, .vred .min .i32 true vu, .vvote .ballot { vu with vd := 126 },
    .vvote .any { vu with a := .reg 120 }].all (fun i => !i.wf) = true := by decide +kernel

/-- Memory limits (R70, R90, R91, R326, R327, R367, R387): an odd pair, sign extension of a word and of a store, a policy in the scratchpad, atomics' fields, orderings. -/
theorem test_wf_memory : [Instr.vld { lm with width := .w64, vd := 5 }, .vld { lm with sx := true }, .vst { lm with width := .w8, sx := true }, .vlds { lm with policy := 1 },
    .vst { lm with off := .lit 0 }, .vsts { lm with vd := 121 }, .vatom { va with data := .zero }, .vatom { va with ret := false }, .vatom { va with aop := .ld },
    .vatom { va with w64 := true, vd := 7 }, .vatom { va with w64 := true, aop := .fadd }, .vatom { va with cmpv := 4 }, .vatom { va with rsp := true },
    .sld { um with ord := .rel }, .slds { um with ord := .acqrel }, .slr { um with ord := .rel }, .sst { um with ord := .acq }, .ssts { um with ord := .acqrel }, .ssc { um with sd := 11 },
    .ssc { um with sd := 124 }, .ssc { um with ord := .acq }, .satom um { cw with w64 := true, sb := 13 }, .satom um { cw with w64 := true, aop := .fadd }, .satom um { cw with aop := .ld },
    .satom um { cw with sc := 2 }, .satom um { cw with rsp := true }, .satom { um with sd := 124 } { cw with w64 := true }, .fence .none .pod].all (fun i => !i.wf) = true := by decide +kernel

/-- Scalar, control and system limits (R71, R287, R416, R295, R321). -/
theorem test_wf_scalar : [Instr.sadd { so with w64 := true, sd := 5 }, .smulh false { so with w64 := true, sa := 7 }, .ssel { so with w64 := true, b := .reg 9 }, .smov true 5 (.lit 0),
    .smov true 4 (.reg 5), .sclz true 5 4, .spopc true 4 5, .bdiv false 126 0, .yield none 1 0, .clk false 5, .clk true 124, .regrp 120 1, .regrp 0 0, .regrp 0 121].all
    (fun i => !i.wf) = true := by decide +kernel

/-- Limits of the groups' common, asynchronous and cairn instructions (R96, R213, R281, R293, R298, R302, R303, R307, R310, R311, R320, R362). -/
theorem test_wf_work : [Instr.bar .grp 1, .bara .grp 0 0, .bard .grp 0, .barw .grp 0 0, .bara .block 0 125, .cpy .g2s false .none 0 0 0 1 2, .cpy .g2s true .none 0 0 0 0 2,
    .cpy .g2s false .none 1 0 0 0 2, .cpy .g2s false .t8 0 1 0 0 2, .publ 3, .mqput 0 0 0 0 0, .mqput 0 0 17 0 0, .mqput 0 0 1 125 0, .mqput 0 0 16 0 110, .mqget 0 0 0, .mqget 0 2 124,
    .mfork 9 0 0 0, .mfork 1 0 125 0, .mfork 8 0 0 118, .tsub false false 0 3, .tsub false false 125 2, .temit true 6 0 0, .temit false 0 1 0, .temit true 0 0 120, .spawn 0 0 118, .spawn 0 125 0,
    .cnew 0 .launch false 5 2, .copen false 124 2, .cdrop false 4 3, .cinfo false 4 3, .chand (.succ 6) 4 2].all (fun i => !i.wf) = true := by decide +kernel

/-- Limits of the sequencer family (R95, R175, R187, R305-R318). -/
theorem test_wf_engine : [Instr.mres .fp8 false false 64 0, .mres .fp8 false false 0 64, .mwld 0 0 0, .mwld 65537 0 0, .mwld 1 1 0, .mwld 1 0 64, .mldw 0 64, .mma 1 1023 0 0, .mma 0 0 2 0,
    .mma 0 0 64 0, .mma 0 0 0 64, .mdist 0 0 64 0 0, .mdist 1023 1 0 0 0, .mtopk 0 0 0 false 6 0, .mdrn 0 0 .f32 false false 0 1, .mdrn 0 0 .f32 true false 0 0, .mdrn 0 0 .f32 false true 1 0,
    .mdrn 0 0 .f32 false false 62 0].all (fun i => !i.wf) = true := by decide +kernel

/-- Number ranges of the steps of the device, system software and the host. -/
theorem test_wf_steps : [Instr.doorbellWrite 0 64 0, .launch 262144 0, .graphLaunch 0 64, .hostQueueDestroy 262144 0, .blockDispatch (.launch 0) [262144], .admissionRound 1024,
    .queueDepthExchange 1024, .flushTimeout 0 4096, .yieldTimeout 0 4, .deferralRejoin 0 4, .pcBreakpoint 0 4, .splitMerge 0 1 1, .splitMerge 0 1 4, .forwardArrival 0 0 4, .nestedTrap 0 0,
    .nestedTrap 0 0x15, .barecntWrite 0 0 0, .barecntWrite 5 0 0, .barecntWrite 1 16 0, .portstatWrite 4 0, .portlaneWrite 0 96 0, .portlaneWrite 4 0 0, .frameWrite 32768 0, .mqcfgWrite 16 0,
    .shadowRetry 0 4 [] [] [], .shadowRetry 0 0 [96] [0] [0], .scrubError 8192 0, .resumption 0 [(0, 32, 0)], .resumption 0 [(0, 0, 8)], .sequencerPreemption 65536, .sequencerResumption 65536 0,
    .cairnMoveComplete 262144 0, .sequencerProgramStart 65536, .sequencerProgramEnd 65536, .mwldComplete 65536 0, .weightPlaneLoaded 65536 0, .engineRingSlot 65536 0, .flitCheckFail 0 16 .bad,
    .flitCheckFail 0 0 (.goodAt 0), .flitCheckFail 0 0 (.goodAt 9), .routeTableChange 1024 0 [], .routeTableChange 0 1024 [], .routeTableChange 0 0 [16], .linkReturn 0 16, .podBarrierBreak 0 1024,
    .ctlReset 1024 0, .functionLevelReset 262144, .coldReset 1024, .wipeComplete 1024, .firmwareBoot 1024 true true, .deployCommand 1024 true true, .unlockCommand 1024 true, .relockCommand 1024,
    .decommissionCommand 1024 true, .powerStateEntry 1024, .powerStateExit 1024, .attestationRequest 0 (List.replicate 65 0), .policyWrite 262144 (.balance 0), .tlbInvalidation 262144 0,
    .hbmWipe 8192 0 0, .quadRemap 0 8 0, .quadRemap 0 0 4].all (fun i => !i.wf) = true := by decide +kernel

/-! ### Probes: the first instruction after reset -/

/-- `step` runs exactly the placed instruction: a scalar one of the group and one of the sequencer family. -/
theorem test_probe_group : (match step (State.reset.withFetchWord 32 0xA023FFFF) with | .next t => sAt t 8 == 0xFFFFFFFF && (spOf t).pc == 0x40004 | _ => false) = true := by
  decide +kernel
theorem test_probe_sequencer : (match step (State.reset.withFetchWord 64 (0xF * 2 ^ 32 + 0xFCE00000)) with
    | .next t => ((t.quad 0).running.map fun p => (p.pc, p.nextOp)) == some (0x40008, 1) | _ => false) = true := by decide +kernel
/-! ### Scalar results (values of R323-R358, or by hand), each at a state that meets the hypotheses of ScalarArithmeticResults,
ScalarMoveAndBitResults and ScalarFloatResults -/

/-- The words run in a machine with s-registers set, and sd holds the value. -/
def sGives (l : List (Nat × Nat × List (Nat × Word) × Nat × Word)) : Bool :=
  l.all fun x => wordRuns x.1 x.2.1 (sets x.2.2.1 lab) fun t => sAt t x.2.2.2.1 == x.2.2.2.2

theorem witness_ScalarArithmeticResults_32 : sGives [
    (0x98418307, 0, [(6, 0xFFFFFFFF), (7, 1)], 6, 0xFFFFFFFF), (0x98018307, 0, [(6, 0xFFFFFFFF), (7, 1)], 6, 1), (0x97018300, 100, [(6, 0xFFFFFFFE)], 6, 0xFFFFFFFE),
    (0x97418300, 100, [(6, 0xFFFFFFFE)], 6, 100), (0x870F3C80, 0x180, [(121, 3)], 60, 0x480), (0x88418103, 0, [(2, 0x80000000), (3, 0x80000000)], 6, 0x40000000),
    (0x88018103, 0, [(2, 0x80000000), (3, 0x80000000)], 6, 0x40000000), (0x88418103, 0, [(2, 0xFFFFFFFF), (3, 2)], 6, 1), (0x88018103, 0, [(2, 0xFFFFFFFF), (3, 2)], 6, 0xFFFFFFFF),
    (0x8C0AD429, 0, [(40, 0xF0), (41, 0x0F)], 43, 0xFF), (0x95024480, 31, [(9, 0x80000000)], 9, 0xFFFFFFFF), (0x95024480, 32, [(9, 0x80000000)], 9, 0x80000000),
    (0x91070E00, 30, [(28, 3)], 28, 0xC0000000), (0x930C9900, 8, [(50, 0x80000000)], 50, 0x800000), (0x840B56AE, 0, [(45, 1), (46, 2)], 45, 0xFFFFFFFF),
    (0x8F0AD400, 0xFF, [(40, 0x0F)], 43, 0xF0), (0x830FBC00, 1, [(120, 0xFFFFFFFF)], 62, 0), (0x8B073D80, 3, [(123, 6)], 28, 2),
    (0x9D078F80, 9, [(30, 0), (31, 7)], 30, 9), (0x9D078F80, 9, [(30, 5), (31, 7)], 30, 7)] = true := by decide +kernel

theorem witness_ScalarArithmeticResults_64 : ([
    (0x97210200, 0xFFFFFFFF, [(4, 5), (5, 0)], 4, 0xFFFFFFFF, 0xFFFFFFFF), (0x98210200, 0, [(4, 5), (5, 1)], 4, 5, 1), (0x87210200, 10, [(4, 0x80000000), (5, 1)], 4, 0, 15),
    (0x84210208, 0, [(4, 0), (5, 1), (8, 1), (9, 0)], 4, 0xFFFFFFFF, 0), (0x85210200, 0xFFFFFFFF, [(4, 0xFFFFFFFF), (5, 0)], 4, 0, 1), (0x93210200, 40, [(4, 7), (5, 0x12345678)], 4, 0x123456, 0),
    (0x8221003C, 0, [(0, 0xFFFFFFFF), (1, 1), (60, 1), (61, 0)], 4, 0, 2), (0x91210200, 33, [(4, 3), (5, 0)], 4, 0, 6), (0x95210200, 32, [(4, 0), (5, 0x80000000)], 4, 0x80000000, 0xFFFFFFFF),
    (0x89210200, 4, [(4, 0), (5, 0x80000000)], 4, 0xFFFFFFFE, 0xFFFFFFFF), (0x89610200, 4, [(4, 0), (5, 0x80000000)], 4, 2, 0), (0x8B210200, 0xFFFFFFFF, [(4, 6), (5, 7)], 4, 6, 7),
    (0x8D210200, 0x80000000, [(4, 6), (5, 7)], 4, 0x80000006, 0xFFFFFFFF), (0x8F210200, 1, [(4, 6), (5, 7)], 4, 7, 7), (0x9D210200, 9, [(4, 0), (5, 0)], 4, 9, 0),
    (0x97610200, 0xFFFFFFFF, [(4, 5), (5, 0)], 4, 5, 0), (0x98610200, 0, [(4, 5), (5, 0x80000000), (0, 1), (1, 1)], 4, 5, 0x80000000)] : List (Nat × Nat × List (Nat × Word) × Nat × Word × Word)).all
    (fun x => wordRuns x.1 x.2.1 (sets x.2.2.1 lab) fun t => sAt t x.2.2.2.1 == x.2.2.2.2.1 && sAt t (x.2.2.2.1 + 1) == x.2.2.2.2.2) = true := by decide +kernel

theorem witness_ScalarMoveAndBitResults : sGives [
    (0x9B038500, 192, [(10, 192)], 14, 1), (0x9B238500, 192, [(10, 192)], 14, 0), (0x9B438500, 192, [(10, 0xFFFFFFFF)], 14, 1), (0x9B638500, 192, [(10, 192)], 14, 1),
    (0x9B838500, 192, [(10, 193)], 14, 1), (0x9BA38500, 192, [(10, 0xFFFFFFFF)], 14, 0), (0x9AC2C50C, 0, [(10, 0xFFFFFFFF), (12, 1)], 11, 0), (0x9AE2C50C, 0, [(10, 0xFFFFFFFF), (12, 1)], 11, 1),
    (0x9E020008, 0, [(8, 77)], 8, 77), (0x9E210008, 0, [(8, 77), (9, 78)], 5, 78), (0x9F210000, 0xFFFFFFFE, [], 5, 0xFFFFFFFF), (0xA023FFFF, 0, [], 8, 0xFFFFFFFF), (0xA021FFFF, 0, [], 8, 0x1FFFF),
    (0xA200C100, 0, [(2, 1)], 3, 31), (0xA200C100, 0, [(2, 0)], 3, 32), (0xA2210100, 0, [(2, 1), (3, 0), (5, 9)], 4, 63), (0xA2210100, 0, [(2, 0), (3, 0), (5, 9)], 5, 0),
    (0xA40B1400, 0, [(40, 0xF00F0001)], 44, 9), (0xA4210100, 0, [(2, 0xFFFFFFFF), (3, 0xFFFFFFFF), (5, 9)], 4, 64), (0xA7214200, 0x0708, [(4, 0x00008000)], 5, 0xFFFFFF80),
    (0xA7014200, 0x0708, [(4, 0x00008000)], 5, 0x80), (0xA7214200, 0x1F00, [(4, 0x80000001)], 5, 0x80000001), (0xA7014200, 0x1F04, [(4, 0x80000010)], 5, 0x08000001)] = true := by decide +kernel

theorem witness_ScalarFloatResults : sGives [
    (0xA9050A00, 0x3FC00000, [(20, 0x3F800000)], 20, 0x40200000), (0xA9050A00, 0x80000000, [(20, 0)], 20, 0), (0xAA054A16, 0, [(20, 0), (22, 0x7F800000)], 21, 0x7FC00000),
    (0xAC42048A, 0, [(9, 0x40400000), (10, 0x3F000000), (8, 0x3FC00000)], 8, 0), (0xAC02048A, 0, [(9, 0x40400000), (10, 0x3F000000), (8, 0x3FC00000)], 8, 0x40400000),
    (0xAC22048A, 0, [(9, 0x40400000), (10, 0x3F000000), (8, 0x3F800000)], 8, 0xBF000000), (0xAC62048A, 0, [(9, 0x40400000), (10, 0x3F000000), (8, 0x3FC00000)], 8, 0xC0400000)] = true := by
  decide +kernel

/-- R106: under FTZ a subnormal operand is a zero of its sign. -/
theorem test_ftz : wordRuns 0xA9050A00 0x00000001 (withG (sets [(20, 0x80000001)] lab) fun g => { g with gmode := 1 }) (fun t => sAt t 20 == 0) = true := by decide +kernel

/-- R46, R47: s124 holds a word; a write of am0 leaves a lane that another split holds inactive, and the other words of the mask alone. -/
def twoSplits : State := withG lab fun g => { g with splits := [(0, { pc := 0x40000, mask := 0xFFFFFFFFFFFFFFFFFFFFFFFE }), (1, { pc := 0x40100, mask := 1 })] }
theorem witness_ScalarRegisterWrite : tget 0 (gOf twoSplits).splits = some (spOf twoSplits) ∧ ((gOf twoSplits).setS 0 124 9).sregs.getD 124 0 = 9
    ∧ (tget 0 ((gOf twoSplits).setS 0 125 3).splits).map Split.mask = some 0xFFFFFFFFFFFFFFFF00000002
    ∧ (tget 0 ((gOf twoSplits).setS 0 127 0).splits).map Split.mask = some 0x00000000FFFFFFFFFFFFFFFE := by decide +kernel

/-! ### Vector results (values of R363-R414 and R371-R412, or by hand), at states that meet the hypotheses of the vector statements -/

/-- Uniform vector registers. -/
def us (l : List (Nat × Word)) (s : State) : State := setv (l.map fun p => (p.1, .u p.2)) s

/-- The words run with uniform registers, and lane `l` of `r` holds the value. -/
def vGives (l : List (Nat × Nat × List (Nat × Word) × Nat × Nat × Word)) : Bool :=
  l.all fun x => wordRuns x.1 x.2.1 (us x.2.2.1 lab) fun t => vAt t x.2.2.2.1 x.2.2.2.2.1 == x.2.2.2.2.2

theorem witness_VectorElementResults : vGives [
    (0x0300C082, 0, [(1, 0x0001FFFF), (2, 0x00010001)], 3, 95, 0x00020000), (0x04017EFF, 1, [], 5, 0, 0xFFFFFFFF), (0x04017EFF, 1, [], 5, 95, 94), (0x0480C082, 0, [(1, 0), (2, 1)], 3, 0, 0xFFFFFFFF),
    (0x07818287, 0, [(5, 0x1002FF03), (7, 0x02200205)], 6, 7, 0x2040FE0F), (0x0B010103, 0, [(2, 0x00020003), (3, 0x00040005), (4, 0x00010001)], 4, 0, 0x00090010),
    (0x0D80C082, 0x10, [(1, 0x80FF0102), (2, 0x017F0201)], 3, 0, 0x017F0101), (0x0D80C082, 0, [(1, 0x80FF0102), (2, 0x017F0201)], 3, 0, 0x80FF0101), (0x0E80C082, 0, [(1, 0xFFFFFFFF), (2, 1)], 3, 0, 0xFFFFFFFF),
    (0x0E00C082, 0, [(1, 0xFFFFFFFF), (2, 1)], 3, 0, 1), (0x1800C104, 0, [(2, 3), (4, 33)], 3, 0, 6), (0x1A023EFF, 1, [], 8, 95, 47), (0x1D00C17F, 4, [(2, 0x80008000)], 3, 0, 0x8000F800),
    (0x1D00C17F, 0x00040004, [(2, 0x80008000)], 3, 0, 0xF800F800), (0x1180C17C, 0, [(2, 0x80FF0102)], 3, 0, 0x80010102), (0x1F8182FC, 0, [(5, 0x00010F80)], 6, 0, 0x08070400),
    (0x210182FC, 0, [(5, 0xFFFF0001)], 6, 0, 0x00100001)] = true := by decide +kernel

theorem witness_VectorWordResults : vGives [
    (0x120101FF, 3, [(3, 6)], 4, 0, 2), (0x1401C3FF, 0x80000000, [(7, 1)], 7, 0, 0x80000001), (0x16024489, 0, [(9, 5)], 9, 0, 0), (0x08818205, 0, [(4, 0xFFFFFFFF), (5, 2)], 6, 0, 1),
    (0x08018205, 0, [(4, 0xFFFFFFFF), (5, 2)], 6, 0, 0xFFFFFFFF), (0x2201027F, 0x0318, [(4, 0x0A000000)], 4, 0, 0xA), (0x2281027F, 0x0304, [(4, 0xF0)], 4, 0, 0xFFFFFFFF),
    (0x240081FF, 0x0708, [(3, 0x12), (2, 0xFFFFFFFF)], 2, 0, 0xFFFF12FF), (0x240081FF, 0x0F18, [(3, 0x1234), (2, 0)], 2, 0, 0x34000000), (0x2A037FFC, 8, [], 13, 0, 8), (0x2A027E7C, 0, [(9, 3)], 9, 0, 0)] = true
    ∧ wordRuns 0x28018205 0x28 (us [(4, 1), (5, 2)] (sets [(40, 2), (41, 0), (42, 0x80000000)] lab)) (fun t => vAt t 6 0 == 2 && vAt t 6 1 == 1 && vAt t 6 95 == 1 && vAt t 6 32 == 2) = true
    ∧ wordRuns 0x2C009E7C 0 (sets [(60, 7)] lab) (fun t => vAt t 2 95 == 7) = true := by decide +kernel

theorem witness_VectorFloatResults : vGives [
    (0x30008104, 0, [(2, 0), (4, 0x80000000)], 2, 0, 0), (0x30008104, 0, [(2, 0x7F800000), (4, 0xFF800000)], 2, 0, 0x7FC00000), (0x320142FF, 0x3F800000, [(5, 0x3F800000)], 5, 0, 0),
    (0x34018307, 0, [(6, 0), (7, 0x7F800000)], 6, 0, 0x7FC00000), (0x3702048A, 0, [(9, 0x40400000), (10, 0x3F000000), (8, 0x3FC00000)], 8, 0, 0),
    (0x3602048A, 0, [(9, 0x40400000), (10, 0x3F000000), (8, 0x3FC00000)], 8, 0, 0x40400000), (0x3682048A, 0, [(9, 0x40400000), (10, 0x3F000000), (8, 0x3F800000)], 8, 0, 0xBF000000),
    (0x3782048A, 0, [(9, 0x40400000), (10, 0x3F000000), (8, 0x3FC00000)], 8, 0, 0xC0400000), (0x3800C082, 0, [(1, 0x7FC00000), (2, 0x40000000)], 3, 0, 0x40000000),
    (0x3800C082, 0, [(1, 0x80000000), (2, 0)], 3, 0, 0x80000000), (0x3A00C0FF, 0, [(1, 0x80000000)], 3, 0, 0), (0x3E0101FC, 0, [(3, 0x40800000)], 4, 0, 0x3E800000),
    (0x400101FC, 0, [(3, 0x41800000)], 4, 0, 0x3E800000), (0x400101FC, 0, [(3, 0xBF800000)], 4, 0, 0x7FC00000), (0x420101FC, 0, [(3, 0xC0400000)], 4, 0, 0x3E000000),
    (0x440101FC, 0, [(3, 0x41000000)], 4, 0, 0x40400000), (0x440101FC, 0, [(3, 0x80000000)], 4, 0, 0xFF800000)] = true
    ∧ (ofF32 0x7FC00000).isNan = true ∧ (ofF32 1).isNan = false ∧ (ofF32 1).lt (ofF32 2) = true ∧ fMin 1 2 = 1 := by decide +kernel

theorem witness_VectorConversionResults : vGives [
    (0x46014186, 0x1842, [(3, 0x3F800000), (6, 0x40000000), (5, 0xAABBCCDD)], 5, 0, 0xAABB40DD), (0x4801017C, 3, [(2, 0x3F800000)], 4, 0, 0x3F80), (0x48010103, 7, [(2, 300), (3, 0xFFFFFFFB)], 4, 0, 0x0000FB7F),
    (0x48010103, 7, [(2, 1), (3, 0xFFFFFF38), (4, 0x0000FB7F)], 4, 0, 0xFB7F8001), (0x4A0182FC, 0x24, [(5, 0x00380000)], 6, 0, 0x3F800000), (0x4A0182FC, 0x17, [(5, 0x0000FB7F)], 6, 0, 0xFFFFFFFB),
    (0x4600C17C, 0x20, [(2, 0xFFFFFFFF)], 3, 0, 0xBF800000), (0x4600C17C, 0x02, [(2, 0x7FC00000)], 3, 0, 0), (0x4600C17C, 0x12, [(2, 0xBF800000)], 3, 0, 0)] = true := by decide +kernel

theorem witness_VectorToScalarResults :
    wordRuns 0x260A0103 2 (us [(2, 0xFFFFFFFF), (3, 1)] (active 3 lab)) (fun t => sAt t 40 == 7 && sAt t 41 == 0 && sAt t 42 == 0) = true
    ∧ wordRuns 0x278A0103 0x15 (us [(2, 0x80808080), (3, 0x7F7F7F7F)] lab) (fun t => sAt t 42 == 0xFFFFFFFF) = true
    ∧ wordRuns 0x3C0A0103 6 (us [(2, 0x7FC00000)] lab) (fun t => sAt t 41 == 0xFFFFFFFF) = true
    ∧ wordRuns 0x540B027C 0 (setv [(4, .a 0 1)] (active 3 lab)) (fun t => sAt t 44 == 6 && sAt t 45 == 0) = true
    ∧ wordRuns 0x5482427C 0 (setv [(4, .a 0 1)] (active 1 lab)) (fun t => sAt t 9 == 0) = true
    ∧ wordRuns 0x5502427C 0 (active 0 lab) (fun t => sAt t 9 == 1) = true
    ∧ wordRuns 0x5582427C 0 (setv [(4, .a 0 1)] lab) (fun t => sAt t 9 == 95) = true
    ∧ wordRuns 0x2E07827C 0 (setv [(4, .a 0 1)] lab) (fun t => sAt t 30 == 1) = true := by decide +kernel

/-- R400, R401: three active lanes of v3; no active lane gives the identity; one lane's float sum is that lane. -/
theorem witness_VectorToScalarResults_reductions :
    (let s := active 3 (setv [(3, .g ([0x01020304, 0x8000FF01, 0x05050505] ++ List.replicate 93 0))] lab)
     wordRuns 0x538501FC 0x21 s (fun t => sAt t 20 == 0x01000301) && wordRuns 0x538501FC 1 s (fun t => sAt t 20 == 0x8000FF01)
      && wordRuns 0x520501FC 0 (active 0 s) (fun t => sAt t 20 == 0) && wordRuns 0x5205017C 6 (active 0 s) (fun t => sAt t 20 == 0)
      && wordRuns 0x5205017C 6 (us [(2, 0x3F800000)] (active 1 lab)) (fun t => sAt t 20 == 0x3F800000)
      && wordRuns 0x5205017C 6 (us [(2, 0x3F800000)] lab) (fun t => sAt t 20 == 0x42C00000)
      && wordRuns 0x5205417C 8 (us [(2, 0xBF800000)] lab) (fun t => sAt t 21 == 0xBF800000)) = true := by decide +kernel

theorem witness_VectorAcrossResults :
    (let s := setv [(6, .a 100 1), (8, .u 95), (2, .u 0x0F0E0100), (9, .u 0x44332211), (12, .u 0xAABBCCDD)] lab
     runs (.vshfl .idx 0 { vb with vd := 7, a := .reg 6, b := .reg 8 }) s (fun t => vAt t 7 0 == 195)
      && runs (.vshfl .idx 0 { vb with vd := 7, a := .reg 6, b := .reg 9 }) s (fun t => vAt t 7 3 == 103)
      && runs (.vshfl .up 1 { vb with vd := 7, a := .reg 6, b := .zero }) s (fun t => vAt t 7 0 == 100 && vAt t 7 95 == 194)
      && wordRuns 0x4E01C37C 0x201 s (fun t => vAt t 7 0 == 101 && vAt t 7 95 == 195)
      && runs (.vshfl .xor 64 { vb with vd := 7, a := .reg 6, b := .zero }) s (fun t => vAt t 7 0 == 164 && vAt t 7 33 == 133)
      && runs (.vshfl .rot 95 { vb with vd := 7, a := .reg 6, b := .zero }) s (fun t => vAt t 7 0 == 195 && vAt t 7 1 == 100)
      && runs (.vbperm false { vb with vd := 4, a := .reg 2, b := .reg 12 }) s (fun t => vAt t 4 0 == 0x0000CCDD)
      && wordRuns 0x4C010108 1 s (fun t => vAt t 4 0 == 0x5F5F5F5F)
      && wordRuns 0x500141FC 0 (setv [(3, .a 0 1)] lab) (fun t => vAt t 5 0 == 0 && vAt t 5 95 == 4560)
      && wordRuns 0x500141FC 0x10 (setv [(3, .a 1 0)] lab) (fun t => vAt t 5 0 == 0 && vAt t 5 95 == 95)
      && wordRuns 0x500141FC 0x8 (setv [(3, .u 0x3F800000)] lab) (fun t => vAt t 5 95 == 0x3F800000)) = true := by decide +kernel
/-! ### Tags and memory -/

/-- Tag of a register. -/
def tagAt (s : State) (r : Nat) : Nat := ((gOf s).v r).tag

/-- R73: the tag of each kind of result, with every lane active and with one lane not active. -/
theorem witness_ShapeTags :
    (let s := setv [(1, .a 5 2), (2, .u 3), (6, .a 1 1)] lab
     let t := active 95 s
     let d (a b : Reg) : VBin := { vb with a := .reg a, b := .reg b }
     runs (.vadd .i32 (d 1 6)) s (fun t => tagAt t 3 == 1 && vAt t 3 95 == 291) && runs (.vadd .i32 (d 2 2)) s (fun t => tagAt t 3 == 0) && runs (.vadd .i16x2 (d 1 2)) s (fun t => tagAt t 3 == 2)
      && runs (.vadd .i32 (d 1 2)) t (fun t => tagAt t 3 == 2) && runs (.vsub .n32 (d 2 1)) s (fun t => tagAt t 3 == 1 && vAt t 3 95 == 0xFFFFFF40)
      && runs (.vmul .i32 (d 1 2)) s (fun t => tagAt t 3 == 1) && runs (.vmul .i32 (d 1 6)) s (fun t => tagAt t 3 == 2) && runs (.vshl .i32 (d 1 2)) s (fun t => tagAt t 3 == 1)
      && runs (.vshl .i32 (d 2 1)) s (fun t => tagAt t 3 == 2) && runs (.vand (d 2 2)) s (fun t => tagAt t 3 == 0) && runs (.vxor (d 1 1)) s (fun t => tagAt t 3 == 2)
      && runs (.vshr .i32 (d 2 2)) t (fun t => tagAt t 3 == 2) && runs (.vfadd (d 2 2)) s (fun t => tagAt t 3 == 0) && runs (.vfmul (d 1 2)) s (fun t => tagAt t 3 == 2)
      && runs (.vmov { vu with a := .lane }) s (fun t => tagAt t 3 == 1) && runs (.vmov vu) t (fun t => tagAt t 3 == 2) && runs (.vscan .add .i32 false false { vu with a := .reg 2 }) s (fun t => tagAt t 3 == 2))
      = true := by decide +kernel

theorem witness_ShapeTags_retag :
    (let s := setv [(1, .a 5 2), (2, .g (List.replicate 96 7)), (4, .g ((List.range 96).map fun n => BitVec.ofNat 32 (3 * n)))] (active 0 lab)
     let u (a : Reg) : VUn := { vu with a := .reg a }
     runs (.vtag .toU (u 2)) s (fun t => tagAt t 3 == 0 && vAt t 3 95 == 7) && runs (.vtag .toU (u 1)) s (fun t => tagAt t 3 == 1) && runs (.vtag .toA (u 4)) s (fun t => tagAt t 3 == 1 && vAt t 3 95 == 285)
      && runs (.vtag .toA (u 2)) s (fun t => tagAt t 3 == 1) && runs (.vtag .toG (u 1)) s (fun t => tagAt t 3 == 2 && vAt t 3 95 == 195)) = true := by decide +kernel

/-- R75: with a budget of 0 a partial write, and `VTAG.g`, trap before any write. -/
theorem witness_ShapeTags_budget :
    (let s := active 3 (withG lab fun g => { g with budget := 0 })
     (spOf s).mask != BitVec.allOnes 96 && !(gOf s).room 3
      && [Instr.vadd .i32 vb, .vmul .i32 vb, .vand vb, .vsel 0 vb, .vfadd vb, .vfma .pp vb, .vmov vu, .vabs .i32 vu, .vfrcp vu, .vscan .add .i32 false false vu, .vtag .toG vu].all (traps · s causeTAGBUDGET))
      = true := by decide +kernel

/-- Page tables with pages of every size: 1 GiB at 0, 2 MiB read-only at 0x40000000, 64 KiB at 0x40200000; a page of package 1 at 0x40210000, a
publishable one at 0x40220000, one without HBM at 0x40230000, and an entry with a reserved bit at 0x80000000. -/
def paged (s : State) : State :=
  let m := s.mem.write 0x30008 8 0x60001
  let m := m.write 0x30010 8 (2 ^ 57 + 1)
  let m := m.write 0x60000 8 0x200007
  let m := m.write 0x60008 8 0x70001
  let m := m.write 0x70000 8 0x8001F
  let m := m.write 0x70008 8 0x9005F
  let m := m.write 0x70010 8 0xA003F
  let m := m.write 0x70018 8 (2 ^ 56 + 0x1F)
  let m := m.write 0x80000 8 0x8877665544332211
  { s with
    mem := m
    vfs := tset 0 { s.vf 0 with triples := [(1, 3)], regions := [{ base := 0x40220000, size := 65536, scope := .pkg }] } s.vfs }

/-- The check of one access fails with a cause. -/
def failsWith (s : State) (scratch : Bool) (size : Nat) (need : Need) (a : DWord) (cause : Nat) : Bool :=
  match laneCheck s (gOf s) scratch size need (5, a) with | .error (.cause c) => c == cause | _ => false

/-- R127, R128, R132: each check fails at an address that passes the ones before it, at the boundaries of its range. -/
theorem witness_AccessChecks :
    (let s := paged lab
     failsWith s false 4 .read 0x0100000000000000 causeXLATE && failsWith s false 4 .read 0xFE00000000000001 causeXLATE && failsWith s false 4 .read 0x40000 causeXLATE == false
      && failsWith s false 4 .read 0x40001 causeALIGN && failsWith s false 8 .read 0x40004 causeALIGN && failsWith s false 4 .read 0x80000000 causeXLATE && failsWith s false 4 .read 0xC0000000 causeXLATE
      && failsWith s false 4 .write 0x40000000 causePROT && failsWith s false 4 .exec 0x401FFFFC causePROT && failsWith s true 4 .read 4096 causeSCRATCH && failsWith s true 4 .read 4094 causeSCRATCH
      && failsWith s true 4 .read 4090 causeALIGN && failsWith s true 8 .write 4088 causeALIGN == false && failsWith s true 4 .read 0x80001000 causeSCRATCH && failsWith s true 4 .read 0x80000FFC causeSCRATCH == false
      && (match laneCheck s (gOf s) true 4 .read (5, 4092) with | .ok x => x == ⟨5, 4092, 4092, 0, 0, false⟩ | _ => false)) = true := by decide +kernel

/-- R273: the walk finds a page of each size, and none through an entry with a reserved bit. -/
theorem witness_AccessChecks_walk :
    (let s := paged lab
     let at' (va : Nat) := (s.translate 0 0 va).map fun l => (l.pa, l.page, l.x, l.w, l.r, l.pub, l.home)
     tlbLookup 0 0x40200010 (s.coreAt 0).tlb == none && at' 0x40200010 == some (0x80010, 65536, true, true, true, false, 0) && at' 0x401FFFFF == some (0x3FFFFF, 2 ^ 21, false, false, true, false, 0)
      && at' 0x3FFFFFFF == some (0x3FFFFFFF, 2 ^ 30, true, true, true, false, 0) && at' 0x40210000 == some (0x90000, 65536, true, true, true, false, 1)
      && (at' 0x40220000).map (fun x => x.2.2.2.2.2.1) == some true && at' 0x80000000 == none && at' 0x40240000 == none) = true := by decide +kernel

/-- R127: lane 2 is the lowest that fails; a store to a read-only page traps PROT; a scalar access out of the scratch allocation traps SCRATCH. -/
theorem witness_AccessChecks_traps :
    (let s := setv [(1, .a 0 0x800)] (sets [(10, 0), (20, 0x40000000), (21, 0)] (paged lab))
     traps (.vlds lm) s causeSCRATCH && after (.vlds lm) s (fun t => ((gOf t).trap.map fun x => (x.info.lane, x.info.addr)) == some (2, 0x1000))
      && traps (.vsts lm) s causeSCRATCH && traps (.sst um) s causePROT && after (.sst um) s (fun t => ((gOf t).trap.map fun x => (x.info.lane, x.info.addr)) == some (127, 0x40000000))
      && traps (.sld { um with off := 0x40 }) (sets [(20, 1)] s) causeALIGN && traps (.slds um) s causeSCRATCH && traps (.ssts um) s causeSCRATCH && traps (.vld { lm with pair := 10 }) (sets [(21, 0x01000000)] s) causeXLATE
      && traps (.vst { lm with pair := 10 }) s causePROT) = true := by decide +kernel

/-- The hypothesis `Reaches`, computed: the accesses made. -/
def reaches (s : State) (scratch : Bool) (size : Nat) (need : Need) (rd wr : Bool) (addrs : List (Nat × DWord)) : Option (List LaneAt) :=
  match laneChecks s (gOf s) scratch size need addrs with
  | .ok xs =>
    if xs.all (fun x => !x.remote && (watchHit (gOf s).dbg rd wr size x.a).isNone && (scratch || !rd || !s.badAt x.key size))
        && xs.all (fun x => !scratch || !rd || (s.emptyBytes x.key size).isEmpty) then some xs else none
  | .error _ => none

/-- What `reaches` computes is `Reaches`. -/
theorem reaches_meets {s : State} {scratch : Bool} {size : Nat} {need : Need} {rd wr : Bool} {addrs : List (Nat × DWord)} {xs : List LaneAt}
    (h : reaches s scratch size need rd wr addrs = some xs) : Reaches s (gOf s) scratch size need rd wr addrs xs := by
  unfold reaches at h
  split at h
  · next ys hy =>
    split at h
    · next hx =>
      obtain rfl : ys = xs := by simpa using h
      simp only [List.all_eq_true, Bool.and_eq_true, Bool.or_eq_true, Bool.not_eq_true', Option.isNone_iff_eq_none, List.isEmpty_iff] at hx
      obtain ⟨hx, ht⟩ := hx
      refine ⟨hy, fun x m => (hx x m).1.1, Or.inr fun x m => (hx x m).1.2, ?_, ?_⟩
      · cases scratch
        · cases rd
          · simp
          · exact Or.inr (Or.inr fun x m => by simpa using (hx x m).2)
        · simp
      · cases scratch
        · simp
        · cases rd
          · simp
          · exact Or.inr (Or.inr fun x m => by simpa using ht x m)
    · simp at h
  · simp at h

/-- The accesses of an LM instruction are made. -/
def lmReaches (i : Instr) (s : State) (o : LmOp) (scratch load : Bool) : Bool :=
  ready i s && decide (Memory.wf s = true) && (gOf s).roomFor (if o.width = .w64 then [o.vd.toNat, o.vd.toNat + 1] else [o.vd.toNat])
    && (reaches s scratch o.width.bytes (if load then .read else .write) load (!load) (s.lmAt (gOf s) (spOf s) o)).isSome

/-- Lanes at 0x80000 with offsets of 1, 4 and 8 bytes. -/
def strided (d : Word) : State := setv [(1, .a 0 d), (2, .a 0x100 1), (3, .u 0xAABBCCDD)] (sets [(10, 0x80000), (11, 0)] (paged (active 4 lab)))

theorem witness_VectorLoads :
    (let ok (o : LmOp) (d v v1 : Word) : Bool := lmReaches (.vld o) (strided d) o false true && runs (.vld o) (strided d) fun t => vAt t 4 1 == v && tagAt t 4 == 2 && vAt t 4 95 == 0
        && (gOf t).busy != [] && (o.width != .w64 || vAt t 5 0 == v1)
     ok lm 4 0x88776655 0 && ok { lm with width := .w8 } 1 0x22 0 && ok { lm with width := .w8, sx := true } 7 0xFFFFFF88 0 && ok { lm with width := .w16 } 2 0x4433 0
      && ok { lm with width := .w16, sx := true } 6 0xFFFF8877 0 && ok { lm with width := .w64 } 8 0 0x88776655)
     && (let s := { setv [(1, .a 0 4)] (sets [(10, 16), (11, 0)] (active 4 lab)) with scratch := Mem.write {} 20 4 0x80000001 }
         lmReaches (.vlds lm) s lm true true && runs (.vlds lm) s (fun t => vAt t 4 1 == 0x80000001)) = true := by decide +kernel

theorem witness_VectorStores :
    (let ok (o : LmOp) (d : Word) (a v : Nat) : Bool := lmReaches (.vst o) (strided d) o false false && runs (.vst o) (strided d) fun t => t.mem.read a 8 == v && t.mem.get 0x90000 == 0
     ok { lm with vd := 2 } 4 0x80000 0x0000010100000100 && ok { lm with width := .w8, vd := 2 } 1 0x80000 0x8877665503020100 && ok { lm with width := .w16, vd := 2 } 2 0x80000 0x0103010201010100
      && ok { lm with width := .w64, vd := 2 } 8 0x80008 0xAABBCCDD00000101 && ok { lm with vd := 2 } 0 0x80000 0x8877665500000103)
     && (let s := setv [(1, .a 0 4), (2, .a 0x100 1)] (sets [(10, 16), (11, 0)] (active 4 lab))
         lmReaches (.vsts { lm with vd := 2 }) s { lm with vd := 2 } true false && runs (.vsts { lm with vd := 2 }) s (fun t => t.scratch.read 16 8 == 0x0000010100000100)) = true := by decide +kernel

/-- The access of a UM instruction is made. -/
def umReaches (i : Instr) (s : State) (o : UmOp) (scratch : Bool) (size : Nat) (need : Need) (rd wr : Bool) : Bool :=
  ready i s && decide (Memory.wf s = true) && (spOf s).mask != 0 && (reaches s scratch size need rd wr [(127, (gOf s).umAt (spOf s) o size)]).isSome

/-- s20:s21 = 0x80008, s12 to s15 data. -/
def scal : State := sets [(20, 0x80008), (21, 0), (10, 7), (12, 0x80000001), (13, 0x11), (14, 0x55667788), (15, 0)] (paged lab)

theorem witness_ScalarAccesses :
    (let s := { scal with mem := scal.mem.write 0x80008 8 0x1122334455667788, scratch := Mem.write {} 8 4 9 }
     let sc := sets [(20, 8)] s
     umReaches (.sld um) s um false 4 .read true false && runs (.sld um) s (fun t => sAt t 10 == 0x55667788 && (gOf t).busy == [RegRef.s 10])
      && runs (.sld { um with off := 0x7F }) s (fun t => sAt t 10 == 0x88776655) && runs (.sld { um with sd := 125 }) s (fun t => (spOf t).mask == 0xFFFFFFFFFFFFFFFF55667788)
      && umReaches (.sst um) s um false 4 .write false true && runs (.sst um) s (fun t => t.mem.read 0x80008 8 == 0x1122334400000007)
      && umReaches (.slds um) sc um true 4 .read true false && runs (.slds um) sc (fun t => sAt t 10 == 9)
      && umReaches (.ssts um) sc um true 4 .write false true && runs (.ssts um) sc (fun t => t.scratch.read 8 4 == 7)
      && runs (.sst { um with ord := .rel, scope := .pod }) s (fun t => t.mem.read 0x80008 4 == 7)
      && runs (.sld { um with ord := .acq, scope := .pod }) { s with vfs := tset 0 { s.vf 0 with scopeMax := .die } s.vfs } (fun t => (t.vf 0).demote == 1)
      && runs (.slds { um with ord := .acq, scope := .pod }) { sc with vfs := tset 0 { s.vf 0 with scopeMax := .core } s.vfs } (fun t => (t.vf 0).demote == 0)
      && runs (.sst { um with ord := .rel }) s (fun t => t.lineCore == [(0x1000, 0)]) && runs (.sst { um with ord := .rel, scope := .quad }) s (fun t => t.lineCore == [])
      && [Instr.sld um, .sst um, .slds um, .ssts um].all (fun i => runs i (active 0 s) fun t => t.mem == s.mem && sAt t 10 == 7)) = true := by decide +kernel

theorem witness_ScalarAtomics :
    (let s := { scal with mem := scal.mem.write 0x80008 8 0x1122334455667788 }
     let go (c : SAtomCw) (old new : Nat) : Bool := umReaches (.satom um c) s um false (if c.w64 then 8 else 4) (if c.aop = .ld then .read else .write) true true
        && runs (.satom um c) s fun t => (sAt t 10).toNat + (if c.w64 then (sAt t 11).toNat * 2 ^ 32 else 0) == old && t.mem.read 0x80008 (if c.w64 then 8 else 4) == new
     let c (a : Aop) : SAtomCw := { cw with aop := a }
     go (c .add) 0x55667788 0xD5667789 && go (c .min) 0x55667788 0x80000001 && go (c .max) 0x55667788 0x55667788 && go (c .nmin) 0x55667788 0x55667788 && go (c .nmax) 0x55667788 0x80000001
      && go (c .and) 0x55667788 0 && go (c .or) 0x55667788 0xD5667789 && go (c .xor) 0x55667788 0xD5667789 && go (c .exch) 0x55667788 0x80000001 && go { c .cas with sc := 14 } 0x55667788 0x80000001
      && go { c .cas with sc := 13 } 0x55667788 0x55667788 && go { c .ld with sb := 0 } 0x55667788 0x55667788 && go { c .add with w64 := true } 0x1122334455667788 0x11223355D5667789
      && go (c .fadd) 0x55667788 0x55667788
      && (let i := Instr.satom { um with ord := .acqrel } { cw with rsp := true }
          let p (core : Nat) : State := { s with lineCore := [(0x1000, core)] }
          runs i (p 1) (fun t => t.lineCore == [(0x1000, 0)]))) = true := by decide +kernel

theorem witness_VectorAtomics :
    (let s := setv [(1, .a 0 4), (2, .a 0x10 1), (6, .u 9)] (sets [(10, 0x80000), (11, 0)] (paged (active 4 lab)))
     let ok (o : VAtomOp) (p : State → Bool) : Bool := ready (.vatom o) s && (gOf s).roomFor [6, 7] && decide (Memory.wf s = true)
        && (reaches s false 4 (if o.aop = .ld then .read else .write) true true ((lanes.filter (laneOn (spOf s).mask)).map fun n => (n, (0x80000 : DWord) + BitVec.ofNat 64 (4 * n)))).isSome && runs (.vatom o) s p
     ok va (fun t => t.mem.read 0x80004 4 == 0x88776666 && vAt t 6 1 == 0x88776655 && vAt t 6 95 == 9)
      && ok { va with ret := false, vd := 0 } (fun t => t.mem.read 0x80004 4 == 0x88776666 && vAt t 6 1 == 9) && ok { va with aop := .ld, data := .zero } (fun t => vAt t 6 0 == 0x44332211)
      && ok { va with aop := .cas, cmpv := 6 } (fun t => t.mem.read 0x80008 4 == 0 && vAt t 6 2 == 0)
      && runs (.vatom { va with w64 := true }) (setv [(1, .a 0 8)] s) (fun t => t.mem.read 0x80008 8 == 0x11 && vAt t 7 0 == 0x88776655)) = true := by decide +kernel

theorem witness_Reservations :
    (let o := { um with ord := Ord4.acq, scope := Scope.pkg }
     let w := { um with ord := Ord4.rel, scope := Scope.pkg }
     let s := { scal with mem := scal.mem.write 0x80008 4 5 }
     umReaches (.slr o) s o false 4 .read true true && runs (.slr o) s (fun t => sAt t 10 == 5 && (gOf t).reserv == some 0x1000)
      && umReaches (.ssc w) s w false 4 .write true true && runs (.ssc w) s (fun t => sAt t 11 == 1 && t.mem.read 0x80008 4 == 5)
      && runs (.ssc w) (withG s fun g => { g with reserv := some 0x1000 }) (fun t => sAt t 11 == 0 && t.mem.read 0x80008 4 == 7 && (gOf t).reserv == none)
      && runs (.ssc w) (withG s fun g => { g with reserv := some 0x1001 }) (fun t => sAt t 11 == 1)
      && ((withG s fun g => { g with reserv := some 0x1000 }).storeMem 0x80080 [1]).group? 0 == (withG s fun g => { g with reserv := some 0x1000 }).group? 0
      && ((withG s fun g => { g with reserv := some 0x1000 }).storeMem 0x8007F [1, 2]).group? 0 == s.group? 0
      && ((withG s fun g => { g with reserv := some 0x1001 }).storeMem 0x8007F [1, 2]).group? 0 == s.group? 0) = true := by decide +kernel

/-- A remote operation of the group that is not acknowledged. -/
def inFlight (s : State) : State := { s with rops := [(7, { gid := 0, task := none, launch := 1, vf := 0, split := 1, lane := { lane := 127, kind := 0, size := 4, va := 0, pa := 0, home := 1 } })] }

theorem witness_FencesAndRemoteLoads :
    (let s := sets [(20, 0x40210008), (21, 0)] (paged lab)
     runs (.fence .acqrel .pod) s && runs (.fence .acq .pod) (inFlight s) && runs (.fence .rel .pkg) (inFlight s) && waits (.fence .rel .pod) (inFlight s) .acks && (s.podReady 0 0) && !(inFlight s).podReady 0 0
      && runs (.fence .acqrel .pod) { s with vfs := tset 0 { s.vf 0 with scopeMax := .die } s.vfs } (fun t => (t.vf 0).demote == 1)
      && ready (.sld um) s && decide (s.ropCount 0 < 64) && (match laneChecks s (gOf s) false 4 .read [(127, (gOf s).umAt (spOf s) um 4)] with | .ok [x] => x.remote && x.home == 1 | _ => false)
      && after (.sld um) s (fun t => (spOf t).wait == .replies && t.rops.length == 1 && t.mem == s.mem && sAt t 10 == 0 && ((gOf t).rinstr.map fun r => r.dest) == [.scal 10 false])) = true := by decide +kernel
/-! ### Traps, control flow and system registers -/

/-- The group has a port: item 5 of a launch whose kernel declares port 0 at distance 2 and port 1 at distance 9. -/
def ported (s : State) : State :=
  let p : PortDecl := { scalar := false, src := 1, k := 2, fromPayload := false, word := 0, lit := 7 }
  { withG s fun g => { g with item := some 5, block := none } with
    launches := tmod 1 (fun l => { l with kernel := { l.kernel with kind := 1, grid := 20, ports := [some p, some { p with k := 9 }, none, none] } }) s.launches }

/-- A value on port 0 for item 5. -/
def fwd (v : PortVal) (arrived : Bool) : Fwd := { launch := 1, item := 5, port := 0, val := v, spilled := false, arrived := arrived }

/-- R227-R229, R235: raised with the scoreboard drained, or not; entry with a handler, without one. -/
theorem witness_TrapEntry :
    (let info : TrapInfo := { cause := 8, pc := 0x40000 }
     let busy (s : State) : State := withG s fun g => { g with busy := [.v 1] }
     let s := sets [(3, 33)] (us [(2, 22)] lab)
     let pend (s : State) : State := withG s fun g => { g with pend := some info }
     let no (s : State) : State := { s with vfs := tset 0 { s.vf 0 with thandler := 0 } s.vfs }
     !(gOf (busy s)).drained 0 && (gOf ((busy s).raise 0 info 0x40004)).pend == some { info with order := s.nextId } && (spOf ((busy s).raise 0 info 0x40004)).pc == 0x40004 && (gOf s).drained 0
      && after (.trapEntry 0) (pend s) (fun t => (gOf t).sregs == List.replicate 125 0 && ((gOf t).trap.map fun x => (x.frame.getD 2 0, x.frame.getD 18 0, x.frame.getD 67 0, x.frame.getD (224 + 192 + 95) 0)) == some (0x40000, 0xE0000000, 33, 22))
      && after (.trapEntry 0) (pend (no s)) (fun t => (gOf t).life == .retired && ((tget 1 t.launches).bind fun l => l.fault) == some ⟨8, 0, 0x40000, true⟩)) = true := by decide +kernel

/-- R234: the first nested cause restarts the handler, the fourth kills the group. -/
theorem witness_TrapEntry_nested :
    (let s := trapMode lab
     after (.nestedTrap 0 3) s (fun t => (spOf t).pc == 0x50000 && ((gOf t).trap.map fun x => (x.nest, x.ncause, x.npc)) == some (1, 3, 0x40000))
      && after (.nestedTrap 0 3) (withG s fun g => { g with trap := g.trap.map fun x => { x with nest := 3 } }) (fun t => (gOf t).life == .retired)) = true := by decide +kernel

/-- R98: each stop at issue, at states that pass the checks before it. -/
theorem witness_IssueChecks :
    (let stop (i : Instr) (s : State) (cause : Nat) : Bool := s.cur == .group 0 0 && after i s fun t => ((gOf t).trap.map fun x => x.info.cause) == some cause
     let wait (i : Instr) (s : State) (why : Again) : Bool := s.cur == .group 0 0 && after i s fun t => (spOf t).wait == .again why
     let p0 : Instr := .vmov { vu with a := .port 0 }
     stop (.mzero 1) lab causeSEQCTX && stop (.vadd .i32 { vb with vd := 120 }) lab causeILLEGAL && stop (.vadd .i32 { vb with vd := 16 }) lab causeILLEGAL && runs (.vadd .i32 { vb with vd := 15 }) lab
      && stop p0 lab causeILLEGAL && stop (.vmov { vu with a := .port 2 }) (ported lab) causeILLEGAL && wait (.vadd .i32 vb) (withG lab fun g => { g with busy := [.v 2] }) (.regs (uses lab (gOf lab) 0 (.vadd .i32 vb)))
      && wait (.sadd so) (withG lab fun g => { g with busy := [.s 6] }) (.regs (uses lab (gOf lab) 0 (.sadd so))) && runs (.sadd so) (withG lab fun g => { g with busy := [.s 7, .v 4] })
      && wait p0 (ported lab) (.port [0]) && wait p0 { ported lab with fwds := [fwd (.arrived (.u 4)) false] } (.port [0]) && runs p0 { ported lab with fwds := [fwd (.arrived (.u 4)) true] } (fun t => vAt t 3 0 == 4)
      && runs (.vmov { vu with a := .port 1 }) (ported lab) (fun t => vAt t 3 9 == 7) && stop p0 { ported lab with fwds := [fwd (.poisoned []) true] } causeFWDPOISON) = true := by decide +kernel

/-- The debug unit steps every split of the group. -/
def stepping (s : State) : State := withG s fun g => { g with dbg := { g.dbg with ctl := 0xC0000000 } }

theorem witness_TrapInstructions :
    (let frame (t : State) : Option (Nat × Word × Word × Word) := (gOf t).trap.map fun x => (x.info.cause, x.info.code, x.info.pc, x.frame.getD 2 0)
     ready (.bkpt 5) lab && after (.bkpt 5) lab (fun t => frame t == some (8, 5, 0x40000, 0x40004)) && ready (.trap 0x12) lab && after (.trap 0x12) lab (fun t => frame t == some (11, 0x12, 0x40000, 0x40004))
      && (gOf (stepping lab)).stepped 0 && after .nop (stepping lab) (fun t => frame t == some (10, 0, 0x40000, 0x40004))
      && after (.smovi 8 5) (stepping lab) (fun t => ((gOf t).trap.map fun x => (x.info.cause, x.frame.getD 72 0)) == some (10, 5))
      && after (.smov false 8 (.lit 6)) (stepping lab) (fun t => ((gOf t).trap.map fun x => (x.frame.getD 2 0, x.frame.getD 72 0)) == some (0x40008, 6))) = true := by decide +kernel

theorem witness_TrapReturn :
    (let s := trapMode (sets [(3, 33)] (us [(2, 22)] lab))
     let bad := withG s fun g => { g with trap := g.trap.map fun x => { x with frame := x.frame.set 2 0x40002 } }
     traps .tret lab causePRIV && ready .tret s && tretOk (gOf s) ((gOf s).trap.map (·.frame) |>.getD []) && (gOf s).splits.all (fun p => p.2.wait == .none)
      && after .tret s (fun t => (gOf t).trap.isNone && (spOf t).pc == 0x40000 && sAt t 3 == 33 && vAt t 2 95 == 22 && (spOf t).exempt)
      && !tretOk (gOf bad) ((gOf bad).trap.map (·.frame) |>.getD []) && nests .tret bad causeILLEGAL) = true := by decide +kernel

/-- The split goes to `pc`. -/
def jumps (i : Instr) (s : State) (pc : Word) : Bool := ready i s && after i s fun t => (spOf t).pc == pc && (gOf t).trap.isNone
/-- A window whose first word is the split's, so that a branch back leaves it. -/
def atStart (s : State) : State := withSp s fun sp => { sp with pc := 0 }

theorem witness_BranchesAndWaits :
    (let s := sets [(44, 0), (45, 0x80000000)] lab
     jumps (.bra (-3)) s 0x3FFF4 && traps (.bra (-3)) (atStart s) causeXLATE && jumps (.bra 0) (atStart s) 0 && jumps (.bcc .eq 44 4) s 0x40010 && jumps (.bcc .ne 44 4) s 0x40004 && jumps (.bcc .lt 45 0xFFFF) s 0x3FFFC
      && jumps (.bcc .ge 44 1) s 0x40004 && jumps (.bcc .ge 45 8) s 0x40004 && traps (.bcc .eq 44 0xFFFF) (atStart s) causeXLATE && ready (.call 12) s && after (.call 12) s (fun t => (spOf t).pc == 0x40030 && sAt t 119 == 0x40004)
      && traps (.call (-1)) (atStart s) causeXLATE && jumps .ret (sets [(119, 0x40100)] s) 0x40100 && traps .ret (sets [(119, 0x40102)] s) causeILLEGAL && jumps .nop s 0x40004) = true := by decide +kernel

/-- `n` messages of the group are under way. -/
def messages (n : Nat) (s : State) : State := { s with msgs := (List.range n).map fun i => (i, { gid := 0, task := none, launch := 1, core := 0, queue := 0, words := [1] }) }

theorem witness_BranchesAndWaits_waits :
    (let s := messages 2 lab
     runs (.waitc .msg (.lit 2)) s && ready (.waitc .msg (.lit 1)) s && after (.waitc .msg (.lit 1)) s (fun t => (spOf t).wait == .counter .msg 1 false && (spOf t).cont == 0x40008) && runs (.waitc .cpy (.lit 0)) s
      && ready (.yield (some .msg) 9 5) (sets [(9, 2)] s) && after (.yield (some .msg) 9 5) (sets [(9, 2)] s) (fun t => (spOf t).pc == 0x40014 && (spOf t).wait == .counter .msg 2 true)
      && ready (.yield none 0 5) s && after (.yield none 0 5) s (fun t => (spOf t).pc == 0x40014 && (spOf t).wait == .yield 100) && traps (.yield none 0 0x8000) (atStart s) causeXLATE) = true := by decide +kernel

/-- Four splits hold lanes, split 0 the lanes 0 to 3. -/
def fourSplits (s : State) : State := withG s fun g => { g with splits := [(0, { pc := 0x40000, mask := 15 }), (1, { pc := 0x41000, mask := 16 }), (2, { pc := 0x42000, mask := 32 }), (3, { pc := 0x43000, mask := 64 })] }
/-- `n` deferral entries of split `k`. -/
def defers (l : List Defer) (s : State) : State := withG s fun g => { g with defer := l }

theorem witness_Divergence :
    (let i := Instr.bdiv false 40 0xFFF8
     let s (m : Word) : State := sets [(40, m)] (active 4 lab)
     let f (m : Word) (l : List Defer) : State := sets [(40, m)] (defers l (fourSplits lab))
     jumps i (s 0xF0) 0x40004 && jumps i (s 0xFF) 0x3FFE0 && traps i (atStart (s 1)) causeXLATE && jumps (.bdiv true 40 0xFFF8) (s 0xF) 0x40004
      && ready i (s 5) && after i (s 5) (fun t => (gOf t).splits.map (fun p => (p.1, p.2.pc, p.2.mask)) == [(0, 0x3FFE0, 5), (1, 0x40004, 10)])
      && ready i (f 5 []) && after i (f 5 []) (fun t => (gOf t).defer == [⟨0, 0x40004, 10⟩] && (spOf t).mask == 5)
      && after i (f 5 [⟨0, 0x40004, 0x100⟩]) (fun t => (gOf t).defer == [⟨0, 0x40004, 0x10A⟩]) && after i (f 5 [⟨0, 0x40008, 0x100⟩]) (fun t => (gOf t).defer.length == 2)
      && after i (f 5 (List.replicate 7 ⟨1, 0, 0⟩)) (fun t => (gOf t).defer.length == 8) && traps i (f 5 (List.replicate 8 ⟨1, 0, 0⟩)) causeILLEGAL) = true := by decide +kernel

theorem witness_Exits :
    (let s := active 4 lab
     ready .exit s && after .exit (defers [⟨0, 0x40800, 0x70⟩, ⟨1, 0, 0x80⟩] s) (fun t => (spOf t).pc == 0x40800 && (spOf t).mask == 0x70 && (gOf t).exited == 15 && (gOf t).defer == [⟨1, 0, 0x80⟩])
      && after .exit (fourSplits s) (fun t => (gOf t).splits.map (fun p => p.1) == [1, 2, 3] && (gOf t).exited == 15) && holds .exit (inFlight s) .release
      && holds .exit { ported s with groups := (ported s).groups ++ [(3, { gOf (ported s) with item := some 7, slot := 1 }), (4, { gOf (ported s) with item := some 4, slot := 2 })], fwds := List.replicate 64 { fwd (.arrived (.u 0)) true with item := 7 } } (.send 4)
      && s.groups.all (fun p => !p.2.atRegrp) && s.sendsFit (gOf s) && after .exit s (fun t => (gOf t).life == .retired && ((tget 1 t.launches).map fun l => l.sums.retired) == some 1)) = true := by decide +kernel

/-- SRD of register `n` gives `v`. -/
def srd (n : Nat) (s : State) (v : Word) : Bool := runs (.srd 5 (.lit (BitVec.ofNat 32 n))) s fun t => sAt t 5 == v

theorem witness_SystemReads :
    (let s := { withG lab fun g => { g with
                  gmode := 1
                  copyErr := true
                  fl := [⟨0, true, 1, false, 1, 0, 0, 127⟩]
                  dbg := { ctl := 0xF, bpa := [1, 2, 3, 4], wpl := [5, 6, 7, 8], wpa := [0x100000002, 0, 0, 0x300000004] } } with
                cores := [(0, { sdccnt := 3, atomloc := 4, atomhome := 5 })]
                queues := [(15, { cfg := 9 })] }
     let t := trapMode (withG s fun g => { g with fl := [] })
     srd 1 s 1 && srd 0x10001 s 1 && srd 0x21 s 1 && srd 0x30 s 3 && srd 0x31 s 4 && srd 0x32 s 5 && srd 0x40 s 0 && srd 0x4F s 9 && srd 0x20 s 0
      && [0x10, 0x18, 0x34, 0x100, 0x104, 0x113, 0x118, 0x123].all (fun n => traps (.srd 5 (.lit n)) s causePRIV)
      && [0, 2, 0xF, 0x19, 0x1F, 0x50, 0xFF, 0x850, 0x7FFF, 0x8000 + 224 + 96 * 16].all (fun n => traps (.srd 5 (.lit n)) s causeILLEGAL)
      && srd 0x10 t (8 + 127 * 1024) && srd 0x11 t 0x40000 && srd 0x12 t 0 && srd 0x13 t 0 && srd 0x14 t 0 && srd 0x15 t 0 && srd 0x16 t 0 && srd 0x17 t 0x50000 && srd 0x34 t 0 && srd 0x100 t 0xF
      && srd 0x104 t 1 && srd 0x107 t 4 && srd 0x120 t 5 && srd 0x123 t 8 && srd 0x118 t 2 && srd 0x119 t 1 && srd 0x11E t 4 && srd 0x11F t 3 && srd 0x8037 t 1 && srd (0x8000 + 224 + 96 * 16 - 1) t 0
      && runs (.clk true 4) s (fun t => sAt t 4 == 10 && sAt t 5 == 0) && runs (.clk false 4) s (fun t => sAt t 4 == 100)) = true := by decide +kernel

/-- SWR of register `n` with `v` completes, as does the step of the same write. -/
def swr (n : Nat) (v : Word) (s : State) (p : State → Bool) : Bool :=
  runs (.swr 6 (.lit (BitVec.ofNat 32 n))) (sets [(6, v)] s) p && after (.systemRegisterWrite (BitVec.ofNat 16 n) v) s p

theorem witness_SystemWrites :
    (let s := withG lab fun g => { g with copyErr := true }
     let t := trapMode s
     let frame (u : State) (w : Nat) : Option Word := (gOf u).trap.map fun x => x.frame.getD w 0
     swr 1 3 s (fun u => (gOf u).gmode == 1) && swr 0x21 1 s (fun u => !(gOf u).copyErr) && after (.cpystatWrite 0) s (fun u => !(gOf u).copyErr)
      && [0x20, 0x30, 0x31, 0x32].all (fun n => swr n 9 s fun u => (gOf u).vregs == (gOf s).vregs && u.cores == s.cores) && [0x10, 0x11, 0x17].all (fun n => swr n 9 t fun u => (gOf u).trap == (gOf t).trap)
      && (ready (.swr 6 (.lit 0x100)) t && after (.systemRegisterWrite 0x100 0xFFFFFFFF) t (fun u => (gOf u).dbg.ctl == 0xF000FF0F)) && swr 0x107 7 t (fun u => (gOf u).dbg.bpa == [0, 0, 0, 7])
      && swr 0x120 0x1F t (fun u => (gOf u).dbg.wpl == [15, 0, 0, 0]) && swr 0x11E 7 t (fun u => (gOf u).dbg.wpa == [0, 0, 0, 7]) && swr 0x119 7 t (fun u => (gOf u).dbg.wpa == [0x700000000, 0, 0, 0])
      && ready (.swr 6 (.lit 0x8037)) t && after (.systemRegisterWrite 0x8037 7) t (fun u => frame u 55 == some 1) && [2, 17, 22, 54, 64, 188, 192, 224 + 96 * 16 - 1].all (fun w => after (.frameWrite w 7) t (fun u => frame u w == some 7) && after (.systemRegisterWrite (BitVec.ofNat 16 (0x8000 + w)) 7) t (fun u => frame u w == some 7)))
      = true := by decide +kernel

/-- A block barrier of id 0 with two expected. -/
def blockBar (s : State) (b : Barrier) : State := { s with barriers := [(⟨1, 3, 0, 0⟩, b)] }

theorem witness_SystemWrites_units :
    (let q (v : Word) (s : State) (p : MQueue → Bool) : Bool := after (.mqcfgWrite 3 v) s fun t => p (t.queue 3)
     let s := { lab with blocks := [(2, ⟨1, none, 0, 0, [(0, 0, 64)], [0], false, [0]⟩)] }
     let f := { ported (trapMode lab) with fwds := [fwd (.poisoned (List.replicate 96 1)) true] }
     let b : Barrier := { expected := 3, count := 1, drops := 1, members := [0], arrived := [0] }
     let t := trapMode (blockBar lab b)
     let w := withSp t fun sp => { sp with wait := .bar ⟨1, 3, 0, 0⟩ 0 }
     s.queueOk 0 0 0xA0000040 && q 0xA0000040 s (fun x => x.cfg == 0xA0000040) && !lab.queueOk 0 0 0xA0000000 && q 0xA0000000 lab (fun x => x.cfg == 0) && q 0x20000040 s (fun x => x.cfg == 0x20000040)
      && (lab.barKey (gOf lab) 1 0) == some ⟨1, 3, 0, 0⟩ && after (.barecntWrite 1 0 2) t (fun u => (u.barrier ⟨1, 3, 0, 0⟩).map (fun b => (b.expected, b.count)) == some (2, 1))
      && after (.barecntWrite 1 0 1) t (fun u => (u.barrier ⟨1, 3, 0, 0⟩).map (fun b => (b.phase, b.expected, b.count)) == some (1, 0, 0))
      && (gOf w).waitsOn ⟨1, 3, 0, 0⟩ 0 && after (.barecntWrite 1 0 4) w (fun u => ((gOf u).trap.map fun x => x.ncause) == some causeBARBUSY)
      && after (.portstatWrite 0 1) f (fun u => u.fwds.map (fun x => x.val) == [.arrived (.g (List.replicate 96 1))])
      && after (.portlaneWrite 0 95 9) f (fun u => u.fwds.map (fun x => x.val) == [.poisoned (List.replicate 95 1 ++ [9])])
      && after (.tkillWrite 0x14) t (fun u => (gOf u).life == .retired) && [0, 0x15].all (fun v => after (.tkillWrite v) t fun u => decide (u = t))) = true := by decide +kernel
/-! ### Groups together and asynchronous work -/

/-- The phase, count and expected number of the block's barrier 0. -/
def barOf (s : State) : Option (Word × Nat × Nat) := (s.barrier ⟨1, 3, 0, 0⟩).map fun b => (b.phase, b.count, b.expected)

theorem witness_Barriers :
    (let s (b : Barrier) : State := sets [(10, 7)] (blockBar lab b)
     let b : Barrier := { phase := 7, expected := 2, members := [0, 5] }
     let last : Barrier := { b with count := 1, arrived := [5] }
     let is := [Instr.bar .block 0, .bara .block 0 10, .bard .block 0, .barw .block 0 10]
     [Instr.bar .block 1, .bara .quad 0 10, .bard .pod 0, .barw .grid 0 10].all (traps · (s b) causeILLEGAL) && is.all (traps · (s { b with broken := true }) causeFABLOST)
      && runs (.bar .block 0) (s { b with members := [5] }) (fun t => barOf t == some (7, 0, 2)) && runs (.bara .block 0 10) (s { b with members := [5] }) (fun t => sAt t 10 == 6)
      && runs (.bard .block 0) (s { b with members := [5] }) && runs (.barw .block 0 10) (s { b with members := [5] })
      && ready (.bar .block 0) (s b) && after (.bar .block 0) (s b) (fun t => barOf t == some (7, 1, 2) && (spOf t).wait == .bar ⟨1, 3, 0, 0⟩ 7) && runs (.bar .block 0) (s last) (fun t => barOf t == some (8, 0, 2))
      && runs (.bara .block 0 10) (s last) (fun t => barOf t == some (8, 0, 2) && sAt t 10 == 7) && runs (.bara .block 0 10) (s { b with count := 1, arrived := [0] }) (fun t => barOf t == some (7, 1, 2))
      && runs (.bard .block 0) (s last) (fun t => barOf t == some (8, 0, 1)) && runs (.bard .block 0) (s b) (fun t => barOf t == some (7, 1, 2))
      && runs (.bard .block 0) (s { b with doneAt := some 100 }) (fun t => barOf t == some (7, 0, 1))
      && after (.barw .block 0 10) (s b) (fun t => (spOf t).wait == .bar ⟨1, 3, 0, 0⟩ 7) && runs (.barw .block 0 10) (s { b with phase := 8 })) = true := by decide +kernel

/-- A pod barrier of packages 0 and 1, with the group a member. -/
def podBarred (s : State) : State := { s with
  pods := [(2, ([0, 1], [0, 1]))]
  launches := tmod 1 (fun l => { l with podl := 2, kernel := { l.kernel with pbars := 1 } }) s.launches
  barriers := [(⟨4, 2, 0, 0⟩, { phase := 7, expected := 2, members := [0, 5] })] }

/-- R58, R252: at pod level an arrival waits for the operations in flight; R281: a wait ends in the clk in which the phase changes. -/
theorem witness_Barriers_pod :
    (let s := podBarred lab
     let w : Group := withSp lab (fun sp => { sp with wait := .bar ⟨1, 3, 0, 0⟩ 7, cont := 0x40004 }) |> gOf
     s.barKey (gOf s) 4 0 == some ⟨4, 2, 0, 0⟩ && s.podHome 2 == 0 && ready (.bar .pod 0) s && after (.bar .pod 0) s (fun t => (t.barrier ⟨4, 2, 0, 0⟩).map (fun b => (b.phase, b.count)) == some (7, 1))
      && [Instr.bar .pod 0, .bara .pod 0 10, .bard .pod 0].all (waits · (inFlight s) .acks)
      && (w.wakeBar ⟨1, 3, 0, 0⟩ 8 100).splits.map (fun p => (p.2.pc, p.2.wait, p.2.since)) == [(0x40004, .none, 100)] && w.wakeBar ⟨1, 3, 0, 0⟩ 7 100 == w) = true := by decide +kernel

theorem witness_GroupBarrierAndRegrouping :
    (let i := Instr.regrp 3 2
     let s := setv [(3, .a 0 1), (4, .u 5)] (sets [] (withSp lab fun sp => { sp with mask := 0x80000000000000000000000A }))
     traps i (withG s fun g => { g with item := some 5 }) causeREGRPX && traps i (withG s fun g => { g with block := none }) causeREGRPX && nests i (trapMode s) causeILLEGAL
      && !s.spansCores (gOf s) && traps i { s with blocks := [(2, ⟨1, none, 0, 0, [(0, 0, 0)], [0], true, [0, 1]⟩)] } causeREGRPX
      && ready i (fourSplits s) && after i (fourSplits s) (fun t => (spOf t).wait == .regrp 3 2)
      && ready i s && (gOf s).roomFor [3, 4] && (s.groups.filter fun p => p.2.block == some 2 && p.2.core == 0 && p.2.life != .retired) == [(0, gOf s)]
      && after i s (fun t => (spOf t).mask == 7 && (spOf t).pc == 0x40004 && (List.range 4).map (vAt t 3) == [1, 3, 95, 3] && vAt t 4 2 == 5)) = true := by decide +kernel

theorem witness_GroupBarrierAndRegrouping_grp :
    (let i := Instr.bar .grp 0
     runs i lab && ready i (defers [⟨0, 0x40800, 0x70⟩] lab) && after i (defers [⟨0, 0x40800, 0x70⟩] (active 4 lab)) (fun t => (spOf t).pc == 0x40800 && (spOf t).mask == 0x70 && (gOf t).defer == [⟨0, 0x40000, 15⟩])
      && after i (fourSplits lab) (fun t => (spOf t).wait == .barGrp)) = true := by decide +kernel

/-- A split whose instruction issued before and waits. -/
def awaiting (w : Again) : Split := { pc := 0x40000, mask := 0, wait := .again w, held := some ⟨0, .nop, [], [], 0⟩ }
/-- Another group of the core with such a split. -/
def behind (w : Again) (s : State) : State := { s with groups := s.groups ++ [(5, { gOf s with slot := 9, splits := [(0, awaiting w)] })] }

theorem witness_SendsAndSpawns :
    (let s := us [(1, 8)] (ported lab)
     let j := Instr.spawn 8 30 31
     let full : State := { lab with groups := (List.range 32).map fun n => (n, { gOf lab with part := n, budget := 341 }) }
     traps (.fsend 2) s causeILLEGAL && nests (.fsend 0) (trapMode s) causeILLEGAL && traps (.fsend 0) (withG s fun g => { g with sent := [0] }) causeFWDTWICE
      && holds (.fsend 0) { s with groups := s.groups ++ [(3, { gOf s with item := some 7, slot := 1 }), (4, { gOf s with item := some 4, slot := 2 })], fwds := List.replicate 64 { fwd (.arrived (.u 0)) true with item := 7 } } (.send 0)
      && holds (.fsend 0) (withG s fun g => { g with splits := g.splits ++ [(1, awaiting (.send 0))] }) (.send 0)
      && s.fwdRoom (gOf s) 5 7 && runs (.fsend 0) s (fun t => (gOf t).sent == [0] && t.fwds == [⟨1, 7, 0, .arrived (.u 8), true, false⟩])
      && runs (.fsend 1) (withG s fun g => { g with item := some 19 }) (fun t => t.fwds == [])
      && nests j (trapMode lab) causeILLEGAL && traps j (withSp lab fun sp => { sp with pc := 0xFFFFFFF0 }) causeXLATE && runs j s (fun t => sAt t 30 == 2)
      && full.freeContext 0 (grant 341 16) == none && runs j full (fun t => sAt t 30 == 1)
      && lab.freeContext 0 (grant 16 16) == some (0, 1) && (lab.group? 3).isNone && runs j (sets [(31, 4), (38, 5)] lab) (fun t => sAt t 30 == 0
        && (t.group? 3).map (fun h => (h.part, h.slot, h.block, (h.splits.map fun p => (p.2.pc, p.2.mask)), h.sregs.getD 0 0, h.sregs.getD 7 0, h.sregs.getD 121 0, h.sregs.getD 124 0))
          == some (0, 1, none, [(0x40020, BitVec.allOnes 96)], 4, 5, 0xFFFFFFFF, 96))) = true := by decide +kernel

/-- s10 bytes or stride, s4:s5 destination, s0:s1 source. -/
def copyRegs (n d s : Word) (x : State) : State := sets [(10, n), (4, d), (0, s)] (paged x)

/-- `n` copies of the group under way. -/
def copies (n : Nat) (s : State) : State :=
  { s with copies := (List.range n).map fun i => (i, { gid := 0, task := none, launch := 1, vf := 0, core := 0, block := some 2, fromScratch := false, toScratch := true, addrs := [(0x80000, 3)], srcs := [some 0x80000], dsts := [some 3], old := [0], faults := false }) }

theorem witness_Copies :
    (let i := Instr.cpy .g2s false .none 0 0 10 4 0
     let s := copyRegs 4 16 0x80000 lab
     let t := copyRegs 32 2048 0 lab
     let got (u : State) : Option (List (Option Nat) × List (Option Nat) × Bool) := (u.copies.head?).map fun c => (c.2.srcs.take 2, c.2.dsts.take 2, c.2.faults)
     holds i (copies 255 s) (.count .cpy) && runs i s (fun u => got u == some ([some 0x80000, some 0x80001], [some 16, some 17], false) && u.mem == s.mem && u.scratch.get 15 == 0 && u.scratch.get 20 == 0)
      && runs i (copyRegs 0 16 0x80000 lab) (fun u => u.copies == []) && runs i (copyRegs 4 4094 0x80000 lab) (fun u => (u.copies.head?).map (fun c => (c.2.dsts.contains none, c.2.faults)) == some (true, false)
        && after (.copyComplete 3) u fun v => (gOf v).copyErr)
      && runs (.cpy .s2s false .none 0 0 10 4 0) (copyRegs 4 16 14 lab) (fun u => (got u).map (fun x => x.2.2) == some false && after (.copyComplete 3) u fun v => (gOf v).copyErr) && runs (.cpy .s2g false .none 0 0 10 4 0) (copyRegs 4 0x80100 16 lab) (fun u => (got u).map (fun x => x.2.2) == some false)
      && runs (.cpy .s2s false .t8 1 1 10 4 0) t (fun u => u.copies.head?.map (fun c => (c.2.srcs.getD 2 none, c.2.srcs.getD 33 none, c.2.srcs.length)) == some (some 64, some 33, 1024)))
     && waits (.cpy .g2s false .none 0 0 10 4 0) (inFlight (copyRegs 4 16 0x40210000 lab)) (.flight 1)
     && (let s := { copies 1 (paged lab) with nextId := 9 }
         (match tget 0 s.copies with | some c => c.srcsNow s == c.srcs && c.dstsNow s == c.dsts && c.dirty == [] && c.raced == [] | none => false) && after (.copyComplete 0) s (fun u => u.scratch.get 3 == 0x11 && u.mem == s.mem)
          && after (.copyComplete 0) { s with copies := s.copies.map fun c => (c.1, { c.2 with faults := true }) } (fun u => (gOf u).copyErr)) = true := by decide +kernel

theorem witness_Publishing :
    (let s := sets [(20, 0x40220010)] (paged lab)
     let many := { s with pubs := (List.range 255).map fun i => (i, { gid := 0, core := 0, task := none, launch := 1, vf := 0, base := 0, progs := [] }) }
     let p : Pub := { gid := 0, core := 0, task := none, launch := 1, vf := 0, base := 0x40220000, progs := [] }
     traps (.publ 20) (sets [(20, 0x80000)] s) causePROT && holds (.publ 20) many (.count .pbl) && runs (.publ 20) s (fun t => t.pubs.map (fun p => (p.1, p.2.base, p.2.gid)) == [(3, 0x40220000, 0)])
      && after (.publSwap 3) { s with pubs := [(3, p)] } (fun t => (t.vf 0).regions.map (fun r => r.flipped) == [true] && t.mem == s.mem)) = true := by decide +kernel

/-- Queue 3 of a core of the quad, enabled with 4 entries, with entries and credits. -/
def queueAt (core : Nat) (es : List (List Word)) (cr : List Nat) (s : State) : State := { s with queues := tset (core * 16 + 3) ⟨0x90000040, es, cr⟩ s.queues }

theorem witness_MessageQueues :
    (let put (c : Byte) : Instr := .mqput c 3 2 8 20
     let s := sets [(20, 6), (21, 7), (9, 2)] lab
     let q := queueAt 1 [] [1, 0, 0, 0] s
     let g (es : List (List Word)) : State := queueAt 0 es [0, 0, 0, 0] s
     let f (cr : Nat) (n : Word) : State := sets [(9, n)] (queueAt 0 [[1]] [0, cr, 0, 0] s)
     traps (put 8) s causePROT && runs (put 4) s (fun t => sAt t 8 == 3) && runs (put 1) s (fun t => sAt t 8 == 2) && runs (put 1) (queueAt 1 [] [0, 9, 9, 9] s) (fun t => sAt t 8 == 1)
      && holds (put 1) (messages 255 q) (.count .msg) && runs (put 1) q (fun t => sAt t 8 == 0 && (t.queue 19).credits == [0, 0, 0, 0] && t.msgs.map (fun m => (m.2.core, m.2.queue, m.2.words)) == [(1, 3, [6, 7])])
      && traps (.mqget 3 2 20) s causePROT && ready (.mqget 3 2 20) (g []) && after (.mqget 3 2 20) (g []) (fun t => (spOf t).wait == .again (.queue 3)) && holds (.mqget 3 2 20) (g []) (.queue 3) && holds (.mqget 3 2 20) (behind (.queue 3) (g [[4, 5]])) (.queue 3)
      && traps (.mqget 3 2 20) (withSp (g [[4, 5]]) fun sp => { sp with wait := .again .gone }) causePROT
      && runs (.mqget 3 3 20) (g [[4, 5], [8]]) (fun t => sAt t 20 == 4 && sAt t 21 == 5 && sAt t 22 == 0 && (t.queue 3).entries == [[8]])
      && traps (.mqfree 4 3 9) (f 0 1) causePROT && traps (.mqfree 1 2 9) (f 0 1) causePROT && traps (.mqfree 1 3 9) (f 0 4) causeQFULL && runs (.mqfree 1 3 9) (f 0 3) (fun t => (t.queue 3).credits == [0, 3, 0, 0])
      && traps (.mqfree 1 3 9) (f 3 1) causeQFULL
      && after (.messageAppend 0) { g [[9]] with msgs := [(0, { gid := 0, task := none, launch := 1, core := 0, queue := 3, words := [1, 2] })] } (fun t => (t.queue 3).entries == [[9], [1, 2]])) = true := by decide +kernel

/-- A program of the group in quad 0. -/
def prog : Prog := { serial := 0, gid := 0, launch := 1, task := none, vf := 0, core := 0, window := 0, pc := 0x40000, sregs := List.replicate 64 0 }
/-- Quad 0 with a record. -/
def withQ (q : Quad) (s : State) : State := { s with quads := tset 0 q s.quads }

theorem witness_ProgramForks :
    (let i := Instr.mfork 2 40 9 10
     let s := sets [(10, 4), (11, 5)] lab
     let t (q : Quad) (ticket : Word) : State := sets [(9, ticket)] (withQ q lab)
     let fate (v c : Nat) : Quad := { forks := 1, fates := [{ serial := 0, vf := v, launch := 1, core := 0, cause := c, pc := 0x99 }] }
     traps i { s with vfs := tset 0 { s.vf 0 with quarters := [] } s.vfs } causePROT && holds i (withQ { queue := List.replicate 8 prog } s) .fork
      && runs i (withQ { queue := List.replicate 7 prog, forks := 5 } s) (fun t => sAt t 9 == 5 && (t.quad 0).forks == 6 && ((t.quad 0).queue.getLast?).map (fun p => (p.pc, p.sregs.take 3)) == some (0x400A0, [4, 5, 0]))
      && traps (.mrdv 9) (t {} 0x04000000) causePROT && traps (.mrdv 9) (t {} 0x01FFFFFE) causeILLEGAL && holds (.mrdv 9) (t { forks := 1, running := some prog } 0) (.rdv 0 none) && holds (.mrdv 9) (t { forks := 1, saved := [prog] } 0) (.rdv 0 none)
      && runs (.mrdv 9) (t { forks := 1 } 0) && traps (.mrdv 9) (t (fate 1 0) 0) causePROT && runs (.mrdv 9) (t (fate 0 0) 0) && traps (.mrdv 9) (t (fate 0 0x10) 0) causeMCHK
      && after (.mrdv 9) (t (fate 0 0x10) 0) (fun u => ((gOf u).trap.map fun x => x.info.code) == some 0x99)) = true := by decide +kernel
/-! ### Tasks, cairns and the sequencer family -/

/-- A descriptor of one plain kernel at 0xA0000: entry 0x44000, 8 registers with a budget of 4, one group of 32 lanes, a grid of 1. -/
def described (s : State) : State :=
  let m := s.mem.write 0xA0000 8 0x44000
  let m := m.write 0xA000C 4 (8 + 4 * 256)
  let m := m.write 0xA0010 4 32
  let m := m.write 0xA0014 4 1
  { s with
    mem := m
    vfs := tset 0 { s.vf 0 with descBase := 0xA0000, descCount := 1 } s.vfs }

/-- A packet of 32 bytes at 0x80040 with word 0, and one key. -/
def packet (w0 : Nat) (s : State) : State := { described s with mem := ((described s).mem.write 0x80040 4 w0).write 0x80048 4 0x80000005 }

/-- A waiting task of VF 0. -/
def task0 : Task := { vf := 0, launch := 1, handle := 0, kernel := probeKernel, kind := 0, keys := [(5, true)], retry := false, aff := none, pin := false, prio := 1, succ := [], payload := [] }

/-- A graph launch in slot 0 with one node of 64 records of 16 bytes, `n` of them queued. -/
def graph (n : Nat) (ended : Bool) (s : State) : State :=
  let k : Kernel := { probeKernel with kind := 2, queue := 64, record := 16, coalesce := 32, timeout := 50 }
  { withG s fun g => { g with succ := [0x40000000] } with
    launches := tset 8 { vf := 0, queue := 0, graph := true, kernel := probeKernel, payload := [], prio := 0, done := 0, podl := 0, ended := ended, nodes := [{ kernel := k, queue := List.replicate n (60, [1, 2, 3, 4]) }] } s.launches }

theorem witness_TaskInstructions :
    (let i := Instr.tsub false false 10 20
     let s (w0 : Nat) : State := packet w0 (sets [(20, 0x80040)] lab)
     let w := 0x00808000
     let full : State := { s w with tasks := List.replicate 1024 (0, { task0 with prio := 1 }) }
     nests i (trapMode (s w)) causeILLEGAL && runs i (s 1) (fun t => sAt t 10 == 0x80000001) && runs i (s (w + 2 ^ 27)) (fun t => sAt t 10 == 0x80000001)
      && runs i { s w with vfs := tset 0 { (s w).vf 0 with descCount := 0 } (s w).vfs } (fun t => sAt t 10 == 0x80000002)
      && runs i { s w with vfs := tset 0 { (s w).vf 0 with serial := 2 ^ 30 + 9 } (s w).vfs } (fun t => sAt t 10 == 9 && (t.vf 0).serial == 2 ^ 30 + 10
          && t.tasks.map (fun x => (x.1, x.2.keys, x.2.prio, x.2.handle, x.2.kernel.entry, x.2.place)) == [(3, [(5, true)], 1, 9, 0x44000, .waiting)])
      && runs (.tsub true false 10 20) full (fun t => sAt t 10 == 0x80000003) && holds i full (.tasks 1) && traps i (sets [(21, 0x01000000)] (s w)) causeXLATE
      && waits i (inFlight (paged (packet w (sets [(20, 0x40210000)] lab)))) (.flight 1)) = true := by decide +kernel

theorem witness_TaskInstructions_emit :
    (let j := Instr.temit true 0 30 4
     let k := Instr.temit false 0 0 4
     let s (n : Nat) (e : Bool) : State := setv [(4, .a 9 1)] (graph n e (active 4 lab))
     traps j lab causeILLEGAL && runs j (s 0 true) (fun t => sAt t 30 == 2) && traps k (s 0 true) causePROT && traps j (withSp (s 0 false) fun sp => { sp with mask := fullMask }) causeQFULL
      && runs j (s 61 false) (fun t => sAt t 30 == 1) && holds k (s 61 false) (.emit 8 0 4) && runs j (s 60 false) (fun t => sAt t 30 == 0)
      && holds k (behind (.emit 8 0 1) (s 1 false)) (.emit 8 0 4)
      && runs k (s 1 false) (fun t => (tget 8 t.launches).map (fun l => (l.sums.appended, l.nodes.map fun n => (n.queue.drop 1).map fun r => r.2.getD 0 0)) == some (4, [[9, 10, 11, 12]]))) = true := by decide +kernel

theorem witness_TaskInstructions_release :
    (let s : State := { withG lab fun g => { g with task := some 7 } with tasks := [(7, { task0 with place := .running, held := [(5, true), (6, false)] })] }
     runs (.krel (.lit 5)) s (fun t => t.tasks.map (fun x => x.2.held) == [[(6, false)]]) && runs (.krel (.lit 0x80000006)) s (fun t => t.tasks.map (fun x => x.2.held) == [[(5, true)]]) && runs (.krel (.lit 5)) lab && runs (.krel (.lit 7)) s
      && holds (.krel (.lit 5)) (inFlight s) .release && runs (.krel (.lit 7)) (inFlight s)
      && runs (.krel (.lit 5)) { s with vfs := tset 0 { s.vf 0 with scopeMax := .die } s.vfs } (fun t => (t.vf 0).demote == 1)) = true := by
  decide +kernel

/-- A cairn of 256 bytes named 9 on core 0 at 0x2000, opened by group 0. -/
def cairn0 : Cairn := { vf := 0, name := 9, holder := 0, off := 0x2000, size := 256, life := .launch, mir := false, launch := 1, queue := 0, opens := [0] }
/-- The cairn instructions name s16:s17 = 9 and write s10, s11. -/
def cairns (l : List Cairn) : State := { sets [(16, 9)] lab with cairns := l }

/-- The instruction answers a status and a value. -/
def tells (i : Instr) (s : State) (st v : Word) (p : State → Bool := fun _ => true) : Bool := runs i s fun t => sAt t 10 == st && sAt t 11 == v && p t

theorem witness_CairnInstructions :
    (let new := Instr.cnew 1 .launch false 10 16
     let opn := Instr.copen false 10 16
     let hand (c : Byte) := Instr.chand (.core c) 10 16
     let drop := Instr.cdrop false 10 16
     let info := Instr.cinfo false 10 16
     let s := cairns []
     let many (n : Nat) : List Cairn := (List.range n).map fun i => { cairn0 with name := 100 + BitVec.ofNat 64 i, off := 0x4000 + 256 * i }
     let busy := cairns [{ cairn0 with moving := some ⟨1, 0, none, false, []⟩ }]
     let sixteen := cairns [{ cairn0 with opens := List.replicate 16 0 }]
     let away (c : Cairn) : State := cairns [{ c with holder := 1 }]
     tells new (cairns (many 4)) 2 0 && tells new { s with vfs := tset 0 { s.vf 0 with slices := [] } s.vfs } 2 0 && tells new (cairns (many 3)) 0 0x80001000 (fun t => t.cairns.length == 4)
      && tells new { s with scratch := Mem.write {} 0x1000 4 5 } 0 0x80001000 (fun t => t.scratch.get 0x1000 == 0 && t.cairns.map (fun c => (c.name, c.holder, c.off, c.size, c.opens)) == [(9, 0, 0x1000, 512, [0])])
      && [opn, hand 0, drop, info].all (fun i => tells i s 6 0) && [new, opn, hand 0, drop, info].all (holds · busy (.cairn 9 10)) && [new, opn, drop].all (holds · (behind (.cairn 9 10) (cairns [cairn0])) (.cairn 9 10)) && tells new (away cairn0) 1 1 && tells new (cairns [{ cairn0 with lost := true }]) 1 0
      && tells opn (cairns [{ cairn0 with drop := true }]) 6 0 && tells opn (cairns [{ cairn0 with lost := true }]) 5 0 && tells opn sixteen 2 0 && tells opn (cairns [cairn0]) 0 0x80002000 (fun t => t.cairns.map (fun c => c.opens) == [[0, 0]])
      && tells opn (away { cairn0 with hand := some (.core 4), opens := [] }) 4 1 && tells opn (away cairn0) 3 1 && tells (.copen true 10 16) (away { cairn0 with opens := [] }) 3 1
      && (ready opn (away { cairn0 with opens := [] }) && after opn (away { cairn0 with opens := [] }) (fun t => (spOf t).wait == .move 9 10 && t.cairns.map (fun c => c.moving.map fun m => (m.core, m.off, m.opener, m.restore)) == [some (0, 0x1000, some (0, 0), false)]))) = true := by
  decide +kernel

theorem witness_CairnInstructions_held :
    (let hand (c : Byte) := Instr.chand (.core c) 10 16
     let drop := Instr.cdrop false 10 16
     let s := cairns [cairn0]
     tells (hand 1) (cairns [{ cairn0 with opens := [] }]) 7 0 && tells (hand 8) s 8 0 && tells (hand 1) s 0 0 (fun t => t.cairns.map (fun c => c.hand) == [some (.core 1)])
      && tells drop (cairns [{ cairn0 with lost := true }]) 5 0 && tells (.cdrop true 10 16) (cairns [{ cairn0 with lost := true }]) 0 0 (fun t => t.cairns == []) && tells drop (cairns [{ cairn0 with opens := [5] }]) 7 0
      && tells drop s 0 0 (fun t => t.cairns.map (fun c => c.opens) == [[]]) && tells (.cdrop true 10 16) s 0 0 (fun t => t.cairns == []) && tells (.cinfo false 10 16) s 0 (2 ^ 17)
      && tells (.cinfo false 10 16) (cairns [{ cairn0 with size := 262144, mir := true, opens := List.replicate 200 0, hand := some (.core 1) }]) 0 (127 * 2 ^ 17 + 2 ^ 13 + 2 ^ 12 + 1023)) = true := by decide +kernel

/-- Quad 0's sequencer about to issue for `p`, its tenant holding all of the weight buffer. -/
def seqLab (p : Prog) (rs : List WRange := []) : State := { withQ { running := some p, ranges := rs } (paged lab) with cur := .seq 0 }
def progOf (s : State) : Prog := ((s.quad 0).running).getD prog

/-- The program's instruction passes the sequencer's checks. -/
def seqReady (s : State) (i : Instr) : Bool :=
  s.cur == .seq 0 && (s.quad 0).running.isSome && (seqCheck s { who := .seq 0, g := (progOf s).asGroup, pc := (progOf s).pc, len := i.len, mask := fullMask } (progOf s) i).isNone

/-- What `seqReady` computes is `SeqReady`. -/
theorem seqReady_meets {s : State} {i : Instr} (h : seqReady s i = true) : SeqReady s 0 (progOf s) i := by
  simp only [seqReady, Bool.and_eq_true, beq_iff_eq, Option.isNone_iff_eq_none] at h
  obtain ⟨⟨h1, h2⟩, h3⟩ := h
  obtain ⟨p, hp⟩ := Option.isSome_iff_exists.mp h2
  exact ⟨h1, by simp [progOf, hp], h3⟩

/-- The instruction passes the checks, answers, and `f` holds of the program. -/
def seqRuns (i : Instr) (s : State) (f : Prog → Bool) : Bool := seqReady s i && after i s fun t => f (progOf t)
/-- Registers of the program. -/
def pset (l : List (Nat × Word)) : Prog := { prog with sregs := l.foldl (fun r p => r.set p.1 p.2) prog.sregs }

theorem witness_SequencerInstructions :
    (let s := seqLab (pset [(6, 5), (8, 3), (63, 0x40100)])
     let r (n : Nat) (v : Word) (pc : Word) (p : Prog) : Bool := p.sreg n == v && p.pc == pc
     seqRuns (.sadd so) s (r 4 8 0x40004) && seqRuns (.sand { so with b := .lit 4 }) s (r 4 4 0x40008) && seqRuns (.smov false 4 (.lit 7)) s (r 4 7 0x40008) && seqRuns (.smovi 4 0x3FFFF) s (r 4 0xFFFFFFFF 0x40004)
      && seqRuns .nop s (r 6 5 0x40004) && seqRuns (.waitc .cpy (.lit 0)) s (r 6 5 0x40008) && seqRuns (.bra (-2)) s (r 6 5 0x3FFF8) && seqRuns (.bcc .ne 6 3) s (r 6 5 0x4000C) && seqRuns (.call 4) s (r 63 0x40004 0x40010)
      && seqRuns .ret s (r 6 5 0x40100) && seqRuns .exit s (fun p => p.ending) && seqRuns (.trap 3) s (fun p => p.stopped == some (causeTRAPI, 0x40000))
      && !isStep (.vadd .i32 vb) && !seqAllowed (.vadd .i32 vb) && after (.vadd .i32 vb) s (fun t => (progOf t).stopped == some (causeSEQCTX, 0x40000))) = true := by decide +kernel

/-- A weight range of two FP8 blocks at 0, and a ring in s12 to s15 of four slots at 0x1000 on core 0. -/
def range0 : WRange := { vf := 0, base := 0, bytes := 2 * 262144, fmt := .fp8, sp := false, ts := false }
def ringProg (p : Prog) : Prog := { p with sregs := (((p.sregs.set 12 0x1000).set 13 (640 / 64 * 65536 + 4)).set 14 3).set 15 2 }
/-- The program with a loaded plane of the range. -/
def planeProg : Prog := { ringProg (pset [(20, 0x1000)]) with plane := some ⟨range0, 0, []⟩, lastLoad := some 4, nextOp := 5 }

theorem witness_EngineInstructions :
    (let mres (n : Word) := seqLab (pset [(20, n), (8, 0)]) [range0]
     let free := Instr.mres .bf16 true false 8 20
     let rings := seqLab planeProg [range0]
     let op (p : Prog) : Option (EngKind × Nat × Nat × List Nat) := (p.ops.getLast?).map fun o => (o.2.kind, o.2.acc, o.2.rows, o.2.uses)
     let src := seqLab (pset [(0, 0x40000000), (8, 256)]) [range0]
     seqRuns free (mres 0x10000) (fun p => p.sreg 8 == 0x80000) && after free (mres 0x10000) (fun t => ((t.quad 0).ranges.drop 1).map (fun r => (r.base, r.bytes, r.fmt)) == [(0x80000, 0x10000, .bf16)])
      && seqRuns free (mres 0x1000000) (fun p => p.sreg 8 == 0xFFFFFFFF) && after free (mres 0) (fun t => (t.quad 0).ranges == [] && (progOf t).sreg 8 == 0)
      && ((progOf src).rangeHolding (src.quad 0) 256 512 == some range0) && seqRuns (.mwld 2 0 8) src (fun p => op p == some (.mwld 0x40000000 256 512, 0, 0, [0]))
      && seqRuns (.mldw 1 9) src (fun p => op p == some (.mldw 0 1, 0, 0, [0]) && p.lastLoad == some 0)
      && (rowRange (progOf rings) (rings.quad 0) false ((List.range 4).map fun j => (progOf rings).sreg (12 + j)) 0 == some range0) && !rings.ringOutside (progOf rings) 0 [0x1000, 655364, 3, 2] 528 4 && rings.rowsIn (progOf rings) 0 0 4
      && seqRuns (.mma 3 0 12 8) rings (fun p => op p == some (.mma, 0, 4, [0])) && seqRuns (.mdist 3 1020 20 12 8) rings (fun p => op p == some (.mdist 0x1000, 1020, 4, [0, 0]))
      && seqRuns (.mtopk 3 0 1 true 12 8) rings (fun p => op p == some (.mtopk 2 true 0, 0, 4, [])) && seqRuns (.mdrn 3 0 .f8 false false 12 20) rings (fun p => op p == some (.mdrn .f8 false 0x1000 none, 0, 4, []))
      && seqRuns (.mdrn 1023 0 .f32 true true 20 0) rings (fun p => op p == some (.mdrn .f32 true 0 (some 0x1000), 0, 1024, []))
      && (let s := { seqLab prog with acc := ((Mem.write {} 0 4 9).write 131072 4 9) }
          seqRuns (.mzero 1) s (fun p => p.nextOp == 1) && after (.mzero 1) s (fun t => t.acc.get 0 == 0 && t.acc.get 131072 == 9))) = true := by decide +kernel
/-! ### The device's steps -/

/-- The step `i` changes nothing. -/
def same (i : Instr) (s : State) : Bool := after i s fun t => decide (t = s)

theorem witness_GroupEvents :
    (let y (since : Nat) : State := withSp lab fun sp => { sp with wait := .yield since }
     let m := withG lab fun g => { g with splits := [(0, { pc := 0x40000, mask := 3 }), (1, { pc := 0x40000, mask := 4 }), (2, { pc := 0x41000, mask := 8 })], defer := [⟨1, 0, 16⟩] }
     after (.yieldTimeout 0 0) (y 84) (fun t => (spOf t).wait == .none) && same (.yieldTimeout 0 0) (y 85) == (lab.aloneReady 0 0 (gOf (y 85)) == false) && after (.pendingWriteComplete 0) (withG lab fun g => { g with busy := [.v 1] }) (fun t => (gOf t).busy == [])
      && after (.contextRelease 0) (withG lab fun g => { g with life := .retired }) (fun t => (t.group? 0).isNone)
      && after (.splitMerge 0 0 1) m (fun t => (gOf t).splits.map (fun p => (p.1, p.2.mask)) == [(0, 7), (2, 8)] && (gOf t).defer == [⟨0, 0, 16⟩])
      && after (.splitMerge 0 0 2) (withG m fun g => { g with splits := tmod 2 (fun x => { x with pc := 0x40000, wait := .again (.regs [.v 1]), since := 7 }) g.splits }) (fun t =>
          (gOf t).splits.map (fun p => (p.1, p.2.mask, p.2.since)) == [(0, 11, 0), (1, 4, 0)])
      && after (.deferralRejoin 0 0) (defers [⟨0, 0x40000, 8⟩] (active 3 lab)) (fun t => (spOf t).mask == 15 && (gOf t).defer == [])
      && after (.forwardArrival 1 5 0) { lab with fwds := [fwd (.arrived (.u 1)) false] } (fun t => t.fwds.map (fun f => f.arrived) == [true])
      && (let b := withG lab fun g => { g with dbg := { g.dbg with ctl := 10, bpa := [0x40000, 0x40000, 0, 0x40000], bpm := [0, 4, 0, 0] } }
          after (.pcBreakpoint 0 0) b (fun t => ((gOf t).trap.map fun x => (x.info.cause, x.info.code)) == some (8, 1)) && after (.pcBreakpoint 0 0) (active 2 b) (fun t => ((gOf t).trap.map fun x => x.info.code) == some 3))) = true := by
  decide +kernel

theorem witness_MemoryAndComputeErrors :
    (let s := { scal with bad := [0x8000A] }
     let f := withSp (us [(1, 0x3F800000), (2, 0x3F800000)] { scal with mem := scal.mem.write 0x40000 4 0x3000C082 }) fun sp => { sp with pc := 0x40000 }
     after (.scrubError 0 0x77) lab (fun t => t.bad == [0x77] && t.syslog == [.scrub 0 0x77]) && ready (.sld um) s && s.badAt 0x80008 4 && after (.sld um) s (fun t => t.bad == [] && (gOf t).life == .retired)
      && diverges 0x40000000 0x40000000 == false && same (.shadowRetry 0 0 [5, 7] [0x40000000, 0x40000000] [0, 0]) f && diverges 0x40400000 0x40000000
      && f.atIssue 0 0 (gOf f) (spOf f) && (gOf f).issues && (match f.fetchInstr false 0 0 1 0x40000 with | .ok (.vadd _ _) _ => false | .ok (.vfadd v) u => v.vd == 3 && u.group? 0 == some (gOf f) | _ => false)
      && after (.shadowRetry 0 0 [5, 7] [0x40400000, 0x40000000] [0x40000000, 0x40000000]) f (fun t => (t.coreAt 0).sdccnt == 1 && t.syslog == [.sdc 0] && vAt t 3 0 == 0x40000000 && vAt t 3 5 == 0x40000000) && after (.shadowRetry 0 0 [5] [0x40400000] [0x40400000]) f (fun t => (t.coreAt 0).lost)) = true := by
  decide +kernel

theorem witness_Preemption :
    (let s := withG lab fun g => { g with reserv := some 5 }
     let saved : List Word := savedArea s 0 (gOf s)
     let r := withG lab fun g => { g with life := .preempted saved }
     (gOf s).mayStop && s.mates 0 (gOf s) == [(0, gOf s)] && after (.preemption 0) s (fun t => (gOf t).reserv == none && (gOf t).life == .preempted saved) && savedOk saved && r.mates 0 (gOf r) == [(0, gOf r)]
      && r.ctxRoom 0 31 (grant 16 16) ((gOf r).entries (gOf r).splits.length) && r.slotFree 0 31 7 && after (.resumption 0 [(0, 31, 7)]) r (fun t => (gOf t).part == 31 && (gOf t).slot == 7 && (gOf t).life == .resident && (spOf t).since == 100)
      && after (.sequencerPreemption 0) (seqLab prog) (fun t => (t.quad 0).running == none && (t.quad 0).saved == [prog])
      && after (.sequencerResumption 0 0) (withQ { saved := [prog] } lab) (fun t => (t.quad 0).running == some prog && (t.quad 0).saved == [])) = true := by decide +kernel

theorem witness_CairnEvents :
    (let c := { cairn0 with holder := 1, opens := [] }
     let s (m : Move) : State := { cairns [{ c with moving := some m }] with scratch := Mem.write {} (2 ^ 21 + 0x2000) 4 0xABCD }
     let held := [0xCD, 0xAB] ++ List.replicate 254 0
     let w := withSp (s ⟨0, 0x3000, some (0, 0), false, held⟩) fun sp => { sp with wait := .move 9 10, cont := 0x40004 }
     after (.cairnMoveComplete 0 9) (s ⟨0, 0x3000, none, false, held⟩) (fun t => t.cairns.map (fun c => (c.holder, c.off, c.moving)) == [(0, 0x3000, none)] && t.scratch.read 0x3000 4 == 0xABCD)
      && after (.cairnMoveComplete 0 9) w (fun t => t.cairns.map (fun c => c.opens) == [[0]] && sAt t 10 == 0 && sAt t 11 == 0x80003000 && (spOf t).pc == 0x40004 && t.scratch.read 0x3000 4 == 0xABCD)
      && after (.cairnWritebackComplete 6) { cairns [{ cairn0 with mir := true }] with wbacks := [(6, { vf := 0, name := 9, bytes := [1, 2], waiter := none })] } (fun t => t.cairns.map (fun c => c.mirror) == [[1, 2]] && t.wbacks == []))
      = true := by decide +kernel

/-- R219: a write-back that CDROP waits for ends with the close. -/
theorem witness_CairnEvents_writeback :
    (let w : Writeback := { vf := 0, name := 9, bytes := [1, 2], waiter := some (0, 0, 10, 7), close := some true }
     let s (c : Option Bool) (opens : List Nat) : State := { withSp (cairns [{ cairn0 with mir := true, opens := opens }]) fun sp => { sp with wait := .writeback 6 10, cont := 0x40004 } with wbacks := [(6, { w with close := c })] }
     after (.cairnWritebackComplete 6) (s none [0]) (fun t => t.cairns.map (fun c => (c.mirror, c.opens)) == [([1, 2], [0])] && sAt t 10 == 0 && sAt t 11 == 7 && (spOf t).pc == 0x40004)
      && after (.cairnWritebackComplete 6) (s (some true) [0]) (fun t => t.cairns == [] && sAt t 11 == 7)
      && after (.cairnWritebackComplete 6) (s (some true) [0, 5]) (fun t => t.cairns.map (fun c => (c.opens, c.drop)) == [([5], true)])) = true := by decide +kernel

/-- A BF16 plane of which column 0 holds 128 ones; a ring slot of 256 bytes in the phase that the operation waits for, with one in every element. -/
def mmaOp : EngOp := { kind := .mma, pc := 0x40000, rows := 2, acc := 0, ring := [0x20001000, 320 / 64 * 65536 + 4, 1, 2], sa := 12, plane := some ⟨{ range0 with fmt := .bf16 }, 0, (List.replicate 128 [0x80, 0x3F]).flatten⟩ }
def mmaLab (flag : Nat) : State :=
  { seqLab { planeProg with ops := [(6, mmaOp)] } with scratch := (Mem.write {} 0x1140 4 flag).putAll 0x1180 ((List.replicate 128 [0x80, 0x3F]).flatten : List Byte), acc := Mem.write {} 0 4 0x3F800000 }

theorem witness_EngineEvents :
    (let op (o : EngOp) : State := seqLab { prog with ops := [(6, o)], lastLoad := some 6 } [range0]
     let load := op { kind := .mwld 0x80000 512 256, pc := 0, keys := [0x80000] }
     after (.sequencerProgramStart 0) (withQ { queue := [prog, { prog with serial := 1 }] } lab) (fun t => (t.quad 0).running == some prog && (t.quad 0).queue.length == 1)
      && after (.sequencerProgramEnd 0) (seqLab { prog with ending := true }) (fun t => (t.quad 0).running == none && (t.quad 0).fates == [⟨0, 0, 1, 0, 0, 0, false⟩])
      && after (.mwldComplete 0 6) load (fun t => t.wbuf.read 512 8 == 0x8877665544332211 && t.wdup.read 512 8 == 0x8877665544332211 && (progOf t).ops == [])
      && planeOk { range0 with sp := false } [] [] [] && (mmaLab 5).slotReady 0 mmaOp && !(mmaLab 4).slotReady 0 mmaOp && same (.engineRingSlot 0 6) (mmaLab 4) && (mmaLab 5).accRow 0 0 0 == some 0
      && after (.engineRingSlot 0 6) (mmaLab 5) (fun t => t.scratch.read 0x1140 4 == 6 && ((progOf t).ops.map fun o => (o.2.row, o.2.ring)) == [(1, [0x20001000, 327684, 2, 2])])) = true := by decide +kernel

/-- R179: a group that waits for the program sees its end. -/
theorem witness_EngineEvents_end :
    (let w (n : Nat) : State := withSp (seqLab { prog with ending := true }) fun sp => { sp with wait := .again (.rdv n none) }
     after (.sequencerProgramEnd 0) (w 0) (fun t => (spOf t).wait == .again (.rdv 0 (some (0, 0, 0))) && (t.quad 0).fates.map Fate.told == [false])
      && after (.sequencerProgramEnd 0) (w 1) (fun t => (spOf t).wait == .again (.rdv 1 none))) = true := by decide +kernel

/-- R181: a dense BF16 block has neither metadata nor scales to check. -/
theorem witness_EngineEvents_plane (bytes dup : List Byte) (free : List Bool) (h : bytes.length ≤ 131072) : planeOk { range0 with fmt := .bf16 } bytes dup free = true := by
  have e : ((bytes.zip dup).zip free).drop 131072 = [] := List.drop_eq_nil_of_le (by simp only [List.length_zip]; omega)
  simp [planeOk, WRange.dims, range0, e]

/-- R117, R119: a column of 128 BF16 ones times a row of ones; and two FP8 blocks of ones, of which the first has scale 2. -/
theorem test_mma_column :
    (match mmaOp.plane with | some p => p.qs (List.replicate 128 [0x80, 0x3F]).flatten 0 == [0x43000000] | none => false) = true
      ∧ blockQ ⟨{ range0 with fmt := .fp8, sp := false, ts := false }, 0, []⟩ (List.replicate 256 (ofE4m3 0x38)) [0x40000000, 0x3F800000] 0 (List.replicate 256 (some (ofE4m3 0x38))) 0 = 0x43800000
      ∧ blockQ ⟨{ range0 with fmt := .fp8, sp := false, ts := false }, 0, []⟩ (List.replicate 256 (ofE4m3 0x38)) [0x40000000, 0x3F800000] 0 (List.replicate 256 (some (ofE4m3 0x38))) 1 = 0x43000000 := by decide +kernel

/-- Host queue 0 of VF 0 at 0x80000, of 4 entries, enabled, with a tail. -/
def hostQ (tail head : Word) (w0 : Nat) : State :=
  let s := described lab
  { s with
    vfs := tset 0 { s.vf 0 with queues := [(0, { base := 0x80000, cfg := 0x80000002, tail := tail, head := head })] } s.vfs
    mem := s.mem.write 0x80000 4 w0 }

theorem witness_HostQueues :
    (let q (t : State) : HostQ := (t.vf 0).queues.head?.map (fun x => x.2) |>.getD {}
     after (.doorbellWrite 0 0 7) (hostQ 3 3 0) (fun t => (q t).tail == 7 && !(t.vf 0).baddb) && after (.doorbellWrite 0 0 8) (hostQ 3 3 0) (fun t => (q t).tail == 3 && (t.vf 0).baddb)
      && after (.doorbellWrite 0 0 1) (hostQ 0xFFFFFFFF 0xFFFFFFFD 0) (fun t => (q t).tail == 1) && ((hostQ 1 0 0x01000000).vf 0).images.isEmpty
      && after (.launch 0 0) (hostQ 1 0 0x01000000) (fun t => (q t).head == 1 && t.launches.map (fun l => (l.1, l.2.kernel.entry, l.2.next)) == [(1, 0x40000, 1), (3, 0x44000, 0)])
      && after (.launch 0 0) (hostQ 1 0 0x03000000) (fun t => (q t).head == 1 && t.launches.length == 1) && same (.launch 0 0) (hostQ 5 5 0x01000000) && same (.graphLaunch 0 0) (hostQ 5 5 0x02000000)
      && (let idle (s : State) : State := { s with pkgs := tset 0 { s.pkg 0 with power := .idleCold } s.pkgs }
          let off (s : State) : State := { s with pkgs := tset 0 { s.pkg 0 with booted := false } s.pkgs }
          after (.doorbellWrite 0 0 7) (idle (hostQ 3 3 0)) (fun t => (q t).tail == 7 && (t.pkg 0).exitAt == some 18900) && same (.doorbellWrite 0 0 7) (off (hostQ 3 3 0)) && same (.doorbellWrite 0 64 7) (hostQ 3 3 0))) = true := by decide +kernel

/-- R268: what a launch that the command processor sets up needs, for a plain kernel and for a graph of one node. -/
theorem witness_HostQueues_formed :
    (let g (s : State) : State := { s with mem := ((((s.mem.write 0xA0008 4 2).write 0x8001C 4 1).write 0xA0040 4 (32 + 6 * 256)).write 0xA0044 4 50).write 0xA0014 4 0 }
     let ok (s : State) (graph : Bool) (n : Nat) : Bool :=
       let p := s.pkg 0
       let x := s.hostq 0 0
       let ws := s.memWords 0x80000 64
       let t := s.setVf 0 { s.vf 0 with queues := tset 0 { x with head := x.head + 1 } (s.vf 0).queues }
       p.booted && !p.wiping && p.life != .decommissioned && p.power == .active && !p.lost && x.cfg.msb && x.head != x.tail && (s.nextSlot 0).isSome && (ws.drop 8).all (· == 0) && ws.getD 6 0 == 0
        && (match t.kernelsAt 0 0 n with | some ks => ks.all fun k => (k.kind == 2) == graph && k.succ == [] && t.fits 0 k | none => false) && t.payload 0 0 == some (List.replicate 56 0)
     ok (hostQ 1 0 0x01000000) false 1 && ok (g (hostQ 1 0 0x02000000)) true 1
      && after (.graphLaunch 0 0) (g (hostQ 1 0 0x02000000)) (fun t => t.launches.map (fun l => (l.1, l.2.graph, l.2.nodes.length)) == [(1, false, 0), (3, true, 1)])) = true := by decide +kernel
/-! ### Launches, work, the fabric, the platform -/

/-- Launch 1 of the laboratory, and it changed. -/
def launchOf (s : State) (n : Nat) : Launch := (tget n s.launches).getD { vf := 0, queue := 0, graph := false, kernel := probeKernel, payload := [], prio := 0, done := 0, podl := 0 }
def withL (n : Nat) (f : Launch → Launch) (s : State) : State := { s with launches := tmod n f s.launches }
/-- The laboratory with its group retired and a completion record at 0x80000. -/
def finished : State := withL 1 (fun l => { l with done := 0x80000, fault := some ⟨0x10, 0, 0x40008, true⟩, killed := true }) (withG lab fun g => { g with life := .retired })

theorem witness_DispatchAndCompletion :
    (let done (s : State) (n : Nat) : Bool := (launchOf s n).next == (launchOf s n).kernel.grid && s.tasksOver n && s.opsOf n == 0 && s.groups.all fun p => p.2.launch != n || p.2.life == .retired
     let g (w : Option Sums) : State := withL 8 (fun l => { l with sums := ⟨4, 4, 1, 1, 0⟩, wave := w }) (graph 0 false lab)
     let wave (w : Option Sums) (p : Launch → Bool) : Bool := after (.terminationWave 8) (g w) fun t => p (launchOf t 8)
     done finished 1 && (List.range 16).all (fun n => (finished.storeMem 0x80000 (List.replicate n 1)).vfKey 0 (0x80000 + BitVec.ofNat 64 n) true == some (0x80000 + n))
      && after (.launchComplete 1) finished (fun t => (launchOf t 1).ended && t.mem.read 0x80000 8 == 0x4000800001004) && !done lab 1 && same (.launchComplete 1) lab
      && wave none (fun l => l.wave == some ⟨4, 4, 1, 1, 0⟩) && (g none).graphIdle 8 (launchOf (g none) 8) && wave (some ⟨4, 4, 1, 1, 0⟩) (fun l => l.ended) && wave (some ⟨4, 3, 1, 1, 0⟩) (fun l => !l.ended && l.wave == none)) = true := by decide +kernel

/-- Launch 1 with a block to place: 40 lanes, a payload, no barrier. -/
def toPlace : State := withL 1 (fun l => { l with next := 0, payload := List.replicate 56 7, kernel := { probeKernel with bars := 0, lanes := 40, count := 8, budget := 8 } }) lab

theorem witness_DispatchAndCompletion_dispatch :
    ((lab.group? 4).isNone && (toPlace.coreSet 0).contains 4 && (toPlace.pkg 0).accepts && toPlace.freeContext 4 (grant 8 8) == some (0, 0) && (launchOf toPlace 1).next < (launchOf toPlace 1).kernel.grid
      && after (.blockDispatch (.launch 1) [4]) toPlace (fun t => ((t.group? 4).map fun h => (h.core, h.sregs.getD 55 0, h.sregs.getD 56 0, h.sregs.getD 122 0, h.sregs.getD 124 0)) == some (4, 7, 0, 1, 40)
        && ((t.group? 4).map fun h => (h.sregs.getD 123 0, (h.splits.map fun p => p.2.mask))) == some (BitVec.ofNat 32 (coordOf 4), [0xFFFFFFFFFF]))
      && (launchOf lab 1).kernel.grid ≤ (launchOf lab 1).next && same (.blockDispatch (.launch 1) [4]) lab) = true := by decide +kernel

/-- R203, R209: a queued task's block goes to its core, or waits for a context; a node's records, if there are enough, to the core of the shallowest queue. -/
theorem witness_DispatchAndCompletion_work :
    (let k : Kernel := { probeKernel with lanes := 40, count := 8, budget := 8 }
     let t : Task := { task0 with place := .queued 4, kernel := k }
     let s : State := { lab with tasks := [(7, t)] }
     let full : State := { s with groups := (List.range 32).map fun n => (n, { gOf lab with core := 4, part := n, budget := 341 }) }
     let n (m : Nat) : State := graph m false lab
     t.aff == none && s.taskCairn 7 t == none && (s.pkg 0).accepts && s.firstTask 4 == some 7 && (s.coreSet 0).contains 4 && (s.placeNear (t.work 7) 0 4 false [4]).isSome && (full.placeNear (t.work 7) 0 4 false [4]).isNone
      && after (.blockDispatch (.task 7) [4]) s (fun u => u.tasks.map (fun x => (x.2.next, x.2.place)) == [(1, .running)] && (u.groups.map fun g => (g.2.core, g.2.task)) == [(0, none), (4, some 7)])
      && same (.blockDispatch (.task 7) [4]) full
      && (n 32).shallowest 0 == some 0 && (n 32).cairns == []
      && after (.blockDispatch (.node 8 0) [0]) (n 33) (fun u => ((launchOf u 8).sums.taken, (launchOf u 8).nodes.map fun x => x.queue.length) == (32, [1])) && same (.blockDispatch (.node 8 0) [0]) (n 31)) = true := by
  decide +kernel

theorem witness_WorkEvents :
    (let one (t : Task) : State := { lab with tasks := [(7, t)] }
     let none' : State := { one task0 with vfs := tset 0 { lab.vf 0 with coreSet := [] } lab.vfs }
     let two : State := { lab with tasks := [(6, { task0 with place := .running, held := [(5, false)] }), (7, task0)] }
     let k : Cairn := { cairn0 with life := .stream, queue := 2, launch := 5, opens := [] }
     (one task0).taskTarget 7 task0 == (some 0, false) && after (.admissionRound 0) (one task0) (fun t => t.tasks == [(7, { task0 with held := [(5, true)], place := .queued 0 })])
      && none'.taskTarget 7 task0 == (none, false) && after (.admissionRound 0) none' (fun t => t.tasks == [(7, { task0 with rounds := 1 })])
      && after (.admissionRound 0) two (fun t => t.tasks.map (fun x => (x.1, x.2.rounds, x.2.place)) == [(6, 0, .running), (7, 1, .waiting)]) && same (.queueDepthExchange 0) two
      && same (.flushTimeout 8 0) (graph 3 false lab) && { graph 3 false lab with now := 120 }.shallowest 0 == some 0
      && after (.flushTimeout 8 0) { graph 3 false lab with now := 120 } (fun t => ((launchOf t 8).sums.taken, (launchOf t 8).nodes.map fun n => n.queue.length) == (3, [0])
        && t.groups.map (fun g => (g.1, g.2.node, (g.2.v 1).lane 2, g.2.sregs.getD 124 0)) == [(0, none, 0, 0), (4, some 0, 2, 3)])
      && after (.hostQueueDestroy 0 2) { lab with cairns := [k] } (fun t => t.cairns == []) && after (.hostQueueDestroy 0 2) { lab with cairns := [{ k with opens := [0] }] } (fun t => t.cairns == [{ k with opens := [0], drop := true }])
      && after (.hostQueueDestroy 0 2) { lab with cairns := [cairn0] } (fun t => t.cairns == [cairn0])) = true := by decide +kernel

/-- Package 0 with port 3 in a condition. -/
def portAt (p : Port) : State := { lab with pkgs := tset 0 { lab.pkg 0 with ports := [(3, p)] } lab.pkgs }
def portOf (s : State) : Port := tgetD 3 {} (s.pkg 0).ports
/-- A packet of VF 0 of package 1 toward package 0: number 5 of a window that has delivered up to `h`. -/
def arriving (h : Nat) (cls : Nat) (b : Body) (r : ROp) : State :=
  let t : Triple := ⟨1, 256, 0, 0, cls⟩
  { paged lab with wins := [(5, { triple := t, h := h })], flights := [(6, ⟨1, t, 5, 3, b⟩)], rops := [(9, r)] }
def rlane (kind : Nat) : RLane := { lane := 127, kind := kind, size := 4, va := 0x80000, pa := 0x80000, home := 0, d := 0xAABBCCDD }
def rop (gid kind : Nat) : ROp := { gid := gid, task := none, launch := 1, vf := 256, split := 0, lane := rlane kind }

theorem witness_PacketsAndLinks :
    (let fail (o : FlitOutcome) (p : Port) (c : Port → Bool) : Bool := after (.flitCheckFail 0 3 o) (portAt p) fun t => c (portOf t)
     let at' (n : Nat) : Port := { degradeAt := List.replicate n 10 }
     let req (h kind : Nat) : State := arriving h 0 (.req 9 (rlane kind)) (rop 77 kind)
     let rsp : State := withG (arriving 4 1 (.rsp 9 0x1234) (rop 0 0)) fun g => { g with rinstr := [{ split := 0, unsent := [], waiting := [9], values := [], dest := .scal 8 false }] }
     let back : State := withSp rsp fun sp => { sp with wait := .replies, cont := 0x40008 }
     fail (.goodAt 1) {} (fun p => p.transient == 1 && !p.lost) && fail (.goodAt 7) {} (fun p => p.degraded == 1 && p.degradeAt == [10] && !p.lost) && fail .bad {} Port.lost && fail (.goodAt 2) (at' 15) Port.lost
      && after (.linkReturn 0 3) (portAt { lost := true }) (fun t => !(portOf t).lost)
      && (let far (t : State) : Bool := (tgetD 4 {} (t.pkg 1).ports).lost
          fail .bad { peer := some (1, 4) } Port.lost && after (.flitCheckFail 0 3 .bad) (portAt { peer := some (1, 4) }) far
            && after (.flitCheckFail 0 3 .bad) (portAt { peer := some (1, 4) }) (fun t => after (.linkReturn 0 3) t fun u => !far u))
      && (req 4 0).winOf ⟨1, 256, 0, 0, 0⟩ == some (5, { triple := ⟨1, 256, 0, 0, 0⟩, h := 4 }) && ((req 4 0).pkg 0).power == .active && !(req 4 0).badAt 0x80000 4
      && after (.packetArrival 6) (req 4 0) (fun t => t.rops == [(9, { rop 77 0 with applied := true, reply := 0x44332211 })]) && after (.packetArrival 6) (req 4 1) (fun t => t.mem.read 0x80000 8 == 0x88776655AABBCCDD)
      && after (.packetArrival 6) (req 5 1) (fun t => t.mem == (req 5 1).mem && t.rops == (req 5 1).rops) && !(gOf back).stepped 0
      && after (.packetArrival 6) back (fun t => t.rops == [] && sAt t 8 == 0x1234 && (spOf t).pc == 0x40008 && (gOf t).rinstr == [])) = true := by decide +kernel

/-- A window from VF 0 to package 1 that holds packet 5 since clk 0, sent over port 3. -/
def out : Win := { triple := ⟨0, 0, 1, 256, 0⟩, next := 6, held := [(5, 0, 3, .req 9 (rlane 0))] }
def sending (now : Nat) (w : Win) : State :=
  let s := portAt { peer := some (1, 4) }
  { s with now := now, wins := [(5, w)], rops := [(9, { rop 0 1 with vf := 0, lane := { rlane 1 with home := 1 }, applied := true })]
           pkgs := tset 0 { s.pkg 0 with routes := [⟨1, 3, false⟩] } s.pkgs }

theorem witness_RoutesAndResets :
    (let strand (c : Bool) (now : Nat) : State :=
       let s := sending now { out with closed := c, stranded := c }
       { s with pkgs := tset 0 { s.pkg 0 with routes := [⟨1, 3, true⟩], cut := [(1, 0)] } s.pkgs }
     let podBar : State := { lab with
       pods := [(2, ([0, 1], [0, 1]))]
       pkgs := tset 1 { lab.pkg 1 with lost := true } lab.pkgs
       barriers := [(⟨4, 2, 0, 0⟩, {}), (⟨1, 3, 0, 0⟩, {})] }
     after (.routeTableChange 0 1 [4, 5]) (sending 0 out) (fun t => (t.pkg 0).routes == [⟨1, 4, false⟩, ⟨1, 5, false⟩])
      && same (.replayTimeout 5) (sending 18799 out) && after (.replayTimeout 5) (sending 18800 out) (fun t => (t.pkg 0).routes == [⟨1, 3, true⟩])
      && same (.strandTimeout 5) (strand false 9399999) && after (.strandTimeout 5) (strand false 9400000) (fun t => t.wins.map (fun w => w.2.closed) == [true])
      && ((strand true 0).opsOn out.triple).length == 1
      && after (.strandResolution 5 true) (strand true 0) (fun t => t.rops == [] && (gOf t).fl == [⟨9, true, 1, false, 1, 0x80000, 0, 127⟩] && ((gOf t).trap.map fun x => x.info.cause) == some causeFABLOST)
      && after (.strandResolution 5 false) (strand true 0) (fun t => (t.pkg 1).lost)
      && (podBar.pkg 1).lost && after (.podBarrierBreak 2 1) podBar (fun t => t.barriers.map (fun b => b.2.broken) == [true, false])
      && same (.podBarrierBreak 2 0) podBar && same (.strandTimeout 5) (sending 9400000 out) && same (.replayTimeout 5) (sending 18800 { out with closed := true })
      && same (.ctlReset 1 0) (sending 9 out) && after (.ctlReset 1 0) { sending 9 { out with closed := true } with resets := [(1, 0)] } (fun t => t.resets == [] && t.wins.map (fun w => (w.2.closed, w.2.next, w.2.h, w.2.held.length)) == [(false, 0, 0xFFFF, 0)])
      && after (.functionLevelReset 0) finished (fun t => (launchOf t 1).ended && t.groups == [] && t.mem.read 0x80000 4 == 0x1006)) = true := by decide +kernel

/-- Package 0 in a life-cycle state. -/
def lifeAt (l : LifeCycle) (booted : Bool) : State := { lab with pkgs := tset 0 { lab.pkg 0 with life := l, booted := booted } lab.pkgs }

theorem witness_ResetAndTrust :
    (let life (i : Instr) (l to' : LifeCycle) : Bool := after i (lifeAt l true) fun t => (t.pkg 0).life == to' && (t.pkg 0).wiping && t.mem == {} && t.groups == []
     let no (i : Instr) (l : LifeCycle) (booted : Bool) : Bool := after i (lifeAt l booted) fun t => t == { lifeAt l booted with host := [.refused] }
     (lab.pkg 0).power == .active && life (.coldReset 0) .debugUnlocked .deployed && life (.coldReset 0) .manufacturing .manufacturing && after (.wipeComplete 0) State.reset (fun t => !(t.pkg 0).wiping)
      && no (.firmwareBoot 0 true true) .decommissioned false && after (.firmwareBoot 0 true false) (lifeAt .deployed false) (fun t => (t.pkg 0).bootfail && !(t.pkg 0).booted) && after (.firmwareBoot 0 true true) (lifeAt .deployed false) (fun t => (t.pkg 0).booted)
      && no (.attestationRequest 0 [1]) .decommissioned true && no (.attestationRequest 0 [1]) .deployed false && after (.attestationRequest 0 [1]) (lifeAt .deployed true) (fun t => t.host.length == 1 && t.host != [.refused])
      && life (.deployCommand 0 true true) .manufacturing .deployed && no (.deployCommand 0 true false) .manufacturing true && life (.unlockCommand 0 true) .deployed .debugUnlocked && no (.unlockCommand 0 true) .debugUnlocked true
      && life (.relockCommand 0) .debugUnlocked .deployed && no (.relockCommand 0) .deployed true && life (.decommissionCommand 0 true) .deployed .decommissioned && no (.decommissionCommand 0 true) .manufacturing true) = true := by
  decide +kernel

/-- Package 0 without work: nothing in it but memory, with a VF whose queue is enabled and tolerates `tol` ns. -/
def quiet (tol : Word) (p : Pkg) : State :=
  { State.reset with now := 500, pkgs := [(0, p)], vfs := [(0, { queues := [(0, { cfg := 0x80000004 })], tolns := tol })], scratch := Mem.write {} 0x50000 4 9 }

theorem witness_PolicyAndPower :
    (let i (f : PolicyField) : Instr := .policyWrite 0 f
     let p : Pkg := { booted := true }
     let calm : State := { quiet 0 p with vfs := [] }
     let refused (f : PolicyField) (s : State) : Bool := after (i f) s fun t => t == { s with host := [.refused] }
     calm.unitIdle 0 (.ptRoot 0x5000) && after (i (.ptRoot 0x5000)) calm (fun t => (t.vf 0).ptRoot == 0x5000) && after (i (.thandler 8)) calm (fun t => (t.vf 0).thandler == 8)
      && refused (.ptRoot 0x5000) (quiet 0 {}) && !calm.policyOk 0 (.coreSet [0, 300]) && refused (.coreSet [0, 300]) calm && refused (.directoryShare 65537) calm
      && after (.powerStateEntry 0) (quiet 200 { p with power := .idleCold }) (fun t => (t.pkg 0).exitAt == some 19300)
      && after (i (.scopeMax .pod)) calm (fun t => (t.vf 0).scopeMax == .pod) && !lab.unitIdle 0 (.ptRoot 0x5000) && after (i (.ptRoot 0x5000)) lab (fun t => t.host == [.busy] && t.vfs == lab.vfs)
      && after (i (.slices 0 [1])) (quiet 0 p) (fun t => t.scratch.read 0x50000 4 == 0 && (t.vf 0).slices == [(0, [1])]) && after (i (.slices 0 [2])) (quiet 0 p) (fun t => t.scratch.read 0x50000 4 == 9)
      && after (.tlbInvalidation 0 0) { lab with cores := [(0, { tlb := [(0, 1, 65536, 5), (3, 1, 65536, 5)] })] } (fun t => (t.coreAt 0).tlb == [(3, 1, 65536, 5)])
      && after (.hbmWipe 0 0x40001 2) lab (fun t => t.mem.read 0x40000 4 == 0xCC000000 && t.mem.get 0x30000 == 0x1F) && after (.hbmWipe 0 0x30000 1) lab (fun t => t.mem.get 0x30000 == 0)
      && (match exec (.hbmWipe 0 (lab.devBytes 0) 1) lab with | .fault (.noMemory _) => true | _ => false)
      && after (.quadRemap 0 0 0) { quiet 0 p with cores := [(2, { lost := true })] } (fun t => (t.pkg 0).badQuads == [(0, 0)] && !(t.coreAt 2).lost && t.scratch.read 0x50000 4 == 0) && !lab.quadEmpty 0 && same (.quadRemap 0 0 0) lab
      && lab.pkgWorks 0 && same (.powerStateEntry 0) lab && [(0, Power.active), (199, .active), (200, .idleWarm), (20000, .idleCold), (2000000, .parked)].all (fun x => after (.powerStateEntry 0) (quiet x.1 p) fun t => (t.pkg 0).power == x.2)
      && same (.powerStateExit 0) (quiet 0 { p with power := .idleCold, exitAt := some 501 }) && after (.powerStateExit 0) (quiet 0 { p with power := .idleCold, exitAt := some 500, runFrom := none }) (fun t => (t.pkg 0).power == .active && (t.pkg 0).runFrom == some 500)
      && after (.powerStateExit 0) (quiet 0 { p with power := .idleWarm }) (fun t => (t.pkg 0).exitAt == some 688)) = true := by decide +kernel

theorem witness_HostAccesses :
    (let m (a : HostAccess) (s : State) (p : State → Bool) : Bool := after (.hostMemoryAccess a) s p
     let q := hostQ 5 3 0
     let off (s : State) : State := { s with vfs := tset 0 { s.vf 0 with queues := [(0, { cfg := 2 })] } s.vfs }
     let d := trapMode { withG lab fun g => { g with dbg := { g.dbg with bpa := [1, 2, 3, 4] } } with vfs := tset 0 { lab.vf 0 with debugHost := true } lab.vfs }
     m (.read 0 0x40000 4) lab (fun t => t.host == [.bytes [0, 0, 0, 0xCC]]) && m (.write 0 0x40001 [5, 6]) lab (fun t => t.mem.read 0x40000 4 == 0xCC060500) && m (.read 0 0 4) State.reset (fun t => t.host == [.refused]) && m (.barRead 0 0) State.reset (fun t => t.host == [.refused]) && m (.barWrite 0 0x10 7) State.reset (fun t => t == State.reset)
      && after (.hostDebugAccess (.group 0) 0x106 (some 9)) lab (fun t => t.host == [.refused])
      && (match exec (.hostMemoryAccess (.read 0 (lab.devBytes 0) 1)) lab with | .fault (.noMemory _) => true | _ => false)
      && m (.barRead 0 0) lab (fun t => t.host == [.value 0]) && m (.barWrite 0 0x10 7) lab (fun t => (t.vf 0).tolns == 7) && m (.barRead 0 0x1018) q (fun t => t.host == [.value 3])
      && m (.barWrite 0 0x1010 6) q (fun t => (tgetD 0 {} (t.vf 0).queues).tail == 6) && m (.barWrite 0 0x1000 0x9FFF) (off lab) (fun t => (tgetD 0 {} (t.vf 0).queues).base == 0x9000) && m (.barWrite 0 0x1000 0x9FFF) q (fun t => t == q)
      && after (.hostDebugAccess (.group 0) 0x106 none) d (fun t => t.host == [.value 3]) && after (.hostDebugAccess (.group 0) 0x106 (some 9)) d (fun t => (gOf t).dbg.bpa == [1, 2, 9, 4])
      && after (.hostDebugAccess (.group 0) 0x106 none) lab (fun t => t.host == [.refused])) = true := by decide +kernel

/-! ### Encodings, reset and the step -/

theorem witness_RoundTrips :
    (isVector (.vbfx false vb) && (Instr.vbfx false vb).wf && !isVector (.bra (-3)) && encode (.bra (-3)) != [] && (Instr.bra (-3)).wf && (Instr.mma 3 0 12 8).wf && encode (.mma 3 0 12 8) != []) = true := by decide +kernel

/-- The laboratory meets the invariant, and a step from it answers a next state. -/
theorem witness_StepKeepsMemoryForm : Memory.wf State.reset = true ∧ (match step (State.reset.withFetchWord 32 0xCC000000) with | .next t => t.groups.map (fun g => g.2.splits.map fun p => p.2.pc) == [[0x40004]] | _ => false) = true := by
  constructor <;> decide +kernel

/-- A turn of the laboratory's split, of a program, and of a step of the device. -/
def turning (m : Mover) (w : Nat) (s : State) : State := { s with agenda := [⟨3, m⟩], cur := .none, mem := s.mem.write 0x40000 4 w }

theorem witness_StepRunsInstruction :
    (let s := turning (.split 0 0) 0x830FBC00 lab
     let t := s.advance
     let long := { s with mem := s.mem.write 0x40000 8 0x0001830FBC00 }
     let q := turning (.seq 0) 0xC1FFFFFD (withQ { running := some prog } lab)
     (match s.checkPage 0 0 1 0x40000 .exec false with | .ok l => s.leafKey 0 0 l == 0x40000 | .error _ => false) && (match s.fetchWord false 0 0 1 0x40000 with | .ok (w, _) => w == 0x830FBC00 | .error _ => false)
      && s.turn.mover == .split 0 0 && t.now == 103 && t.group? 0 == some (gOf lab) && t.gather 0 0 == (t, 0) && ((gOf lab).breaks 0).isNone && (gOf lab).issues && (gOf lab).pend.isNone
      && (match t.fetchWord false 0 0 1 0x40000 with | .ok (_, u) => (match u.fetchWord false 0 0 1 0x40004 with | .ok (x, _) => x == 0 | .error _ => false) | .error _ => false)
      && (match step q with | .next u => (progOf u).pc == 0x3FFF4 | _ => false)
      && (match step (turning (.event (.pendingWriteComplete 0)) 0 (withG lab fun g => { g with busy := [.v 1] })) with | .next u => (gOf u).busy == [] | _ => false)
      && (let i := Instr.waitc .cpy (.lit 0)
          let h := withSp s fun sp => { sp with wait := .again (.count .cpy), held := some ⟨0, i, (gOf lab).sregs, (gOf lab).vregs, sp.mask⟩, cont := 0x40008 }
          h.advance.comes 0 0 (gOf h) (.count .cpy) && (match step h with | .next u => (spOf u).pc == 0x40008 && (spOf u).held == none | _ => false))
      && (match step long with | .next u => (spOf u).pc == (spOf lab).pc + 8 | _ => false)) = true := by decide +kernel
/-! ### Waiting, racing and placing: what the remaining hypotheses say -/

/-- The state with the group's VF changed. -/
def withV (f : Vf → Vf) (s : State) : State := { s with vfs := tset 0 (f (s.vf 0)) s.vfs }

/-- R154, R156, R159, R165: an ordered access waits for none of the tenant's operations, for the reads of its atomics, or for all of them. -/
theorem witness_OrderedAccesses :
    lab.mayOrder 0 (gOf lab) .acqrel .pod ∧ lab.mayPass (gOf lab) .acqrel .pod true true [0] ∧ lab.promoted (gOf lab) true 0x80000 ∧ lab.unclaimed false 0x80000 4
      ∧ ¬ (inFlight lab).mayRelease 0 (gOf lab) .rel .pod ∧ (inFlight lab).mayAcquire (gOf lab) .acq := by
  refine ⟨⟨fun _ _ => ?_, fun _ => ?_⟩, ?_, fun _ => ?_, ?_, fun h => ?_, fun _ => ?_⟩
  · decide +kernel
  · decide +kernel
  · unfold State.mayPass; decide +kernel
  · intro c h
    rw [show tget (0x80000 / 128) lab.lineCore = none by decide +kernel] at h
    cases h
  · unfold State.unclaimed; decide +kernel
  · exact absurd (h rfl (by decide +kernel)) (by decide +kernel)
  · decide +kernel

/-- A remote atomic of the tenant not yet applied. -/
def atomFlight (s : State) : State := { inFlight s with rops := (inFlight s).rops.map fun r => (r.1, { r.2 with lane := { r.2.lane with kind := 2 } }) }

/-- R154, R326: an acquire waits for the reads of the tenant's atomics; an ordered instruction without active lanes is a fence. R165: a store-conditional that stores is recorded as a release. -/
theorem witness_OrderedAccesses_forms :
    (let s := scal
     let no := active 0 s
     let held (c : State) : State := withG c fun g => { g with reserv := some 0x1000 }
     waits (.fence .acq .pod) (atomFlight s) (.applied 0) && waits (.sld { um with ord := .acq, scope := .pod }) (atomFlight s) (.applied 0)
      && [Instr.satom um cw, .slr um, .ssc um, .vatom va, .vatom { va with ret := false, vd := 0 }, .satom { um with ord := .acqrel, scope := .pod } cw, .slr { um with ord := .acq, scope := .pod }].all
          (fun i => runs i no fun t => t.mem == s.mem && (gOf t).reserv == none && t.rops == [])
      && runs (.ssc { um with ord := .rel }) (held s) (fun t => t.lineCore == [(0x1000, 0)] && t.mem.read 0x80008 4 == 7) && runs (.ssc { um with ord := .rel }) s (fun t => t.lineCore == [])
      && runs (.satom { um with ord := .rel } { cw with aop := .cas, sc := 13 }) s (fun t => t.lineCore == [])) = true := by decide +kernel

/-- R107, R108: operands of each class. -/
theorem witness_FloatClasses :
    (ofF32 0x7FC00000).isNan = true ∧ (ofF32 0xBF800000).lt (.fin false 0 0) = true ∧ (ofF32 0x43000000).lt (ExactVal.ofInt 128) = false ∧ (ExactVal.ofInt (-150)).lt (ofF32 0xC3160000) = false
      ∧ ofF32 0x3F800000 = .fin false 8388608 (-23) ∧ (ofF32 2).lt (ofF32 1) = false ∧ fMax 1 2 = 2 ∧ fMin 0x7FC00000 5 = 5 ∧ fMin 5 0x7FC00000 = 5 ∧ fMax 0x7FC00000 0x7FC00000 = canonNan
      ∧ special .rcp 0x40000000 = 0x3F000000 ∧ special .rsq 0x40800000 = 0x3F000000 ∧ special .ex2 0x40400000 = 0x41000000 ∧ special .lg2 0x41000000 = 0x40400000 := by decide +kernel

/-- R227, R234: causes that raise nothing in a handler. -/
theorem witness_NestedTraps_none : ([0, 9, 10, 0x11, 0x15].all fun c => same (.nestedTrap 0 c) (trapMode lab)) = true := by decide +kernel

/-- R62, R212: a retiring group sends and closes. -/
theorem witness_Exits_sends :
    (after .exit (ported lab) (fun t => t.fwds.map (fun f => (f.item, f.port)) == [(7, 0), (14, 1)]) && after .exit (cairns [cairn0]) (fun t => t.cairns.map (fun c => c.opens) == [[]])
      && after .exit (cairns [{ cairn0 with drop := true }]) (fun t => t.cairns == [])) = true := by decide +kernel

/-- R138, R250: a copy from a page that no route reaches goes on. -/
theorem witness_Copies_cut :
    (let s := copies 1 (paged lab)
     let far : State := { s with copies := s.copies.map fun c => (c.1, { c.2 with addrs := [(0x40210000, 3)], srcs := [some (2 ^ 60)] }) }
     (match tget 0 far.copies with | some c => far.cutHome c.core c.vf c.launch c.globals | none => false) && same (.copyComplete 0) far) = true := by decide +kernel

/-- R147: a region of pod scope is swapped on the tenant's packages at once, when its operations are applied. -/
theorem witness_Publishing_pod :
    (let r : Region := { base := 0x40220000, size := 65536, scope := .pod }
     let p : Pub := { gid := 0, core := 0, task := none, launch := 1, vf := 0, base := 0x40220000, progs := [] }
     let s0 := withV (fun v => { v with regions := [r] }) (paged lab)
     let s : State := { s0 with vfs := tset 259 { regions := [r] } s0.vfs, pubs := [(3, p)] }
     let front (t : State) (v : Nat) : List Bool := (t.vf v).regions.map Region.flipped
     (s.vf 0).triples == [(1, 3)] && s.allApplied 0 && after (.publSwap 3) s (fun t => front t 0 == [true] && front t 259 == [true]) && same (.publSwap 3) (inFlight s)
      && same (.publSwap 3) { s with copies := [(1, { gid := 0, task := none, launch := 1, vf := 0, core := 0, block := none, fromScratch := true, toScratch := false, addrs := [], srcs := [], dsts := [], old := [], faults := false, sh := true, regions := [0x40220000] })] }) = true := by
  decide +kernel

/-- R239, R244, R245: a shadow comparison at a split that stands at a VFADD, with no breakpoint. -/
theorem witness_MemoryAndComputeErrors_shadow :
    (let f := withSp (us [(1, 0x3F800000), (2, 0x3F800000)] { scal with mem := scal.mem.write 0x40000 4 0x3000C082 }) fun sp => { sp with mask := 0xFF }
     ((gOf f).breaks 0).isNone && (gOf f).pend.isNone && !(gOf f).stepped 0 && (gOf f).room 3
      && (match f.fetchInstr false 0 0 1 0x40000 with | .ok (.vfadd v) u => u.operable (gOf f) 0 (.vfadd v) | _ => false)
      && after (.shadowRetry 0 0 [5] [0x40400000] [0x40000000]) f (fun t => vAt t 3 5 == 0x40000000 && vAt t 3 6 == 0x40000000 && vAt t 3 8 == 0 && (spOf t).pc == 0x40004)
      && same (.shadowRetry 0 0 [9] [0x40400000] [0x40400000]) f) = true := by decide +kernel

/-- Row 0 of the accumulator holds 1 in column 0 and 2 in column 5; the program writes it to a ring of slots of 640 bytes, whose second slot is free. -/
def drainLab (kind : EngKind) (ring : List Word) (c : RowCheck) : State :=
  { seqLab { prog with ops := [(6, { kind := kind, pc := 0x40000, rows := 2, acc := 0, ring := ring, sa := 12 })] } with
    scratch := Mem.write {} 0x1280 4 4, acc := (Mem.write {} 0 4 0x3F800000).write 20 4 0x40000000, rows := [(0, c)] }

/-- The ring, the check that the row passes, the rows done, and the payload of the slot. -/
def outRing : List Word := [0x20001000, 640 / 64 * 65536 + 4, 1, 2]
def three : RowCheck := { c := .fin false 3 0 }
def rowsDone (t : State) : List Nat := (progOf t).ops.map fun o => o.2.row
def slotAt (t : State) (n w : Nat) : Nat := t.scratch.read (0x12C0 + n) w

/-- R120, R189: a row of the distance may start. -/
def mdistOp : EngOp := { mmaOp with kind := .mdist 0x1000 }
def mdistLab : State := { mmaLab 5 with wbuf := (Mem.write {} 0x1000 4 0x3F800000).write 0x1800 4 0x40000000, quads := (seqLab { planeProg with ops := [(6, mdistOp)] }).quads }
theorem witness_EngineEvents_mdist :
    (mdistLab.slotReady 0 mdistOp && !(progOf mdistLab).loading 6 0x1000 2056 && mdistLab.accRow 0 0 0 == some 0 && (progOf mdistLab).ops.map Prod.snd == [mdistOp]) = true := by decide +kernel

/-- R121, R190: the two best of a row, the largest or the least. -/
theorem witness_EngineEvents_mtopk :
    (after (.engineRingSlot 0 6) (drainLab (.mtopk 2 false 0x100) outRing three) (fun t => slotAt t 0 8 == 0x4000000000000105 && slotAt t 8 8 == 0x3F80000000000100 && t.scratch.read 0x1280 4 == 5 && rowsDone t == [1])
      && after (.engineRingSlot 0 6) (drainLab (.mtopk 2 true 0x100) outRing three) (fun t => slotAt t 0 8 == 0x101 && slotAt t 8 8 == 0x102)) = true := by decide +kernel

/-- R122, R191: a row to a slot, and one whose check fails. -/
theorem witness_EngineEvents_mdrn :
    (after (.engineRingSlot 0 6) (drainLab (.mdrn .f8 false 0x3F800000 none) outRing three) (fun t => slotAt t 0 1 == 0x38 && slotAt t 5 1 == 0x40 && rowsDone t == [1])
      && three.passes (0x3F800000 :: 0x40000000 :: List.replicate 510 0)
      && after (.engineRingSlot 0 6) (drainLab (.mdrn .f8 false 0 none) outRing {}) (fun t => (progOf t).stopped == some (causeMCHK, 0x40000))) = true := by decide +kernel

/-- R191: a row to global memory. -/
theorem witness_EngineEvents_mdrn_global :
    ((match drainKeys (drainLab (.mdrn .bf16 false 0 (some 0x80000)) [] three) prog 0x80000 1024 2 false with | .ok l => l == [(0x80000, 1024)] | _ => false)
      && after (.engineRingSlot 0 6) (drainLab (.mdrn .bf16 false 0 (some 0x80000)) [] three) (fun t => t.mem.read 0x80000 2 == 0x3F80 && t.mem.read 0x8000A 2 == 0x4000 && t.scratch.read 0x1280 4 == 4 && rowsDone t == [1])) = true := by decide +kernel

/-- R52, R252: nothing that a launch waits for stands in the way, and no copy is to write its record. -/
theorem witness_LaunchCompletion_record : finished.unclaimed false 0x80000 16 ∧ (finished.quads.all fun q => q.2.fates.all fun x => x.launch != 1) = true := by
  refine ⟨?_, by decide +kernel⟩
  unfold State.unclaimed
  decide +kernel

/-- R261, R268: a package's part of a pod launch with one pod barrier is accepted; the second time it is refused. -/
theorem witness_HostQueues_pod :
    (let s : State := { hostQ 1 0 0x01000000 with mem := ((hostQ 1 0 0x01000000).mem.write 0x80018 4 2).write 0xA0010 4 (32 + 2 ^ 27), pods := [(2, ([0, 1], []))] }
     let two : State := { s with pods := [(2, ([0, 1], [1]))], barriers := [(⟨4, 2, 0, 0⟩, { expected := 3, count := 3, parts := 1, members := [] })] }
     let bar (t : State) : Option (Word × Nat × Nat) := (t.barrier ⟨4, 2, 0, 0⟩).map fun b => (b.phase, b.expected, b.parts)
     after (.launch 0 0) s (fun t => t.pods == [(2, ([0, 1], [0]))] && bar t == some (0, 1, 1) && t.launches.map (fun l => (l.1, l.2.podl)) == [(1, 0), (3, 2)])
      && after (.launch 0 0) two (fun t => t.pods == [(2, ([0, 1], [1, 0]))] && bar t == some (0, 4, 0))
      && after (.launch 0 0) { s with pods := [(2, ([0, 1], [0]))] } (fun t => t.launches.length == 1)) = true := by decide +kernel

/-- R34: a launch whose image names a core beyond the set, and one whose placing loads its image into memory. -/
theorem witness_BlockDispatch_images :
    (let i := Instr.blockDispatch (.launch 1) [4]
     let s (k : Nat) : State := withV (fun v => { v with images := [{ descs := [0], base := 0x90000, size := 256, coords := [(0, k)] }] }) (withL 1 (fun l => { l with sums := ⟨0, 0, 0, 0, 0⟩ }) toPlace)
     let coord : Byte := BitVec.ofNat 8 (coordOf 1)
     !(launchOf (s 5) 1).begun && (s 5).coordRange 0 0 1 && after i (s 5) (fun t => (launchOf t 1).ended && t.groups.length == 1)
      && !(s 1).coordRange 0 0 1 && !(s 1).imagesFar (launchOf (s 1) 1) && !(s 5).vfFar 0 (recordEnds (launchOf (s 5) 1).done)
      && after i (s 1) (fun t => t.mem.get 0x90000 == coord && t.groups.length == 2 && (t.vf 0).images.map (fun m => m.loaded) == [[([coord], none)]])) = true := by decide +kernel

/-- R204, R221: of four tasks on one quad two move to the other, the youngest; a deep core gives a closed cairn away. -/
theorem witness_WorkEvents_depths :
    (let t (c : Nat) : Task := { task0 with place := .queued c }
     let s : State := withV (fun v => { v with coreSet := [0, 4], t := 2 }) { lab with tasks := [(6, t 0), (7, t 0), (8, t 0), (9, t 0)] }
     let level : State := { s with tasks := [(6, t 0), (7, t 0), (8, t 4)] }
     let k : Cairn := { cairn0 with opens := [] }
     let w : State := withV (fun v => { v with coreSet := [0, 1], slices := [(0, [0]), (1, [0])], t2 := 0 }) { lab with tasks := [(6, { t 0 with aff := some 9 })], cairns := [k] }
     tableOk s.tasks && s.queueDepth 0 == 4 && after (.queueDepthExchange 0) s (fun u => u.tasks.map (fun x => x.2.place) == [.queued 0, .queued 0, .queued 4, .queued 4])
      && same (.queueDepthExchange 0) level && k.closed
      && after (.queueDepthExchange 0) w (fun u => u.cairns.map (fun c => c.moving) == [(w.scratchRoom 0 1 256).map fun off => ⟨1, off, none, false, w.cairnBytes k⟩] && (w.scratchRoom 0 1 256).isSome)) = true := by decide +kernel

/-- R262: a pod barrier breaks when no route has worked for the time of R259; R254: without a route a window is stranded from the time the last route went. -/
theorem witness_RoutesAndResets_time :
    (let s (now : Nat) : State := { lab with now := now, pods := [(2, ([0, 1], [0, 1]))], barriers := [(⟨4, 2, 0, 0⟩, {})], pkgs := tset 0 { lab.pkg 0 with cut := [(1, 0)] } lab.pkgs }
     (s 5).cutSince 0 1 == some 0 && (s 5).podHome 2 == 0 && same (.podBarrierBreak 2 1) (s 9399999) && after (.podBarrierBreak 2 1) (s 9400000) (fun t => t.barriers.map (fun b => b.2.broken) == [true])
      && ((sending 9 out).routeTo 0 1) == some 3 && same (.podBarrierBreak 2 1) { sending 9400000 out with pods := [(2, ([0, 1], [0, 1]))] }) = true := by decide +kernel

/-- R276: on a debug-unlocked package the host's debug access reaches the scan. -/
theorem witness_HostAccesses_scan :
    (let s := lifeAt .debugUnlocked true
     after (.hostDebugAccess (.scan 0) 0x999 none) s (fun t => t.host.length == 1 && t.host != [.refused])
       && after (.hostDebugAccess (.scan 0) 0x999 (some 1)) s (fun t => t.host == [.refused]) && after (.hostDebugAccess (.scan 0) 0x999 none) lab (fun t => t.host == [.refused])) = true := by decide +kernel

/-- R83, R250: the code's page lies on this package. -/
theorem witness_StepRunsInstruction_near : (!lab.codeFar 0 0 1 0x40000 && !lab.codeFar 0 0 1 0x40004) = true := by decide +kernel

/-- R108: finite operands, of each range. -/
theorem witness_SpecialFunctionBounds : ofF32 0x40400000 = .fin false 12582912 (-22) ∧ ofF32 0xBF400000 = .fin true 12582912 (-24) ∧ ofF32 1 = .fin false 1 (-149) := by decide +kernel

/-! ### Traps, copies, cairns, launches and the fabric: what further hypotheses say -/

/-- R228, R241, R177: no STEP is due in the laboratory, and a trap that delivers no program's cause leaves the fate records; one that an MRDV raises marks its record. -/
theorem witness_TrapEntry_due :
    ((gOf lab).splits.all (fun p => p.2.due == none) && lab.tellFate { cause := 8 } == lab
      && after (.mrdv 9) (sets [(9, 0)] (withQ { forks := 1, fates := [{ serial := 0, vf := 0, launch := 1, core := 0, cause := 0x10, pc := 0x99 }] } lab)) (fun t => (t.quad 0).fates.map Fate.told == [true])) = true := by
  decide +kernel

/-- R212, R219: a retiring group's open of a mirrored cairn ends after a write-back. -/
theorem witness_Exits_mirrored :
    after .exit (cairns [{ cairn0 with mir := true }]) (fun t => t.cairns.map (fun c => c.opens) == [[0]] && t.wbacks.map (fun w => (w.2.name, w.2.waiter, w.2.leaver)) == [(9, none, some (.group 0))]
      && t.wbacks.all fun w => after (.cairnWritebackComplete w.1) t fun u => u.cairns.map (fun c => c.opens) == [[]] && u.wbacks == []) = true := by decide +kernel

/-- R260: the handler of FABLOST is shown the outcomes known at its entry, any other none. -/
theorem witness_SystemReads_outcomes :
    (let t (c n : Nat) : State := withG (trapMode (withG lab fun g => { g with fl := [⟨3, true, 1, false, 1, 0x80000, 0, 127⟩] })) fun g => { g with trap := g.trap.map fun x => { x with info := { x.info with cause := c }, known := n } }
     srd 0x34 (t causeFABLOST 1) 1 && srd 0x600 (t causeFABLOST 1) 0x10005 && srd 0x601 (t causeFABLOST 1) 0x80000 && srd 0x34 (t causeFABLOST 0) 0 && srd 0x600 (t 8 1) 0 && srd 0x34 (t 8 1) 0) = true := by decide +kernel

/-- R132, R141, R163: a copy's ranges are allowed and out of every ring; one to memory waits behind a remote atomic; one whose range R132 never allows sets CPYERR. -/
theorem witness_Copies_ends :
    (let s := copies 1 (paged lab)
     let with' (f : Copy → Copy) (s : State) : State := { s with copies := s.copies.map fun c => (c.1, f c.2) }
     let back : State := with' (fun c => { c with fromScratch := true, toScratch := false, addrs := [(3, 0x80000)], srcs := [some 3], dsts := [some 0x80000] }) s
     let bad : State := with' (fun c => { c with fromScratch := true, addrs := [(5000, 3)], srcs := [none], srcOk := false }) s
     (match tget 0 s.copies with | some c => c.srcOk && c.dstOk && s.rangeOk 0 0 (some 2) false (c.addrs.map fun b => b.1) && s.rangeOk 0 0 (some 2) true (c.addrs.map fun b => b.2) && !s.cutHome c.core c.vf c.launch c.globals | none => false)
      && (s.engineBytes 3 1).isEmpty && (s.emptyBytes 3 1).isEmpty && !s.passes 0 0 1 [0x80000] && (atomFlight back).passes 0 0 1 [0x80000] && same (.copyComplete 0) (atomFlight back)
      && after (.copyComplete 0) back (fun t => t.mem.get 0x80000 == 0) && !bad.rangeOk 0 0 (some 2) true [5000] && after (.copyComplete 0) bad fun t => (gOf t).copyErr) = true := by decide +kernel

/-- R166: a demoted request to the directory counts as it issues, though it waits. -/
theorem witness_CairnInstructions_demoted :
    (let s := withV (fun v => { v with scopeMax := .die }) (cairns [{ cairn0 with moving := some ⟨1, 0, none, false, []⟩ }])
     ready (.copen false 10 16) s && after (.copen false 10 16) s (fun t => (t.vf 0).demote == 1 && (spOf t).wait == .again (.cairn 9 10))
      && after (.cinfo false 10 16) s (fun t => (t.vf 0).demote == 0 && (spOf t).wait == .again (.cairn 9 10))) = true := by decide +kernel

/-- R163, R194: nothing of the tenant is in flight that a drain would pass. -/
theorem witness_EngineEvents_free :
    (let s := drainLab (.mdrn .bf16 false 0 (some 0x80000)) [] three
     !s.passes 0 0 1 [0x80000, 0x803FF] && s.busyHome 0 0 1 [0x80000, 0x803FF] == none && same (.engineRingSlot 0 6) (atomFlight s)) = true := by decide +kernel

/-- R250, R268, R269: a payload, a record or images on a package that no route reaches hold up what needs them. -/
theorem witness_HostQueues_far :
    (let q (at' : Nat) (w0 : Nat) : State := let s := paged (hostQ 1 0 w0); { s with mem := s.mem.write (0x80000 + at') 4 0x40210000 }
     let near := paged (hostQ 1 0 0x01000000)
     let fin' (d : DWord) : State := withL 1 (fun l => { l with done := d }) (paged finished)
     let place (d : DWord) (k : Nat) : State := withV (fun v => { v with images := [{ descs := [0], base := 0x40210000, size := 256, coords := [(0, k)] }] }) (withL 1 (fun l => { l with sums := ⟨0, 0, 0, 0, 0⟩, done := d }) (paged toPlace))
     near.vfFar 0 (payloadEnds 0) == false && near.vfFar 0 (recordEnds 0) == false && (q 8 0x01000000).vfFar 0 (payloadEnds 0x40210000) && same (.launch 0 0) (q 8 0x01000000) && (q 16 0x03000000).vfFar 0 (recordEnds 0x40210000) && same (.launch 0 0) (q 16 0x03000000)
      && (fin' 0x40210000).vfFar 0 (recordEnds 0x40210000) && same (.launchComplete 1) (fin' 0x40210000) && !(fin' 0x80000).vfFar 0 (recordEnds 0x80000)
      && same (.blockDispatch (.launch 1) [4]) (place 0x80000 1) && same (.blockDispatch (.launch 1) [4]) (place 0x40210000 5)) = true := by decide +kernel

/-- A launch to place whose image at 0x90000 has a COORD8 entry of an index, with placements that are loaded. -/
def imaged (k : Nat) (loaded : List (List Byte × Option Nat)) : State :=
  withV (fun v => { v with images := [{ descs := [0], base := 0x90000, size := 256, coords := [(0, k)], file := List.replicate 256 5, loaded := loaded }] })
    (withL 1 (fun l => { l with sums := ⟨0, 0, 0, 0, 0⟩ }) toPlace)

/-- R34: a placement that is loaded is used again; another goes into a copy of the image, in which its launch then finds it. -/
theorem witness_BlockDispatch_copies :
    (let coord : Byte := BitVec.ofNat 8 (coordOf 1)
     let load (s : State) : State := s.loadImages 1 (launchOf s 1)
     let uses (t : State) (c : Option Nat) : Bool := (launchOf t 1).images == [⟨0x90000, 256, c⟩]
     let s := imaged 1 [([coord], some 7)]
     let other := imaged 1 [([77], none)]
     let n := other.nextId
     let t := load other
     let key (s : State) : Option Nat := match s.checkGlobal 0 0 1 0x90004 4 .read with | .ok l => some (s.leafKey 0 0 l) | .error _ => none
     (load s).mem == s.mem && uses (load s) (some 7) && (load (imaged 1 [])).mem.get 0x90000 == coord && uses (load (imaged 1 [])) none
      && uses t (some n) && t.mem.get (copyKey n 0x90000) == coord && t.mem.get (copyKey n 0x90001) == 5 && t.mem.get 0x90000 == other.mem.get 0x90000 && other.claimed false (copyKey n 0x90000) 1 == []
      && key (load (imaged 1 [])) == some 0x90004 && key t == some (copyKey n 0x90004)) = true := by decide +kernel

/-- R33, R34: what system software names to the loader; a host write over an entry has the image loaded anew. -/
theorem test_images_named :
    (let s := lab.setPolicy 0 (.image 0 0x90010 512)
     let t := (s.setPolicy 0 (.coord8 0 0x90104 1)).setPolicy 0 (.coord8 3 0x90104 1)
     let loaded : State := t.setVf 0 { t.vf 0 with images := (t.vf 0).images.map fun m => { m with loaded := [([1], none)] } }
     let sizes (u : State) : List (Nat × Nat × List (Nat × Nat)) := (u.vf 0).images.map fun m => (m.base, m.size, m.coords)
     sizes s == [(0x90000, 768, [])] && sizes t == [(0x90000, 768, [(0x104, 1)])] && (t.vf 0).images.map (fun m => m.descs) == [[0, 3]]
      && after (.hostMemoryAccess (.write 0 0x90103 [1, 2])) (paged loaded) (fun u => (u.vf 0).images.map (fun m => m.loaded) == [[]])
      && after (.hostMemoryAccess (.write 0 0x90105 [1, 2])) (paged loaded) (fun u => (u.vf 0).images.map (fun m => m.loaded) == [[([1], none)]])) = true := by
  decide +kernel

/-- R148, R276: the package of a packet takes it; R258: behind a packet that is to be replayed already, the next may be overdue; R259: a SYNC window is not stranded. -/
theorem witness_RoutesAndResets_windows :
    (let two : Win := { out with next := 7, held := [(5, 0, 3, .req 9 (rlane 0)), (6, 0, 3, .req 9 (rlane 0))], again := [5] }
     let s := sending 9400000 { out with triple := { out.triple with cls := 2 } }
     let strand : State := { s with pkgs := tset 0 { s.pkg 0 with routes := [⟨1, 3, true⟩], cut := [(1, 0)] } s.pkgs }
     (lab.pkg 0).takes && same (.replayTimeout 5) (sending 18799 two) && after (.replayTimeout 5) (sending 18800 two) (fun t => (t.pkg 0).routes == [⟨1, 3, true⟩]) && same (.replayTimeout 5) (sending 18800 { two with again := [5, 6] })
      && strand.cutSince 0 1 == some 0 && same (.strandTimeout 5) strand) = true := by decide +kernel

/-- R178, R179: a change of the life cycle keeps the count of forks and the fate records. -/
theorem witness_ResetAndTrust_forks :
    (let fate : Fate := ⟨4, 0, 1, 0, 0, 0, true⟩
     after (.unlockCommand 0 true) (withQ { forks := 5, fates := [fate] } (lifeAt .deployed true)) (fun t => t.quad 0 == { forks := 5, fates := [fate] })
      && after (.coldReset 0) (withQ { forks := 5, fates := [fate] } (lifeAt .deployed true)) (fun t => t.quad 0 == {})) = true := by decide +kernel

/-- R50, R80, R81: as a turn begins, waits that are over end, and no other; the reports that are due. -/
theorem witness_StepRunsInstruction_begun :
    (let s (w : Wait) : State := turning .idle 0xCC000000 (withSp lab fun sp => { sp with wait := w, cont := 0x40008 })
     let of (w : Wait) : Word × Wait := let x := spOf (s w).advance; (x.pc, x.wait)
     let busy (w : Wait) : Word × Wait := let t := s w; let x := spOf ({ t with groups := t.groups ++ [(5, { gOf lab with slot := 1 })] } : State).advance; (x.pc, x.wait)
     of (.yield 80) == (0x40000, .none) && of (.counter .cpy 0 true) == (0x40000, .none) && of (.counter .cpy 0 false) == (0x40008, .none) && of (.yield 99) == (0x40000, .none) && busy (.yield 99) == (0x40000, .yield 99)
      && !(gOf lab).stepped 0 && !(gOf lab).fabDue) = true := by decide +kernel

/-- R131, R154, R326: a scratch access with a scope wider than quad orders at quad. -/
theorem witness_ScalarAccesses_wide :
    (waits (.slds { um with ord := .acq, scope := .pod }) (atomFlight scal) (.applied 0)
      && runs (.ssts { um with ord := .rel, scope := .die }) (sets [(20, 8)] (inFlight scal))) = true := by decide +kernel

/-! ### What further clauses say -/

/-- R73: VBCAST leaves a uniform register with every lane active, else a general one. -/
theorem witness_ShapeTags_broadcast :
    (runs (.vbcast false false 2 60) lab (fun t => tagAt t 2 == 0) && runs (.vbcast false false 2 60) (active 4 lab) (fun t => tagAt t 2 == 2)) = true := by decide +kernel

/-- R241: a stepped SADD and VADD, and a YIELD whose wait ends. -/
theorem witness_TrapInstructions_stepped :
    (let s := stepping (sets [(3, 5)] (us [(1, 4)] lab))
     let y := stepping (withSp lab fun sp => { sp with wait := .yield 84, cont := 0x3FF00, stamp := 2 })
     let told (t : State) : Option (Nat × Word × Word) := (gOf t).trap.map fun x => (x.info.cause, x.info.pc, x.frame.getD 2 0)
     after (.sadd { w64 := false, sd := 4, sa := 3, b := .lit 2 }) s (fun t => told t == some (causeSTEP, 0x40000, 0x40004 + 4) && ((gOf t).trap.map fun x => x.frame.getD 68 0) == some 7)
      && after (.vadd .i32 { keepA := false, keepB := false, vd := 2, a := .reg 1, b := .reg 1 }) s (fun t => told t == some (causeSTEP, 0x40000, 0x40004))
      && after (.yieldTimeout 0 0) y (fun t => told t == some (causeSTEP, 0x3FF00, 0x40000))) = true := by decide +kernel

/-- R56, R57, R82: a group that retires drops out of its block's barrier, completes its phase, or leaves the next one; its split entry stays taken. -/
theorem witness_Exits_barriers :
    (let b : Barrier := { phase := 7, expected := 2, members := [0, 5] }
     let s (b : Barrier) : State := { blockBar lab b with blocks := [(2, ⟨1, none, 0, 0, [(0, 0, 0)], [0, 5], false, [0]⟩)] }
     let now (t : State) : Option (Word × Nat × Nat × Nat × List Nat) := (t.barrier ⟨1, 3, 0, 0⟩).map fun c => (c.phase, c.expected, c.count, c.drops, c.members)
     after .exit (s b) (fun t => now t == some (7, 2, 1, 1, [5]) && (gOf t).kept == 1 && (gOf t).entries 0 == 1)
      && after .exit (s { b with count := 1, arrived := [5] }) (fun t => now t == some (8, 1, 0, 0, [5])) && after .exit (s { b with doneAt := some 100 }) (fun t => now t == some (7, 1, 0, 0, [5]))
      && after .exit (s { b with doneAt := some 100, count := 1, arrived := [5] }) (fun t => now t == some (8, 1, 0, 0, [5])) && after .exit (s { b with members := [5] }) (fun t => now t == some (7, 2, 0, 0, [5]))) = true := by decide +kernel

/-- R49: the last split at BAR.grp sets the others at one free, and not the one at REGRP. -/
theorem witness_GroupBarrierAndRegrouping_join :
    (let s := withG (fourSplits lab) fun g => { g with splits := g.splits.map fun p =>
       if p.1 = 0 then p else (p.1, { p.2 with wait := if p.1 = 3 then .regrp 3 2 else .barGrp, cont := 0x40100 + BitVec.ofNat 32 p.1 }) }
     tableOk (gOf s).splits && after (.bar .grp 0) s (fun t => (gOf t).splits.map (fun p => (p.2.pc, p.2.wait == .none)) ==
       [(0x40004, true), (0x40101, true), (0x40102, true), ((((gOf s).splits.map fun p => p.2.pc).getD 3 0), false)])) = true := by decide +kernel

/-- Two groups of a block, the other one with 60 lanes, waiting at REGRP of v3. -/
def regrouping (m : Mask) : State :=
  let g := gOf (setv [(3, .a 0 1)] (withSp lab fun sp => { sp with mask := m }))
  let o : Group := { gOf (setv [(3, .a 1000 1)] lab) with slot := 1, gidx := 1, splits := [(0, { pc := 0x40000, mask := BitVec.ofNat 96 (2 ^ 60 - 1), wait := .regrp 3 1, cont := 0x40004 })] }
  { lab with groups := [(0, g), (5, o)] }

/-- R66: two groups are packed into one, or into two where their lanes need both. -/
theorem witness_GroupBarrierAndRegrouping_fuse :
    (let i := Instr.regrp 3 1
     let other (t : State) : Group := (t.group? 5).getD (gOf t)
     let s := regrouping 7
     let t := regrouping (BitVec.ofNat 96 (2 ^ 60 - 1))
     ready i s && (gOf s).roomFor [3] && s.ropCount 5 == 0 && (other t).roomFor [3]
      && after i s (fun u => (List.range 5).map (vAt u 3) == [0, 1, 2, 1000, 1001] && (spOf u).mask == BitVec.ofNat 96 (2 ^ 63 - 1) && (other u).life == .retired)
      && after i t (fun u => (List.range 2).map (fun n => vAt u 3 (60 + n)) == [1000, 1001] && (spOf u).mask == BitVec.allOnes 96 && ((other u).v 3).lane 0 == 1036
        && (other u).splits.map (fun p => (p.2.pc, p.2.mask, p.2.wait)) == [(0x40004, BitVec.ofNat 96 (2 ^ 24 - 1), .none)])) = true := by decide +kernel

/-- R246: a VLD that reads an error kills its group, and has consumed it; R244: the other instructions that the shadow unit recomputes. -/
theorem witness_MemoryAndComputeErrors_others :
    (let s := { strided 4 with bad := [0x80005] }
     let f (w : Nat) : State := withSp (us [(1, 0x3F800000), (2, 0x3F800000), (3, 0x3F800000)] { scal with mem := scal.mem.write 0x40000 4 w }) fun sp => { sp with mask := 0xFF }
     let once (w : Nat) (good : Word) (bad : Word) : Bool := same (.shadowRetry 0 0 [5] [good] [0]) (f w)
       && after (.shadowRetry 0 0 [5] [bad] [good]) (f w) (fun t => (t.coreAt 0).sdccnt == 1 && vAt t 3 5 == good && vAt t 3 6 == good && vAt t 3 9 == 0x3F800000)
     ready (.vld lm) s && after (.vld lm) s (fun t => (gOf t).life == .retired && t.bad == [])
      && once 0x3200C082 0 0x3F800000 && once 0x3400C082 0x3F800000 0x40000000 && once 0x3600C082 0x40000000 0x3F800000) = true := by decide +kernel

/-- R234: each of the six checks of TRET. -/
theorem witness_TrapReturn_checks :
    (let g := withSp lab (fun sp => { sp with mask := 0xF }) |> gOf
     let s := withG lab fun _ => g
     let f := flatFrame s 0 g 0
     let ok (l : List (Nat × Word)) : Bool := tretOk g (l.foldl (fun f p => f.set p.1 p.2) f)
     ok [] && !ok [(18, 0)] && !ok [(2, 2)] && ok [(54, 1), (23, 0x10)] && !ok [(54, 1), (23, 0x18)] && !ok [(54, 9)] && !ok [(54, 0x11), (23, 0x10)]
      && !ok [(192, 3)] && ok [(192, 0)] && !ok [(192, 0), (225, 1)] && ok [(192, 1), (225, 0)] && !ok [(192, 1), (226, 1)] && !tretOk { g with budget := 0 } (f.set 192 2)) = true := by decide +kernel

/-- R148: a cold reset zeroes the copies of images. -/
theorem witness_ResetAndTrust_copies :
    after (.coldReset 0) { imaged 1 [([77], some 4)] with mem := Mem.write {} (copyKey 4 0x90000) 4 9 } (fun t => t.mem == {}) = true := by decide +kernel

/-- R187, R195: a program whose operation stands between two batches is pre-empted with the position of its ring's next slot. -/
theorem witness_Preemption_ring :
    (let o : EngOp := { kind := .mma, pc := 0x40000, rows := 200, acc := 0, row := 128, ring := [0x20001000, 640 / 64 * 65536 + 4, 1, 2], sa := 12 }
     let s := seqLab { prog with ops := [(6, o)], sregs := List.replicate 64 9 }
     s.opMayStop 0 o && after (.sequencerPreemption 0) s (fun t => (t.quad 0).saved.map (fun p => (List.range 6).map fun n => p.sregs.getD (11 + n) 0) == [[9, 9, 9, 1, 2, 9]])) = true := by decide +kernel

/-- R263: a peer that holds a triple of the VF, over which nothing was sent, is to be reset too. -/
theorem witness_RoutesAndResets_peers :
    (let s := withV (fun v => { v with triples := [(3, 5)] }) lab
     let t : State := { s with vfs := s.vfs ++ [(4 * 256 + 1, { triples := [(0, 0)] })] }
     after (.functionLevelReset 0) t (fun u => u.resets == [(3, 0), (4, 0)])) = true := by decide +kernel

end Sys2Proof.Tests
end

section
/-! SUPPORT. The results of the U-set integer and float families: the moulds of R323 and R331 run by a ready instruction, and the
statements about them. -/

namespace Sys2Proof.Machine

/-- An instruction of neither the sequencer family nor the L-set that writes no vector register, so that its completion leaves the
operand cache alone (R77). -/
structure PlainScalar (i : Instr) : Prop where
  notEngine : isEngine i = false
  notVector : isVector i = false
  noDests : vDests i = []

/-! ### The mould of R323 -/

/-- A ready instruction that runs the mould of R323 completes with the mould's value of a and b, `r` in sd or `r2` in its pair. -/
theorem completes_scalarOp {s : State} {gid k : Nat} {g : Group} {sp : Split} {i : Instr} {o : SOp} {body : Ctx → State → Act}
    {f : Word → Word → Word} {f64 : DWord → DWord → DWord} {r : Word} {r2 : DWord} (hi : PlainScalar i)
    (hx : exec i s = issue i s body) (hb : body (groupCtx gid k g sp i) s = scalarOp o f f64 (groupCtx gid k g sp i) s)
    (hr : f (g.sreg sp o.sa.toNat) (g.opB sp o.b) = r) (hr2 : f64 (g.spair sp o.sa.toNat) (g.opB64 sp o.b) = r2)
    (h : Ready s gid k g sp i) :
    Completes i s gid k (if o.w64 then g.setPair k o.sd.toNat r2 else g.setS k o.sd.toNat r) (sp.after i) := by
  obtain ⟨notEngine, notVector, noDests⟩ := hi
  subst hr hr2
  unfold Completes
  rw [hx]
  cases hw : o.w64 with
  | false => exact completes_setS h notEngine notVector noDests o.sd.toNat _ (by simp [hb, scalarOp, hw])
  | true => exact completes_setPair h notEngine notVector noDests o.sd.toNat _ (by simp [hb, scalarOp, hw])

/-! ### Minimum and maximum: the order that `below` decides -/

theorem below_signed_iff {w : Nat} (a b : BitVec w) : below false a b = true ↔ a.toInt < b.toInt := BitVec.slt_iff_toInt_lt

theorem below_natural_iff {w : Nat} (a b : BitVec w) : below true a b = true ↔ a.toNat < b.toNat := BitVec.ult_iff_toNat_lt

theorem min_signed {w : Nat} (a b : BitVec w) : (if below false b a then b else a) = if a.toInt ≤ b.toInt then a else b := by
  simp only [below_signed_iff, ← not_le, ite_not]

theorem min_natural {w : Nat} (a b : BitVec w) : (if below true b a then b else a) = if a.toNat ≤ b.toNat then a else b := by
  simp only [below_natural_iff, ← not_le, ite_not]

/-- Where equal keys mean equal values, the greater of two may be either when the keys are equal. -/
theorem ite_lt_eq_ite_le {α β : Type} [LinearOrder β] {key : α → β} (hk : Function.Injective key) (a b : α) :
    (if key a < key b then b else a) = if key a ≤ key b then b else a := by
  rcases lt_trichotomy (key a) (key b) with h | h | h
  · simp [h, h.le]
  · simp [hk h]
  · simp [h.not_gt, h.not_ge]

theorem max_signed {w : Nat} (a b : BitVec w) : (if below false a b then b else a) = if a.toInt ≤ b.toInt then b else a := by
  simp only [below_signed_iff]
  exact ite_lt_eq_ite_le (fun _ _ => BitVec.eq_of_toInt_eq) a b

theorem max_natural {w : Nat} (a b : BitVec w) : (if below true a b then b else a) = if a.toNat ≤ b.toNat then b else a := by
  simp only [below_natural_iff]
  exact ite_lt_eq_ite_le (fun _ _ => BitVec.eq_of_toNat_eq) a b

/-! ### The mould of R331 -/

theorem roundRne_nan : roundRne .nan = canonNan := rfl

theorem flush_canonNan (ftz : Bool) : flush ftz canonNan = canonNan := by
  have notSubnormal : isSubnormal canonNan = false := rfl
  simp only [flush, notSubnormal, Bool.and_false, Bool.false_eq_true, if_false]

/-- The bits that the float family writes: a canonical NaN, or the rounding of the exact value, flushed under FTZ (R106, R107). -/
theorem flush_roundRne (ftz : Bool) (v : ExactVal) :
    flush ftz (roundRne v) = if v.isNan then canonNan else flush ftz (toF32 .rn v) := by
  cases v with
  | nan => exact (congrArg (flush ftz) roundRne_nan).trans (flush_canonNan ftz)
  | inf _ | fin _ _ _ => simp only [ExactVal.isNan, roundRne, Bool.false_eq_true, if_false]

/-- A ready instruction that runs the mould of R331, whose function of the flushed sources rounds the exact value `v` once, completes
with it in sd. -/
theorem completes_scalarFloat {s : State} {gid k : Nat} {g : Group} {sp : Split} {i : Instr} {sd sa : Reg} {b : SSrc}
    {f : Word → Word → Word → Word} {v : ExactVal} (hi : PlainScalar i) (hx : exec i s = issue i s (scalarFloat sd sa b f))
    (hf : f (flush (g.gmode.getLsbD 0) (g.sreg sp sa.toNat)) (flush (g.gmode.getLsbD 0) (g.opB sp b))
      (flush (g.gmode.getLsbD 0) (g.sreg sp sd.toNat)) = roundRne v) (h : Ready s gid k g sp i) :
    Completes i s gid k
      (g.setS k sd.toNat (if v.isNan then canonNan else flush (g.gmode.getLsbD 0) (toF32 .rn v))) (sp.after i) := by
  obtain ⟨notEngine, notVector, noDests⟩ := hi
  unfold Completes
  rw [hx]
  refine completes_setS h notEngine notVector noDests sd.toNat _ ?_
  simp only [scalarFloat, groupCtx_ftz, groupCtx_s, groupCtx_b, hf, flush_roundRne]

/-! ### The statements -/

/-- Settles O1: each instruction is the mould of R323 with its own function, and SSEL's function depends on sd as it was. -/
theorem scalarArithmeticResults : Obligations.ScalarArithmeticResults := by
  intro s gid k g sp o
  refine ⟨?sadd, ?ssub, ?smul, ?smulhSigned, ?smulhNatural, ?sand, ?sor, ?sxor, ?sshl, ?sshr, ?ssar, ?sminSigned, ?sminNatural,
    ?smaxSigned, ?smaxNatural, ?ssel, ?words⟩
  case sadd | ssub | smul | smulhSigned | smulhNatural | sand | sor | sxor | sshl | sshr | ssar =>
    exact completes_scalarOp ⟨rfl, rfl, rfl⟩ rfl rfl rfl rfl
  case sminSigned => exact completes_scalarOp ⟨rfl, rfl, rfl⟩ rfl rfl (min_signed _ _) (min_signed _ _)
  case sminNatural => exact completes_scalarOp ⟨rfl, rfl, rfl⟩ rfl rfl (min_natural _ _) (min_natural _ _)
  case smaxSigned => exact completes_scalarOp ⟨rfl, rfl, rfl⟩ rfl rfl (max_signed _ _) (max_signed _ _)
  case smaxNatural => exact completes_scalarOp ⟨rfl, rfl, rfl⟩ rfl rfl (max_natural _ _) (max_natural _ _)
  case ssel =>
    refine completes_scalarOp ⟨rfl, rfl, rfl⟩ rfl rfl ?_ ?_
    · simp only [groupCtx_s, ne_eq, ite_not]
    · simp only [groupCtx_pair, ne_eq, ite_not]
  case words => decide +kernel

/-- Settles O3: each instruction is the mould of R331, and its function of the flushed sources rounds the exact value once. -/
theorem scalarFloatResults : Obligations.ScalarFloatResults := by
  intro s gid k g sp sd sa b
  refine ⟨?sfadd, ?sfmul, ?sfmaPp, ?sfmaNp, ?sfmaNc, ?sfmaNpc, ?words⟩
  case sfadd | sfmul | sfmaPp | sfmaNp | sfmaNc | sfmaNpc => exact completes_scalarFloat ⟨rfl, rfl, rfl⟩ rfl rfl
  case words => decide +kernel

end Sys2Proof.Machine
end

section
/-! SUPPORT. The results of the element-by-element L-set integer family: what each operation gives on one element, the moulds of R363 run
on every element of every active lane, and the statement about them. -/

namespace Sys2Proof.Machine

/-! ### Operations on one element -/

theorem elem_lt (w j : Nat) (x : Word) : elem w j x < 2 ^ w := Nat.mod_lt _ (Nat.two_pow_pos w)

/-- The integer that an element stands for: the element itself in a natural type and below the sign bit, else less 2^w (R102, R391). -/
theorem elemInt_signedElems (t : ElemTy) (nat : Bool) (w x : Nat) :
    elemInt (signedElems t nat) w x = if nat || t == .n32 || decide (x < 2 ^ (w - 1)) then (x : Int) else (x : Int) - 2 ^ w := by
  cases nat with
  | true => simp only [elemInt, signedElems, Bool.not_true, Bool.and_false, Bool.false_eq_true, if_false, Bool.true_or, if_true]
  | false => cases t <;> simp [elemInt, signedElems, sInt]

/-- A type other than `n32` reads its elements as signed. -/
theorem sInt_eq_ite {t : ElemTy} (ht : t ≠ .n32) (w x : Nat) :
    sInt w x = if false || t == .n32 || decide (x < 2 ^ (w - 1)) then (x : Int) else (x : Int) - 2 ^ w := by
  have signed : signedElems t false = true := by simpa [signedElems] using ht
  simpa only [elemInt, signed, if_true] using elemInt_signedElems t false w x

/-- Different elements stand for different integers. -/
theorem eq_of_elemInt_eq {signed : Bool} {w x y : Nat} (hx : x < 2 ^ w) (hy : y < 2 ^ w)
    (h : elemInt signed w x = elemInt signed w y) : x = y := by
  have hx : (x : Int) < 2 ^ w := by exact_mod_cast hx
  have hy : (y : Int) < 2 ^ w := by exact_mod_cast hy
  unfold elemInt sInt at h
  split_ifs at h <;> omega

theorem elemPick_lt {signed max : Bool} {w x y : Nat} (hx : x < 2 ^ w) (hy : y < 2 ^ w) : elemPick signed max w x y < 2 ^ w := by
  unfold elemPick
  split
  · exact hx
  · exact hy

/-- The smaller element, or with `max` the larger; equal integers come from equal elements, so a tie may go either way. -/
theorem elemPick_eq_ite_le {signed : Bool} (max : Bool) {w x y : Nat} (hx : x < 2 ^ w) (hy : y < 2 ^ w) :
    elemPick signed max w x y =
      if elemInt signed w x ≤ elemInt signed w y then (if max then y else x) else (if max then x else y) := by
  unfold elemPick
  rcases lt_trichotomy (elemInt signed w x) (elemInt signed w y) with h | h | h
  · cases max <;> simp [h, h.le]
  · simp [eq_of_elemInt_eq hx hy h]
  · cases max <;> simp [h.not_gt, h.not_ge]

theorem sarElem_lt (w a c : Nat) : sarElem w a c < 2 ^ w := by
  have pos : (0 : Int) < 2 ^ w := by positivity
  have lt := Int.emod_lt_of_pos (sInt w a / 2 ^ c) pos
  have nonneg := Int.emod_nonneg (sInt w a / 2 ^ c) pos.ne'
  unfold sarElem
  zify
  rwa [Int.toNat_of_nonneg nonneg]

theorem clz_le (w x : Nat) : clz w x ≤ w := by unfold clz; split <;> omega

/-- The leading zeros of a w-bit value are the number r for which the value is below 2^(w - r) and, unless it is 0, no less than the
half of that (R363, R372). -/
theorem clz_spec {w x : Nat} (hx : x < 2 ^ w) :
    clz w x ≤ w ∧ x < 2 ^ (w - clz w x) ∧ (clz w x < w → 2 ^ (w - 1 - clz w x) ≤ x) := by
  refine ⟨clz_le w x, ?_⟩
  by_cases h0 : x = 0
  · simp [clz, h0]
  · have hlog : Nat.log2 x < w := (Nat.log2_lt h0).2 hx
    have hc : clz w x = w - 1 - Nat.log2 x := if_neg h0
    rw [hc, show w - (w - 1 - Nat.log2 x) = Nat.log2 x + 1 by omega, show w - 1 - (w - 1 - Nat.log2 x) = Nat.log2 x by omega]
    exact ⟨Nat.lt_log2_self, fun _ => Nat.log2_self_le h0⟩

/-- The set bits of a value are the positions below w at which it has a one (R399). -/
theorem popc_eq_length (w x : Nat) : popc w x = ((List.range w).filter x.testBit).length := by
  induction w generalizing x with
  | zero => rfl
  | succ w ih =>
    have shifted : x.testBit ∘ Nat.succ = (x / 2).testBit := funext fun i => Nat.testBit_succ x i
    rw [List.range_succ_eq_map, List.filter_cons, List.filter_map, shifted, Nat.testBit_zero, popc, ih]
    rcases Nat.mod_two_eq_zero_or_one x with h | h <;> simp [h, Nat.add_comm]

theorem popc_le (w x : Nat) : popc w x ≤ w := by
  rw [popc_eq_length]
  exact (List.length_filter_le _ _).trans_eq List.length_range

/-! ### The moulds of R363 on elements -/

/-- An affine row that holds for the 32-bit types only holds the lanes of an operation on elements where it holds the words of that
operation (R73). -/
theorem wideShape_lane {t : ElemTy} {shape : VReg → VReg → Option VReg} {f : Nat → Nat → Nat → Nat} {x y r : VReg}
    (hf : t.width = 32 → shape x y = some r → ∀ n d, r.lane n = BitVec.ofNat 32 (f (x.lane n).toNat (y.lane n).toNat d))
    (h : wideShape t shape x y = some r) (n : Nat) (d : Word) : r.lane n = mapElems t.width f (x.lane n) (y.lane n) d := by
  unfold wideShape at h
  split at h
  · next hw => rw [mapElems_wide hw, hf hw h]
  · cases h

/-- A binary L-set instruction whose operation is `f` on elements completes, and each element of each lane of its result is `f` of the
sources' elements modulo 2^w. -/
theorem vecBin_elements {s : State} {gid k : Nat} {g : Group} {sp : Split} {i : Instr} {t : ElemTy} {o : VBin} {vdSource : Bool}
    {shaped : VReg → VReg → Option VReg} {f : Nat → Nat → Nat → Nat} (h : Ready s gid k g sp i)
    (hr : g.room o.vd.toNat = true) (he : isEngine i = false) (hv : isVector i = true)
    (hx : exec i s = issue i s (vecBin o vdSource shaped (mapElems t.width f)))
    (hd : vdSource = false → ∀ x y z z', f x y z = f x y z')
    (hs : ∀ x y r, shaped x y = some r → ∀ n d, r.lane n = mapElems t.width f (x.lane n) (y.lane n) d) :
    ∃ v, CompletesV i s gid k g sp o.vd.toNat v ∧ ∀ n, n < 96 → ∀ j, j < 32 / t.width →
      elem t.width j (v n) = f (elem t.width j (s.srcLane g o.a n)) (elem t.width j (s.srcLane g o.b n))
        (elem t.width j ((g.v o.vd.toNat).lane n)) % 2 ^ t.width := by
  refine ⟨_, vecBin_completes h he hv hr hx (fun hb a b d e => ?_) hs, fun n _ j hj => elem_mapElems t f _ _ _ hj⟩
  exact congrArg (ofElems t.width) (funext fun j => hd hb _ _ _ _)

/-- A unary L-set instruction whose operation is `f` on elements completes, and each element of each lane of its result is `f` of the
source's element modulo 2^w. -/
theorem vecUn_elements {s : State} {gid k : Nat} {g : Group} {sp : Split} {i : Instr} {t : ElemTy} {o : VUn} {f : Nat → Nat}
    (h : Ready s gid k g sp i) (hr : g.room o.vd.toNat = true) (he : isEngine i = false) (hv : isVector i = true)
    (hx : exec i s = issue i s (vecUn o (fun _ => none) fun a => mapElems t.width (fun x _ _ => f x) a 0 0)) :
    ∃ v, CompletesV i s gid k g sp o.vd.toNat v ∧ ∀ n, n < 96 → ∀ j, j < 32 / t.width →
      elem t.width j (v n) = f (elem t.width j (s.srcLane g o.a n)) % 2 ^ t.width :=
  ⟨_, vecUn_completes h he hv hr hx (fun _ _ hn => nomatch hn), fun _ _ _ hj => elem_mapElems t (fun x _ _ => f x) _ 0 0 hj⟩

/-! ### The affine rows that an operation has (R73) -/

theorem noShape_lane {x y r : VReg} {f : Word → Word → Word → Word} (h : noShape x y = some r) (n : Nat) (d : Word) :
    r.lane n = f (x.lane n) (y.lane n) d := nomatch h

theorem vadd_shape {t : ElemTy} {x y r : VReg} (h : wideShape t (shapeAdd false) x y = some r) (n : Nat) (d : Word) :
    r.lane n = mapElems t.width (fun a b _ => a + b) (x.lane n) (y.lane n) d := by
  refine wideShape_lane (fun _ hr n _ => ?_) h n d
  simp [shapeAdd_lane hr, BitVec.ofNat_add]

theorem vsub_shape {t : ElemTy} {x y r : VReg} (h : wideShape t (shapeAdd true) x y = some r) (n : Nat) (d : Word) :
    r.lane n = mapElems t.width (fun a b _ => a + 2 ^ t.width - b) (x.lane n) (y.lane n) d := by
  refine wideShape_lane (fun hw hr n _ => ?_) h n d
  rw [shapeAdd_lane hr, if_pos rfl, hw]
  bv_omega

theorem vmul_shape {t : ElemTy} {x y r : VReg} (h : wideShape t shapeMul x y = some r) (n : Nat) (d : Word) :
    r.lane n = mapElems t.width (fun a b _ => a * b) (x.lane n) (y.lane n) d := by
  refine wideShape_lane (fun _ hr n _ => ?_) h n d
  simp [shapeMul_lane hr, BitVec.ofNat_mul]

theorem vshl_shape {t : ElemTy} {x y r : VReg} (h : wideShape t shapeShl x y = some r) (n : Nat) (d : Word) :
    r.lane n = mapElems t.width (fun a b _ => a * 2 ^ shiftCount t.width b) (x.lane n) (y.lane n) d := by
  refine wideShape_lane (fun hw hr n _ => BitVec.eq_of_toNat_eq ?_) h n d
  rw [shapeShl_lane hr, hw, BitVec.toNat_shiftLeft, Nat.shiftLeft_eq, BitVec.toNat_ofNat, shiftCount]

/-! ### The element types that an instruction has -/

/-- A ready instruction meets the limits of its encoding. -/
theorem Ready.wf {s : State} {gid k : Nat} {g : Group} {sp : Split} {i : Instr} (h : Ready s gid k g sp i) : i.wf = true := by
  obtain ⟨_, operable, _, _⟩ := h
  simp only [State.operable, Bool.and_eq_true] at operable
  obtain ⟨⟨⟨wf, _⟩, _⟩, _⟩ := operable
  exact wf

/-- VABS and VSAR are encoded for the signed types only (R364, R402). -/
theorem ne_n32_of_wf {t : ElemTy} {b : Bool} (h : (t != .n32 && b) = true) : t ≠ .n32 := by
  rw [Bool.and_eq_true, bne_iff_ne] at h
  exact h.1

/-! ### The statement -/

/-- Settles O5: each instruction is a mould of R363 with its own function of elements, whose value modulo 2^w is the operation. -/
theorem vectorElementResults : Obligations.VectorElementResults := by
  intro s gid k g sp t o u w el gives gives1 int
  have pick (nat max : Bool) {x y : Nat} (hx : x < 2 ^ w) (hy : y < 2 ^ w) : elemPick (signedElems t nat) max w x y % 2 ^ w
      = if int nat x ≤ int nat y then (if max then y else x) else (if max then x else y) := by
    rw [Nat.mod_eq_of_lt (elemPick_lt hx hy), elemPick_eq_ite_le max hx hy, elemInt_signedElems, elemInt_signedElems]
  refine ⟨?vadd, ?vsub, ?vmul, ?vmad, ?vmin, ?vmax, ?vshl, ?vshr, ?vsar, ?vabs, ?vclz, ?vpopc, ?words⟩
  case vadd => exact fun h hr => vecBin_elements h hr rfl rfl rfl (fun _ _ _ _ _ => rfl) fun _ _ _ => vadd_shape
  case vsub => exact fun h hr => vecBin_elements h hr rfl rfl rfl (fun _ _ _ _ _ => rfl) fun _ _ _ => vsub_shape
  case vmul => exact fun h hr => vecBin_elements h hr rfl rfl rfl (fun _ _ _ _ _ => rfl) fun _ _ _ => vmul_shape
  case vshl => exact fun h hr => vecBin_elements h hr rfl rfl rfl (fun _ _ _ _ _ => rfl) fun _ _ _ => vshl_shape
  case vmad => exact fun h hr => vecBin_elements h hr rfl rfl rfl nofun fun _ _ _ => noShape_lane
  case vmin | vmax =>
    intro nat h hr
    obtain ⟨v, completes, value⟩ := vecBin_elements h hr rfl rfl rfl (fun _ _ _ _ _ => rfl) fun _ _ _ => noShape_lane
    exact ⟨v, completes, fun n hn j hj => (value n hn j hj).trans (pick nat _ (elem_lt ..) (elem_lt ..))⟩
  case vshr =>
    intro h hr
    obtain ⟨v, completes, value⟩ := vecBin_elements h hr rfl rfl rfl (fun _ _ _ _ _ => rfl) fun _ _ _ => noShape_lane
    exact ⟨v, completes, fun n hn j hj => (value n hn j hj).trans (Nat.mod_eq_of_lt ((Nat.div_le_self _ _).trans_lt (elem_lt ..)))⟩
  case vsar =>
    intro h hr
    obtain ⟨v, completes, value⟩ := vecBin_elements h hr rfl rfl rfl (fun _ _ _ _ _ => rfl) fun _ _ _ => noShape_lane
    refine ⟨v, completes, fun n hn j hj => (value n hn j hj).trans ?_⟩
    rw [Nat.mod_eq_of_lt (sarElem_lt ..), sarElem, sInt_eq_ite (ne_n32_of_wf h.wf)]
    rfl
  case vabs =>
    intro h hr
    obtain ⟨v, completes, value⟩ := vecUn_elements h hr rfl rfl rfl
    refine ⟨v, completes, fun n hn j hj => (value n hn j hj).trans ?_⟩
    rw [sInt_eq_ite (ne_n32_of_wf h.wf)]
    rfl
  case vclz =>
    intro h hr
    obtain ⟨v, completes, value⟩ := vecUn_elements h hr rfl rfl rfl
    refine ⟨v, completes, fun n hn j hj => ?_⟩
    have count : el j (v n) = clz w (el j (s.srcLane g u.a n)) :=
      (value n hn j hj).trans (Nat.mod_eq_of_lt ((clz_le _ _).trans_lt Nat.lt_two_pow_self))
    rw [count]
    exact clz_spec (elem_lt ..)
  case vpopc =>
    intro h hr
    obtain ⟨v, completes, value⟩ := vecUn_elements h hr rfl rfl rfl
    refine ⟨v, completes, fun n hn j hj => (value n hn j hj).trans ?_⟩
    rw [Nat.mod_eq_of_lt ((popc_le _ _).trans_lt Nat.lt_two_pow_self), popc_eq_length]
    rfl
  case words => decide +kernel

end Sys2Proof.Machine
end

section
/-! SUPPORT. The results of the word-by-word L-set family: bit fields of a word, the words of a mask triple, the moulds of R363 run on whole
words, and the statement about them. -/

namespace Sys2Proof.Machine

/-! ### Bit fields (R369, R370) -/

/-- The integer that w bits stand for is their two's complement value (R102). -/
theorem sInt_toNat {w : Nat} (v : BitVec w) : sInt w v.toNat = v.toInt := by
  rw [sInt, BitVec.toInt_eq_msb_cond, BitVec.msb_eq_decide]
  simp only [decide_eq_true_eq, ← not_lt, ite_not, Nat.cast_pow, Nat.cast_ofNat]

/-- The field is the word's own w bits from p up, extended by their top bit or by zeros. -/
theorem extractField_eq (sx : Bool) (x b : Word) :
    extractField sx x b =
      if sx then (x.extractLsb' (b.toNat % 32) (b.toNat / 256 % 32 + 1)).signExtend 32
      else (x.extractLsb' (b.toNat % 32) (b.toNat / 256 % 32 + 1)).setWidth 32 := by
  simp only [extractField, ← Nat.shiftRight_eq_div_pow, ← BitVec.extractLsb'_toNat, sInt_toNat, BitVec.ofNat_toNat]
  rfl

theorem getLsbD_extractField (sx : Bool) (x b : Word) {j : Nat} (hj : j < 32) :
    (extractField sx x b).getLsbD j = if j < b.toNat / 256 % 32 + 1 then x.getLsbD (b.toNat % 32 + j)
      else sx && x.getLsbD (b.toNat % 32 + (b.toNat / 256 % 32 + 1) - 1) := by
  rw [extractField_eq]
  cases sx with
  | true =>
    simp only [if_true, BitVec.getLsbD_signExtend, BitVec.msb_eq_getLsbD_last, BitVec.getLsbD_extractLsb', hj]
    grind
  | false =>
    simp only [Bool.false_eq_true, if_false, BitVec.getLsbD_setWidth, BitVec.getLsbD_extractLsb', hj]
    grind

/-- The mask of a field has the bits from p up to, and without, p + w. -/
theorem getLsbD_fieldMask (p w : Nat) {j : Nat} (hj : j < 32) :
    (BitVec.ofNat 32 ((2 ^ w - 1) * 2 ^ p)).getLsbD j = decide (p ≤ j ∧ j < p + w) := by
  rw [BitVec.getLsbD_ofNat, Nat.testBit_mul_two_pow, Nat.testBit_two_pow_sub_one]
  grind

theorem getLsbD_insertField (x b v : Word) {j : Nat} (hj : j < 32) :
    (insertField x b v).getLsbD j = if b.toNat % 32 ≤ j ∧ j < b.toNat % 32 + (b.toNat / 256 % 32 + 1)
      then x.getLsbD (j - b.toNat % 32) else v.getLsbD j := by
  have placed : (BitVec.ofNat 32 (x.toNat * 2 ^ (b.toNat % 32))).getLsbD j
      = (decide (b.toNat % 32 ≤ j) && x.getLsbD (j - b.toNat % 32)) := by
    rw [BitVec.getLsbD_ofNat, Nat.testBit_mul_two_pow, decide_eq_true hj, Bool.true_and, BitVec.getLsbD]
  simp only [insertField, BitVec.getLsbD_or, BitVec.getLsbD_and, BitVec.getLsbD_not, getLsbD_fieldMask _ _ hj, placed]
  split_ifs with inside <;> simp [inside, hj]

/-! ### The words of a mask triple (R37) -/

/-- A mask's lane n is bit n mod 32 of its word n / 32. -/
theorem laneOn_maskOf (w : Nat → Word) {n : Nat} (h : n < 96) :
    laneOn (maskOf (w 0) (w 1) (w 2)) n = (w (n / 32)).getLsbD (n % 32) := by
  simp only [laneOn, maskOf, BitVec.getLsbD_append]
  obtain h0 | h1 | h2 : n / 32 = 0 ∨ n / 32 = 1 ∨ n / 32 = 2 := by omega
  · rw [h0, if_pos (by omega), Nat.mod_eq_of_lt (by omega)]
  · rw [h1, if_neg (by omega), if_pos (by omega), show n - 32 = n % 32 by omega]
  · rw [h2, if_neg (by omega), if_neg (by omega), show n - 32 - 32 = n % 32 by omega]

/-! ### Completion -/

/-- An L-set instruction that writes vd completes with the values `f`, where the register written holds them in the active lanes and
vd's own in the others. -/
theorem completesV_writeV {s : State} {gid k : Nat} {g : Group} {sp : Split} {i : Instr} {body : Ctx → State → Act} {vd : Nat} {r : VReg}
    {f : Nat → Word} (hx : exec i s = issue i s body) (h : Ready s gid k g sp i) (hr : g.room vd = true) (he : isEngine i = false)
    (hv : isVector i = true) (hb : body (groupCtx gid k g sp i) s = (groupCtx gid k g sp i).writeV [(vd, r)] s)
    (hl : ∀ n, n < 96 → r.lane n = if laneOn sp.mask n then f n else (g.v vd).lane n) :
    CompletesV i s gid k g sp vd f := by
  obtain ⟨t, issued, only⟩ := completes_writeV h he hv vd r hr hb
  exact ⟨r, hl, t, hx.trans issued, only⟩

/-- A binary L-set instruction with no affine row whose operation is `f` on words completes with `f` of the sources' lanes. -/
theorem vecBin_words {s : State} {gid k : Nat} {g : Group} {sp : Split} {i : Instr} {o : VBin} {vdSource : Bool}
    {f : Word → Word → Word → Word} (h : Ready s gid k g sp i) (hr : g.room o.vd.toNat = true) (he : isEngine i = false)
    (hv : isVector i = true) (hx : exec i s = issue i s (vecBin o vdSource noShape f))
    (hd : vdSource = false → ∀ x y z z', f x y z = f x y z') :
    CompletesV i s gid k g sp o.vd.toNat
      fun n => f (s.srcLane g o.a n) (s.srcLane g o.b n) ((g.v o.vd.toNat).lane n) :=
  vecBin_completes h he hv hr hx hd fun _ _ _ => noShape_lane

/-- VSEL takes the lane of a where the triple's bit is set, and that of b elsewhere (R404). -/
theorem vsel_completes {s : State} {gid k : Nat} {g : Group} {sp : Split} {m : Reg} {o : VBin} (h : Ready s gid k g sp (.vsel m o))
    (hr : g.room o.vd.toNat = true) :
    CompletesV (.vsel m o) s gid k g sp o.vd.toNat fun n =>
      if (g.sreg sp (m.toNat + n / 32)).getLsbD (n % 32) then s.srcLane g o.a n else s.srcLane g o.b n := by
  have runs : execVsel m o s = issue (.vsel m o) s _ := rfl
  refine completesV_writeV runs h hr rfl rfl rfl fun n hn => ?_
  have bit := laneOn_maskOf (fun j => g.sreg sp (m.toNat + j)) hn
  rw [packGeneral_lane _ _ _ hn]
  simp only [groupCtx_src, groupCtx_s, groupCtx_g, groupCtx_mask, ← bit, Nat.add_zero]

/-- VBCAST gives each active lane the scalar (R368). -/
theorem vbcast_completes {s : State} {gid k : Nat} {g : Group} {sp : Split} {ka kb : Bool} {vd sa : Reg}
    (h : Ready s gid k g sp (.vbcast ka kb vd sa)) (hr : g.room vd.toNat = true) :
    CompletesV (.vbcast ka kb vd sa) s gid k g sp vd.toNat fun _ => g.sreg sp sa.toNat := by
  have runs : execVbcast ka kb vd sa s = issue (.vbcast ka kb vd sa) s _ := rfl
  refine completesV_writeV runs h hr rfl rfl rfl fun n hn => ?_
  rw [packReg_lane (shaped := none) nofun (fun _ _ _ => rfl) hn]
  simp only [groupCtx_s, groupCtx_g, groupCtx_mask]

/-! ### The statement -/

/-- Settles O6: each instruction is a mould of R363 with its own function of words, or VSEL or VBCAST; the bits of the fields that VBFX and
VBFI move are those of `extractField` and `insertField`. -/
theorem vectorWordResults : Obligations.VectorWordResults := by
  intro s gid k g sp o u a b d gives
  refine ⟨?vand, ?vor, ?vxor, ?vmulhSigned, ?vmulhNatural, ?vsel, ?vbfx, ?vbfi, ?vmov, ?vbcast, ?wordNatural, ?wordSigned⟩
  case vand | vor | vxor | vmulhSigned | vmulhNatural => exact fun h hr => vecBin_words h hr rfl rfl rfl fun _ _ _ _ _ => rfl
  case vsel => exact fun m h hr => vsel_completes h hr
  case vbfx =>
    exact fun sx h hr => ⟨_, vecBin_words h hr rfl rfl rfl fun _ _ _ _ _ => rfl, fun n _ _ hj => getLsbD_extractField sx (a n) (b n) hj⟩
  case vbfi =>
    exact fun h hr => ⟨_, vecBin_words h hr rfl rfl rfl nofun, fun n _ _ hj => getLsbD_insertField (a n) (b n) (d n) hj⟩
  case vmov => exact fun h hr => vecUn_completes h rfl rfl hr rfl fun _ _ same _ => by rw [Option.some.inj same]
  case vbcast => exact fun ka kb vd sa h hr => vbcast_completes h hr
  case wordNatural | wordSigned => decide +kernel

end Sys2Proof.Machine
end

section
/-! OBLIGATIONS. The words of the spec and the state after reset (O53, O56, O57). -/

namespace Sys2Proof.Machine

/-- Settles O53: each word is decoded by evaluation. -/
theorem decodesSpecWords : Obligations.DecodesSpecWords := by
  unfold Obligations.DecodesSpecWords
  decide +kernel

/-- Settles O56: no package, and no address of a memory, has an entry of its own after reset, so each holds its default. -/
theorem resetState : Obligations.ResetState := by
  have clock : ∀ p, State.reset.timeBase p = 0 := fun p => by
    have now : State.reset.now - (State.reset.pkg p).epoch = 0 := Nat.zero_sub _
    rw [State.timeBase, now]
    rfl
  exact ⟨fun _ => ⟨rfl, rfl, rfl, rfl, rfl⟩, fun p => ⟨rfl, rfl, clock p⟩, rfl, rfl, rfl, rfl, rfl⟩

/-- Settles O57: a memory without cells and without undefined ranges is in its canonical form. -/
theorem resetInv : Obligations.ResetInv := rfl

end Sys2Proof.Machine
end

section
/-! SUPPORT. Decoding after encoding (R86-R98): the fields of a word laid out, the operand codes read back, and for each instruction format the
decoder run on the words of the encoder. -/

namespace Sys2Proof.Laws.RoundTrip

/-! ### Codes of the small fields read back -/

@[simp] theorem elemTy_ofCode_code (t : ElemTy) : ElemTy.ofCode t.code = t := by cases t <;> rfl
@[simp] theorem cond_ofCode_code (c : Cond) : Cond.ofCode c.code = some c := by cases c <;> rfl
@[simp] theorem fCond_ofCode_code (c : FCond) : FCond.ofCode c.code = some c := by cases c <;> rfl
@[simp] theorem signPat_ofCode_code (p : SignPat) : SignPat.ofCode p.code = p := by cases p <;> rfl
@[simp] theorem tagFn_ofCode_code (f : TagFn) : TagFn.ofCode f.code = f := by cases f <;> rfl
@[simp] theorem voteFn_ofCode_code (f : VoteFn) : VoteFn.ofCode f.code = f := by cases f <;> rfl
@[simp] theorem fmt_ofCode_code (f : Fmt) : Fmt.ofCode f.code = some f := by cases f <;> rfl
@[simp] theorem rm_ofCode_code (r : Rm) : Rm.ofCode r.code = r := by cases r <;> rfl
@[simp] theorem shflMode_ofCode_code (m : ShflMode) : ShflMode.ofCode m.code = some m := by cases m <;> rfl
@[simp] theorem redOp_ofCode_code (o : RedOp) : RedOp.ofCode o.code = some o := by cases o <;> rfl
@[simp] theorem aop_ofCode_code (a : Aop) : Aop.ofCode a.code = some a := by cases a <;> rfl
@[simp] theorem ord4_ofCode_code (o : Ord4) : Ord4.ofCode o.code = o := by cases o <;> rfl
@[simp] theorem scope_ofCode_code (s : Scope) : Scope.ofCode s.code = some s := by cases s <;> rfl
@[simp] theorem width_ofCode_code (w : Width) : Width.ofCode w.code = w := by cases w <;> rfl
@[simp] theorem boolOf_boolCode (b : Bool) : boolOf (boolCode b) = b := by cases b <;> rfl
@[simp] theorem orBad_some {α : Type} (x : α) : orBad (some x) = .ok x := rfl

/-- The code of an allowed source names it again; the trailing word is read where the source is a literal. -/
theorem vsrc_ofCode_code {lit : Bool} {x : VSrc} (h : x.ok lit = true) {w1 : Word} (hw : ∀ w, x = .lit w → w1 = w) :
    VSrc.ofCode x.code w1 = some x := by
  cases x with
  | reg n =>
    have hn : n.toNat < 120 := of_decide_eq_true h
    simp only [VSrc.code, VSrc.ofCode, if_pos hn, BitVec.ofNat_toNat, BitVec.setWidth_eq]
  | port p =>
    have hp := p.isLt
    simp only [VSrc.code, VSrc.ofCode, if_neg (show ¬ 120 + p.toNat < 120 by omega), if_pos (show 120 + p.toNat < 124 by omega),
      Nat.add_sub_cancel_left, BitVec.ofNat_toNat, BitVec.setWidth_eq]
  | zero | lane => rfl
  | lit w => simp [VSrc.code, VSrc.ofCode, hw w rfl]

/-- No allowed source has the code 126 (R69). -/
theorem vsrc_code_ne_126 {lit : Bool} {x : VSrc} (h : x.ok lit = true) : x.code ≠ 126 := by
  cases x with
  | reg n =>
    have hn : n.toNat < 120 := of_decide_eq_true h
    simp only [VSrc.code]
    omega
  | port p => have hp := p.isLt; simp only [VSrc.code]; omega
  | zero | lane | lit _ => simp [VSrc.code]

/-- Code 127 stands for a literal only (R69). -/
theorem vsrc_code_eq_127 {lit : Bool} {x : VSrc} (h : x.ok lit = true) : x.code = 127 ↔ ∃ w, x = .lit w := by
  cases x with
  | reg n =>
    have hn : n.toNat < 120 := of_decide_eq_true h
    simp only [VSrc.code, reduceCtorEq, exists_false, iff_false]
    omega
  | port p => have hp := p.isLt; simp only [VSrc.code, reduceCtorEq, exists_false, iff_false]; omega
  | zero | lane => simp [VSrc.code]
  | lit w => simp [VSrc.code]

/-! ### The bytes of a word -/

theorem leNat_leBytes (n v : Nat) : leNat (leBytes n v) = v % 256 ^ n := by
  induction n generalizing v with
  | zero => simp [leBytes, leNat, Nat.mod_one]
  | succ n ih =>
    rw [leBytes, leNat, ih, BitVec.toNat_ofNat, Nat.pow_succ' (m := 256), Nat.mod_mul (a := 256)]

@[simp] theorem length_leBytes (n v : Nat) : (leBytes n v).length = n := by
  induction n generalizing v with
  | zero => rfl
  | succ n ih => simp [leBytes, ih]

theorem leNat_word {w : Nat} (h : w < 2 ^ 32) : leNat (leBytes 4 w) = w := by
  rw [leNat_leBytes]
  exact Nat.mod_eq_of_lt h

/-- The instruction is read back from its bytes, whatever follows them. -/
def Reads (i : Instr) : Prop := ∀ rest : List Byte, decode (encodeBytes i ++ rest) = .ok (i, rest)

/-- An instruction of one word is read back where its word passes the first checks and its fields name it. -/
theorem reads_one {i : Instr} {w : Nat} (he : encode i = [w]) (hw : w < 2 ^ 32) (ht : hasTrailing w = false) (hs : step2 w = none)
    (hp : parse w 0 = .ok i) (hwf : i.wf = true) : Reads i := by
  intro rest
  have take4 : (leBytes 4 w ++ rest).take 4 = leBytes 4 w := List.take_left' (length_leBytes 4 w)
  have drop4 : (leBytes 4 w ++ rest).drop 4 = rest := List.drop_left' (length_leBytes 4 w)
  have words : decodeWords w 0 = .ok i := by simp [decodeWords, hs, hp, he, ht, hwf]
  have bytes : encodeBytes i = leBytes 4 w := by simp [encodeBytes, he]
  simp only [decode, bytes, take4, drop4, leNat_word hw, ht, words, List.length_append, length_leBytes]
  rw [if_neg (by omega)]
  rfl

/-- An instruction of two words is read back where its first word passes the first checks and announces the second, and their fields name it. -/
theorem reads_two {i : Instr} {w c : Nat} (he : encode i = [w, c]) (hw : w < 2 ^ 32) (hc : c < 2 ^ 32) (ht : hasTrailing w = true)
    (hs : step2 w = none) (hp : parse w c = .ok i) (hwf : i.wf = true) : Reads i := by
  intro rest
  have take4 : (leBytes 4 w ++ (leBytes 4 c ++ rest)).take 4 = leBytes 4 w := List.take_left' (length_leBytes 4 w)
  have drop4 : (leBytes 4 w ++ (leBytes 4 c ++ rest)).drop 4 = leBytes 4 c ++ rest := List.drop_left' (length_leBytes 4 w)
  have take8 : (leBytes 4 c ++ rest).take 4 = leBytes 4 c := List.take_left' (length_leBytes 4 c)
  have drop8 : (leBytes 4 w ++ (leBytes 4 c ++ rest)).drop 8 = rest := by
    rw [show (8 : Nat) = 4 + 4 from rfl, ← List.drop_drop, drop4]
    exact List.drop_left' (length_leBytes 4 c)
  have words : decodeWords w c = .ok i := by simp [decodeWords, hs, hp, he, ht, hwf]
  have bytes : encodeBytes i ++ rest = leBytes 4 w ++ (leBytes 4 c ++ rest) := by simp [encodeBytes, he]
  simp only [decode, bytes, take4, drop4, take8, drop8, leNat_word hw, leNat_word hc, ht, words, List.length_append, length_leBytes]
  rw [if_neg (by omega), if_pos trivial, if_neg (by omega)]
  rfl

/-! ### L-set words -/

/-- The fields of an L-set word in the LR format (R90). -/
structure LRWord (w op fn : Nat) (ka kb : Bool) (vd va vb : Nat) : Prop where
  lset : isLset w = true
  major : majorOf w = op
  fn : bitField w 24 23 = fn
  keepA : bitField w 22 22 = boolCode ka
  keepB : bitField w 21 21 = boolCode kb
  dest : bitField w 20 14 = vd
  srcA : bitField w 13 7 = va
  srcB : bitField w 6 0 = vb

theorem encLR_fields {op fn vd va vb : Nat} (ka kb : Bool) (hop : op < 64) (hfn : fn < 4) (hvd : vd < 128) (hva : va < 128) (hvb : vb < 128) :
    LRWord (encLR op fn ka kb vd va vb) op fn ka kb vd va vb := by
  have hka := Encoding.boolCode_lt ka
  have hkb := Encoding.boolCode_lt kb
  constructor <;> simp only [isLset, majorOf, bitField, encLR, beq_iff_eq] <;> omega

/-- An L-set major whose words are in the LR format and take a trailing word for a literal only (R93). -/
def lrMajor (op : Nat) : Bool := !lxMajors.contains op && !lmMajors.contains op && decide (op ≤ 0x2A) && op != 0x16

/-- The destination field of the major's words names a scalar register (R93). -/
def scalarDst (op fn : Nat) : Bool := op == 0x13 || op == 0x1E || op == 0x29 || op == 0x2A || (op == 0x17 && fn == 0)

/-- A function that a major lists makes the first check pass, where no field that names a vector operand holds 126 (R98). -/
theorem LRWord.step2 {w op fn : Nat} {ka kb : Bool} {vd va vb : Nat} (h : LRWord w op fn ka kb vd va vb) (hl : fn ∈ lFns op)
    (hlm : lmMajors.contains op = false) (hvd : scalarDst op fn = true ∨ vd ≠ 126) (hva : op = 0x16 ∨ va ≠ 126) (hvb : vb ≠ 126) :
    Sys2Proof.step2 w = none := by
  obtain ⟨lset, rfl, rfl, -, -, rfl, rfl, rfl⟩ := h
  have listed : lFns (majorOf w) ≠ [] := List.ne_nil_of_mem hl
  have fields : (vectorFields w).contains 126 = false := by
    have hd : scalarDst (majorOf w) (bitField w 24 23) = true ∨ bitField w 20 14 ≠ 126 := hvd
    simp only [scalarDst] at hd
    simp only [vectorFields, hlm, Bool.false_eq_true, if_false, List.contains_eq_mem, decide_eq_false_iff_not]
    rcases hd with hd | hd <;> rcases hva with ha | ha <;> grind
  simp only [Sys2Proof.step2, lset, if_true, fields]
  simp [listed, hl]

theorem hasTrailing_lx {w op fn : Nat} {ka kb : Bool} {vd va vb : Nat} (h : LRWord w op fn ka kb vd va vb) (hx : op ∈ lxMajors) :
    hasTrailing w = true := by
  simp [hasTrailing, h.lset, h.major, hx]

theorem hasTrailing_lr {w op fn : Nat} {ka kb : Bool} {vd va vb : Nat} (h : LRWord w op fn ka kb vd va vb) (hop : lrMajor op = true) :
    hasTrailing w = decide (va = 127 ∨ vb = 127) := by
  simp only [lrMajor, Bool.and_eq_true, Bool.not_eq_true', decide_eq_true_eq, bne_iff_ne] at hop
  obtain ⟨⟨⟨notLx, notLm⟩, le⟩, ne⟩ := hop
  simp only [hasTrailing, h.lset, h.major, h.srcA, h.srcB, notLx, notLm, if_true]
  simp only [decide_eq_true le, bne_iff_ne.2 ne, Bool.and_true, Bool.false_or, Bool.not_false, Bool.true_and, Bool.decide_or]
  rfl

theorem parse_lset {w c : Nat} (h : isLset w = true) : parse w c = parseL w c (BitVec.ofNat 32 c) := if_pos h

/-- Binary operands are read back from their fields. -/
theorem parseBin_eq {w op fn : Nat} {o : VBin} {lit : Bool} {w1 : Word} (h : LRWord w op fn o.keepA o.keepB o.vd.toNat o.a.code o.b.code)
    (ha : o.a.ok lit = true) (hb : o.b.ok lit = true) (hla : ∀ x, o.a = .lit x → w1 = x) (hlb : ∀ x, o.b = .lit x → w1 = x) :
    parseBin w w1 = .ok o := by
  simp only [parseBin, regField, h.keepA, h.keepB, h.dest, h.srcA, h.srcB, vsrc_ofCode_code ha hla, vsrc_ofCode_code hb hlb, boolOf_boolCode,
    BitVec.ofNat_toNat, BitVec.setWidth_eq]

/-- Unary operands are read back from their fields. -/
theorem parseUn_eq {w op fn vb : Nat} {o : VUn} {lit : Bool} {w1 : Word} (h : LRWord w op fn o.keepA o.keepB o.vd.toNat o.a.code vb)
    (ha : o.a.ok lit = true) (hla : ∀ x, o.a = .lit x → w1 = x) : parseUn w w1 = .ok o := by
  simp only [parseUn, regField, h.keepA, h.keepB, h.dest, h.srcA, vsrc_ofCode_code ha hla, boolOf_boolCode, BitVec.ofNat_toNat,
    BitVec.setWidth_eq]

/-- The words of binary operands: one without a literal, else a second one, the word that every literal among them holds (R27). -/
theorem encBin_words {o : VBin} (h : o.srcOk = true) (op fn : Nat) :
    (o.a.code ≠ 127 ∧ o.b.code ≠ 127 ∧ encBin op fn o = [encLR op fn o.keepA o.keepB o.vd.toNat o.a.code o.b.code]
        ∧ (∀ x, o.a ≠ .lit x) ∧ ∀ x, o.b ≠ .lit x)
      ∨ ∃ x : Word, (o.a.code = 127 ∨ o.b.code = 127)
        ∧ encBin op fn o = [encLR op fn o.keepA o.keepB o.vd.toNat o.a.code o.b.code, x.toNat]
        ∧ (∀ y, o.a = .lit y → x = y) ∧ ∀ y, o.b = .lit y → x = y := by
  simp only [VBin.srcOk, Bool.and_eq_true] at h
  obtain ⟨⟨ha, hb⟩, same⟩ := h
  rw [Ne, Ne, vsrc_code_eq_127 ha, vsrc_code_eq_127 hb]
  cases ea : o.a <;> cases eb : o.b <;> simp [encBin, VSrc.litWord, sameLit, ea, eb] at same ⊢
  exact ⟨congrArg _ same, same.symm⟩

/-- An LR binary instruction is read back. -/
theorem reads_bin {mk : VBin → Instr} {op fn : Nat} {o : VBin} (he : encode (mk o) = encBin op fn o) (hw : Encoding.Words (encode (mk o)))
    (hop : lrMajor op = true) (hfn : fn ∈ lFns op) (hb : op < 64 ∧ fn < 4) (hok : o.ok = true)
    (hp : ∀ {w c w1}, majorOf w = op → bitField w 24 23 = fn → parseL w c w1 = mk <$> parseBin w w1) (hwf : (mk o).wf = true) :
    Reads (mk o) := by
  simp only [VBin.ok, Bool.and_eq_true] at hok
  obtain ⟨dst, src⟩ := hok
  have ok : o.a.ok true = true ∧ o.b.ok true = true := by
    simp only [VBin.srcOk, Bool.and_eq_true] at src; exact src.1
  have dst : o.vd.toNat < 120 := of_decide_eq_true dst
  have notLm : lmMajors.contains op = false := by
    simp only [lrMajor, Bool.and_eq_true, Bool.not_eq_true'] at hop; exact hop.1.1.2
  have fields := encLR_fields o.keepA o.keepB hb.1 hb.2 o.vd.isLt (Encoding.vsrc_lt o.a) (Encoding.vsrc_lt o.b)
  have check := fields.step2 hfn notLm (.inr (by omega)) (.inr (vsrc_code_ne_126 ok.1)) (vsrc_code_ne_126 ok.2)
  have trailing := hasTrailing_lr fields hop
  rcases encBin_words src op fn with ⟨na, nb, words, la, lb⟩ | ⟨x, named, words, la, lb⟩
  · rw [he, words] at hw
    refine reads_one (he.trans words) (hw.2 _ (by simp)) (by rw [trailing]; simp [na, nb]) check ?_ hwf
    rw [parse_lset fields.lset, hp fields.major fields.fn,
      parseBin_eq fields ok.1 ok.2 (fun y e => absurd e (la y)) (fun y e => absurd e (lb y))]
    rfl
  · rw [he, words] at hw
    refine reads_two (he.trans words) (hw.2 _ (by simp)) x.isLt (by rw [trailing]; simp [named]) check ?_ hwf
    rw [parse_lset fields.lset, hp fields.major fields.fn, BitVec.ofNat_toNat, BitVec.setWidth_eq, parseBin_eq fields ok.1 ok.2 la lb]
    rfl

/-- An LR unary instruction is read back. -/
theorem reads_un {mk : VUn → Instr} {op fn : Nat} {o : VUn} (he : encode (mk o) = encUn op fn o) (hw : Encoding.Words (encode (mk o)))
    (hop : lrMajor op = true) (hfn : fn ∈ lFns op) (hb : op < 64 ∧ fn < 4) (ha : o.a.ok true = true)
    (hd : scalarDst op fn = true ∨ dstOk o.vd = true)
    (hp : ∀ {w c w1}, majorOf w = op → bitField w 24 23 = fn → parseL w c w1 = mk <$> parseUn w w1) (hwf : (mk o).wf = true) :
    Reads (mk o) := by
  have notLm : lmMajors.contains op = false := by
    simp only [lrMajor, Bool.and_eq_true, Bool.not_eq_true'] at hop; exact hop.1.1.2
  have dst : scalarDst op fn = true ∨ o.vd.toNat ≠ 126 := hd.imp_right fun d => by
    have := of_decide_eq_true d; omega
  have fields := encLR_fields (vb := 124) o.keepA o.keepB hb.1 hb.2 o.vd.isLt (Encoding.vsrc_lt o.a) (by decide)
  have check := fields.step2 hfn notLm dst (.inr (vsrc_code_ne_126 ha)) (by decide)
  have trailing := hasTrailing_lr fields hop
  by_cases named : o.a.code = 127
  · obtain ⟨x, lit⟩ := (vsrc_code_eq_127 ha).1 named
    have words : encode (mk o) = [encLR op fn o.keepA o.keepB o.vd.toNat o.a.code 124, x.toNat] := by rw [he, encUn, lit, VSrc.litWord]
    rw [words] at hw
    refine reads_two words (hw.2 _ (by simp)) x.isLt (by rw [trailing]; simp [named]) check ?_ hwf
    rw [parse_lset fields.lset, hp fields.major fields.fn, BitVec.ofNat_toNat, BitVec.setWidth_eq,
      parseUn_eq fields ha (fun y e => VSrc.lit.inj (lit.symm.trans e))]
    rfl
  · have plain : ∀ x, o.a ≠ .lit x := fun x e => named ((vsrc_code_eq_127 ha).2 ⟨x, e⟩)
    have words : encode (mk o) = [encLR op fn o.keepA o.keepB o.vd.toNat o.a.code 124] := by
      rw [he, encUn]; cases e : o.a <;> first | rfl | exact absurd e (plain _)
    rw [words] at hw
    refine reads_one words (hw.2 _ (by simp)) (by rw [trailing]; simp [named]) check ?_ hwf
    rw [parse_lset fields.lset, hp fields.major fields.fn, parseUn_eq fields ha (fun y e => absurd e (plain y))]
    rfl

theorem lx_notLm {op : Nat} (hx : op ∈ lxMajors) : lmMajors.contains op = false := by
  have : ∀ o ∈ lxMajors, lmMajors.contains o = false := by decide
  exact this op hx

/-- An LX binary instruction is read back, where its control word names it. -/
theorem reads_binX {i : Instr} {op fn cw : Nat} {o : VBin} (he : encode i = encBinX op fn o cw) (hw : Encoding.Words (encode i))
    (hx : op ∈ lxMajors) (hfn : fn ∈ lFns op) (hb : op < 64 ∧ fn < 4) (hd : scalarDst op fn = true ∨ dstOk o.vd = true)
    (hs : o.a.ok false = true ∧ o.b.ok false = true)
    (hp : ∀ {w w1}, majorOf w = op → bitField w 24 23 = fn → parseBin w w1 = .ok o → parseL w cw w1 = .ok i) (hwf : i.wf = true) : Reads i := by
  have dst : scalarDst op fn = true ∨ o.vd.toNat ≠ 126 := hd.imp_right fun d => by
    have := of_decide_eq_true d; omega
  have noLit {x : VSrc} (h : x.ok false = true) {w1 : Word} (y : Word) (e : x = .lit y) : w1 = y := by subst e; cases h
  have fields := encLR_fields o.keepA o.keepB hb.1 hb.2 o.vd.isLt (Encoding.vsrc_lt o.a) (Encoding.vsrc_lt o.b)
  have check := fields.step2 hfn (lx_notLm hx) dst (.inr (vsrc_code_ne_126 hs.1)) (vsrc_code_ne_126 hs.2)
  rw [he] at hw
  refine reads_two he (hw.2 _ (by simp [encBinX])) (hw.2 _ (by simp [encBinX])) (hasTrailing_lx fields hx) check ?_ hwf
  rw [parse_lset fields.lset]
  exact hp fields.major fields.fn (parseBin_eq fields hs.1 hs.2 (noLit hs.1) (noLit hs.2))

/-- An LX unary instruction is read back, where its control word names it. -/
theorem reads_unX {i : Instr} {op fn cw : Nat} {o : VUn} (he : encode i = encUnX op fn o cw) (hw : Encoding.Words (encode i))
    (hx : op ∈ lxMajors) (hfn : fn ∈ lFns op) (hb : op < 64 ∧ fn < 4) (hd : scalarDst op fn = true ∨ dstOk o.vd = true)
    (hs : o.a.ok false = true)
    (hp : ∀ {w w1}, majorOf w = op → bitField w 24 23 = fn → parseUn w w1 = .ok o → parseL w cw w1 = .ok i) (hwf : i.wf = true) : Reads i := by
  have dst : scalarDst op fn = true ∨ o.vd.toNat ≠ 126 := hd.imp_right fun d => by
    have := of_decide_eq_true d; omega
  have noLit {w1 : Word} (y : Word) (e : o.a = .lit y) : w1 = y := by rw [e] at hs; cases hs
  have fields := encLR_fields (vb := 124) o.keepA o.keepB hb.1 hb.2 o.vd.isLt (Encoding.vsrc_lt o.a) (by decide)
  have check := fields.step2 hfn (lx_notLm hx) dst (.inr (vsrc_code_ne_126 hs)) (by decide)
  rw [he] at hw
  refine reads_two he (hw.2 _ (by simp [encUnX])) (hw.2 _ (by simp [encUnX])) (hasTrailing_lx fields hx) check ?_ hwf
  rw [parse_lset fields.lset]
  exact hp fields.major fields.fn (parseUn_eq fields hs noLit)

/-- The fields of a word in the LM format (R90). -/
structure LMWord (w op : Nat) (o : LmOp) : Prop where
  lset : isLset w = true
  major : majorOf w = op
  width : bitField w 24 23 = o.width.code
  data : bitField w 22 16 = o.vd.toNat
  off : bitField w 15 9 = o.off.code
  pair : bitField w 8 3 = o.pair.toNat
  sx : bitField w 2 2 = boolCode o.sx
  policy : bitField w 1 0 = o.policy.toNat

theorem encLM_fields {op : Nat} (o : LmOp) (hop : op < 64) : LMWord (encLM op o) op o := by
  have hw := Encoding.width_lt o.width
  have hv := o.vd.isLt
  have ho := Encoding.vsrc_lt o.off
  have hpair := o.pair.isLt
  have hsx := Encoding.boolCode_lt o.sx
  have hpol := o.policy.isLt
  constructor <;> simp only [isLset, majorOf, bitField, encLM, beq_iff_eq] <;> omega

/-- LM operands are read back from their fields. -/
theorem parseLM_eq {w op : Nat} {o : LmOp} (h : LMWord w op o) (ho : o.off.ok false = true) : parseLM w = .ok o := by
  have noLit : ∀ y : Word, o.off = .lit y → 0 = y := fun y e => by rw [e] at ho; cases ho
  simp only [parseLM, h.off, vsrc_ofCode_code ho noLit, h.width, regField, h.data, h.pair, h.sx, h.policy, width_ofCode_code, boolOf_boolCode,
    BitVec.ofNat_toNat, BitVec.setWidth_eq]

/-- An LM instruction is read back. -/
theorem reads_lm {mk : LmOp → Instr} {op : Nat} {o : LmOp} {load scratch : Bool} (he : encode (mk o) = [encLM op o])
    (hm : op ∈ lmMajors) (hok : o.ok load scratch = true) (hp : ∀ {w c w1}, majorOf w = op → parseL w c w1 = mk <$> parseLM w)
    (hwf : (mk o).wf = true) : Reads (mk o) := by
  simp only [LmOp.ok, Bool.and_eq_true] at hok
  obtain ⟨⟨⟨⟨dst, off⟩, -⟩, -⟩, -⟩ := hok
  have dst : o.vd.toNat < 120 := of_decide_eq_true dst
  have hop : op < 64 ∧ op ∉ lxMajors ∧ lFns op = [0, 1, 2, 3] := by
    have : ∀ o ∈ lmMajors, o < 64 ∧ o ∉ lxMajors ∧ lFns o = [0, 1, 2, 3] := by decide
    exact this op hm
  have fn : o.width.code ∈ [0, 1, 2, 3] := by cases o.width <;> decide
  have vd126 : 126 ≠ o.vd.toNat := by omega
  have off126 := (vsrc_code_ne_126 off).symm
  have fields := encLM_fields o hop.1
  have operands : (vectorFields (encLM op o)).contains 126 = false := by
    simp [vectorFields, fields.major, hm, fields.data, fields.off, vd126, off126]
  have check : step2 (encLM op o) = none := by
    simp only [step2, fields.lset, fields.major, hop.2.2, fields.width, operands, List.contains_eq_mem, fn]
    rfl
  have trailing : hasTrailing (encLM op o) = false := by simp [hasTrailing, fields.lset, fields.major, hop.2.1, hm]
  refine reads_one he (Encoding.encLM_lt o hop.1) trailing check ?_ hwf
  rw [parse_lset fields.lset, hp fields.major, parseLM_eq fields off]
  rfl

/-- VBCAST, whose first source field names a scalar register, is read back. -/
theorem reads_vbcast (ka kb : Bool) (vd sa : Reg) (hwf : (Instr.vbcast ka kb vd sa).wf = true) : Reads (.vbcast ka kb vd sa) := by
  have dst : vd.toNat < 120 := of_decide_eq_true hwf
  have fields := encLR_fields (op := 0x16) (fn := 0) (vb := 124) ka kb (by decide) (by decide) vd.isLt sa.isLt (by decide)
  have trailing : hasTrailing (encLR 0x16 0 ka kb vd.toNat sa.toNat 124) = false := by
    simp [hasTrailing, fields.lset, fields.major, fields.srcB, lxMajors]
  refine reads_one rfl ((Encoding.vbcast ka kb vd sa).2 _ (List.mem_singleton.2 rfl)) trailing
    (fields.step2 (by decide) (by decide) (.inr (by omega)) (.inl rfl) (by decide)) ?_ hwf
  rw [parse_lset fields.lset]
  simp [parseL, fields.major, fields.keepA, fields.keepB, regField, fields.dest, fields.srcA]

/-! ### The L-set -/

theorem elemTy_mem (t : ElemTy) : t.code ∈ [0, 1, 2, 3] := by cases t <;> decide

theorem elemTy_mem_signed {t : ElemTy} (h : t ≠ .n32) : t.code ∈ [0, 2, 3] := by cases t <;> first | decide | exact absurd rfl h

theorem boolCode_mem (b : Bool) : boolCode b ∈ [0, 1] := by cases b <;> decide

theorem signPat_mem (p : SignPat) : p.code ∈ [0, 1, 2, 3] := by cases p <;> decide

theorem tagFn_mem (f : TagFn) : f.code ∈ [0, 1, 2, 3] := by cases f <;> decide

theorem voteFn_mem (f : VoteFn) : f.code ∈ [0, 1, 2, 3] := by cases f <;> decide

theorem lt_four_of_mem {n : Nat} (h : n ∈ [0, 1, 2, 3]) : n < 4 := by simp at h; omega

@[simp] theorem ok_bind {α β : Type} (x : α) (f : α → Except DecodeError β) : (Except.ok x >>= f) = f x := rfl

@[simp] theorem map_ok {α β : Type} (x : α) (f : α → β) : f <$> (Except.ok x : Except DecodeError α) = .ok (f x) := rfl

theorem reads_vminmax {mk : ElemTy → Bool → VBin → Instr} {op : Nat} {t : ElemTy} {nat : Bool} {o : VBin}
    (he : encode (mk t nat o) = encBinX op t.code o (boolCode nat * 2 ^ 4)) (hw : Encoding.Words (encode (mk t nat o))) (hx : op ∈ lxMajors)
    (hfn : t.code ∈ lFns op) (hb : op < 64) (hok : o.lxOk = true)
    (hp : ∀ {w c w1}, majorOf w = op → parseL w c w1 = mk (ElemTy.ofCode (bitField w 24 23)) (boolOf (bitField c 4 4)) <$> parseBin w w1)
    (hwf : (mk t nat o).wf = true) : Reads (mk t nat o) := by
  simp only [VBin.lxOk, VBin.lxSrcOk, Bool.and_eq_true] at hok
  refine reads_binX he hw hx hfn ⟨hb, Encoding.elemTy_lt t⟩ (.inr hok.1) hok.2 (fun m f b => ?_) hwf
  have nat4 : bitField (boolCode nat * 2 ^ 4) 4 4 = boolCode nat := by
    have := Encoding.boolCode_lt nat
    simp only [bitField]; omega
  rw [hp m, f, nat4, b]
  simp

theorem reads_vcmp {c : Cond} {t : ElemTy} {nat : Bool} {o : VBin} (h : (Instr.vcmp c t nat o).wf = true) : Reads (.vcmp c t nat o) := by
  have hs : o.lxSrcOk = true := (Bool.and_eq_true_iff.1 h).2
  refine reads_binX rfl (Encoding.vcmp c t nat o) (by decide) (elemTy_mem t) ⟨by decide, Encoding.elemTy_lt t⟩ (.inl rfl)
    (by simpa [VBin.lxSrcOk] using hs) (fun m f b => ?_) h
  have hc := Encoding.cond_lt c
  have hn := Encoding.boolCode_lt nat
  have cond : bitField (boolCode nat * 2 ^ 4 + c.code) 3 0 = c.code := by simp only [bitField]; omega
  have nat4 : bitField (boolCode nat * 2 ^ 4 + c.code) 4 4 = boolCode nat := by simp only [bitField]; omega
  simp only [parseL, m, f, b, cond, nat4, cond_ofCode_code, orBad_some, ok_bind, elemTy_ofCode_code, boolOf_boolCode]

theorem reads_vsel {r : Reg} {o : VBin} (h : (Instr.vsel r o).wf = true) : Reads (.vsel r o) := by
  have hok : o.lxOk = true := (Bool.and_eq_true_iff.1 h).2
  simp only [VBin.lxOk, VBin.lxSrcOk, Bool.and_eq_true] at hok
  refine reads_binX rfl (Encoding.vsel r o) (by decide) (fn := 0) (by decide) (by decide) (.inr hok.1) hok.2 (fun m f b => ?_) h
  have hr := r.isLt
  have triple : bitField r.toNat 6 0 = r.toNat := by simp only [bitField]; omega
  simp only [parseL, m, b, triple, map_ok, BitVec.ofNat_toNat, BitVec.setWidth_eq]

theorem reads_vfcmp {c : FCond} {o : VBin} (h : (Instr.vfcmp c o).wf = true) : Reads (.vfcmp c o) := by
  have hs : o.lxSrcOk = true := (Bool.and_eq_true_iff.1 h).2
  refine reads_binX rfl (Encoding.vfcmp c o) (by decide) (fn := 0) (by decide) (by decide) (.inl rfl)
    (by simpa [VBin.lxSrcOk] using hs) (fun m f b => ?_) h
  have hc := Encoding.fCond_lt c
  have cond : bitField c.code 3 0 = c.code := by simp only [bitField]; omega
  simp only [parseL, m, b, cond, fCond_ofCode_code, orBad_some, ok_bind]

theorem reads_vcvt {e : BitVec 2} {scl nosat : Bool} {rm : Rm} {dst src : Fmt} {o : VBin} (h : (Instr.vcvt e scl nosat rm dst src o).wf = true) :
    Reads (.vcvt e scl nosat rm dst src o) := by
  have hok : o.lxOk = true := (Bool.and_eq_true_iff.1 h).2
  simp only [VBin.lxOk, VBin.lxSrcOk, Bool.and_eq_true] at hok
  refine reads_binX rfl (Encoding.vcvt e scl nosat rm dst src o) (by decide) (fn := 0) (by decide) (by decide) (.inr hok.1) hok.2
    (fun m f b => ?_) h
  have he := e.isLt
  have hscl := Encoding.boolCode_lt scl
  have hnosat := Encoding.boolCode_lt nosat
  have hrm := Encoding.rm_lt rm
  have hdst := Encoding.fmt_lt dst
  have hsrc := Encoding.fmt_lt src
  generalize hcw : e.toNat * 2 ^ 12 + boolCode scl * 2 ^ 11 + boolCode nosat * 2 ^ 10 + rm.code * 2 ^ 8 + dst.code * 2 ^ 4 + src.code = cw
  have elem : bitField cw 13 12 = e.toNat := by simp only [bitField]; omega
  have scale : bitField cw 11 11 = boolCode scl := by simp only [bitField]; omega
  have keep : bitField cw 10 10 = boolCode nosat := by simp only [bitField]; omega
  have mode : bitField cw 9 8 = rm.code := by simp only [bitField]; omega
  have to' : bitField cw 7 4 = dst.code := by simp only [bitField]; omega
  have from' : bitField cw 3 0 = src.code := by simp only [bitField]; omega
  simp only [parseL, m, b, elem, scale, keep, mode, to', from', fmt_ofCode_code, orBad_some, ok_bind, rm_ofCode_code, boolOf_boolCode,
    BitVec.ofNat_toNat, BitVec.setWidth_eq]

theorem reads_vpack {nosat : Bool} {rm : Rm} {dst : Fmt} {o : VBin} (h : (Instr.vpack nosat rm dst o).wf = true) :
    Reads (.vpack nosat rm dst o) := by
  have hok : o.lxOk = true := (Bool.and_eq_true_iff.1 h).2
  simp only [VBin.lxOk, VBin.lxSrcOk, Bool.and_eq_true] at hok
  refine reads_binX rfl (Encoding.vpack nosat rm dst o) (by decide) (fn := 0) (by decide) (by decide) (.inr hok.1) hok.2 (fun m f b => ?_) h
  have hnosat := Encoding.boolCode_lt nosat
  have hrm := Encoding.rm_lt rm
  have hdst := Encoding.fmt_lt dst
  generalize hcw : boolCode nosat * 2 ^ 10 + rm.code * 2 ^ 8 + dst.code = cw
  have keep : bitField cw 10 10 = boolCode nosat := by simp only [bitField]; omega
  have mode : bitField cw 9 8 = rm.code := by simp only [bitField]; omega
  have to' : bitField cw 3 0 = dst.code := by simp only [bitField]; omega
  simp only [parseL, m, b, keep, mode, to', fmt_ofCode_code, orBad_some, ok_bind, rm_ofCode_code, boolOf_boolCode]

theorem reads_vunpk {p : BitVec 2} {src : Fmt} {o : VUn} (h : (Instr.vunpk p src o).wf = true) : Reads (.vunpk p src o) := by
  have hok : o.lxOk = true := (Bool.and_eq_true_iff.1 h).2
  simp only [VUn.lxOk, Bool.and_eq_true] at hok
  refine reads_unX rfl (Encoding.vunpk p src o) (by decide) (fn := 0) (by decide) (by decide) (.inr hok.1) hok.2 (fun m f b => ?_) h
  have hp := p.isLt
  have hsrc := Encoding.fmt_lt src
  generalize hcw : p.toNat * 2 ^ 4 + src.code = cw
  have part : bitField cw 5 4 = p.toNat := by simp only [bitField]; omega
  have from' : bitField cw 3 0 = src.code := by simp only [bitField]; omega
  simp only [parseL, m, b, part, from', fmt_ofCode_code, orBad_some, ok_bind, BitVec.ofNat_toNat, BitVec.setWidth_eq]

theorem reads_vbperm {hi : Bool} {o : VBin} (h : (Instr.vbperm hi o).wf = true) : Reads (.vbperm hi o) := by
  obtain ⟨dstA, four⟩ := Bool.and_eq_true_iff.1 h
  obtain ⟨dst, srcA⟩ := Bool.and_eq_true_iff.1 dstA
  have srcB : o.b.ok false = true := by
    cases e : o.b with
    | reg n =>
      simp only [e, Bool.and_eq_true, decide_eq_true_eq] at four
      simp only [VSrc.ok, decide_eq_true_eq]
      omega
    | port _ | zero | lane | lit _ => simp [e] at four
  refine reads_binX rfl (Encoding.vbperm hi o) (by decide) (fn := 0) (by decide) (by decide) (.inr dst) ⟨srcA, srcB⟩ (fun m f b => ?_) h
  have hhi := Encoding.boolCode_lt hi
  have high : bitField (boolCode hi) 1 0 = boolCode hi := by simp only [bitField]; omega
  simp only [parseL, m, b, high, map_ok, boolOf_boolCode]

theorem reads_vshfl {mode : ShflMode} {d : Reg} {o : VBin} (h : (Instr.vshfl mode d o).wf = true) : Reads (.vshfl mode d o) := by
  have hok : o.lxOk = true := (Bool.and_eq_true_iff.1 h).1
  simp only [VBin.lxOk, VBin.lxSrcOk, Bool.and_eq_true] at hok
  refine reads_binX rfl (Encoding.vshfl mode d o) (by decide) (fn := 0) (by decide) (by decide) (.inr hok.1) hok.2 (fun m f b => ?_) h
  have hm := Encoding.shflMode_lt mode
  have hd := d.isLt
  generalize hcw : mode.code * 2 ^ 8 + d.toNat = cw
  have modeField : bitField cw 10 8 = mode.code := by simp only [bitField]; omega
  have delta : bitField cw 6 0 = d.toNat := by simp only [bitField]; omega
  simp only [parseL, m, b, modeField, delta, shflMode_ofCode_code, orBad_some, ok_bind, BitVec.ofNat_toNat, BitVec.setWidth_eq]

theorem reads_vscan {op : RedOp} {t : ElemTy} {nat excl : Bool} {o : VUn} (h : (Instr.vscan op t nat excl o).wf = true) :
    Reads (.vscan op t nat excl o) := by
  have hok : o.lxOk = true := (Bool.and_eq_true_iff.1 h).2
  simp only [VUn.lxOk, Bool.and_eq_true] at hok
  refine reads_unX rfl (Encoding.vscan op t nat excl o) (by decide) (elemTy_mem t) ⟨by decide, Encoding.elemTy_lt t⟩ (.inr hok.1) hok.2
    (fun m f b => ?_) h
  have hn := Encoding.boolCode_lt nat
  have hx := Encoding.boolCode_lt excl
  have ho := Encoding.redOp_lt op
  generalize hcw : boolCode nat * 2 ^ 5 + boolCode excl * 2 ^ 4 + op.code = cw
  have natural : bitField cw 5 5 = boolCode nat := by simp only [bitField]; omega
  have exclusive : bitField cw 4 4 = boolCode excl := by simp only [bitField]; omega
  have combine : bitField cw 3 0 = op.code := by simp only [bitField]; omega
  simp only [parseL, m, f, b, natural, exclusive, combine, redOp_ofCode_code, orBad_some, ok_bind, elemTy_ofCode_code, boolOf_boolCode]

theorem reads_vred {op : RedOp} {t : ElemTy} {nat : Bool} {o : VUn} (h : (Instr.vred op t nat o).wf = true) : Reads (.vred op t nat o) := by
  have hs : o.a.ok false = true := (Bool.and_eq_true_iff.1 h).2
  refine reads_unX rfl (Encoding.vred op t nat o) (by decide) (elemTy_mem t) ⟨by decide, Encoding.elemTy_lt t⟩ (.inl rfl) hs (fun m f b => ?_) h
  have hn := Encoding.boolCode_lt nat
  have ho := Encoding.redOp_lt op
  generalize hcw : boolCode nat * 2 ^ 5 + op.code = cw
  have natural : bitField cw 5 5 = boolCode nat := by simp only [bitField]; omega
  have combine : bitField cw 3 0 = op.code := by simp only [bitField]; omega
  simp only [parseL, m, f, b, natural, combine, redOp_ofCode_code, orBad_some, ok_bind, elemTy_ofCode_code, boolOf_boolCode]

/-- VATOM's operands as the fields of an LX word. -/
def atomBin (o : VAtomOp) : VBin := { keepA := o.keepA, keepB := o.keepB, vd := o.vd, a := o.off, b := o.data }

theorem reads_vatom {o : VAtomOp} (h : (Instr.vatom o).wf = true) : Reads (.vatom o) := by
  have ok : o.ok = true := h
  simp only [VAtomOp.ok, Bool.and_eq_true] at ok
  obtain ⟨⟨⟨⟨⟨⟨⟨⟨dst, off⟩, data⟩, -⟩, -⟩, -⟩, -⟩, -⟩, -⟩ := ok
  have data : o.data.ok false = true := by
    cases e : o.data with
    | reg n => simp only [e, Bool.and_eq_true] at data; exact data.1.2
    | zero => rfl
    | port _ | lane | lit _ => simp [e] at data
  have listed : (if o.w64 then 3 else 2) ∈ lFns 0x34 ∧ (if o.w64 then 3 else 2) < 4 := by cases o.w64 <;> decide
  refine reads_binX (o := atomBin o) rfl (Encoding.vatom o) (by decide) listed.1 ⟨by decide, listed.2⟩ (.inr dst) ⟨off, data⟩ (fun m f b => ?_) h
  have hret := Encoding.boolCode_lt o.ret
  have hrsp := Encoding.boolCode_lt o.rsp
  have haop := Encoding.aop_lt o.aop
  have hord := Encoding.ord4_lt o.ord
  have hscope := Encoding.scope_lt o.scope
  have hbase := o.base.isLt
  have hcmpv := o.cmpv.isLt
  have w64 : boolOf ((if o.w64 then 3 else 2) - 2) = o.w64 := by cases o.w64 <;> rfl
  generalize hcw : boolCode o.ret * 2 ^ 25 + boolCode o.rsp * 2 ^ 24 + o.aop.code * 2 ^ 20 + o.ord.code * 2 ^ 18 + o.scope.code * 2 ^ 15
    + o.base.toNat * 2 ^ 9 + o.cmpv.toNat = cw
  have ret : bitField cw 25 25 = boolCode o.ret := by simp only [bitField]; omega
  have rsp : bitField cw 24 24 = boolCode o.rsp := by simp only [bitField]; omega
  have aop : bitField cw 23 20 = o.aop.code := by simp only [bitField]; omega
  have ord : bitField cw 19 18 = o.ord.code := by simp only [bitField]; omega
  have scope : bitField cw 17 15 = o.scope.code := by simp only [bitField]; omega
  have base : bitField cw 14 9 = o.base.toNat := by simp only [bitField]; omega
  have cmpv : bitField cw 6 0 = o.cmpv.toNat := by simp only [bitField]; omega
  simp only [parseL, m, f, b, w64, ret, rsp, aop, ord, scope, base, cmpv, aop_ofCode_code, scope_ofCode_code, ord4_ofCode_code, orBad_some,
    ok_bind, boolOf_boolCode, BitVec.ofNat_toNat, BitVec.setWidth_eq, atomBin]

/-- Every well-formed L-set instruction is read back: LR words by their format, LX words with their control word, LM words. -/
theorem reads_vector (i : Instr) (hv : Machine.isVector i = true) (h : i.wf = true) : Reads i := by
  cases i with
  | vadd t o =>
    exact reads_bin (mk := (.vadd t)) rfl (Encoding.vadd t o) rfl (elemTy_mem t) ⟨by decide, lt_four_of_mem (elemTy_mem t)⟩ h
      (fun m f => by simp only [parseL, m, f, elemTy_ofCode_code]) h
  | vsub t o =>
    exact reads_bin (mk := (.vsub t)) rfl (Encoding.vsub t o) rfl (elemTy_mem t) ⟨by decide, lt_four_of_mem (elemTy_mem t)⟩ h
      (fun m f => by simp only [parseL, m, f, elemTy_ofCode_code]) h
  | vmul t o =>
    exact reads_bin (mk := (.vmul t)) rfl (Encoding.vmul t o) rfl (elemTy_mem t) ⟨by decide, lt_four_of_mem (elemTy_mem t)⟩ h
      (fun m f => by simp only [parseL, m, f, elemTy_ofCode_code]) h
  | vmulh n o =>
    exact reads_bin (mk := (.vmulh n)) rfl (Encoding.vmulh n o) rfl (boolCode_mem _) ⟨by decide, (Encoding.boolCode_lt _).trans (by decide)⟩ h
      (fun m f => by simp only [parseL, m, f, boolOf_boolCode]) h
  | vmad t o =>
    exact reads_bin (mk := (.vmad t)) rfl (Encoding.vmad t o) rfl (elemTy_mem t) ⟨by decide, lt_four_of_mem (elemTy_mem t)⟩ h
      (fun m f => by simp only [parseL, m, f, elemTy_ofCode_code]) h
  | vmin t nat o =>
    exact reads_vminmax (mk := .vmin) rfl (Encoding.vmin t nat o) (by decide) (elemTy_mem t) (by decide) (Bool.and_eq_true_iff.1 h).2
      (fun m => by simp only [parseL, m]) h
  | vmax t nat o =>
    exact reads_vminmax (mk := .vmax) rfl (Encoding.vmax t nat o) (by decide) (elemTy_mem t) (by decide) (Bool.and_eq_true_iff.1 h).2
      (fun m => by simp only [parseL, m]) h
  | vabs t o =>
    have ok : o.ok = true := (Bool.and_eq_true_iff.1 h).2
    obtain ⟨dst, src⟩ := Bool.and_eq_true_iff.1 ok
    exact reads_un (mk := (.vabs t)) rfl (Encoding.vabs t o) rfl (elemTy_mem_signed (bne_iff_ne.1 (Bool.and_eq_true_iff.1 h).1)) ⟨by decide, Encoding.elemTy_lt t⟩ src (.inr dst)
      (fun m f => by simp only [parseL, m, f, elemTy_ofCode_code]) h
  | vand o =>
    exact reads_bin (mk := .vand) rfl (Encoding.vand o) rfl (fn := 0) (by decide) ⟨by decide, by decide⟩ h
      (fun m _ => by simp only [parseL, m]) h
  | vor o =>
    exact reads_bin (mk := .vor) rfl (Encoding.vor o) rfl (fn := 0) (by decide) ⟨by decide, by decide⟩ h
      (fun m _ => by simp only [parseL, m]) h
  | vxor o =>
    exact reads_bin (mk := .vxor) rfl (Encoding.vxor o) rfl (fn := 0) (by decide) ⟨by decide, by decide⟩ h
      (fun m _ => by simp only [parseL, m]) h
  | vshl t o =>
    exact reads_bin (mk := (.vshl t)) rfl (Encoding.vshl t o) rfl (elemTy_mem t) ⟨by decide, lt_four_of_mem (elemTy_mem t)⟩ h
      (fun m f => by simp only [parseL, m, f, elemTy_ofCode_code]) h
  | vshr t o =>
    exact reads_bin (mk := (.vshr t)) rfl (Encoding.vshr t o) rfl (elemTy_mem t) ⟨by decide, lt_four_of_mem (elemTy_mem t)⟩ h
      (fun m f => by simp only [parseL, m, f, elemTy_ofCode_code]) h
  | vsar t o =>
    exact reads_bin (mk := (.vsar t)) rfl (Encoding.vsar t o) rfl (elemTy_mem_signed (bne_iff_ne.1 (Bool.and_eq_true_iff.1 h).1)) ⟨by decide, Encoding.elemTy_lt t⟩ (Bool.and_eq_true_iff.1 h).2
      (fun m f => by simp only [parseL, m, f, elemTy_ofCode_code]) h
  | vclz t o =>
    have ok : o.ok = true := h
    obtain ⟨dst, src⟩ := Bool.and_eq_true_iff.1 ok
    exact reads_un (mk := (.vclz t)) rfl (Encoding.vclz t o) rfl (elemTy_mem t) ⟨by decide, lt_four_of_mem (elemTy_mem t)⟩ src (.inr dst)
      (fun m f => by simp only [parseL, m, f, elemTy_ofCode_code]) h
  | vpopc t o =>
    have ok : o.ok = true := h
    obtain ⟨dst, src⟩ := Bool.and_eq_true_iff.1 ok
    exact reads_un (mk := (.vpopc t)) rfl (Encoding.vpopc t o) rfl (elemTy_mem t) ⟨by decide, lt_four_of_mem (elemTy_mem t)⟩ src (.inr dst)
      (fun m f => by simp only [parseL, m, f, elemTy_ofCode_code]) h
  | vbfx sx o =>
    exact reads_bin (mk := (.vbfx sx)) rfl (Encoding.vbfx sx o) rfl (boolCode_mem _) ⟨by decide, (Encoding.boolCode_lt _).trans (by decide)⟩ h
      (fun m f => by simp only [parseL, m, f, boolOf_boolCode]) h
  | vbfi o =>
    exact reads_bin (mk := .vbfi) rfl (Encoding.vbfi o) rfl (fn := 0) (by decide) ⟨by decide, by decide⟩ h
      (fun m _ => by simp only [parseL, m]) h
  | vcmp c t nat o => exact reads_vcmp h
  | vsel m o => exact reads_vsel h
  | vmov o =>
    have ok : o.ok = true := h
    obtain ⟨dst, src⟩ := Bool.and_eq_true_iff.1 ok
    exact reads_un (mk := .vmov) rfl (Encoding.vmov o) rfl (fn := 0) (by decide) ⟨by decide, by decide⟩ src (.inr dst)
      (fun m _ => by simp only [parseL, m]) h
  | vbcast ka kb vd sa => exact reads_vbcast ka kb vd sa h
  | vtag f o =>
    have ok : o.a.ok true = true ∧ (scalarDst 0x17 f.code = true ∨ dstOk o.vd = true) := by
      cases f with
      | read =>
        refine ⟨?_, .inl rfl⟩
        cases e : o.a with
        | reg n => simpa [Instr.wf, e, VSrc.ok] using h
        | port _ | zero | lane | lit _ => simp [Instr.wf, e] at h
      | toU | toA | toG => exact ⟨(Bool.and_eq_true_iff.1 h).2, .inr (Bool.and_eq_true_iff.1 h).1⟩
    exact reads_un (mk := .vtag f) rfl (Encoding.vtag f o) rfl (tagFn_mem f) ⟨by decide, Encoding.tagFn_lt f⟩ ok.1 ok.2
      (fun m fn => by simp only [parseL, m, fn, tagFn_ofCode_code]) h
  | vfadd o =>
    exact reads_bin (mk := .vfadd) rfl (Encoding.vfadd o) rfl (fn := 0) (by decide) ⟨by decide, by decide⟩ h
      (fun m _ => by simp only [parseL, m]) h
  | vfsub o =>
    exact reads_bin (mk := .vfsub) rfl (Encoding.vfsub o) rfl (fn := 0) (by decide) ⟨by decide, by decide⟩ h
      (fun m _ => by simp only [parseL, m]) h
  | vfmul o =>
    exact reads_bin (mk := .vfmul) rfl (Encoding.vfmul o) rfl (fn := 0) (by decide) ⟨by decide, by decide⟩ h
      (fun m _ => by simp only [parseL, m]) h
  | vfma p o =>
    exact reads_bin (mk := (.vfma p)) rfl (Encoding.vfma p o) rfl (signPat_mem _) ⟨by decide, Encoding.signPat_lt _⟩ h
      (fun m f => by simp only [parseL, m, f, signPat_ofCode_code]) h
  | vfmin o =>
    exact reads_bin (mk := .vfmin) rfl (Encoding.vfmin o) rfl (fn := 0) (by decide) ⟨by decide, by decide⟩ h
      (fun m _ => by simp only [parseL, m]) h
  | vfmax o =>
    exact reads_bin (mk := .vfmax) rfl (Encoding.vfmax o) rfl (fn := 0) (by decide) ⟨by decide, by decide⟩ h
      (fun m _ => by simp only [parseL, m]) h
  | vfcmp c o => exact reads_vfcmp h
  | vfrcp o =>
    have ok : o.ok = true := h
    obtain ⟨dst, src⟩ := Bool.and_eq_true_iff.1 ok
    exact reads_un (mk := .vfrcp) rfl (Encoding.vfrcp o) rfl (fn := 0) (by decide) ⟨by decide, by decide⟩ src (.inr dst)
      (fun m _ => by simp only [parseL, m]) h
  | vfrsq o =>
    have ok : o.ok = true := h
    obtain ⟨dst, src⟩ := Bool.and_eq_true_iff.1 ok
    exact reads_un (mk := .vfrsq) rfl (Encoding.vfrsq o) rfl (fn := 0) (by decide) ⟨by decide, by decide⟩ src (.inr dst)
      (fun m _ => by simp only [parseL, m]) h
  | vfex2 o =>
    have ok : o.ok = true := h
    obtain ⟨dst, src⟩ := Bool.and_eq_true_iff.1 ok
    exact reads_un (mk := .vfex2) rfl (Encoding.vfex2 o) rfl (fn := 0) (by decide) ⟨by decide, by decide⟩ src (.inr dst)
      (fun m _ => by simp only [parseL, m]) h
  | vflg2 o =>
    have ok : o.ok = true := h
    obtain ⟨dst, src⟩ := Bool.and_eq_true_iff.1 ok
    exact reads_un (mk := .vflg2) rfl (Encoding.vflg2 o) rfl (fn := 0) (by decide) ⟨by decide, by decide⟩ src (.inr dst)
      (fun m _ => by simp only [parseL, m]) h
  | vcvt e scl nosat rm dst src o => exact reads_vcvt h
  | vpack nosat rm dst o => exact reads_vpack h
  | vunpk p src o => exact reads_vunpk h
  | vbperm hi o => exact reads_vbperm h
  | vshfl m d o => exact reads_vshfl h
  | vscan op t nat excl o => exact reads_vscan h
  | vred op t nat o => exact reads_vred h
  | vvote f o =>
    exact reads_un (mk := .vvote f) rfl (Encoding.vvote f o) rfl (voteFn_mem f) ⟨by decide, Encoding.voteFn_lt f⟩ (Bool.and_eq_true_iff.1 h).2 (.inl rfl)
      (fun m fn => by simp only [parseL, m, fn, voteFn_ofCode_code]) h
  | vld o => exact reads_lm (mk := .vld) rfl (by decide) h (fun m => by simp only [parseL, m]) h
  | vst o => exact reads_lm (mk := .vst) rfl (by decide) h (fun m => by simp only [parseL, m]) h
  | vlds o => exact reads_lm (mk := .vlds) rfl (by decide) h (fun m => by simp only [parseL, m]) h
  | vsts o => exact reads_lm (mk := .vsts) rfl (by decide) h (fun m => by simp only [parseL, m]) h
  | vatom o => exact reads_vatom h
  | _ => cases hv

/-! ### U-set words -/

@[simp] theorem sCond_ofCode_code (c : SCond) : SCond.ofCode c.code = c := by cases c <;> rfl
@[simp] theorem bccCond_ofCode_code (c : BccCond) : BccCond.ofCode c.code = c := by cases c <;> rfl
@[simp] theorem counter_ofCode_code (c : Counter) : Counter.ofCode c.code = some c := by cases c <;> rfl
@[simp] theorem counter_ofCode_yieldCode (c : Option Counter) : Counter.ofCode (yieldCode c) = c := by
  cases c with
  | none => rfl
  | some c => exact counter_ofCode_code c
@[simp] theorem barLevel_ofCode_code (l : BarLevel) : BarLevel.ofCode l.code = some l := by cases l <;> rfl
@[simp] theorem cpyKind_ofCode_code (k : CpyKind) : CpyKind.ofCode k.code = some k := by cases k <;> rfl
@[simp] theorem cpyTr_ofCode_code (t : CpyTr) : CpyTr.ofCode t.code = some t := by cases t <;> rfl
@[simp] theorem life_ofCode_code (l : Life) : Life.ofCode l.code = some l := by cases l <;> rfl
@[simp] theorem wFmt_ofCode_code (f : WFmt) : WFmt.ofCode f.code = some f := by cases f <;> rfl
@[simp] theorem dFmt_ofCode_code (f : DFmt) : DFmt.ofCode f.code = some f := by cases f <;> rfl
@[simp] theorem boolCode_mod (b : Bool) : boolCode b % 2 = boolCode b := by cases b <;> rfl
theorem two_bits_low (a b : Bool) : (boolCode a * 2 + boolCode b) % 2 = boolCode b := by cases a <;> cases b <;> rfl
theorem two_bits_high (a b : Bool) : (boolCode a * 2 + boolCode b) / 2 % 2 = boolCode a := by cases a <;> cases b <;> rfl

theorem parse_uset {w c op : Nat} (h : isLset w = false) (m : majorOf w = op) :
    parse w c = if op ≤ 0x28 then parseU1 w c (BitVec.ofNat 32 c) else parseU2 w c (BitVec.ofNat 32 c) := by
  subst m
  exact if_neg (by rw [h]; decide)

/-- The fields of a U-set word in the UR format (R92), with the parts of `sub` and `sb` that single instructions read. -/
structure URWord (w op l sub sd sa sb : Nat) : Prop where
  uset : isLset w = false
  major : majorOf w = op
  lit : bitField w 24 24 = l
  subAll : bitField w 23 21 = sub
  subLow : bitField w 21 21 = sub % 2
  subHigh : bitField w 22 22 = sub / 2 % 2
  subPair : bitField w 22 21 = sub % 4
  sd : bitField w 20 14 = sd
  sa : bitField w 13 7 = sa
  sbAll : bitField w 6 0 = sb
  sbHigh : bitField w 6 4 = sb / 16
  sbLow : bitField w 3 0 = sb % 16

theorem encUR_fields {op l sub sd sa sb : Nat} (hop : op < 64) (hl : l < 2) (hsub : sub < 8) (hsd : sd < 128) (hsa : sa < 128) (hsb : sb < 128) :
    URWord (encUR op l sub sd sa sb) op l sub sd sa sb := by
  constructor <;> simp only [isLset, majorOf, bitField, encUR, beq_eq_false_iff_ne] <;> omega

/-- The U-set majors in the UR format, with a control word or without. -/
def urWords (op : Nat) : Bool := urMajors.contains op || (cwMajors.contains op && op != 0x1C)

theorem urWords_spec {op : Nat} (h : urWords op = true) :
    op < 64 ∧ uReserved.contains op = false ∧ op ≠ 0x1F ∧ op ≠ 0x22 ∧ [0x24, 0x25, 0x26, 0x2B].contains op = false := by
  have all : ∀ o ∈ urMajors ++ cwMajors, urWords o = true →
      o < 64 ∧ uReserved.contains o = false ∧ o ≠ 0x1F ∧ o ≠ 0x22 ∧ [0x24, 0x25, 0x26, 0x2B].contains o = false := by decide
  refine all op ?_ h
  simp only [urWords, Bool.or_eq_true, Bool.and_eq_true, List.contains_eq_mem, decide_eq_true_eq] at h
  simp only [List.mem_append]
  exact h.imp_right (·.1)

theorem URWord.step2 {w op l sub sd sa sb : Nat} (h : URWord w op l sub sd sa sb) (hop : urWords op = true) (hs : sub ∈ uSubs op) :
    Sys2Proof.step2 w = none := by
  obtain ⟨-, notReserved, notFence, notBdiv, notFixed⟩ := urWords_spec hop
  simp only [Sys2Proof.step2, h.uset, h.major, h.subAll, notReserved, notFixed, List.contains_eq_mem, hs, decide_true, Bool.not_true, Bool.and_false,
    beq_eq_false_iff_ne.2 notFence, beq_eq_false_iff_ne.2 notBdiv, Bool.false_and, Bool.false_eq_true, if_false]

theorem URWord.hasTrailing_cw {w op l sub sd sa sb : Nat} (h : URWord w op l sub sd sa sb) (hop : op ∈ cwMajors) : hasTrailing w = true := by
  simp [hasTrailing, h.uset, h.major, hop]

theorem URWord.hasTrailing_ur {w op l sub sd sa sb : Nat} (h : URWord w op l sub sd sa sb) (hop : op ∈ urMajors) : hasTrailing w = (l == 1) := by
  have : ∀ o ∈ urMajors, o ∉ cwMajors := by decide
  simp [hasTrailing, h.uset, h.major, hop, this op hop, h.lit]

theorem parseB_eq {w op sub sd sa : Nat} {b : SSrc} {w1 : Word} (h : URWord w op b.isLit sub sd sa b.code) (hb : ∀ x, b = .lit x → w1 = x) :
    parseB w w1 = b := by
  cases b with
  | reg n => simp [parseB, h.lit, SSrc.isLit, regField, h.sbAll, SSrc.code]
  | lit x => simp [parseB, h.lit, SSrc.isLit, hb x rfl]

/-- A UR instruction with operand B is read back. -/
theorem reads_encS {i : Instr} {op sub : Nat} {sd sa : Reg} {b : SSrc} (he : encode i = encS op sub sd sa b) (hop : op ∈ urMajors)
    (hs : sub ∈ uSubs op) (hsub : sub < 8)
    (hp : ∀ {w c w1}, URWord w op b.isLit sub sd.toNat sa.toNat b.code → parseB w w1 = b →
      (if op ≤ 0x28 then parseU1 w c w1 else parseU2 w c w1) = .ok i) (hwf : i.wf = true) : Reads i := by
  have ur : urWords op = true := by simp [urWords, hop]
  have hlt := (urWords_spec ur).1
  have hw := Encoding.encUR_lt hlt (Encoding.isLit_lt b) hsub sd.isLt sa.isLt (Encoding.ssrc_lt b)
  have fields := encUR_fields hlt (Encoding.isLit_lt b) hsub sd.isLt sa.isLt (Encoding.ssrc_lt b)
  have check := fields.step2 ur hs
  have trailing := fields.hasTrailing_ur hop
  cases b with
  | reg n =>
    refine reads_one he hw trailing check ?_ hwf
    rw [parse_uset fields.uset fields.major]
    exact hp fields (parseB_eq fields nofun)
  | lit x =>
    refine reads_two he hw x.isLt trailing check ?_ hwf
    rw [parse_uset fields.uset fields.major, BitVec.ofNat_toNat, BitVec.setWidth_eq]
    exact hp fields (parseB_eq fields fun y e => SSrc.lit.inj e)

/-- A three-operand scalar instruction (R323) is read back. -/
theorem reads_sop {mk : SOp → Instr} {op sub : Nat} {o : SOp} (he : encode (mk o) = encS op sub o.sd o.sa o.b) (hop : op ∈ urMajors)
    (hs : sub ∈ uSubs op) (hsub : sub < 8) (hw64 : sub % 2 = boolCode o.w64)
    (hp : ∀ {w c w1}, majorOf w = op → bitField w 22 22 = sub / 2 % 2 → parseU1 w c w1 = .ok (mk (parseS w w1))) (hle : op ≤ 0x28)
    (hwf : (mk o).wf = true) : Reads (mk o) := by
  refine reads_encS he hop hs hsub (fun fields hb => ?_) hwf
  rw [if_pos hle, hp fields.major fields.subHigh]
  simp only [parseS, fields.subLow, hw64, boolOf_boolCode, regField, fields.sd, fields.sa, hb, BitVec.ofNat_toNat, BitVec.setWidth_eq]

/-- A UR instruction of one word without operand B is read back. -/
theorem reads_ur {i : Instr} {op sub sd sa sb : Nat} (he : encode i = [encUR op 0 sub sd sa sb]) (hop : op ∈ urMajors) (hs : sub ∈ uSubs op)
    (hb : sub < 8 ∧ sd < 128 ∧ sa < 128 ∧ sb < 128)
    (hp : ∀ {w c w1}, URWord w op 0 sub sd sa sb → (if op ≤ 0x28 then parseU1 w c w1 else parseU2 w c w1) = .ok i) (hwf : i.wf = true) :
    Reads i := by
  obtain ⟨hsub, hsd, hsa, hsb⟩ := hb
  have ur : urWords op = true := by simp [urWords, hop]
  have hlt := (urWords_spec ur).1
  have fields := encUR_fields (l := 0) hlt (by decide) hsub hsd hsa hsb
  refine reads_one he (Encoding.encUR_lt hlt (by decide) hsub hsd hsa hsb) (fields.hasTrailing_ur hop) (fields.step2 ur hs) ?_ hwf
  rw [parse_uset fields.uset fields.major]
  exact hp fields

/-- A UR instruction with a control word is read back, where that word names it. -/
theorem reads_urc {i : Instr} {op sub sd sa sb cw : Nat} (he : encode i = [encUR op 0 sub sd sa sb, cw]) (hc : cw < 2 ^ 32) (hop : op ∈ cwMajors)
    (ne : op ≠ 0x1C) (hs : sub ∈ uSubs op) (hb : sub < 8 ∧ sd < 128 ∧ sa < 128 ∧ sb < 128)
    (hp : ∀ {w w1}, URWord w op 0 sub sd sa sb → (if op ≤ 0x28 then parseU1 w cw w1 else parseU2 w cw w1) = .ok i) (hwf : i.wf = true) :
    Reads i := by
  obtain ⟨hsub, hsd, hsa, hsb⟩ := hb
  have ur : urWords op = true := by simp [urWords, hop, ne]
  have hlt := (urWords_spec ur).1
  have fields := encUR_fields (l := 0) hlt (by decide) hsub hsd hsa hsb
  refine reads_two he (Encoding.encUR_lt hlt (by decide) hsub hsd hsa hsb) hc (fields.hasTrailing_cw hop) (fields.step2 ur hs) ?_ hwf
  rw [parse_uset fields.uset fields.major]
  exact hp fields

/-- The fields of a U-set word in the UM format (R92). -/
structure UMWord (w op : Nat) (o : UmOp) : Prop where
  uset : isLset w = false
  major : majorOf w = op
  sd : bitField w 24 18 = o.sd.toNat
  pair : bitField w 17 12 = o.pair.toNat
  ord : bitField w 11 10 = o.ord.code
  scope : bitField w 9 7 = o.scope.code
  off : bitField w 6 0 = o.off.toNat

theorem encUM_fields {op : Nat} (o : UmOp) (hop : op < 64) : UMWord (encUM op o) op o := by
  have hsd := o.sd.isLt
  have hpair := o.pair.isLt
  have hord := Encoding.ord4_lt o.ord
  have hscope := Encoding.scope_lt o.scope
  have hoff := o.off.isLt
  constructor <;> simp only [isLset, majorOf, bitField, encUM, beq_eq_false_iff_ne] <;> omega

theorem parseUM_eq {w op : Nat} {o : UmOp} (h : UMWord w op o) : parseUM w = .ok o := by
  simp only [parseUM, h.scope, scope_ofCode_code, regField, h.sd, h.pair, h.ord, ord4_ofCode_code, h.off, BitVec.ofNat_toNat, BitVec.setWidth_eq]

/-- The U-set majors in the UM format (R94). -/
def umMajors : List Nat := [0x18, 0x19, 0x1A, 0x1B, 0x1C, 0x1D, 0x1E, 0x1F]

theorem UMWord.step2 {w op : Nat} {o : UmOp} (h : UMWord w op o) (hop : op ∈ umMajors) (hf : op = 0x1F → o.ord ≠ .none) :
    Sys2Proof.step2 w = none := by
  have all : ∀ p ∈ umMajors, uReserved.contains p = false ∧ (urMajors.contains p || (cwMajors.contains p && p != 0x1C)) = false ∧ (p == 0x22) = false
      ∧ [0x24, 0x25, 0x26, 0x2B].contains p = false := by decide
  obtain ⟨notReserved, notUr, notBdiv, notFixed⟩ := all op hop
  have fence : (op == 0x1F && o.ord.code == 0) = false := by
    rw [Bool.and_eq_false_imp]
    intro e
    have := hf (beq_iff_eq.1 e)
    cases ho : o.ord <;> first | rfl | exact absurd ho this
  simp only [Sys2Proof.step2, h.uset, h.major, h.ord, notReserved, notUr, notBdiv, notFixed, fence, Bool.false_and, Bool.false_eq_true, if_false]

theorem umMajors_lt {op : Nat} (hop : op ∈ umMajors) : op < 64 ∧ urMajors.contains op = false ∧ op ≤ 0x28 := by
  have : ∀ p ∈ umMajors, p < 64 ∧ urMajors.contains p = false ∧ p ≤ 0x28 := by decide
  exact this op hop

/-- A UM instruction of one word is read back. -/
theorem reads_um {i : Instr} {op : Nat} {o : UmOp} (he : encode i = [encUM op o]) (hop : op ∈ umMajors) (ne : op ≠ 0x1C)
    (hf : op = 0x1F → o.ord ≠ .none) (hp : ∀ {w c w1}, majorOf w = op → parseUM w = .ok o → parseU1 w c w1 = .ok i) (hwf : i.wf = true) :
    Reads i := by
  obtain ⟨hlt, notUr, hle⟩ := umMajors_lt hop
  have fields := encUM_fields o hlt
  have trailing : hasTrailing (encUM op o) = false := by
    have : ∀ p ∈ umMajors, p ≠ 0x1C → cwMajors.contains p = false := by decide
    simp only [hasTrailing, fields.uset, fields.major, notUr, this op hop ne, Bool.false_and, Bool.or_self, Bool.false_eq_true, if_false]
  refine reads_one he (Encoding.encUM_lt o hlt) trailing (fields.step2 hop hf) ?_ hwf
  rw [parse_uset fields.uset fields.major, if_pos hle]
  exact hp fields.major (parseUM_eq fields)

/-- SATOM, a UM word with a control word, is read back. -/
theorem reads_satom {o : UmOp} {c : SAtomCw} (h : (Instr.satom o c).wf = true) : Reads (.satom o c) := by
  have fields := encUM_fields (op := 0x1C) o (by decide)
  have hrsp := Encoding.boolCode_lt c.rsp
  have haop := Encoding.aop_lt c.aop
  have hw := Encoding.boolCode_lt c.w64
  have hsb := c.sb.isLt
  have hsc := c.sc.isLt
  refine reads_two rfl (Encoding.encUM_lt o (by decide)) (by omega) (by simp [hasTrailing, fields.uset, fields.major, cwMajors])
    (fields.step2 (by decide) nofun) ?_ h
  rw [parse_uset fields.uset fields.major, if_pos (by decide)]
  generalize hcw : boolCode c.rsp * 2 ^ 24 + c.aop.code * 2 ^ 20 + boolCode c.w64 * 2 ^ 19 + c.sb.toNat * 2 ^ 7 + c.sc.toNat = cw
  have rsp : bitField cw 24 24 = boolCode c.rsp := by simp only [bitField]; omega
  have aop : bitField cw 23 20 = c.aop.code := by simp only [bitField]; omega
  have w64 : bitField cw 19 19 = boolCode c.w64 := by simp only [bitField]; omega
  have sb : bitField cw 13 7 = c.sb.toNat := by simp only [bitField]; omega
  have sc : bitField cw 6 0 = c.sc.toNat := by simp only [bitField]; omega
  simp only [parseU1, fields.major, parseUM_eq fields, rsp, aop, w64, sb, sc, aop_ofCode_code, orBad_some, ok_bind, boolOf_boolCode,
    BitVec.ofNat_toNat, BitVec.setWidth_eq]

/-- The U-set majors that have neither the UR nor the UM format: control words and SMOVI (R94). -/
def plainMajors : List Nat := [0x10, 0x20, 0x21, 0x22, 0x23, 0x24, 0x25, 0x26, 0x27, 0x29, 0x2A, 0x2B]

/-- A word of one of these majors passes the first check, if its function is listed and its fixed bits are zero. -/
theorem step2_plain {w op : Nat} (hu : isLset w = false) (hm : majorOf w = op) (hop : op ∈ plainMajors)
    (hb : op = 0x22 → bitField w 17 16 < 2) (hz : op ∈ [0x24, 0x25, 0x26, 0x2B] → bitField w 24 0 = 0) : step2 w = none := by
  have all : ∀ p ∈ plainMajors, uReserved.contains p = false ∧ (urMajors.contains p || (cwMajors.contains p && p != 0x1C)) = false
      ∧ (p == 0x1F) = false := by decide
  obtain ⟨notReserved, notUr, notFence⟩ := all op hop
  have bdiv : (op == 0x22 && decide (2 ≤ bitField w 17 16)) = false := by
    rw [Bool.and_eq_false_imp]
    exact fun e => decide_eq_false (Nat.not_le.2 (hb (beq_iff_eq.1 e)))
  have fixed : ([0x24, 0x25, 0x26, 0x2B].contains op && bitField w 24 0 != 0) = false := by
    rw [Bool.and_eq_false_imp]
    intro e
    rw [hz (by simpa using e)]
    rfl
  simp only [step2, hu, hm, notReserved, notUr, notFence, bdiv, fixed, Bool.false_and, Bool.false_eq_true, if_false]

/-- An instruction of one of these majors, one word, is read back. -/
theorem reads_plain {i : Instr} {w op : Nat} (he : encode i = [w]) (hw : w < 2 ^ 32) (hu : isLset w = false) (hm : majorOf w = op)
    (hop : op ∈ plainMajors) (hb : op = 0x22 → bitField w 17 16 < 2) (hz : op ∈ [0x24, 0x25, 0x26, 0x2B] → bitField w 24 0 = 0)
    (hp : (if op ≤ 0x28 then parseU1 w 0 0 else parseU2 w 0 0) = .ok i) (hwf : i.wf = true) : Reads i := by
  have all : ∀ p ∈ plainMajors, urMajors.contains p = false ∧ cwMajors.contains p = false := by decide
  obtain ⟨notUr, notCw⟩ := all op hop
  have trailing : hasTrailing w = false := by
    simp only [hasTrailing, hu, hm, notUr, notCw, Bool.false_and, Bool.or_self, Bool.false_eq_true, if_false]
  refine reads_one he hw trailing (step2_plain hu hm hop hb hz) ?_ hwf
  rw [parse_uset hu hm]
  exact hp

/-- A UJ or UN instruction is read back. -/
theorem reads_uj {i : Instr} {op code : Nat} (he : encode i = [encUJ op code]) (hop : op ∈ plainMajors) (ne : op ≠ 0x22) (hc : code < 2 ^ 25)
    (hz : op ∈ [0x24, 0x25, 0x26, 0x2B] → code = 0)
    (hp : ∀ {w}, majorOf w = op → bitField w 24 0 = code → (if op ≤ 0x28 then parseU1 w 0 0 else parseU2 w 0 0) = .ok i) (hwf : i.wf = true) :
    Reads i := by
  have hlt : op < 64 := by
    have : ∀ p ∈ plainMajors, p < 64 := by decide
    exact this op hop
  have uset : isLset (encUJ op code) = false := by simp only [isLset, bitField, encUJ, beq_eq_false_iff_ne]; omega
  have major : majorOf (encUJ op code) = op := by simp only [majorOf, bitField, encUJ]; omega
  have field : bitField (encUJ op code) 24 0 = code := by simp only [bitField, encUJ]; omega
  exact reads_plain he (Encoding.encUJ_lt hlt hc) uset major hop (fun e => absurd e ne) (fun m => field.trans (hz m)) (hp major field) hwf

/-- The fields of a U-set word in the UB format (R92). -/
structure UBWord (w op sa cc off : Nat) : Prop where
  uset : isLset w = false
  major : majorOf w = op
  sa : bitField w 24 18 = sa
  cc : bitField w 17 16 = cc
  off : bitField w 15 0 = off

theorem encUB_fields {op sa cc off : Nat} (hop : op < 64) (hsa : sa < 128) (hcc : cc < 4) (hoff : off < 2 ^ 16) :
    UBWord (encUB op sa cc off) op sa cc off := by
  constructor <;> simp only [isLset, majorOf, bitField, encUB, beq_eq_false_iff_ne] <;> omega

/-- A UB instruction is read back. -/
theorem reads_ub {i : Instr} {op cc : Nat} {sa : Reg} {off : BitVec 16} (he : encode i = [encUB op sa.toNat cc off.toNat])
    (hop : op ∈ [0x21, 0x22, 0x27]) (hcc : cc < 4) (hb : op = 0x22 → cc < 2)
    (hp : ∀ {w c w1}, UBWord w op sa.toNat cc off.toNat → parseU1 w c w1 = .ok i) (hwf : i.wf = true) : Reads i := by
  have all : ∀ p ∈ [0x21, 0x22, 0x27], p < 64 ∧ p ∈ plainMajors ∧ p ∉ [0x24, 0x25, 0x26, 0x2B] ∧ p ≤ 0x28 := by decide
  obtain ⟨hlt, plain, notFixed, hle⟩ := all op hop
  have fields := encUB_fields hlt sa.isLt hcc off.isLt
  refine reads_plain he (Encoding.encUB_lt hlt sa.isLt hcc off.isLt) fields.uset fields.major plain (fun e => by rw [fields.cc]; exact hb e)
    (fun m => absurd m notFixed) ?_ hwf
  rw [if_pos hle]
  exact hp fields

/-- SMOVI is read back. -/
theorem reads_smovi (sd : Reg) (imm : BitVec 18) : Reads (.smovi sd imm) := by
  have hsd := sd.isLt
  have himm := imm.isLt
  generalize hw : 2 ^ 31 + 0x10 * 2 ^ 25 + sd.toNat * 2 ^ 18 + imm.toNat = w
  have uset : isLset w = false := by simp only [isLset, bitField, beq_eq_false_iff_ne]; omega
  have major : majorOf w = 0x10 := by simp only [majorOf, bitField]; omega
  have dst : bitField w 24 18 = sd.toNat := by simp only [bitField]; omega
  have value : bitField w 17 0 = imm.toNat := by simp only [bitField]; omega
  refine reads_plain (w := w) (by rw [← hw]; rfl) (by omega) uset major (by decide) nofun (fun m => absurd m (by decide)) ?_ rfl
  simp only [parseU1, major, regField, dst, value, BitVec.ofNat_toNat, BitVec.setWidth_eq]
  rfl

/-! ### The U-set -/

theorem two_bits_mem (a b : Bool) : boolCode a * 2 + boolCode b ∈ [0, 1, 2, 3] := by cases a <;> cases b <;> decide

theorem lt_eight_of_mem {n : Nat} (h : n ∈ [0, 1, 2, 3]) : n < 8 := by simp at h; omega

theorem boolCode_lt_eight (b : Bool) : boolCode b < 8 := by cases b <;> decide

theorem sCond_mem (c : SCond) : c.code ∈ [0, 1, 2, 3, 4, 5, 6, 7] := by cases c <;> decide

theorem counter_mem (c : Counter) : c.code ∈ [0, 1, 2] := by cases c <;> decide

theorem cpyKind_mem (k : CpyKind) : k.code ∈ [0, 1, 2] := by cases k <;> decide

theorem port_mem (p : BitVec 2) : p.toNat ∈ [0, 1, 2, 3] := by have := p.isLt; simp; omega

/-- The barrier instruction of a function code (R281). -/
def barrierInstr (l : BarLevel) (id : BitVec 4) (sd sa : Reg) : Nat → Instr
  | 0 => .bar l id
  | 1 => .bara l id sd
  | 2 => .bard l id
  | _ => .barw l id sa

theorem parseU2_barrier {w c sub : Nat} {w1 : Word} {l : BarLevel} {id : BitVec 4} {sd sa : Reg} (hsub : sub < 4)
    (f : URWord w 0x30 0 sub sd.toNat sa.toNat (l.code * 2 ^ 4 + id.toNat)) : parseU2 w c w1 = .ok (barrierInstr l id sd sa sub) := by
  have hl := Encoding.barLevel_lt l
  have hid := id.isLt
  have level : (l.code * 2 ^ 4 + id.toNat) / 16 = l.code := by omega
  have number : (l.code * 2 ^ 4 + id.toNat) % 16 = id.toNat := by omega
  have function : sub % 4 = sub := Nat.mod_eq_of_lt hsub
  simp only [parseU2, f.major, f.sbHigh, f.sbLow, f.subPair, level, number, function, barLevel_ofCode_code, orBad_some, ok_bind, regField,
    f.sd, f.sa, BitVec.ofNat_toNat, BitVec.setWidth_eq]
  match sub with
  | 0 | 1 | 2 | n + 3 => rfl

/-- A barrier instruction, whose function is its `sub` and whose level and id stand in `sb` (R281), is read back. -/
theorem reads_barrier {i : Instr} {sub : Nat} {sd sa : Reg} (l : BarLevel) (id : BitVec 4)
    (he : encode i = [encUR 0x30 0 sub sd.toNat sa.toNat (l.code * 2 ^ 4 + id.toNat)]) (hsub : sub < 4)
    (hi : barrierInstr l id sd sa sub = i) (hwf : i.wf = true) : Reads i := by
  have hl := Encoding.barLevel_lt l
  have hid := id.isLt
  have listed : sub ∈ uSubs 0x30 := by
    show sub ∈ [0, 1, 2, 3]
    simp only [List.mem_cons, List.not_mem_nil, or_false]
    omega
  refine reads_ur he (by decide) listed ⟨by omega, sd.isLt, sa.isLt, by omega⟩ (fun f => ?_) hwf
  rw [if_neg (by decide), parseU2_barrier hsub f, hi]

theorem reads_scmp {c sd sa b} (h : (Instr.scmp c sd sa b).wf = true) : Reads (.scmp c sd sa b) := by
  refine reads_encS rfl (by decide) (sCond_mem c) (Encoding.sCond_lt c) (fun f hb => ?_) h
  rw [if_pos (by decide)]
  simp only [parseU1, f.major, hb, f.subAll, sCond_ofCode_code, regField, f.sd, f.sa, BitVec.ofNat_toNat, BitVec.setWidth_eq]

theorem reads_smov {w sd b} (h : (Instr.smov w sd b).wf = true) : Reads (.smov w sd b) := by
  refine reads_encS rfl (by decide) (boolCode_mem w) (boolCode_lt_eight w) (fun f hb => ?_) h
  rw [if_pos (by decide)]
  simp only [parseU1, f.major, hb, f.subLow, boolCode_mod, boolOf_boolCode, regField, f.sd, BitVec.ofNat_toNat, BitVec.setWidth_eq]

theorem reads_sclz {w sd sa} (h : (Instr.sclz w sd sa).wf = true) : Reads (.sclz w sd sa) := by
  refine reads_ur rfl (by decide) (boolCode_mem w) ⟨boolCode_lt_eight w, sd.isLt, sa.isLt, by decide⟩ (fun f => ?_) h
  rw [if_pos (by decide)]
  simp only [parseU1, f.major, f.subLow, boolCode_mod, boolOf_boolCode, regField, f.sd, f.sa, BitVec.ofNat_toNat, BitVec.setWidth_eq]

theorem reads_spopc {w sd sa} (h : (Instr.spopc w sd sa).wf = true) : Reads (.spopc w sd sa) := by
  refine reads_ur rfl (by decide) (boolCode_mem w) ⟨boolCode_lt_eight w, sd.isLt, sa.isLt, by decide⟩ (fun f => ?_) h
  rw [if_pos (by decide)]
  simp only [parseU1, f.major, f.subLow, boolCode_mod, boolOf_boolCode, regField, f.sd, f.sa, BitVec.ofNat_toNat, BitVec.setWidth_eq]

theorem reads_sbfx {sx sd sa b} (h : (Instr.sbfx sx sd sa b).wf = true) : Reads (.sbfx sx sd sa b) := by
  refine reads_encS rfl (by decide) (boolCode_mem sx) (boolCode_lt_eight sx) (fun f hb => ?_) h
  rw [if_pos (by decide)]
  simp only [parseU1, f.major, hb, f.subAll, boolOf_boolCode, regField, f.sd, f.sa, BitVec.ofNat_toNat, BitVec.setWidth_eq]

theorem reads_sfadd {sd sa b} (h : (Instr.sfadd sd sa b).wf = true) : Reads (.sfadd sd sa b) := by
  refine reads_encS rfl (by decide) (sub := 0) (by decide) (by decide) (fun f hb => ?_) h
  rw [if_pos (by decide)]
  simp only [parseU1, f.major, hb, regField, f.sd, f.sa, BitVec.ofNat_toNat, BitVec.setWidth_eq]

theorem reads_sfmul {sd sa b} (h : (Instr.sfmul sd sa b).wf = true) : Reads (.sfmul sd sa b) := by
  refine reads_encS rfl (by decide) (sub := 0) (by decide) (by decide) (fun f hb => ?_) h
  rw [if_pos (by decide)]
  simp only [parseU1, f.major, hb, regField, f.sd, f.sa, BitVec.ofNat_toNat, BitVec.setWidth_eq]

theorem reads_sfma {p sd sa b} (h : (Instr.sfma p sd sa b).wf = true) : Reads (.sfma p sd sa b) := by
  refine reads_encS rfl (by decide) (signPat_mem p) ((Encoding.signPat_lt p).trans (by decide)) (fun f hb => ?_) h
  rw [if_pos (by decide)]
  simp only [parseU1, f.major, hb, f.subAll, signPat_ofCode_code, regField, f.sd, f.sa, BitVec.ofNat_toNat, BitVec.setWidth_eq]

theorem reads_waitc {c b} (h : (Instr.waitc c b).wf = true) : Reads (.waitc c b) := by
  refine reads_encS rfl (by decide) (counter_mem c) ((Encoding.counter_lt c).trans (by decide)) (fun f hb => ?_) h
  rw [if_pos (by decide)]
  simp only [parseU1, f.major, hb, f.subAll, counter_ofCode_code, ok_bind]

theorem reads_srd {sd b} (h : (Instr.srd sd b).wf = true) : Reads (.srd sd b) := by
  refine reads_encS rfl (by decide) (sub := 0) (by decide) (by decide) (fun f hb => ?_) h
  rw [if_neg (by decide)]
  simp only [parseU2, f.major, hb, regField, f.sd, BitVec.ofNat_toNat, BitVec.setWidth_eq]

theorem reads_swr {sa b} (h : (Instr.swr sa b).wf = true) : Reads (.swr sa b) := by
  refine reads_encS rfl (by decide) (sub := 0) (by decide) (by decide) (fun f hb => ?_) h
  rw [if_neg (by decide)]
  simp only [parseU2, f.major, hb, regField, f.sa, BitVec.ofNat_toNat, BitVec.setWidth_eq]

theorem reads_krel {b} (h : (Instr.krel b).wf = true) : Reads (.krel b) := by
  refine reads_encS rfl (by decide) (sub := 0) (by decide) (by decide) (fun f hb => ?_) h
  rw [if_neg (by decide)]
  simp only [parseU2, f.major, hb]

theorem reads_clk {tb sd} (h : (Instr.clk tb sd).wf = true) : Reads (.clk tb sd) := by
  refine reads_ur rfl (by decide) (boolCode_mem tb) ⟨boolCode_lt_eight tb, sd.isLt, by decide, by decide⟩ (fun f => ?_) h
  rw [if_neg (by decide)]
  simp only [parseU2, f.major, f.subAll, boolOf_boolCode, regField, f.sd, BitVec.ofNat_toNat, BitVec.setWidth_eq]

theorem reads_regrp {first n} (h : (Instr.regrp first n).wf = true) : Reads (.regrp first n) := by
  refine reads_ur rfl (by decide) (sub := 0) (by decide) ⟨by decide, by decide, first.isLt, n.isLt⟩ (fun f => ?_) h
  rw [if_neg (by decide)]
  simp only [parseU2, f.major, regField, f.sa, f.sbAll, BitVec.ofNat_toNat, BitVec.setWidth_eq]

theorem reads_fsend {p} (h : (Instr.fsend p).wf = true) : Reads (.fsend p) := by
  refine reads_ur rfl (by decide) (port_mem p) ⟨lt_eight_of_mem (port_mem p), by decide, by decide, by decide⟩ (fun f => ?_) h
  rw [if_neg (by decide)]
  simp only [parseU2, f.major, f.subPair, Nat.mod_eq_of_lt p.isLt, BitVec.ofNat_toNat, BitVec.setWidth_eq]

theorem reads_publ {sa} (h : (Instr.publ sa).wf = true) : Reads (.publ sa) := by
  refine reads_ur rfl (by decide) (sub := 0) (by decide) ⟨by decide, by decide, sa.isLt, by decide⟩ (fun f => ?_) h
  rw [if_neg (by decide)]
  simp only [parseU2, f.major, regField, f.sa, BitVec.ofNat_toNat, BitVec.setWidth_eq]

theorem reads_mrdv {sa} (h : (Instr.mrdv sa).wf = true) : Reads (.mrdv sa) := by
  refine reads_ur rfl (by decide) (sub := 0) (by decide) ⟨by decide, by decide, sa.isLt, by decide⟩ (fun f => ?_) h
  rw [if_neg (by decide)]
  simp only [parseU2, f.major, regField, f.sa, BitVec.ofNat_toNat, BitVec.setWidth_eq]

theorem reads_cpy {k sh tr r c sd sa sb} (h : (Instr.cpy k sh tr r c sd sa sb).wf = true) : Reads (.cpy k sh tr r c sd sa sb) := by
  have b0 := Encoding.boolCode_lt sh
  have b1 := Encoding.cpyTr_lt tr
  have b2 := r.isLt
  have b3 := c.isLt
  generalize hcw : boolCode sh * 2 ^ 31 + tr.code * 2 ^ 29 + r.toNat * 2 ^ 8 + c.toNat = cw
  have shadow : bitField cw 31 31 = boolCode sh := by simp only [bitField]; omega
  have tile : bitField cw 30 29 = tr.code := by simp only [bitField]; omega
  have rows : bitField cw 15 8 = r.toNat := by simp only [bitField]; omega
  have cols : bitField cw 7 0 = c.toNat := by simp only [bitField]; omega
  refine reads_urc (cw := cw) (by rw [← hcw]; rfl) (by omega) (by decide) (by decide) (cpyKind_mem k) ⟨(Encoding.cpyKind_lt k).trans (by decide), sd.isLt, sa.isLt, sb.isLt⟩ (fun f => ?_) h
  rw [if_neg (by decide)]
  simp only [parseU2, f.major, f.subAll, cpyKind_ofCode_code, shadow, tile, rows, cols, cpyTr_ofCode_code, orBad_some, ok_bind, boolOf_boolCode, regField, f.sd, f.sa, f.sbAll, BitVec.ofNat_toNat, BitVec.setWidth_eq]

theorem reads_mqput {core q len sd sa} (h : (Instr.mqput core q len sd sa).wf = true) : Reads (.mqput core q len sd sa) := by
  have b0 := core.isLt
  have b1 := q.isLt
  have b2 := len.isLt
  generalize hcw : core.toNat * 2 ^ 24 + q.toNat * 2 ^ 16 + len.toNat = cw
  have coord : bitField cw 31 24 = core.toNat := by simp only [bitField]; omega
  have queue : bitField cw 19 16 = q.toNat := by simp only [bitField]; omega
  have length : bitField cw 4 0 = len.toNat := by simp only [bitField]; omega
  refine reads_urc (cw := cw) (by rw [← hcw]; rfl) (by omega) (by decide) (by decide) (sub := 0) (by decide) ⟨by decide, sd.isLt, sa.isLt, by decide⟩ (fun f => ?_) h
  rw [if_neg (by decide)]
  simp only [parseU2, f.major, coord, queue, length, regField, f.sd, f.sa, BitVec.ofNat_toNat, BitVec.setWidth_eq]

theorem reads_mqget {q len sd} (h : (Instr.mqget q len sd).wf = true) : Reads (.mqget q len sd) := by
  have b0 := q.isLt
  have b1 := len.isLt
  generalize hcw : q.toNat * 2 ^ 16 + len.toNat = cw
  have queue : bitField cw 19 16 = q.toNat := by simp only [bitField]; omega
  have length : bitField cw 4 0 = len.toNat := by simp only [bitField]; omega
  refine reads_urc (cw := cw) (by rw [← hcw]; rfl) (by omega) (by decide) (by decide) (sub := 0) (by decide) ⟨by decide, sd.isLt, by decide, by decide⟩ (fun f => ?_) h
  rw [if_neg (by decide)]
  simp only [parseU2, f.major, queue, length, regField, f.sd, BitVec.ofNat_toNat, BitVec.setWidth_eq]

theorem reads_mqfree {core q sa} (h : (Instr.mqfree core q sa).wf = true) : Reads (.mqfree core q sa) := by
  have b0 := core.isLt
  have b1 := q.isLt
  generalize hcw : core.toNat * 2 ^ 24 + q.toNat * 2 ^ 16 = cw
  have coord : bitField cw 31 24 = core.toNat := by simp only [bitField]; omega
  have queue : bitField cw 19 16 = q.toNat := by simp only [bitField]; omega
  refine reads_urc (cw := cw) (by rw [← hcw]; rfl) (by omega) (by decide) (by decide) (sub := 0) (by decide) ⟨by decide, by decide, sa.isLt, by decide⟩ (fun f => ?_) h
  rw [if_neg (by decide)]
  simp only [parseU2, f.major, coord, queue, regField, f.sa, BitVec.ofNat_toNat, BitVec.setWidth_eq]

theorem reads_mfork {n off sd sa} (h : (Instr.mfork n off sd sa).wf = true) : Reads (.mfork n off sd sa) := by
  have b0 := n.isLt
  have b1 := off.isLt
  generalize hcw : n.toNat * 2 ^ 28 + off.toNat = cw
  have count : bitField cw 31 28 = n.toNat := by simp only [bitField]; omega
  have offset : bitField cw 24 0 = off.toNat := by simp only [bitField]; omega
  refine reads_urc (cw := cw) (by rw [← hcw]; rfl) (by omega) (by decide) (by decide) (sub := 0) (by decide) ⟨by decide, sd.isLt, sa.isLt, by decide⟩ (fun f => ?_) h
  rw [if_neg (by decide)]
  simp only [parseU2, f.major, count, offset, regField, f.sd, f.sa, BitVec.ofNat_toNat, BitVec.setWidth_eq]

theorem reads_tsub {nb spm sd sa} (h : (Instr.tsub nb spm sd sa).wf = true) : Reads (.tsub nb spm sd sa) := by
  have b0 := Encoding.boolCode_lt nb
  have b1 := Encoding.boolCode_lt spm
  generalize hcw : boolCode nb * 2 + boolCode spm = cw
  have nonblocking : bitField cw 1 1 = boolCode nb := by simp only [bitField]; omega
  have scratch : bitField cw 0 0 = boolCode spm := by simp only [bitField]; omega
  refine reads_urc (cw := cw) (by rw [← hcw]; rfl) (by omega) (by decide) (by decide) (sub := 0) (by decide) ⟨by decide, sd.isLt, sa.isLt, by decide⟩ (fun f => ?_) h
  rw [if_neg (by decide)]
  simp only [parseU2, f.major, nonblocking, scratch, boolOf_boolCode, regField, f.sd, f.sa, BitVec.ofNat_toNat, BitVec.setWidth_eq]

theorem reads_temit {nb succ sd va} (h : (Instr.temit nb succ sd va).wf = true) : Reads (.temit nb succ sd va) := by
  have b0 := Encoding.boolCode_lt nb
  have b1 := succ.isLt
  generalize hcw : boolCode nb * 2 ^ 31 + succ.toNat = cw
  have nonblocking : bitField cw 31 31 = boolCode nb := by simp only [bitField]; omega
  have successor : bitField cw 2 0 = succ.toNat := by simp only [bitField]; omega
  refine reads_urc (cw := cw) (by rw [← hcw]; rfl) (by omega) (by decide) (by decide) (sub := 0) (by decide) ⟨by decide, sd.isLt, va.isLt, by decide⟩ (fun f => ?_) h
  rw [if_neg (by decide)]
  simp only [parseU2, f.major, nonblocking, successor, boolOf_boolCode, regField, f.sd, f.sa, BitVec.ofNat_toNat, BitVec.setWidth_eq]

theorem reads_spawn {off sd sa} (h : (Instr.spawn off sd sa).wf = true) : Reads (.spawn off sd sa) := by
  have b0 := off.isLt
  generalize hcw : off.toNat = cw
  have offset : bitField cw 24 0 = off.toNat := by simp only [bitField]; omega
  refine reads_urc (cw := cw) (by rw [← hcw]; rfl) (by omega) (by decide) (by decide) (sub := 0) (by decide) ⟨by decide, sd.isLt, sa.isLt, by decide⟩ (fun f => ?_) h
  rw [if_neg (by decide)]
  simp only [parseU2, f.major, offset, regField, f.sd, f.sa, BitVec.ofNat_toNat, BitVec.setWidth_eq]

theorem reads_cnew {size life mir sd sa} (h : (Instr.cnew size life mir sd sa).wf = true) : Reads (.cnew size life mir sd sa) := by
  have b0 := size.isLt
  have b1 := Encoding.life_lt life
  have b2 := Encoding.boolCode_lt mir
  generalize hcw : size.toNat * 2 ^ 16 + life.code * 2 ^ 14 + boolCode mir * 2 ^ 13 = cw
  have bytes : bitField cw 25 16 = size.toNat := by simp only [bitField]; omega
  have class' : bitField cw 15 14 = life.code := by simp only [bitField]; omega
  have mirrored : bitField cw 13 13 = boolCode mir := by simp only [bitField]; omega
  refine reads_urc (cw := cw) (by rw [← hcw]; rfl) (by omega) (by decide) (by decide) (sub := 0) (by decide) ⟨by decide, sd.isLt, sa.isLt, by decide⟩ (fun f => ?_) h
  rw [if_neg (by decide)]
  simp only [parseU2, f.major, f.subAll, bytes, class', mirrored, life_ofCode_code, orBad_some, ok_bind, boolOf_boolCode, regField, f.sd, f.sa, BitVec.ofNat_toNat, BitVec.setWidth_eq]

theorem reads_copen {nomove sd sa} (h : (Instr.copen nomove sd sa).wf = true) : Reads (.copen nomove sd sa) := by
  have b0 := Encoding.boolCode_lt nomove
  generalize hcw : boolCode nomove = cw
  have flag : bitField cw 0 0 = boolCode nomove := by simp only [bitField]; omega
  refine reads_urc (cw := cw) (by rw [← hcw]; rfl) (by omega) (by decide) (by decide) (sub := 1) (by decide) ⟨by decide, sd.isLt, sa.isLt, by decide⟩ (fun f => ?_) h
  rw [if_neg (by decide)]
  simp only [parseU2, f.major, f.subAll, flag, boolOf_boolCode, regField, f.sd, f.sa, BitVec.ofNat_toNat, BitVec.setWidth_eq]

theorem reads_cdrop {free sd sa} (h : (Instr.cdrop free sd sa).wf = true) : Reads (.cdrop free sd sa) := by
  have b0 := Encoding.boolCode_lt free
  generalize hcw : boolCode free = cw
  have flag : bitField cw 0 0 = boolCode free := by simp only [bitField]; omega
  refine reads_urc (cw := cw) (by rw [← hcw]; rfl) (by omega) (by decide) (by decide) (sub := 3) (by decide) ⟨by decide, sd.isLt, sa.isLt, by decide⟩ (fun f => ?_) h
  rw [if_neg (by decide)]
  simp only [parseU2, f.major, f.subAll, flag, boolOf_boolCode, regField, f.sd, f.sa, BitVec.ofNat_toNat, BitVec.setWidth_eq]

theorem reads_cinfo {sync sd sa} (h : (Instr.cinfo sync sd sa).wf = true) : Reads (.cinfo sync sd sa) := by
  have b0 := Encoding.boolCode_lt sync
  generalize hcw : boolCode sync = cw
  have flag : bitField cw 0 0 = boolCode sync := by simp only [bitField]; omega
  refine reads_urc (cw := cw) (by rw [← hcw]; rfl) (by omega) (by decide) (by decide) (sub := 4) (by decide) ⟨by decide, sd.isLt, sa.isLt, by decide⟩ (fun f => ?_) h
  rw [if_neg (by decide)]
  simp only [parseU2, f.major, f.subAll, flag, boolOf_boolCode, regField, f.sd, f.sa, BitVec.ofNat_toNat, BitVec.setWidth_eq]

theorem reads_chand {k sd sa} (h : (Instr.chand k sd sa).wf = true) : Reads (.chand k sd sa) := by
  cases k with
  | succ i =>
    have b := i.isLt
    generalize hcw : i.toNat = cw
    have kind : bitField cw 23 22 = 0 := by simp only [bitField]; omega
    have successor : bitField cw 2 0 = i.toNat := by simp only [bitField]; omega
    refine reads_urc (cw := cw) (by rw [← hcw]; rfl) (by omega) (by decide) (by decide) (sub := 2) (by decide) ⟨by decide, sd.isLt, sa.isLt, by decide⟩ (fun f => ?_) h
    rw [if_neg (by decide)]
    simp only [parseU2, f.major, f.subAll, kind, successor, regField, f.sd, f.sa, BitVec.ofNat_toNat, BitVec.setWidth_eq]
  | task sb =>
    refine reads_urc (cw := 2 ^ 22) rfl (by decide) (by decide) (by decide) (sub := 2) (by decide) ⟨by decide, sd.isLt, sa.isLt, sb.isLt⟩ (fun f => ?_) h
    have kind : bitField (2 ^ 22) 23 22 = 1 := by decide
    rw [if_neg (by decide)]
    simp only [parseU2, f.major, f.subAll, kind, f.sbAll, regField, f.sd, f.sa, BitVec.ofNat_toNat, BitVec.setWidth_eq]
  | core c =>
    have b := c.isLt
    generalize hcw : c.toNat * 2 ^ 24 + 2 * 2 ^ 22 = cw
    have kind : bitField cw 23 22 = 2 := by simp only [bitField]; omega
    have coord : bitField cw 31 24 = c.toNat := by simp only [bitField]; omega
    refine reads_urc (cw := cw) (by rw [← hcw]; rfl) (by omega) (by decide) (by decide) (sub := 2) (by decide) ⟨by decide, sd.isLt, sa.isLt, by decide⟩ (fun f => ?_) h
    rw [if_neg (by decide)]
    simp only [parseU2, f.major, f.subAll, kind, coord, regField, f.sd, f.sa, BitVec.ofNat_toNat, BitVec.setWidth_eq]

theorem reads_mres {fmt sp ts sd sa} (h : (Instr.mres fmt sp ts sd sa).wf = true) : Reads (.mres fmt sp ts sd sa) := by
  have b0 := Encoding.wFmt_lt fmt
  have b1 := Encoding.boolCode_lt sp
  have b2 := Encoding.boolCode_lt ts
  generalize hcw : fmt.code * 2 ^ 30 + boolCode sp * 2 ^ 29 + boolCode ts * 2 ^ 28 = cw
  have format : bitField cw 31 30 = fmt.code := by simp only [bitField]; omega
  have sparse : bitField cw 29 29 = boolCode sp := by simp only [bitField]; omega
  have scaled : bitField cw 28 28 = boolCode ts := by simp only [bitField]; omega
  refine reads_urc (cw := cw) (by rw [← hcw]; rfl) (by omega) (by decide) (by decide) (sub := 0) (by decide) ⟨by decide, sd.isLt, sa.isLt, by decide⟩ (fun f => ?_) h
  rw [if_neg (by decide)]
  simp only [parseU2, f.major, f.subAll, format, sparse, scaled, wFmt_ofCode_code, orBad_some, ok_bind, boolOf_boolCode, regField, f.sd, f.sa, BitVec.ofNat_toNat, BitVec.setWidth_eq]

theorem reads_mwld {len sa sb} (h : (Instr.mwld len sa sb).wf = true) : Reads (.mwld len sa sb) := by
  have b0 := len.isLt
  generalize hcw : len.toNat = cw
  have length : bitField cw 23 0 = len.toNat := by simp only [bitField]; omega
  refine reads_urc (cw := cw) (by rw [← hcw]; rfl) (by omega) (by decide) (by decide) (sub := 1) (by decide) ⟨by decide, by decide, sa.isLt, sb.isLt⟩ (fun f => ?_) h
  rw [if_neg (by decide)]
  simp only [parseU2, f.major, f.subAll, length, regField, f.sa, f.sbAll, BitVec.ofNat_toNat, BitVec.setWidth_eq]

theorem reads_mldw {blk sa} (h : (Instr.mldw blk sa).wf = true) : Reads (.mldw blk sa) := by
  have b0 := blk.isLt
  generalize hcw : blk.toNat = cw
  have block : bitField cw 11 0 = blk.toNat := by simp only [bitField]; omega
  refine reads_urc (cw := cw) (by rw [← hcw]; rfl) (by omega) (by decide) (by decide) (sub := 2) (by decide) ⟨by decide, by decide, sa.isLt, by decide⟩ (fun f => ?_) h
  rw [if_neg (by decide)]
  simp only [parseU2, f.major, f.subAll, block, regField, f.sa, BitVec.ofNat_toNat, BitVec.setWidth_eq]

theorem reads_mma {m a sa sb} (h : (Instr.mma m a sa sb).wf = true) : Reads (.mma m a sa sb) := by
  have b0 := m.isLt
  have b1 := a.isLt
  generalize hcw : m.toNat * 2 ^ 22 + a.toNat * 2 ^ 12 + 0 = cw
  have rows : bitField cw 31 22 = m.toNat := by simp only [bitField]; omega
  have first : bitField cw 21 12 = a.toNat := by simp only [bitField]; omega
  refine reads_urc (cw := cw) (by rw [← hcw]; rfl) (by omega) (by decide) (by decide) (sub := 3) (by decide) ⟨by decide, by decide, sa.isLt, sb.isLt⟩ (fun f => ?_) h
  rw [if_neg (by decide)]
  simp only [parseU2, f.major, f.subAll, rows, first, regField, f.sa, f.sbAll, BitVec.ofNat_toNat, BitVec.setWidth_eq]

theorem reads_mdist {m a sd sa sb} (h : (Instr.mdist m a sd sa sb).wf = true) : Reads (.mdist m a sd sa sb) := by
  have b0 := m.isLt
  have b1 := a.isLt
  generalize hcw : m.toNat * 2 ^ 22 + a.toNat * 2 ^ 12 + 0 = cw
  have rows : bitField cw 31 22 = m.toNat := by simp only [bitField]; omega
  have first : bitField cw 21 12 = a.toNat := by simp only [bitField]; omega
  refine reads_urc (cw := cw) (by rw [← hcw]; rfl) (by omega) (by decide) (by decide) (sub := 4) (by decide) ⟨by decide, sd.isLt, sa.isLt, sb.isLt⟩ (fun f => ?_) h
  rw [if_neg (by decide)]
  simp only [parseU2, f.major, f.subAll, rows, first, regField, f.sd, f.sa, f.sbAll, BitVec.ofNat_toNat, BitVec.setWidth_eq]

theorem reads_mtopk {m a k mn sa sb} (h : (Instr.mtopk m a k mn sa sb).wf = true) : Reads (.mtopk m a k mn sa sb) := by
  have b0 := m.isLt
  have b1 := a.isLt
  have b2 := k.isLt
  have b3 := Encoding.boolCode_lt mn
  generalize hcw : m.toNat * 2 ^ 22 + a.toNat * 2 ^ 12 + (k.toNat * 2 ^ 8 + boolCode mn * 2 ^ 7) = cw
  have rows : bitField cw 31 22 = m.toNat := by simp only [bitField]; omega
  have first : bitField cw 21 12 = a.toNat := by simp only [bitField]; omega
  have entries : bitField cw 11 8 = k.toNat := by simp only [bitField]; omega
  have least : bitField cw 7 7 = boolCode mn := by simp only [bitField]; omega
  refine reads_urc (cw := cw) (by rw [← hcw]; rfl) (by omega) (by decide) (by decide) (sub := 5) (by decide) ⟨by decide, by decide, sa.isLt, sb.isLt⟩ (fun f => ?_) h
  rw [if_neg (by decide)]
  simp only [parseU2, f.major, f.subAll, rows, first, entries, least, boolOf_boolCode, regField, f.sa, f.sbAll, BitVec.ofNat_toNat, BitVec.setWidth_eq]

theorem reads_mdrn {m a fmt sh dst sa sb} (h : (Instr.mdrn m a fmt sh dst sa sb).wf = true) : Reads (.mdrn m a fmt sh dst sa sb) := by
  have b0 := m.isLt
  have b1 := a.isLt
  have b2 := Encoding.dFmt_lt fmt
  have b3 := Encoding.boolCode_lt sh
  have b4 := Encoding.boolCode_lt dst
  generalize hcw : m.toNat * 2 ^ 22 + a.toNat * 2 ^ 12 + (fmt.code * 2 ^ 10 + boolCode sh * 2 ^ 9 + boolCode dst * 2 ^ 8) = cw
  have rows : bitField cw 31 22 = m.toNat := by simp only [bitField]; omega
  have first : bitField cw 21 12 = a.toNat := by simp only [bitField]; omega
  have format : bitField cw 11 10 = fmt.code := by simp only [bitField]; omega
  have shadow : bitField cw 9 9 = boolCode sh := by simp only [bitField]; omega
  have global : bitField cw 8 8 = boolCode dst := by simp only [bitField]; omega
  refine reads_urc (cw := cw) (by rw [← hcw]; rfl) (by omega) (by decide) (by decide) (sub := 6) (by decide) ⟨by decide, by decide, sa.isLt, sb.isLt⟩ (fun f => ?_) h
  rw [if_neg (by decide)]
  simp only [parseU2, f.major, f.subAll, rows, first, format, shadow, global, dFmt_ofCode_code, orBad_some, ok_bind, boolOf_boolCode, regField, f.sa, f.sbAll, BitVec.ofNat_toNat, BitVec.setWidth_eq]

theorem reads_mzero {regs} (h : (Instr.mzero regs).wf = true) : Reads (.mzero regs) := by
  have b0 := regs.isLt
  generalize hcw : regs.toNat = cw
  have regions : bitField cw 15 0 = regs.toNat := by simp only [bitField]; omega
  refine reads_urc (cw := cw) (by rw [← hcw]; rfl) (by omega) (by decide) (by decide) (sub := 7) (by decide) ⟨by decide, by decide, by decide, by decide⟩ (fun f => ?_) h
  rw [if_neg (by decide)]
  simp only [parseU2, f.major, f.subAll, regions, BitVec.ofNat_toNat, BitVec.setWidth_eq]

/-- Every well-formed U-set instruction is read back: by the format of its first word, and its control word where it has one. -/
theorem reads_scalar (i : Instr) (hv : Machine.isVector i = false) (he : encode i ≠ []) (h : i.wf = true) : Reads i := by
  cases i with
  | sadd o =>
    exact reads_sop (mk := .sadd) rfl (by decide) (boolCode_mem o.w64) (boolCode_lt_eight _) (boolCode_mod _) (fun m _ => by simp only [parseU1, m]) (by decide) h
  | ssub o =>
    exact reads_sop (mk := .ssub) rfl (by decide) (boolCode_mem o.w64) (boolCode_lt_eight _) (boolCode_mod _) (fun m _ => by simp only [parseU1, m]) (by decide) h
  | smul o =>
    exact reads_sop (mk := .smul) rfl (by decide) (boolCode_mem o.w64) (boolCode_lt_eight _) (boolCode_mod _) (fun m _ => by simp only [parseU1, m]) (by decide) h
  | sand o =>
    exact reads_sop (mk := .sand) rfl (by decide) (boolCode_mem o.w64) (boolCode_lt_eight _) (boolCode_mod _) (fun m _ => by simp only [parseU1, m]) (by decide) h
  | sor o =>
    exact reads_sop (mk := .sor) rfl (by decide) (boolCode_mem o.w64) (boolCode_lt_eight _) (boolCode_mod _) (fun m _ => by simp only [parseU1, m]) (by decide) h
  | sxor o =>
    exact reads_sop (mk := .sxor) rfl (by decide) (boolCode_mem o.w64) (boolCode_lt_eight _) (boolCode_mod _) (fun m _ => by simp only [parseU1, m]) (by decide) h
  | sshl o =>
    exact reads_sop (mk := .sshl) rfl (by decide) (boolCode_mem o.w64) (boolCode_lt_eight _) (boolCode_mod _) (fun m _ => by simp only [parseU1, m]) (by decide) h
  | sshr o =>
    exact reads_sop (mk := .sshr) rfl (by decide) (boolCode_mem o.w64) (boolCode_lt_eight _) (boolCode_mod _) (fun m _ => by simp only [parseU1, m]) (by decide) h
  | ssar o =>
    exact reads_sop (mk := .ssar) rfl (by decide) (boolCode_mem o.w64) (boolCode_lt_eight _) (boolCode_mod _) (fun m _ => by simp only [parseU1, m]) (by decide) h
  | ssel o =>
    exact reads_sop (mk := .ssel) rfl (by decide) (boolCode_mem o.w64) (boolCode_lt_eight _) (boolCode_mod _) (fun m _ => by simp only [parseU1, m]) (by decide) h
  | smulh n o =>
    exact reads_sop (mk := .smulh n) rfl (by decide) (two_bits_mem n o.w64) (lt_eight_of_mem (two_bits_mem _ _)) (two_bits_low _ _)
      (fun m b => by simp only [parseU1, m, b, two_bits_high, boolOf_boolCode]) (by decide) h
  | smin n o =>
    exact reads_sop (mk := .smin n) rfl (by decide) (two_bits_mem n o.w64) (lt_eight_of_mem (two_bits_mem _ _)) (two_bits_low _ _)
      (fun m b => by simp only [parseU1, m, b, two_bits_high, boolOf_boolCode]) (by decide) h
  | smax n o =>
    exact reads_sop (mk := .smax n) rfl (by decide) (two_bits_mem n o.w64) (lt_eight_of_mem (two_bits_mem _ _)) (two_bits_low _ _)
      (fun m b => by simp only [parseU1, m, b, two_bits_high, boolOf_boolCode]) (by decide) h
  | scmp c sd sa b => exact reads_scmp h
  | smov w sd b => exact reads_smov h
  | smovi sd imm => exact reads_smovi sd imm
  | sclz w sd sa => exact reads_sclz h
  | spopc w sd sa => exact reads_spopc h
  | sbfx sx sd sa b => exact reads_sbfx h
  | sfadd sd sa b => exact reads_sfadd h
  | sfmul sd sa b => exact reads_sfmul h
  | sfma p sd sa b => exact reads_sfma h
  | sld o => exact reads_um rfl (by decide) (by decide) nofun (fun m o => by simp only [parseU1, m, o, map_ok]) h
  | sst o => exact reads_um rfl (by decide) (by decide) nofun (fun m o => by simp only [parseU1, m, o, map_ok]) h
  | slds o => exact reads_um rfl (by decide) (by decide) nofun (fun m o => by simp only [parseU1, m, o, map_ok]) h
  | ssts o => exact reads_um rfl (by decide) (by decide) nofun (fun m o => by simp only [parseU1, m, o, map_ok]) h
  | slr o => exact reads_um rfl (by decide) (by decide) nofun (fun m o => by simp only [parseU1, m, o, map_ok]) h
  | ssc o => exact reads_um rfl (by decide) (by decide) nofun (fun m o => by simp only [parseU1, m, o, map_ok]) h
  | satom o c => exact reads_satom h
  | fence ord sc =>
    have ordered : ord ≠ .none := bne_iff_ne.1 h
    exact reads_um rfl (by decide) (by decide) (fun _ => ordered) (fun m o => by simp only [parseU1, m, o, map_ok]) h
  | bra off => exact reads_uj rfl (by decide) (by decide) off.isLt (fun m => absurd m (by decide)) (fun m c => by rw [if_pos (by decide)]; simp only [parseU1, m, c, BitVec.ofNat_toNat, BitVec.setWidth_eq]) h
  | call off => exact reads_uj rfl (by decide) (by decide) off.isLt (fun m => absurd m (by decide)) (fun m c => by rw [if_pos (by decide)]; simp only [parseU1, m, c, BitVec.ofNat_toNat, BitVec.setWidth_eq]) h
  | bkpt code => exact reads_uj rfl (by decide) (by decide) code.isLt (fun m => absurd m (by decide)) (fun m c => by rw [if_neg (by decide)]; simp only [parseU2, m, c, BitVec.ofNat_toNat, BitVec.setWidth_eq]) h
  | trap code => exact reads_uj rfl (by decide) (by decide) code.isLt (fun m => absurd m (by decide)) (fun m c => by rw [if_neg (by decide)]; simp only [parseU2, m, c, BitVec.ofNat_toNat, BitVec.setWidth_eq]) h
  | ret => exact reads_uj rfl (by decide) (by decide) (by decide) (fun _ => rfl) (fun m _ => by rw [if_pos (by decide)]; simp only [parseU1, m]) h
  | exit => exact reads_uj rfl (by decide) (by decide) (by decide) (fun _ => rfl) (fun m _ => by rw [if_pos (by decide)]; simp only [parseU1, m]) h
  | nop => exact reads_uj rfl (by decide) (by decide) (by decide) (fun _ => rfl) (fun m _ => by rw [if_pos (by decide)]; simp only [parseU1, m]) h
  | tret => exact reads_uj rfl (by decide) (by decide) (by decide) (fun _ => rfl) (fun m _ => by rw [if_neg (by decide)]; simp only [parseU2, m]) h
  | bcc c sa off => exact reads_ub rfl (by decide) (Encoding.bccCond_lt c) nofun (fun f => by simp only [parseU1, bccCond_ofCode_code, f.major, f.cc, regField, f.sa, f.off, BitVec.ofNat_toNat, BitVec.setWidth_eq]) h
  | bdiv clr sa off =>
    exact reads_ub rfl (by decide) ((Encoding.boolCode_lt clr).trans (by decide)) (fun _ => Encoding.boolCode_lt clr)
      (fun f => by simp only [parseU1, boolOf_boolCode, f.major, f.cc, regField, f.sa, f.off, BitVec.ofNat_toNat, BitVec.setWidth_eq]) h
  | yield c sa off => exact reads_ub rfl (by decide) (Encoding.yieldCode_lt c) nofun (fun f => by simp only [parseU1, counter_ofCode_yieldCode, f.major, f.cc, regField, f.sa, f.off, BitVec.ofNat_toNat, BitVec.setWidth_eq]) h
  | waitc c b => exact reads_waitc h
  | srd sd b => exact reads_srd h
  | swr sa b => exact reads_swr h
  | krel b => exact reads_krel h
  | clk tb sd => exact reads_clk h
  | regrp first n => exact reads_regrp h
  | bar l i => exact reads_barrier (sd := 0) (sa := 0) l i rfl (by decide) rfl h
  | bara l i sd => exact reads_barrier (sd := sd) (sa := 0) l i rfl (by decide) rfl h
  | bard l i => exact reads_barrier (sd := 0) (sa := 0) l i rfl (by decide) rfl h
  | barw l i sa => exact reads_barrier (sd := 0) (sa := sa) l i rfl (by decide) rfl h
  | fsend p => exact reads_fsend h
  | publ sa => exact reads_publ h
  | mrdv sa => exact reads_mrdv h
  | cpy k sh tr r c sd sa sb => exact reads_cpy h
  | mqput core q len sd sa => exact reads_mqput h
  | mqget q len sd => exact reads_mqget h
  | mqfree core q sa => exact reads_mqfree h
  | mfork n off sd sa => exact reads_mfork h
  | tsub nb spm sd sa => exact reads_tsub h
  | temit nb succ sd va => exact reads_temit h
  | spawn off sd sa => exact reads_spawn h
  | cnew size life mir sd sa => exact reads_cnew h
  | copen nomove sd sa => exact reads_copen h
  | cdrop free sd sa => exact reads_cdrop h
  | cinfo sync sd sa => exact reads_cinfo h
  | chand k sd sa => exact reads_chand h
  | mres fmt sp ts sd sa => exact reads_mres h
  | mwld len sa sb => exact reads_mwld h
  | mldw blk sa => exact reads_mldw h
  | mma m a sa sb => exact reads_mma h
  | mdist m a sd sa sb => exact reads_mdist h
  | mtopk m a k mn sa sb => exact reads_mtopk h
  | mdrn m a fmt sh dst sa sb => exact reads_mdrn h
  | mzero regs => exact reads_mzero h
  | _ => first | exact absurd rfl he | cases hv

/-! ### The statements -/

/-- Settles O54: the words of each L-set format pass the first check and hold the fields that the parser reads. -/
theorem vectorRoundTrip : Obligations.VectorRoundTrip := fun i rest hv hwf => reads_vector i hv hwf rest

/-- Settles O55: the words of each U-set format pass the first check and hold the fields that the parser reads. -/
theorem scalarRoundTrip : Obligations.ScalarRoundTrip := fun i rest hv he hwf => reads_scalar i hv he hwf rest

end Sys2Proof.Laws.RoundTrip
end

section
/-! SUPPORT. The canonical form of the memories (log entry 54) through the shared operations of the machine. -/

namespace Sys2Proof.Machine

theorem State.inv_iff {s : State} :
    s.Inv ↔ s.mem.wf = true ∧ s.scratch.wf = true ∧ s.wbuf.wf = true ∧ s.wdup.wf = true ∧ s.acc.wf = true := by
  simp only [State.Inv, Memory.wf, Bool.and_eq_true, and_assoc]

@[simp] theorem inv_mk : State.Inv ⟨now, fresh, nextId, agenda, cur, mem, bad, lineCore, written, issued, pipe, trace, resets, scratch, wbuf, wdup, acc, rows, pkgs, vfs, cores, quads, queues, launches, blocks, tasks, groups, barriers, fwds, cairns, copies, msgs, pubs, wbacks, wins, flights, rops, pods, syslog, host⟩ ↔
    mem.wf = true ∧ scratch.wf = true ∧ wbuf.wf = true ∧ wdup.wf = true ∧ acc.wf = true := State.inv_iff

/-- The memories of one machine, taken together again. -/
@[simp] theorem State.wfs_iff {s : State} :
    (s.mem.wf = true ∧ s.scratch.wf = true ∧ s.wbuf.wf = true ∧ s.wdup.wf = true ∧ s.acc.wf = true) ↔ s.Inv := State.inv_iff.symm

@[simp] theorem State.Inv.mem_wf {s : State} (h : s.Inv) : s.mem.wf = true := (State.inv_iff.1 h).1

@[simp] theorem State.Inv.scratch_wf {s : State} (h : s.Inv) : s.scratch.wf = true := (State.inv_iff.1 h).2.1

@[simp] theorem State.Inv.wbuf_wf {s : State} (h : s.Inv) : s.wbuf.wf = true := (State.inv_iff.1 h).2.2.1

@[simp] theorem State.Inv.wdup_wf {s : State} (h : s.Inv) : s.wdup.wf = true := (State.inv_iff.1 h).2.2.2.1

@[simp] theorem State.Inv.acc_wf {s : State} (h : s.Inv) : s.acc.wf = true := (State.inv_iff.1 h).2.2.2.2

@[simp] theorem State.inv_ite {c : Prop} [Decidable c] {s t : State} : (if c then s else t).Inv ↔ if c then s.Inv else t.Inv := by
  split <;> rfl

/-- Only the memories matter. -/
theorem State.Inv.of_same {s t : State} (h : s.Inv) (mem : t.mem = s.mem := by rfl) (scratch : t.scratch = s.scratch := by rfl)
    (wbuf : t.wbuf = s.wbuf := by rfl) (wdup : t.wdup = s.wdup := by rfl) (acc : t.acc = s.acc := by rfl) : t.Inv := by
  rw [State.inv_iff, mem, scratch, wbuf, wdup, acc, ← State.inv_iff]
  exact h

/-- Bytes stored, some of them undefined at once (R140). -/
theorem Mem.wf_store {m : Mem} {a n : Nat} {bs : List Byte} {ks : List Nat} (h : m.wf = true) : ((m.putAll a bs).undefAll n ks).wf = true :=
  Mem.wf_undefAll n ks (Mem.wf_putAll bs h)

/-- A fold keeps the canonical form where each of its steps does. -/
theorem State.foldl_inv_iff {α : Type} {f : State → α → State} (hf : ∀ t x, (f t x).Inv ↔ t.Inv) :
    ∀ (l : List α) {s : State}, (l.foldl f s).Inv ↔ s.Inv
  | [], _ => .rfl
  | x :: l, _ => (State.foldl_inv_iff hf l).trans (hf _ x)

/-- A fold keeps the canonical form where each of its steps does. -/
theorem State.Inv.foldl {α : Type} {f : State → α → State} (hf : ∀ t x, t.Inv → (f t x).Inv) :
    ∀ (l : List α) {s : State}, s.Inv → (l.foldl f s).Inv
  | [], _, h => h
  | x :: l, _, h => State.Inv.foldl hf l (hf _ x h)

/-- Every state that an act leaves is in canonical form. -/
def Act.Inv : Act → Prop
  | .done s | .goto s _ | .away s | .wait _ _ s | .hold _ s => s.Inv
  | .trap .. | .trapAfter .. | .stop _ => True

@[simp] theorem Act.inv_done {s : State} : (Act.done s).Inv ↔ s.Inv := .rfl

@[simp] theorem Act.inv_goto {s : State} {pc : Word} : (Act.goto s pc).Inv ↔ s.Inv := .rfl

@[simp] theorem Act.inv_away {s : State} : (Act.away s).Inv ↔ s.Inv := .rfl

@[simp] theorem Act.inv_wait {s : State} {w : Wait} {pc : Word} : (Act.wait w pc s).Inv ↔ s.Inv := .rfl

@[simp] theorem Act.inv_hold {s : State} {w : Again} : (Act.hold w s).Inv ↔ s.Inv := .rfl

@[simp] theorem Act.inv_trap {cause lane : Nat} {a : DWord} {w : Word} : (Act.trap cause lane a w).Inv := trivial

@[simp] theorem Act.inv_trapAfter {cause : Nat} {w : Word} : (Act.trapAfter cause w).Inv := trivial

@[simp] theorem Act.inv_stop {f : Fault} : (Act.stop f).Inv := trivial

@[simp] theorem Act.inv_trapAct {cause : Nat} : (trapAct cause).Inv := trivial

@[simp] theorem Act.inv_accessAct {e : AccessErr} {lane : Nat} {a : DWord} : (accessAct e lane a).Inv := by cases e <;> trivial

@[simp] theorem Act.inv_ite {c : Prop} [Decidable c] {a b : Act} : (if c then a else b).Inv ↔ if c then a.Inv else b.Inv := by
  split <;> rfl

theorem Act.Inv.ite {c : Prop} [Decidable c] {a b : Act} (ha : a.Inv) (hb : b.Inv) : (if c then a else b).Inv := by
  split
  · exact ha
  · exact hb

/-- The next state of an outcome, where it has one, is in canonical form. -/
def Keeps (o : Host.Outcome State Fault Refusal) : Prop := ∀ t, o = .next t → t.Inv

@[simp] theorem keeps_next {t : State} : Keeps (.next t) ↔ t.Inv := ⟨fun h => h t rfl, fun h _ e => Host.Outcome.next.inj e ▸ h⟩

@[simp] theorem keeps_fault {f : Fault} : Keeps (.fault f) := nofun

@[simp] theorem keeps_refused {r : Refusal} : Keeps (.refused r) := nofun

@[simp] theorem keeps_ite {c : Prop} [Decidable c] {a b : Host.Outcome State Fault Refusal} :
    Keeps (if c then a else b) ↔ if c then Keeps a else Keeps b := by
  split <;> rfl

end Sys2Proof.Machine
end

section
/-! SUPPORT. Access, operands and links keep the memories canonical. -/

namespace Sys2Proof.Machine

@[simp] theorem State.setGroup_inv {s : State} {gid : Nat} {g : Group} : (State.setGroup s gid g).Inv ↔ s.Inv := by
  exact .rfl

@[simp] theorem State.modGroup_inv {s : State} {gid : Nat} {f : Group → Group} : (State.modGroup s gid f).Inv ↔ s.Inv := by
  exact .rfl

@[simp] theorem State.setPkg_inv {s : State} {p : Nat} {x : Pkg} : (State.setPkg s p x).Inv ↔ s.Inv := by
  exact .rfl

@[simp] theorem State.setVf_inv {s : State} {v : Nat} {x : Vf} : (State.setVf s v x).Inv ↔ s.Inv := by
  exact .rfl

@[simp] theorem State.setCore_inv {s : State} {c : Nat} {x : Core} : (State.setCore s c x).Inv ↔ s.Inv := by
  exact .rfl

@[simp] theorem State.setQuad_inv {s : State} {q : Nat} {x : Quad} : (State.setQuad s q x).Inv ↔ s.Inv := by
  exact .rfl

@[simp] theorem State.setQueue_inv {s : State} {k : Nat} {x : MQueue} : (State.setQueue s k x).Inv ↔ s.Inv := by
  exact .rfl

@[simp] theorem State.demote_inv {s : State} {v : Nat} {sc : Scope} : (State.demote s v sc).Inv ↔ s.Inv := by
  simp [State.demote]

@[simp] theorem State.tlbFill_inv {s : State} {core v va : Nat} : (State.tlbFill s core v va).Inv ↔ s.Inv := by
  unfold State.tlbFill
  (repeat' split) <;> simp [*]

@[simp] theorem State.clearLines_inv {s : State} {a n : Nat} : (State.clearLines s a n).Inv ↔ s.Inv := by
  exact .rfl

@[simp] theorem State.noteKeys_inv {s : State} {keys : List Nat} : (State.noteKeys s keys).Inv ↔ s.Inv := by
  unfold State.noteKeys
  (repeat' split) <;> simp [*]

@[simp] theorem State.storeMem_inv {s : State} {key : Nat} {bs : List Byte} (h : s.Inv) : (s.storeMem key bs).Inv := by
  unfold State.storeMem
  split <;> simp [h, Mem.wf_store]

@[simp] theorem State.storeScratch_inv {s : State} {key : Nat} {bs : List Byte} (h : s.Inv) : (s.storeScratch key bs).Inv := by
  simp [State.storeScratch, h, Mem.wf_store]

@[simp] theorem State.undefMem_inv {s : State} {key n : Nat} (h : s.Inv) : (s.undefMem key n).Inv := by
  have ready : ((s.noteKeys [key, key + n - 1]).clearLines key n).Inv := by simp [h]
  unfold State.undefMem
  split <;> simp [Mem.wf_undefine, h, ready]

@[simp] theorem State.undefScratch_inv {s : State} {key n : Nat} (h : s.Inv) : (s.undefScratch key n).Inv := by
  simp [State.undefScratch, Mem.wf_undefine, h]

@[simp] theorem State.zeroScratch_inv {s : State} {key n : Nat} (h : s.Inv) : (s.zeroScratch key n).Inv := by
  simp [State.zeroScratch, Mem.wf_zero, h]

@[simp] theorem State.writeScratch_inv {s : State} {key size v : Nat} (h : s.Inv) : (s.writeScratch key size v).Inv := by
  have stored : (s.storeScratch key (leBytes size v)).Inv := State.storeScratch_inv h
  unfold State.writeScratch
  split <;> simp [Mem.wf_undefAll, stored]

@[simp] theorem Ctx.setS_inv {c : Ctx} {n : Nat} {x : Word} {s : State} : (Ctx.setS c n x s).Inv ↔ s.Inv := by
  unfold Ctx.setS
  (repeat' split) <;> simp [*]

@[simp] theorem Ctx.setPair_inv {c : Ctx} {n : Nat} {x : DWord} {s : State} : (Ctx.setPair c n x s).Inv ↔ s.Inv := by
  simp [Ctx.setPair]

@[simp] theorem Ctx.setWords_inv {c : Ctx} (ws : List Word) : ∀ {n : Nat} {s : State}, (c.setWords n ws s).Inv ↔ s.Inv := by
  induction ws with
  | nil => exact .rfl
  | cons w ws ih => intro n s; rw [Ctx.setWords, ih, Ctx.setS_inv]

@[simp] theorem State.fly_inv {s : State} {f : Flight} : (State.fly s f).Inv ↔ s.Inv := by
  exact .rfl

@[simp] theorem State.resend_inv {s : State} {id : Nat} {w : Win} {port : Nat} {x : Nat × Nat × Nat × Body} : (s.resend id w port x).Inv ↔ s.Inv := .rfl

@[simp] theorem State.replayWin_inv {id : Nat} (n : Nat) : ∀ {s : State}, (s.replayWin id n).Inv ↔ s.Inv := by
  induction n with
  | zero => exact .rfl
  | succ n ih => intro s; unfold State.replayWin; (repeat' split) <;> simp [ih]

@[simp] theorem State.pump_inv {id : Nat} (n : Nat) : ∀ {s : State}, (s.pump id n).Inv ↔ s.Inv := by
  induction n with
  | zero => exact .rfl
  | succ n ih => intro s; unfold State.pump; (repeat' split) <;> simp [ih]

@[simp] theorem State.send_inv {s : State} {t : Triple} {b : Body} : (State.send s t b).Inv ↔ s.Inv := by
  unfold State.send
  (repeat' split) <;> simp [*]

@[simp] theorem State.sendLoose_inv {s : State} {from' to' : Nat} {t : Triple} {b : Body} : (State.sendLoose s from' to' t b).Inv ↔ s.Inv := by
  unfold State.sendLoose
  (repeat' split) <;> simp [*]

@[simp] theorem State.sendOp_inv {s : State} {gid k : Nat} {g : Group} {l : RLane} : (State.sendOp s gid k g l).Inv ↔ s.Inv := by
  simp [State.sendOp]

@[simp] theorem State.sendLanes_inv {gid : Nat} {g : Group} (ls : List RLane) : ∀ {r : RInstr} {s : State}, (s.sendLanes gid g r ls).1.Inv ↔ s.Inv := by
  induction ls with
  | nil => exact .rfl
  | cons l ls ih => intro r s; unfold State.sendLanes; split <;> simp [ih]

end Sys2Proof.Machine
end

section
/-! SUPPORT. The group operations keep the memories canonical. -/

namespace Sys2Proof.Machine

@[simp] theorem State.setBarrier_inv {s : State} {k : BarKey} {b : Barrier} : (State.setBarrier s k b).Inv ↔ s.Inv := by
  simp [State.setBarrier]

@[simp] theorem State.barStep_inv {s : State} {k : BarKey} {gid v : Nat} {drop : Bool} : (State.barStep s k gid v drop).Inv ↔ s.Inv := by
  unfold State.barStep
  (repeat' split) <;> simp [*]

@[simp] theorem State.dropLate_inv {s : State} {k : BarKey} {gid v : Nat} : (State.dropLate s k gid v).Inv ↔ s.Inv := by
  exact .rfl

@[simp] theorem State.dropAll_inv {s : State} {gid : Nat} {g : Group} : (s.dropAll gid g).Inv ↔ s.Inv :=
  State.foldl_inv_iff (fun t x => by (repeat' split) <;> simp) _

@[simp] theorem State.notLate_inv {s : State} {k : BarKey} {d : Nat × Nat} : (State.notLate s k d).Inv ↔ s.Inv := by
  exact .rfl

@[simp] theorem State.settleLate_inv {s : State} : s.settleLate.Inv ↔ s.Inv :=
  State.foldl_inv_iff (fun _ _ => State.foldl_inv_iff (fun _ _ => by simp) _) _

@[simp] theorem State.fwdSend_inv {s : State} {g : Group} {target p : Nat} {v : PortVal} : (State.fwdSend s g target p v).Inv ↔ s.Inv := by
  unfold State.fwdSend
  (repeat' split) <;> simp [*]

@[simp] theorem State.sendRest_inv {s : State} {g : Group} {poison : Bool} : (s.sendRest g poison).Inv ↔ s.Inv :=
  State.foldl_inv_iff (fun _ _ => by split <;> simp) _

@[simp] theorem State.setCairn_inv {s : State} {k : Cairn} : (State.setCairn s k).Inv ↔ s.Inv := by
  exact .rfl

@[simp] theorem State.delCairn_inv {s : State} {k : Cairn} : (State.delCairn s k).Inv ↔ s.Inv := by
  exact .rfl

theorem State.beginMove_inv_iff {s t : State} {k : Cairn} {core : Nat} {opener : Option (Nat × Nat)} {restore : Bool}
    (h : s.beginMove k core opener restore = some t) : t.Inv ↔ s.Inv := by
  obtain ⟨off, -, rfl⟩ := Option.map_eq_some_iff.1 h
  exact .rfl

@[simp] theorem State.afterClose_inv {s : State} {k : Cairn} : (s.afterClose k).Inv ↔ s.Inv := by
  unfold State.afterClose
  dsimp only
  split
  · simp
  split
  · simp
  split
  · next c _ =>
    split
    · simp
    · cases h : (s.setCairn k).beginMove k c none false with
      | none => simp
      | some t => simpa using State.beginMove_inv_iff h
  · simp

@[simp] theorem State.writeBack_inv {s : State} {k : Cairn} {w : Option (Nat × Nat × Nat × Word)} {close : Option Bool} {leaver : Option Leaver} :
    (s.writeBack k w close leaver).Inv ↔ s.Inv := .rfl

@[simp] theorem State.leaveCairn_inv {s : State} {k : Cairn} {l : Leaver} : (s.leaveCairn k l).Inv ↔ s.Inv := by
  unfold State.leaveCairn
  (repeat' split) <;> simp

@[simp] theorem State.closeOpens_inv {s : State} {gid : Nat} : (s.closeOpens gid).Inv ↔ s.Inv :=
  State.foldl_inv_iff (fun _ _ => by simp) _

@[simp] theorem State.closeTask_inv {s : State} {uid : Nat} : (s.closeTask uid).Inv ↔ s.Inv :=
  State.foldl_inv_iff (fun _ _ => by dsimp only; (repeat' split) <;> simp) _

@[simp] theorem State.settleTasks_inv {s : State} : s.settleTasks.Inv ↔ s.Inv :=
  State.foldl_inv_iff (fun _ _ => by split <;> simp) _

@[simp] theorem State.leaveBlock_inv {s : State} {gid : Nat} {g : Group} : (State.leaveBlock s gid g).Inv ↔ s.Inv := by
  unfold State.leaveBlock
  (repeat' split) <;> simp [*]

@[simp] theorem State.retire_inv {s : State} {gid : Nat} {poison : Bool} : (State.retire s gid poison).Inv ↔ s.Inv := by
  unfold State.retire
  (repeat' split) <;> simp [*]

@[simp] theorem State.kill_inv {s : State} {gid cause : Nat} {pc : Word} : (s.kill gid cause pc).Inv ↔ s.Inv := by
  unfold State.kill
  split
  · rfl
  split
  · rfl
  dsimp only
  refine (State.foldl_inv_iff (fun _ _ => State.retire_inv) _).trans ?_
  (repeat' split) <;> simp

end Sys2Proof.Machine
end

section
/-! SUPPORT. The engine state operations keep the memories canonical. -/

namespace Sys2Proof.Machine

@[simp] theorem State.setAcc_inv {s : State} {row : Nat} {ws : List Word} (h : s.Inv) : (s.setAcc row ws).Inv := by
  simp [State.setAcc, Mem.wf_putAll, h]

@[simp] theorem State.wbufUndefine_inv {s : State} {v q off n : Nat} (h : s.Inv) : (s.wbufUndefine v q off n).Inv := by
  unfold State.wbufUndefine
  refine State.Inv.foldl (fun t j ht => ?_) _ (by simp [h])
  dsimp only
  split <;> simp [Mem.wf_undefine, ht]

@[simp] theorem State.wbufWrite_inv {v q : Nat} (bs : List Byte) : ∀ {off : Nat} {s : State}, s.Inv → (s.wbufWrite v q off bs).Inv := by
  induction bs with
  | nil => exact fun h => h
  | cons b bs ih =>
    intro off s h
    unfold State.wbufWrite
    split
    · exact ih (by simp [Mem.wf_put, h])
    · exact h

@[simp] theorem State.rowsUndefine_inv {s : State} {v q first n : Nat} (h : s.Inv) : (s.rowsUndefine v q first n).Inv := by
  unfold State.rowsUndefine
  refine State.Inv.foldl (fun t j ht => ?_) _ (by simp [h])
  split <;> simp [Mem.wf_undefine, ht]

@[simp] theorem State.zeroRegions_inv {s : State} {v q regs : Nat} (h : s.Inv) : (s.zeroRegions v q regs).Inv := by
  unfold State.zeroRegions
  refine State.Inv.foldl (fun t j ht => ?_) _ h
  (repeat' split) <;> simp [Mem.wf_zero, ht]

@[simp] theorem State.modProg_inv {s : State} {q : Nat} {f : Prog → Prog} : (State.modProg s q f).Inv ↔ s.Inv := by
  exact .rfl

@[simp] theorem State.settleLoads_inv {s : State} {q : Nat} (h : s.Inv) : (s.settleLoads q).Inv := by
  unfold State.settleLoads
  split
  · exact h
  · refine State.modProg_inv.2 (State.Inv.foldl (fun t x ht => State.Inv.foldl (fun t i ht => ?_) _ ht) _ h)
    exact State.wbufUndefine_inv ht

@[simp] theorem State.settleOps_inv {q : Nat} (n : Nat) : ∀ {s : State}, s.Inv → (s.settleOps q n).Inv := by
  induction n with
  | zero => exact fun h => h
  | succ n ih =>
    intro s h
    unfold State.settleOps
    split
    · exact h
    dsimp only
    split
    · exact h
    · refine ih (State.modProg_inv.2 ?_)
      split <;> simp [h]

@[simp] theorem State.dropOp_inv {s : State} {q id : Nat} (h : s.Inv) : (State.dropOp s q id).Inv := by
  simp [State.dropOp, h]

@[simp] theorem State.abandon_inv {s : State} {q : Nat} {p : Prog} {o : EngOp} (h : s.Inv) : (s.abandon q p o).Inv := by
  unfold State.abandon
  split
  · exact State.wbufUndefine_inv h
  · exact State.rowsUndefine_inv h
  · exact State.rowsUndefine_inv h
  · exact State.Inv.foldl (fun t r ht => State.rowsUndefine_inv ht) _ h
  · exact h

@[simp] theorem State.killOp_inv {s : State} {q id cause : Nat} (h : s.Inv) : (s.killOp q id cause).Inv := by
  unfold State.killOp
  split
  · exact h
  split
  · exact h
  · exact State.settleOps_inv _ (State.modProg_inv.2 (State.Inv.foldl (fun t x ht => State.abandon_inv ht) _ h))

@[simp] theorem State.tellFate_inv {s : State} {info : TrapInfo} : (State.tellFate s info).Inv ↔ s.Inv := by
  unfold State.tellFate
  (repeat' split) <;> simp [*]

@[simp] theorem State.fateToLaunch_inv {s : State} {f : Fate} : (State.fateToLaunch s f).Inv ↔ s.Inv := by
  simp [State.fateToLaunch]

@[simp] theorem State.pushFate_inv {s : State} {q : Nat} {f : Fate} : (s.pushFate q f).Inv ↔ s.Inv := by
  unfold State.pushFate
  refine (State.foldl_inv_iff (fun _ _ => State.fateToLaunch_inv) _).trans ?_
  simp

@[simp] theorem State.endProg_inv {s : State} {q : Nat} (h : s.Inv) : (State.endProg s q).Inv := by
  unfold State.endProg
  (repeat' split) <;> simp [*]

end Sys2Proof.Machine
end

section
/-! SUPPORT. Issue, completion and traps keep the memories canonical. -/

namespace Sys2Proof.Machine

@[simp] theorem State.enterTrap_inv {s : State} {gid : Nat} {info : TrapInfo} : (State.enterTrap s gid info).Inv ↔ s.Inv := by
  unfold State.enterTrap
  (repeat' split) <;> simp [*]

@[simp] theorem State.nested_inv {s : State} {gid : Nat} {cause : Nat} {pc : Word} : (State.nested s gid cause pc).Inv ↔ s.Inv := by
  unfold State.nested
  (repeat' split) <;> simp [*]

@[simp] theorem State.raise_inv {s : State} {gid : Nat} {info : TrapInfo} {pc : Word} : (State.raise s gid info pc).Inv ↔ s.Inv := by
  unfold State.raise
  (repeat' split) <;> simp [*]

@[simp] theorem State.stepDue_inv {s : State} {gid : Nat} : (State.stepDue s gid).Inv ↔ s.Inv := by
  unfold State.stepDue
  (repeat' split) <;> simp [*]

@[simp] theorem State.finishFrom_inv {s : State} {gid k : Nat} {own pc : Word} {since : Nat} : (State.finishFrom s gid k own pc since).Inv ↔ s.Inv := by
  simp [State.finishFrom]

@[simp] theorem State.finishAt_inv {s : State} {gid k : Nat} {pc : Word} {since : Nat} : (State.finishAt s gid k pc since).Inv ↔ s.Inv := by
  unfold State.finishAt
  (repeat' split) <;> simp [*]

@[simp] theorem State.finish_inv {s : State} {gid k : Nat} {pc : Word} : (State.finish s gid k pc).Inv ↔ s.Inv := by
  simp [State.finish]

@[simp] theorem State.waitOn_inv {s : State} {gid k : Nat} {w : Wait} {cont : Word} : (State.waitOn s gid k w cont).Inv ↔ s.Inv := by
  simp [State.waitOn]

@[simp] theorem State.settleGrp_inv {s : State} {gid : Nat} : (State.settleGrp s gid).Inv ↔ s.Inv := by
  unfold State.settleGrp
  (repeat' split) <;> simp [*]

@[simp] theorem State.regrpDone_inv {s : State} {ps : List (Nat × Group)} : (s.regrpDone ps).Inv ↔ s.Inv := by
  have trapped (cause : Nat) : (ps.foldl (fun s p => match tget (firstKey p.2.splits) p.2.splits with
      | some sp => s.raise p.1 { cause := cause, split := firstKey p.2.splits, pc := sp.pc } sp.pc
      | none => s) s).Inv ↔ s.Inv := State.foldl_inv_iff (fun _ _ => by split <;> simp) _
  unfold State.regrpDone
  dsimp only
  split
  · rfl
  split
  · exact trapped causeREGRPX
  split
  · exact trapped causeTAGBUDGET
  split
  · rfl
  · refine (State.foldl_inv_iff (fun _ _ => by split <;> simp) _).trans ?_
    refine (State.foldl_inv_iff (fun _ _ => State.setGroup_inv) _).trans ?_
    exact State.foldl_inv_iff (fun _ _ => State.retire_inv) _

@[simp] theorem State.settleRegrp_inv {s : State} {block : Option Nat} {core : Nat} : (State.settleRegrp s block core).Inv ↔ s.Inv := by
  unfold State.settleRegrp
  (repeat' split) <;> simp [*]

@[simp] theorem State.retireGroup_inv {s : State} {gid : Nat} : (State.retireGroup s gid).Inv ↔ s.Inv := by
  unfold State.retireGroup
  (repeat' split) <;> simp [*]

@[simp] theorem State.killProg_inv {s : State} {q cause : Nat} {pc : Word} : (State.killProg s q cause pc).Inv ↔ s.Inv := by
  exact .rfl

@[simp] theorem Ctx.raise_inv {c : Ctx} {cause lane : Nat} {addr : DWord} {code pc : Word} {s : State} : (Ctx.raise c cause lane addr code pc s).Inv ↔ s.Inv := by
  unfold Ctx.raise
  (repeat' split) <;> simp [*]

@[simp] theorem Ctx.finish_inv {c : Ctx} {i : Instr} {pc : Word} {s : State} : (Ctx.finish c i pc s).Inv ↔ s.Inv := by
  unfold Ctx.finish
  (repeat' split) <;> simp [*]

@[simp] theorem Ctx.keep_inv {c : Ctx} {i : Instr} {w : Wait} {s : State} : (Ctx.keep c i w s).Inv ↔ s.Inv := by
  unfold Ctx.keep
  (repeat' split) <;> simp [*]

theorem Ctx.settle_keeps {c : Ctx} {i : Instr} {s : State} {a : Act} (h : s.Inv) (ha : a.Inv) : Keeps (c.settle i s a) := by
  cases a with
  | wait w cont t =>
    simp only [Ctx.settle, keeps_next]
    replace ha : t.Inv := ha
    split <;> simp [ha]
  | done t | goto t pc | hold w t => simp_all [Ctx.settle]
  | away t => exact keeps_next.2 ha
  | trap _ _ _ _ | trapAfter _ _ => simp [Ctx.settle, h]
  | stop f => exact keeps_fault

@[simp] theorem Ctx.late_inv {c : Ctx} {w : Again} {s : State} (h : s.Inv) : (Ctx.late c w s).Inv := by
  simp [Ctx.late, h]

theorem groupCheck_inv {s : State} {c : Ctx} {i : Instr} {a : Act} (h : s.Inv) (ha : groupCheck s c i = some a) : a.Inv := by
  unfold groupCheck at ha
  (repeat' split at ha) <;> simp_all <;> subst ha <;> simp [h]

theorem seqCheck_inv {s : State} {c : Ctx} {p : Prog} {i : Instr} {a : Act} (h : s.Inv) (ha : seqCheck s c p i = some a) : a.Inv := by
  unfold seqCheck at ha
  (repeat' split at ha) <;> simp_all <;> subst ha <;> simp [h]

theorem State.check_inv {s : State} {c : Ctx} {i : Instr} {a : Act} (h : s.Inv) (ha : s.check c i = some a) : a.Inv := by
  unfold State.check at ha
  split at ha
  · split at ha
    · exact seqCheck_inv h ha
    · cases ha
  · exact groupCheck_inv h ha

/-- An instruction keeps the canonical form where its own meaning does. -/
theorem issue_keeps {i : Instr} {s : State} {body : Ctx → State → Act} (h : s.Inv) (hb : ∀ c, (body c s).Inv) : Keeps (issue i s body) := by
  unfold issue
  split
  · exact keeps_refused
  · next c _ =>
    refine Ctx.settle_keeps h ?_
    cases e : s.check c i with
    | none => exact hb c
    | some a => exact State.check_inv h e

@[simp] theorem Ctx.jump_inv {c : Ctx} {words : Int} {s : State} (h : s.Inv) : (Ctx.jump c words s).Inv := by
  simp [Ctx.jump, h]

@[simp] theorem Ctx.putV_inv {c : Ctx} {regs : List (Nat × VReg)} {s : State} : (Ctx.putV c regs s).Inv ↔ s.Inv := by
  unfold Ctx.putV
  (repeat' split) <;> simp [*]

@[simp] theorem Ctx.writeV_inv {c : Ctx} {regs : List (Nat × VReg)} {s : State} (h : s.Inv) : (Ctx.writeV c regs s).Inv := by
  simp [Ctx.writeV, h]

@[simp] theorem Ctx.setTriple_inv {c : Ctx} {n : Nat} {m : Mask} {s : State} : (Ctx.setTriple c n m s).Inv ↔ s.Inv := by
  simp [Ctx.setTriple]

end Sys2Proof.Machine
end

section
/-! SUPPORT. Fetch, scalar and vector instructions keep the memories canonical. -/

namespace Sys2Proof.Machine

@[simp] theorem State.cacheWord_inv {s : State} {seq : Bool} {core slot : Nat} {w : Word} : (State.cacheWord s seq core slot w).Inv ↔ s.Inv := by
  simp [State.cacheWord]

theorem State.fetchWord_inv {s t : State} {seq : Bool} {core v launch : Nat} {a : DWord} {w : Word} (h : s.Inv)
    (e : s.fetchWord seq core v launch a = .ok (w, t)) : t.Inv := by
  unfold State.fetchWord at e
  dsimp only at e
  (repeat' split at e) <;> simp only [Except.ok.injEq, Prod.mk.injEq, reduceCtorEq] at e <;> obtain ⟨-, rfl⟩ := e <;> simp [h]

@[simp] theorem State.fetchedBad_inv {s : State} {core v launch : Nat} {a : DWord} : (s.fetchedBad core v launch a).Inv ↔ s.Inv :=
  State.foldl_inv_iff (fun _ _ => by split <;> rfl) _

theorem State.fetchInstr_inv {s t : State} {seq : Bool} {core v launch : Nat} {a : DWord} {i : Instr} (h : s.Inv)
    (e : s.fetchInstr seq core v launch a = .ok i t) : t.Inv := by
  unfold State.fetchInstr at e
  split at e
  · cases e
  split at e
  · cases e
  · cases e
  next w s1 hw =>
  have h1 := State.fetchWord_inv h hw
  split at e
  · cases e
  split at e
  · cases e
  split at e
  · split at e
    · cases e
    split at e
    · cases e
    · cases e
    · next x s2 hx =>
      split at e <;> cases e
      exact State.fetchWord_inv h1 hx
  · split at e <;> cases e
    exact h1

@[simp] theorem vecBin_inv {o : VBin} {vdSource : Bool} {shaped : VReg → VReg → Option VReg} {f : Word → Word → Word → Word} {c : Ctx} {s : State} (h : s.Inv) : (vecBin o vdSource shaped f c s).Inv := by
  simp [vecBin, h]

@[simp] theorem vecUn_inv {o : VUn} {shaped : VReg → Option VReg} {f : Word → Word} {c : Ctx} {s : State} (h : s.Inv) : (vecUn o shaped f c s).Inv := by
  simp [vecUn, h]

@[simp] theorem execVadd_keeps {t : ElemTy} {o : VBin} {s : State} (h : s.Inv) : Keeps (execVadd t o s) := by
  refine issue_keeps h fun c => ?_
  simp [h]

@[simp] theorem execVsub_keeps {t : ElemTy} {o : VBin} {s : State} (h : s.Inv) : Keeps (execVsub t o s) := by
  refine issue_keeps h fun c => ?_
  simp [h]

@[simp] theorem execVmul_keeps {t : ElemTy} {o : VBin} {s : State} (h : s.Inv) : Keeps (execVmul t o s) := by
  refine issue_keeps h fun c => ?_
  simp [h]

@[simp] theorem execVmulh_keeps {natural : Bool} {o : VBin} {s : State} (h : s.Inv) : Keeps (execVmulh natural o s) := by
  refine issue_keeps h fun c => ?_
  simp [h]

@[simp] theorem execVmad_keeps {t : ElemTy} {o : VBin} {s : State} (h : s.Inv) : Keeps (execVmad t o s) := by
  refine issue_keeps h fun c => ?_
  simp [h]

@[simp] theorem execVmin_keeps {t : ElemTy} {nat : Bool} {o : VBin} {s : State} (h : s.Inv) : Keeps (execVmin t nat o s) := by
  refine issue_keeps h fun c => ?_
  simp [h]

@[simp] theorem execVmax_keeps {t : ElemTy} {nat : Bool} {o : VBin} {s : State} (h : s.Inv) : Keeps (execVmax t nat o s) := by
  refine issue_keeps h fun c => ?_
  simp [h]

@[simp] theorem execVabs_keeps {t : ElemTy} {o : VUn} {s : State} (h : s.Inv) : Keeps (execVabs t o s) := by
  refine issue_keeps h fun c => ?_
  simp [h]

@[simp] theorem execVand_keeps {o : VBin} {s : State} (h : s.Inv) : Keeps (execVand o s) := by
  refine issue_keeps h fun c => ?_
  simp [h]

@[simp] theorem execVor_keeps {o : VBin} {s : State} (h : s.Inv) : Keeps (execVor o s) := by
  refine issue_keeps h fun c => ?_
  simp [h]

@[simp] theorem execVxor_keeps {o : VBin} {s : State} (h : s.Inv) : Keeps (execVxor o s) := by
  refine issue_keeps h fun c => ?_
  simp [h]

@[simp] theorem execVshl_keeps {t : ElemTy} {o : VBin} {s : State} (h : s.Inv) : Keeps (execVshl t o s) := by
  refine issue_keeps h fun c => ?_
  simp [h]

@[simp] theorem execVshr_keeps {t : ElemTy} {o : VBin} {s : State} (h : s.Inv) : Keeps (execVshr t o s) := by
  refine issue_keeps h fun c => ?_
  simp [h]

@[simp] theorem execVsar_keeps {t : ElemTy} {o : VBin} {s : State} (h : s.Inv) : Keeps (execVsar t o s) := by
  refine issue_keeps h fun c => ?_
  simp [h]

@[simp] theorem execVclz_keeps {t : ElemTy} {o : VUn} {s : State} (h : s.Inv) : Keeps (execVclz t o s) := by
  refine issue_keeps h fun c => ?_
  simp [h]

@[simp] theorem execVpopc_keeps {t : ElemTy} {o : VUn} {s : State} (h : s.Inv) : Keeps (execVpopc t o s) := by
  refine issue_keeps h fun c => ?_
  simp [h]

@[simp] theorem execVbfx_keeps {sx : Bool} {o : VBin} {s : State} (h : s.Inv) : Keeps (execVbfx sx o s) := by
  refine issue_keeps h fun c => ?_
  simp [h]

@[simp] theorem execVbfi_keeps {o : VBin} {s : State} (h : s.Inv) : Keeps (execVbfi o s) := by
  refine issue_keeps h fun c => ?_
  simp [h]

@[simp] theorem execVcmp_keeps {k : Cond} {t : ElemTy} {nat : Bool} {o : VBin} {s : State} (h : s.Inv) : Keeps (execVcmp k t nat o s) := by
  refine issue_keeps h fun c => ?_
  simp [h]

@[simp] theorem execVsel_keeps {mask : Reg} {o : VBin} {s : State} (h : s.Inv) : Keeps (execVsel mask o s) := by
  refine issue_keeps h fun c => ?_
  simp [h]

@[simp] theorem execVmov_keeps {o : VUn} {s : State} (h : s.Inv) : Keeps (execVmov o s) := by
  refine issue_keeps h fun c => ?_
  simp [h]

@[simp] theorem execVbcast_keeps {keepA keepB : Bool} {vd sa : Reg} {s : State} (h : s.Inv) : Keeps (execVbcast keepA keepB vd sa s) := by
  refine issue_keeps h fun c => ?_
  simp [h]

@[simp] theorem execVtag_keeps {f : TagFn} {o : VUn} {s : State} (h : s.Inv) : Keeps (execVtag f o s) := by
  refine issue_keeps h fun c => ?_
  (repeat' split) <;> simp [*]

@[simp] theorem floatBin_inv {o : VBin} {vdSource : Bool} {f : Word → Word → Word → Word} {c : Ctx} {s : State} (h : s.Inv) : (floatBin o vdSource f c s).Inv := by
  simp [floatBin, h]

@[simp] theorem execVfadd_keeps {o : VBin} {s : State} (h : s.Inv) : Keeps (execVfadd o s) := by
  refine issue_keeps h fun c => ?_
  simp [h]

@[simp] theorem execVfsub_keeps {o : VBin} {s : State} (h : s.Inv) : Keeps (execVfsub o s) := by
  refine issue_keeps h fun c => ?_
  simp [h]

@[simp] theorem execVfmul_keeps {o : VBin} {s : State} (h : s.Inv) : Keeps (execVfmul o s) := by
  refine issue_keeps h fun c => ?_
  simp [h]

@[simp] theorem execVfma_keeps {p : SignPat} {o : VBin} {s : State} (h : s.Inv) : Keeps (execVfma p o s) := by
  refine issue_keeps h fun c => ?_
  simp [h]

@[simp] theorem execVfmin_keeps {o : VBin} {s : State} (h : s.Inv) : Keeps (execVfmin o s) := by
  refine issue_keeps h fun c => ?_
  simp [h]

@[simp] theorem execVfmax_keeps {o : VBin} {s : State} (h : s.Inv) : Keeps (execVfmax o s) := by
  refine issue_keeps h fun c => ?_
  simp [h]

@[simp] theorem execVfcmp_keeps {k : FCond} {o : VBin} {s : State} (h : s.Inv) : Keeps (execVfcmp k o s) := by
  refine issue_keeps h fun c => ?_
  simp [h]

@[simp] theorem floatUn_inv {o : VUn} {f : Word → Word} {c : Ctx} {s : State} (h : s.Inv) : (floatUn o f c s).Inv := by
  simp [floatUn, h]

@[simp] theorem execVfrcp_keeps {o : VUn} {s : State} (h : s.Inv) : Keeps (execVfrcp o s) := by
  refine issue_keeps h fun c => ?_
  simp [h]

@[simp] theorem execVfrsq_keeps {o : VUn} {s : State} (h : s.Inv) : Keeps (execVfrsq o s) := by
  refine issue_keeps h fun c => ?_
  simp [h]

@[simp] theorem execVfex2_keeps {o : VUn} {s : State} (h : s.Inv) : Keeps (execVfex2 o s) := by
  refine issue_keeps h fun c => ?_
  simp [h]

@[simp] theorem execVflg2_keeps {o : VUn} {s : State} (h : s.Inv) : Keeps (execVflg2 o s) := by
  refine issue_keeps h fun c => ?_
  simp [h]

@[simp] theorem execVcvt_keeps {e : BitVec 2} {scl nosat : Bool} {rm : Rm} {dst src : Fmt} {o : VBin} {s : State} (h : s.Inv) : Keeps (execVcvt e scl nosat rm dst src o s) := by
  refine issue_keeps h fun c => ?_
  simp [h]

@[simp] theorem execVpack_keeps {nosat : Bool} {rm : Rm} {dst : Fmt} {o : VBin} {s : State} (h : s.Inv) : Keeps (execVpack nosat rm dst o s) := by
  refine issue_keeps h fun c => ?_
  simp [h]

@[simp] theorem execVunpk_keeps {part : BitVec 2} {src : Fmt} {o : VUn} {s : State} (h : s.Inv) : Keeps (execVunpk part src o s) := by
  refine issue_keeps h fun c => ?_
  simp [h]

@[simp] theorem scalarOp_inv {o : SOp} {f : Word → Word → Word} {f64 : DWord → DWord → DWord} {c : Ctx} {s : State} (h : s.Inv) : (scalarOp o f f64 c s).Inv := by
  simp [scalarOp, h]

@[simp] theorem execSadd_keeps {o : SOp} {s : State} (h : s.Inv) : Keeps (execSadd o s) := by
  refine issue_keeps h fun c => ?_
  simp [h]

@[simp] theorem execSsub_keeps {o : SOp} {s : State} (h : s.Inv) : Keeps (execSsub o s) := by
  refine issue_keeps h fun c => ?_
  simp [h]

@[simp] theorem execSmul_keeps {o : SOp} {s : State} (h : s.Inv) : Keeps (execSmul o s) := by
  refine issue_keeps h fun c => ?_
  simp [h]

@[simp] theorem execSmulh_keeps {natural : Bool} {o : SOp} {s : State} (h : s.Inv) : Keeps (execSmulh natural o s) := by
  refine issue_keeps h fun c => ?_
  simp [h]

@[simp] theorem execSand_keeps {o : SOp} {s : State} (h : s.Inv) : Keeps (execSand o s) := by
  refine issue_keeps h fun c => ?_
  simp [h]

@[simp] theorem execSor_keeps {o : SOp} {s : State} (h : s.Inv) : Keeps (execSor o s) := by
  refine issue_keeps h fun c => ?_
  simp [h]

@[simp] theorem execSxor_keeps {o : SOp} {s : State} (h : s.Inv) : Keeps (execSxor o s) := by
  refine issue_keeps h fun c => ?_
  simp [h]

@[simp] theorem execSshl_keeps {o : SOp} {s : State} (h : s.Inv) : Keeps (execSshl o s) := by
  refine issue_keeps h fun c => ?_
  simp [h]

@[simp] theorem execSshr_keeps {o : SOp} {s : State} (h : s.Inv) : Keeps (execSshr o s) := by
  refine issue_keeps h fun c => ?_
  simp [h]

@[simp] theorem execSsar_keeps {o : SOp} {s : State} (h : s.Inv) : Keeps (execSsar o s) := by
  refine issue_keeps h fun c => ?_
  simp [h]

@[simp] theorem execSmin_keeps {natural : Bool} {o : SOp} {s : State} (h : s.Inv) : Keeps (execSmin natural o s) := by
  refine issue_keeps h fun c => ?_
  simp [h]

@[simp] theorem execSmax_keeps {natural : Bool} {o : SOp} {s : State} (h : s.Inv) : Keeps (execSmax natural o s) := by
  refine issue_keeps h fun c => ?_
  simp [h]

@[simp] theorem execScmp_keeps {k : SCond} {sd sa : Reg} {b : SSrc} {s : State} (h : s.Inv) : Keeps (execScmp k sd sa b s) := by
  refine issue_keeps h fun c => ?_
  simp [h]

@[simp] theorem execSsel_keeps {o : SOp} {s : State} (h : s.Inv) : Keeps (execSsel o s) := by
  refine issue_keeps h fun c => ?_
  simp [h]

@[simp] theorem execSmov_keeps {w64 : Bool} {sd : Reg} {b : SSrc} {s : State} (h : s.Inv) : Keeps (execSmov w64 sd b s) := by
  refine issue_keeps h fun c => ?_
  simp [h]

@[simp] theorem execSmovi_keeps {sd : Reg} {imm : BitVec 18} {s : State} (h : s.Inv) : Keeps (execSmovi sd imm s) := by
  refine issue_keeps h fun c => ?_
  simp [h]

@[simp] theorem scalarCount_inv {w64 : Bool} {sd sa : Reg} {f : Nat → Nat → Nat} {c : Ctx} {s : State} (h : s.Inv) : (scalarCount w64 sd sa f c s).Inv := by
  simp [scalarCount, h]

@[simp] theorem execSclz_keeps {w64 : Bool} {sd sa : Reg} {s : State} (h : s.Inv) : Keeps (execSclz w64 sd sa s) := by
  refine issue_keeps h fun c => ?_
  simp [h]

@[simp] theorem execSpopc_keeps {w64 : Bool} {sd sa : Reg} {s : State} (h : s.Inv) : Keeps (execSpopc w64 sd sa s) := by
  refine issue_keeps h fun c => ?_
  simp [h]

@[simp] theorem execSbfx_keeps {sx : Bool} {sd sa : Reg} {b : SSrc} {s : State} (h : s.Inv) : Keeps (execSbfx sx sd sa b s) := by
  refine issue_keeps h fun c => ?_
  simp [h]

@[simp] theorem scalarFloat_inv {sd sa : Reg} {b : SSrc} {f : Word → Word → Word → Word} {c : Ctx} {s : State} (h : s.Inv) : (scalarFloat sd sa b f c s).Inv := by
  simp [scalarFloat, h]

@[simp] theorem execSfadd_keeps {sd sa : Reg} {b : SSrc} {s : State} (h : s.Inv) : Keeps (execSfadd sd sa b s) := by
  refine issue_keeps h fun c => ?_
  simp [h]

@[simp] theorem execSfmul_keeps {sd sa : Reg} {b : SSrc} {s : State} (h : s.Inv) : Keeps (execSfmul sd sa b s) := by
  refine issue_keeps h fun c => ?_
  simp [h]

@[simp] theorem execSfma_keeps {p : SignPat} {sd sa : Reg} {b : SSrc} {s : State} (h : s.Inv) : Keeps (execSfma p sd sa b s) := by
  refine issue_keeps h fun c => ?_
  simp [h]

end Sys2Proof.Machine
end

section
/-! SUPPORT. The memory instructions keep the memories canonical. -/

namespace Sys2Proof.Machine

theorem Act.Inv.getD {o : Option Act} {b : Act} (ho : ∀ a, o = some a → a.Inv) (hb : b.Inv) : (o.getD b).Inv := by
  cases o with
  | none => exact hb
  | some a => exact ho a rfl

theorem laneChecks_inv {s : State} {g : Group} {scratch : Bool} {size : Nat} {need : Need} {e : Act} :
    ∀ {ps : List (Nat × DWord)}, laneChecks s g scratch size need ps = .error e → e.Inv
  | p :: ps, h => by
    unfold laneChecks at h
    (repeat' split at h)
    · cases h; exact Act.inv_accessAct
    · next he => cases h; exact laneChecks_inv he
    · cases h

theorem watchAct_inv {c : Ctx} {rd wr : Bool} {size : Nat} {xs : List LaneAt} {a : Act} (h : watchAct c rd wr size xs = some a) : a.Inv := by
  unfold watchAct at h
  split at h
  · cases h
  · obtain ⟨x, -, hx⟩ := List.exists_of_findSome?_eq_some h
    obtain ⟨k, -, rfl⟩ := Option.map_eq_some_iff.1 hx
    exact Act.inv_trap

theorem uceAct_inv {c : Ctx} {s : State} {size : Nat} {scratch : Bool} {xs : List LaneAt} {a : Act} (hs : s.Inv)
    (h : uceAct c s size scratch xs = some a) : a.Inv := by
  unfold uceAct at h
  split at h
  · cases h
  · obtain ⟨x, -, rfl⟩ := Option.map_eq_some_iff.1 h
    dsimp only
    rw [Act.inv_away]
    split <;> simp [hs]

@[simp] theorem fillTlb_inv {s : State} {g : Group} {scratch : Bool} {xs : List LaneAt} : (fillTlb s g scratch xs).Inv ↔ s.Inv := by
  unfold fillTlb
  split
  · rfl
  · exact State.foldl_inv_iff (fun _ _ => State.tlbFill_inv) _

@[simp] theorem Ctx.markBusy_inv {c : Ctx} {rs : List RegRef} {s : State} : (Ctx.markBusy c rs s).Inv ↔ s.Inv := by
  unfold Ctx.markBusy
  (repeat' split) <;> simp [*]

@[simp] theorem writeAt_inv {s : State} {scratch : Bool} {size : Nat} {x : LaneAt} {v : Nat} (h : s.Inv) : (writeAt s scratch size x v).Inv := by
  simp [writeAt, h]

@[simp] theorem Ctx.remote_inv {c : Ctx} {s0 s : State} {lanes : List RLane} {vals : Table Nat} {dest : RDest} (h0 : s0.Inv) (h : s.Inv) :
    (c.remote s0 s lanes vals dest).Inv := by
  unfold Ctx.remote
  dsimp only
  (repeat' split) <;> simp [h0, h]

@[simp] theorem vecLoad_inv {scratch : Bool} {o : LmOp} {c : Ctx} {s : State} (h : s.Inv) : (vecLoad scratch o c s).Inv := by
  unfold vecLoad
  dsimp only
  split
  · next he => exact laneChecks_inv he
  · refine Act.Inv.getD (fun a ha => watchAct_inv ha) ?_
    split
    · exact Act.inv_trapAct
    · refine Act.Inv.getD (fun a ha => uceAct_inv h ha) ?_
      split <;> simp [h]

@[simp] theorem vecStore_inv {scratch : Bool} {o : LmOp} {c : Ctx} {s : State} (h : s.Inv) : (vecStore scratch o c s).Inv := by
  unfold vecStore
  dsimp only
  split
  · next he => exact laneChecks_inv he
  · refine Act.Inv.getD (fun a ha => watchAct_inv ha) ?_
    split
    · simp [h]
    · have stored (l : List LaneAt) (f : LaneAt → Nat) {t : State} (ht : t.Inv) : (l.foldl (fun t x => writeAt t scratch o.width.bytes x (f x)) t).Inv :=
        State.Inv.foldl (fun _ _ hu => writeAt_inv hu) l ht
      split <;> simp [h, stored]

@[simp] theorem execVld_keeps {o : LmOp} {s : State} (h : s.Inv) : Keeps (execVld o s) := by
  refine issue_keeps h fun c => ?_
  simp [h]

@[simp] theorem execVst_keeps {o : LmOp} {s : State} (h : s.Inv) : Keeps (execVst o s) := by
  refine issue_keeps h fun c => ?_
  simp [h]

@[simp] theorem execVlds_keeps {o : LmOp} {s : State} (h : s.Inv) : Keeps (execVlds o s) := by
  refine issue_keeps h fun c => ?_
  simp [h]

@[simp] theorem execVsts_keeps {o : LmOp} {s : State} (h : s.Inv) : Keeps (execVsts o s) := by
  refine issue_keeps h fun c => ?_
  simp [h]

theorem Ctx.order_ok {c : Ctx} {ord : Ord4} {sc : Scope} {s t : State} (h : c.order ord sc s = .ok t) : t.Inv ↔ s.Inv := by
  simp only [Ctx.order] at h
  split at h <;> cases h
  exact State.demote_inv

theorem Ctx.order_error {c : Ctx} {ord : Ord4} {sc : Scope} {s : State} {e : Act} (hs : s.Inv) (h : c.order ord sc s = .error e) : e.Inv := by
  simp only [Ctx.order] at h
  split at h <;> cases h
  exact hs

@[simp] theorem Ctx.noteRelease_inv {c : Ctx} {ord : Ord4} {sc : Scope} {wrote : Bool} {key : Nat} {s : State} : (Ctx.noteRelease c ord sc wrote key s).Inv ↔ s.Inv := by
  simp [Ctx.noteRelease]

@[simp] theorem State.countAtomic_inv {s : State} {core : Nat} {remote : Bool} : (State.countAtomic s core remote).Inv ↔ s.Inv := by
  exact .rfl

@[simp] theorem atomStep_inv {s : State} {op : Aop} {size : Nat} {x : LaneAt} {d cmp : Nat} (h : s.Inv) : (atomStep s op size x d cmp).Inv := by
  unfold atomStep
  split <;> simp [h]

@[simp] theorem atomLanes_inv {op : Aop} {size : Nat} {d cmp : Nat → Nat} :
    ∀ (xs : List LaneAt) {s : State} {vals : Table Nat}, s.Inv → (atomLanes op size d cmp xs s vals).1.Inv
  | [], _, _, h => h
  | _ :: xs, _, _, h => atomLanes_inv xs (atomStep_inv h)

@[simp] theorem Ctx.retagOnly_inv {c : Ctx} {o : VAtomOp} {s : State} (h : s.Inv) : (c.retagOnly o s).Inv := by
  unfold Ctx.retagOnly
  split <;> simp [h]

@[simp] theorem execVatom_keeps {o : VAtomOp} {s : State} (h : s.Inv) : Keeps (execVatom o s) := by
  refine issue_keeps h fun c => ?_
  dsimp only
  generalize (if o.w64 then Width.w64 else Width.w32) = width
  split
  · exact Ctx.retagOnly_inv h
  split
  · next he => exact Ctx.order_error h he
  next t ht =>
  have hT : t.Inv := (Ctx.order_ok ht).2 h
  split
  · exact Ctx.retagOnly_inv hT
  split
  · next he => exact laneChecks_inv he
  next xs _ =>
  refine Act.Inv.getD (fun a ha => watchAct_inv ha) ?_
  split
  · exact h
  split
  · exact h
  split
  · exact Act.inv_trapAct
  refine Act.Inv.getD (fun a ha => uceAct_inv h ha) ?_
  have counted {u : State} (hu : u.Inv) : (xs.foldl (fun t x => t.countAtomic c.g.core x.remote) u).Inv :=
    State.Inv.foldl (fun _ _ hv => State.countAtomic_inv.2 hv) xs hu
  have noted (l : List LaneAt) (w : LaneAt → Bool) {u : State} (hu : u.Inv) :
      (l.foldl (fun t x => c.noteRelease o.ord o.scope (w x) x.key t) u).Inv :=
    State.Inv.foldl (fun _ _ hv => Ctx.noteRelease_inv.2 hv) l hu
  have acted : ∀ {d cmp : Nat → Nat} {l : List LaneAt}, (atomLanes o.aop width.bytes d cmp l
      (xs.foldl (fun t x => t.countAtomic c.g.core x.remote) (fillTlb t c.g false xs)) []).1.Inv :=
    fun {_ _ l} => atomLanes_inv l (counted (fillTlb_inv.2 hT))
  split
  · rw [Act.inv_done]
    split
    · simp [noted, acted]
    · exact noted _ _ acted
  · exact Ctx.remote_inv h (noted _ _ acted)

theorem umOrder_ok {c : Ctx} {o : UmOp} {scratch atomic : Bool} {s t : State} (hs : s.Inv) (h : umOrder c o scratch atomic s = .ok t) : t.Inv := by
  unfold umOrder at h
  split at h
  · cases h; exact hs
  split at h
  · cases e : c.order o.ord .quad s with
    | error a => rw [e] at h; cases h
    | ok u => rw [e] at h; cases h; exact hs
  · exact (Ctx.order_ok h).2 hs

theorem umOrder_error {c : Ctx} {o : UmOp} {scratch atomic : Bool} {s : State} {a : Act} (hs : s.Inv) (h : umOrder c o scratch atomic s = .error a) :
    a.Inv := by
  unfold umOrder at h
  split at h
  · cases h
  split at h
  · cases e : c.order o.ord .quad s with
    | error b => rw [e] at h; cases h; exact Ctx.order_error hs e
    | ok u => rw [e] at h; cases h
  · exact Ctx.order_error hs h

theorem umAccess_inv {o : UmOp} {scratch atomic : Bool} {size : Nat} {need : Need} {rd wr : Bool} {f : LaneAt → State → Act} {c : Ctx} {s : State}
    (h : s.Inv) (hf : ∀ x t, t.Inv → (f x t).Inv) : (umAccess o scratch atomic size need rd wr f c s).Inv := by
  unfold umAccess
  split
  · next he => exact umOrder_error h he
  next t ht =>
  have hT := umOrder_ok h ht
  split
  · exact hT
  split
  · next he => exact laneChecks_inv he
  refine Act.Inv.getD (fun a ha => watchAct_inv ha) (Act.Inv.getD (fun a ha => ?_) ?_)
  · split at ha
    · exact uceAct_inv h ha
    · cases ha
  · split
    · split
      · exact h
      split
      · exact h
      · exact hf _ _ (fillTlb_inv.2 hT)
    · exact hT

@[simp] theorem Ctx.loadS_inv {c : Ctx} {sd : Nat} {w64 : Bool} {v : Nat} {s : State} : (Ctx.loadS c sd w64 v s).Inv ↔ s.Inv := by
  simp [Ctx.loadS]

@[simp] theorem scalLoad_inv {scratch : Bool} {o : UmOp} {c : Ctx} {s0 : State} (h : s0.Inv) : (scalLoad scratch o c s0).Inv :=
  umAccess_inv h fun x s hs => by split <;> simp [h, hs]

@[simp] theorem scalStore_inv {scratch : Bool} {o : UmOp} {c : Ctx} {s0 : State} (h : s0.Inv) : (scalStore scratch o c s0).Inv :=
  umAccess_inv h fun x s hs => by dsimp only; (repeat' split) <;> simp [h, hs]

@[simp] theorem execSld_keeps {o : UmOp} {s : State} (h : s.Inv) : Keeps (execSld o s) := by
  refine issue_keeps h fun c => ?_
  simp [h]

@[simp] theorem execSst_keeps {o : UmOp} {s : State} (h : s.Inv) : Keeps (execSst o s) := by
  refine issue_keeps h fun c => ?_
  simp [h]

@[simp] theorem execSlds_keeps {o : UmOp} {s : State} (h : s.Inv) : Keeps (execSlds o s) := by
  refine issue_keeps h fun c => ?_
  simp [h]

@[simp] theorem execSsts_keeps {o : UmOp} {s : State} (h : s.Inv) : Keeps (execSsts o s) := by
  refine issue_keeps h fun c => ?_
  simp [h]

@[simp] theorem execSatom_keeps {o : UmOp} {k : SAtomCw} {s : State} (h : s.Inv) : Keeps (execSatom o k s) :=
  issue_keeps h fun _ => umAccess_inv h fun x s hs => by dsimp only; (repeat' split) <;> simp [h, hs]

@[simp] theorem execSlr_keeps {o : UmOp} {s : State} (h : s.Inv) : Keeps (execSlr o s) :=
  issue_keeps h fun _ => umAccess_inv h fun x s hs => by (repeat' split) <;> simp [h, hs]

@[simp] theorem execSsc_keeps {o : UmOp} {s : State} (h : s.Inv) : Keeps (execSsc o s) :=
  issue_keeps h fun _ => umAccess_inv h fun x s hs => by dsimp only; (repeat' split) <;> simp [h, hs]

@[simp] theorem execFence_keeps {ord : Ord4} {sc : Scope} {s : State} (h : s.Inv) : Keeps (execFence ord sc s) := by
  refine issue_keeps h fun c => ?_
  split
  · next he => exact Ctx.order_error h he
  · next ht => exact (Ctx.order_ok ht).2 h

end Sys2Proof.Machine
end

section
/-! SUPPORT. Control keeps the memories canonical. -/

namespace Sys2Proof.Machine

@[simp] theorem execBra_keeps {off : BitVec 25} {s : State} (h : s.Inv) : Keeps (execBra off s) := by
  refine issue_keeps h fun c => ?_
  simp [h]

@[simp] theorem execBcc_keeps {k : BccCond} {sa : Reg} {off : BitVec 16} {s : State} (h : s.Inv) : Keeps (execBcc k sa off s) := by
  refine issue_keeps h fun c => ?_
  simp [h]

@[simp] theorem execBdiv_keeps {clr : Bool} {sa : Reg} {off : BitVec 16} {s : State} (h : s.Inv) : Keeps (execBdiv clr sa off s) := by
  refine issue_keeps h fun c => ?_
  dsimp only
  (repeat' split) <;> simp [*]

@[simp] theorem execCall_keeps {off : BitVec 25} {s : State} (h : s.Inv) : Keeps (execCall off s) := by
  refine issue_keeps h fun c => ?_
  simp [h]

@[simp] theorem execRet_keeps {s : State} (h : s.Inv) : Keeps (execRet s) := by
  refine issue_keeps h fun c => ?_
  simp [h]

@[simp] theorem exitGroup_inv {c : Ctx} {gid : Nat} {s : State} (h : s.Inv) : (exitGroup c gid s).Inv := by
  simp [exitGroup, h]

@[simp] theorem execExit_keeps {s : State} (h : s.Inv) : Keeps (execExit s) := by
  refine issue_keeps h fun c => ?_
  (repeat' split) <;> simp [*]

@[simp] theorem execNop_keeps {s : State} (h : s.Inv) : Keeps (execNop s) := by
  refine issue_keeps h fun c => ?_
  simp [h]

@[simp] theorem execYield_keeps {k : Option Counter} {sa : Reg} {off : BitVec 16} {s : State} (h : s.Inv) : Keeps (execYield k sa off s) := by
  refine issue_keeps h fun c => ?_
  (repeat' split) <;> simp [*]

@[simp] theorem execWaitc_keeps {k : Counter} {b : SSrc} {s : State} (h : s.Inv) : Keeps (execWaitc k b s) := by
  refine issue_keeps h fun c => ?_
  (repeat' split) <;> simp [*]

@[simp] theorem execBkpt_keeps {code : BitVec 25} {s : State} (h : s.Inv) : Keeps (execBkpt code s) := by
  refine issue_keeps h fun c => ?_
  simp

@[simp] theorem execTrap_keeps {code : BitVec 25} {s : State} (h : s.Inv) : Keeps (execTrap code s) := by
  refine issue_keeps h fun c => ?_
  simp

@[simp] theorem execTret_keeps {s : State} (h : s.Inv) : Keeps (execTret s) := by
  refine issue_keeps h fun c => ?_
  (repeat' split) <;> simp [*]

end Sys2Proof.Machine
end

section
/-! SUPPORT. System instructions keep the memories canonical. -/

namespace Sys2Proof.Machine

@[simp] theorem State.resetQueue_inv {s : State} {core q : Nat} {cfg : Word} : (State.resetQueue s core q cfg).Inv ↔ s.Inv := by
  exact .rfl

@[simp] theorem State.writeMqcfg_inv {s : State} {g : Group} {q : Nat} {v : Word} (h : s.Inv) : (State.writeMqcfg s g q v).Inv := by
  simp [State.writeMqcfg, h]

@[simp] theorem writeBarecnt_inv {s : State} {g : Group} {l i : Nat} {v : Word} (h : s.Inv) : (writeBarecnt s g l i v).Inv := by
  unfold writeBarecnt
  (repeat' split) <;> simp [*]

@[simp] theorem State.modPort_inv {s : State} {g : Group} {p : Nat} {f : PortVal → PortVal} : (State.modPort s g p f).Inv ↔ s.Inv := by
  exact .rfl

@[simp] theorem State.writePortstat_inv {s : State} {g : Group} {p : Nat} {v : Word} : (State.writePortstat s g p v).Inv ↔ s.Inv := by
  simp [State.writePortstat]

@[simp] theorem State.writePortlane_inv {s : State} {g : Group} {p n : Nat} {v : Word} : (State.writePortlane s g p n v).Inv ↔ s.Inv := by
  exact .rfl

@[simp] theorem SysReg.write_inv {s : State} {gid : Nat} {g : Group} {r : SysReg} {v : Word} (h : s.Inv) : (SysReg.write s gid g r v).Inv := by
  unfold SysReg.write
  (repeat' split) <;> simp [*]

theorem sysAccess_inv {s : State} {g : Group} {n : Nat} {f : SysReg → Act} (hf : ∀ r, (f r).Inv) : (sysAccess s g n f).Inv := by
  unfold sysAccess
  (repeat' split) <;> simp [hf]

@[simp] theorem execSrd_keeps {sd : Reg} {b : SSrc} {s : State} (h : s.Inv) : Keeps (execSrd sd b s) := by
  refine issue_keeps h fun c => ?_
  dsimp only
  split
  · exact Act.inv_trapAct
  · exact sysAccess_inv fun r => by simp [h]

@[simp] theorem execSwr_keeps {sa : Reg} {b : SSrc} {s : State} (h : s.Inv) : Keeps (execSwr sa b s) := by
  refine issue_keeps h fun c => ?_
  split
  · exact sysAccess_inv fun r => by simp [h]
  · exact Act.inv_trapAct

@[simp] theorem execClk_keeps {tb : Bool} {sd : Reg} {s : State} (h : s.Inv) : Keeps (execClk tb sd s) := by
  refine issue_keeps h fun c => ?_
  simp [h]

@[simp] theorem sysEvent_inv {n : Nat} {v : Word} {s : State} (h : s.Inv) : (sysEvent n v s).Inv := by
  unfold sysEvent
  split
  · next gid _ c _ _ =>
    have acted : (sysAccess s c.g n fun r => r.write s gid c.g v).Inv := sysAccess_inv fun r => SysReg.write_inv h
    split
    · next e => rw [e] at acted; exact acted
    · next e => rw [e] at acted; exact acted
    · simp [h]
    · exact h
  · exact h

@[simp] theorem execTkillWrite_keeps {v : Word} {s : State} (h : s.Inv) : Keeps (execTkillWrite v s) := by
  simp [execTkillWrite, h]

@[simp] theorem execBarecntWrite_keeps {level id : Nat} {v : Word} {s : State} (h : s.Inv) : Keeps (execBarecntWrite level id v s) := by
  simp [execBarecntWrite, h]

@[simp] theorem execPortstatWrite_keeps {port : Nat} {v : Word} {s : State} (h : s.Inv) : Keeps (execPortstatWrite port v s) := by
  simp [execPortstatWrite, h]

@[simp] theorem execPortlaneWrite_keeps {port lane : Nat} {v : Word} {s : State} (h : s.Inv) : Keeps (execPortlaneWrite port lane v s) := by
  simp [execPortlaneWrite, h]

@[simp] theorem execFrameWrite_keeps {w : Nat} {v : Word} {s : State} (h : s.Inv) : Keeps (execFrameWrite w v s) := by
  simp [execFrameWrite, h]

@[simp] theorem execMqcfgWrite_keeps {q : Nat} {v : Word} {s : State} (h : s.Inv) : Keeps (execMqcfgWrite q v s) := by
  simp [execMqcfgWrite, h]

@[simp] theorem execCpystatWrite_keeps {v : Word} {s : State} (h : s.Inv) : Keeps (execCpystatWrite v s) := by
  simp [execCpystatWrite, h]

@[simp] theorem execSystemRegisterWrite_keeps {n : BitVec 16} {v : Word} {s : State} (h : s.Inv) : Keeps (execSystemRegisterWrite n v s) := by
  simp [execSystemRegisterWrite, h]

end Sys2Proof.Machine
end

section
/-! SUPPORT. Placing keeps the memories canonical. -/

namespace Sys2Proof.Machine

theorem placeGroups_inv {w : Work} {bid index nlanes : Nat} (f : Nat) : ∀ {cores : List Nat} {g : Nat} {ids : List Nat} {s : State}
    {r : State × List Nat}, s.Inv → placeGroups w bid index nlanes f cores g ids s = some r → r.1.Inv := by
  induction f with
  | zero => intro _ _ _ _ _ _ e; cases e
  | succ f ih =>
    intro cores g ids s r h e
    unfold placeGroups at e
    split at e
    · cases e; exact h
    split at e
    · cases e
    split at e
    · exact ih h e
    · exact ih (by simp [h]) e

@[simp] theorem State.joinPod_inv {s : State} {w : Work} {ids : List Nat} : (State.joinPod s w ids).Inv ↔ s.Inv := by
  unfold State.joinPod
  (repeat' split) <;> simp [*]

@[simp] theorem State.unspillItem_inv {s : State} {lid item : Nat} : (State.unspillItem s lid item).Inv ↔ s.Inv := by
  exact .rfl

theorem State.placeBlock_inv {s t : State} {w : Work} {index nlanes : Nat} {cores : List Nat} (h : s.Inv)
    (e : s.placeBlock w index nlanes cores = some t) : t.Inv := by
  unfold State.placeBlock at e
  split at e
  · cases e
  dsimp only at e
  split at e
  · cases e
  next p u _ hp =>
  have hu : u.Inv := placeGroups_inv _ (by simp [h]) hp
  have placed (l : List (Nat × Nat × Nat)) : (l.foldl (fun (t : State) p => t.undefScratch (scratchKey p.1 p.2.1) p.2.2) u).Inv :=
    State.Inv.foldl (fun _ _ ht => State.undefScratch_inv ht) l hu
  split at e
  · cases e
    rw [State.joinPod_inv]
    split <;> simp [placed]
  · cases e

theorem State.placeFewest_inv {s t : State} {w : Work} {index nlanes : Nat} {choices : List (List Nat)} (h : s.Inv)
    (e : s.placeFewest w index nlanes choices = some t) : t.Inv := by
  obtain ⟨cs, -, hcs⟩ := List.exists_of_findSome?_eq_some e
  exact State.placeBlock_inv h hcs

theorem State.placeAny_inv {s t : State} {w : Work} {index nlanes : Nat} {cores : List Nat} (h : s.Inv)
    (e : s.placeAny w index nlanes cores = some t) : t.Inv := State.placeFewest_inv h e

theorem placeMany_inv {f : State → Nat → Option State} (hf : ∀ s t i, s.Inv → f s i = some t → t.Inv) (n : Nat) :
    ∀ {i : Nat} {s t : State}, s.Inv → placeMany f n i s = some t → t.Inv := by
  induction n with
  | zero => intro _ _ _ h e; cases e; exact h
  | succ n ih =>
    intro i s t h e
    unfold placeMany at e
    split at e
    · cases e
    · next hi => exact ih (hf _ _ _ h hi) e

theorem State.placeWhole_inv {s t : State} {w : Work} {f : State → Nat → Option State} (hf : ∀ s t i, s.Inv → f s i = some t → t.Inv) (h : s.Inv)
    (e : s.placeWhole w f = some t) : t.Inv := by
  unfold State.placeWhole at e
  split at e
  · cases e
  · next hm => cases e; exact (placeMany_inv hf _ h hm).of_same

theorem State.placeNear_inv {s t : State} {w : Work} {index c : Nat} {must : Bool} {cores : List Nat} (h : s.Inv)
    (e : s.placeNear w index c must cores = some t) : t.Inv := State.placeFewest_inv h e

@[simp] theorem State.loadByte_inv {s : State} {key : Nat} {b : Byte} (h : s.Inv) : (State.loadByte s key b).Inv := by
  simp [State.loadByte, h]

@[simp] theorem State.putCoords_inv {s : State} {v : Nat} {m : Image} {copy : Option Nat} {bytes : List Byte} (h : s.Inv) :
    (s.putCoords v m copy bytes).Inv := by
  unfold State.putCoords
  refine State.Inv.foldl (fun t x ht => ?_) _ h
  split <;> simp [ht]

@[simp] theorem State.setImage_inv {s : State} {v : Nat} {m : Image} : (State.setImage s v m).Inv ↔ s.Inv := by
  exact .rfl

@[simp] theorem State.copyImage_inv {s : State} {v : Nat} {m : Image} {bytes coords : List Byte} (h : s.Inv) : (s.copyImage v m bytes coords).1.Inv := by
  unfold State.copyImage
  refine State.setImage_inv.2 (State.putCoords_inv ?_)
  simp [Mem.wf_putAll, h]

@[simp] theorem State.loadImage_inv {s : State} {v : Nat} {m : Image} (h : s.Inv) : (State.loadImage s v m).1.Inv := by
  simp only [State.loadImage]
  (repeat' split) <;> simp [*]

@[simp] theorem State.reloadImage_inv {s : State} {lid v : Nat} {m : Image} {u : ImageUse} (h : s.Inv) : (State.reloadImage s lid v m u).1.Inv := by
  simp only [State.reloadImage]
  (repeat' split) <;> simp [*]

theorem State.useImages_inv {s : State} {lid : Nat} {ms : List Image} {f : State → Image → State × ImageUse} (hf : ∀ s m, s.Inv → (f s m).1.Inv)
    (h : s.Inv) : (s.useImages lid ms f).Inv := by
  have folded : ∀ (ms : List Image) (r : State × List ImageUse), r.1.Inv →
      (ms.foldl (fun (r : State × List ImageUse) m => ((f r.1 m).1, r.2 ++ [(f r.1 m).2])) r).1.Inv := by
    intro ms
    induction ms with
    | nil => exact fun _ hr => hr
    | cons m ms ih => exact fun r hr => ih _ (hf _ _ hr)
  exact (folded ms (s, []) h).of_same

@[simp] theorem State.loadImages_inv {s : State} {lid : Nat} {l : Launch} (h : s.Inv) : (s.loadImages lid l).Inv :=
  State.useImages_inv (fun _ _ ht => State.loadImage_inv ht) h

@[simp] theorem State.reloadImages_inv {s : State} {lid : Nat} {l : Launch} (h : s.Inv) : (s.reloadImages lid l).Inv :=
  State.useImages_inv (fun _ _ ht => by split <;> simp [ht]) h

@[simp] theorem State.loseCairns_inv {s : State} {core : Nat} : (State.loseCairns s core).Inv ↔ s.Inv := by
  exact .rfl

@[simp] theorem State.rehome_inv {s : State} {uid : Nat} {t : Task} (h : s.Inv) : (State.rehome s uid t).Inv := by
  simp only [State.rehome]
  (repeat' split) <;> simp [*]

@[simp] theorem State.loseCore_inv {s : State} {core : Nat} (h : s.Inv) : (s.loseCore core).Inv := by
  unfold State.loseCore
  dsimp only
  refine State.Inv.foldl (fun t x ht => ?_) _ ((State.foldl_inv_iff (fun _ _ => State.kill_inv) _).2 ?_)
  · split <;> simp [ht]
  · simp [h]

end Sys2Proof.Machine
end

section
/-! SUPPORT. Barriers, regrouping and a group's events keep the memories canonical. -/

namespace Sys2Proof.Machine

@[simp] theorem arriveJoin_inv {c : Ctx} {gid k : Nat} {w : Wait} {s : State} (h : s.Inv) : (arriveJoin c gid k w s).Inv := by
  unfold arriveJoin
  (repeat' split) <;> simp [*]

theorem barCheck_inv {c : Ctx} {s : State} {l : BarLevel} {id : Nat} {f : Nat → BarKey → Barrier → Act} (h : s.Inv)
    (hf : ∀ gid key b, (f gid key b).Inv) : (barCheck c s l id f).Inv := by
  unfold barCheck
  split
  · split
    · exact Act.inv_trapAct
    · dsimp only
      split
      · exact Act.inv_trapAct
      · exact hf _ _ _
  · exact h

@[simp] theorem execBar_keeps {l : BarLevel} {id : BitVec 4} {s : State} (h : s.Inv) : Keeps (execBar l id s) := by
  refine issue_keeps h fun c => ?_
  split
  · split <;> simp [h]
  · exact barCheck_inv h fun _ _ _ => by dsimp only; (repeat' split) <;> simp [h]

@[simp] theorem execBara_keeps {l : BarLevel} {id : BitVec 4} {sd : Reg} {s : State} (h : s.Inv) : Keeps (execBara l id sd s) :=
  issue_keeps h fun _ => barCheck_inv h fun _ _ _ => by (repeat' split) <;> simp [h]

@[simp] theorem execBard_keeps {l : BarLevel} {id : BitVec 4} {s : State} (h : s.Inv) : Keeps (execBard l id s) :=
  issue_keeps h fun _ => barCheck_inv h fun _ _ _ => by (repeat' split) <;> simp [h]

@[simp] theorem execBarw_keeps {l : BarLevel} {id : BitVec 4} {sa : Reg} {s : State} (h : s.Inv) : Keeps (execBarw l id sa s) :=
  issue_keeps h fun _ => barCheck_inv h fun _ _ _ => by (repeat' split) <;> simp [h]

@[simp] theorem execRegrp_keeps {first count : Reg} {s : State} (h : s.Inv) : Keeps (execRegrp first count s) := by
  refine issue_keeps h fun c => ?_
  (repeat' split) <;> simp [*]

@[simp] theorem execFsend_keeps {port : BitVec 2} {s : State} (h : s.Inv) : Keeps (execFsend port s) := by
  refine issue_keeps h fun c => ?_
  dsimp only
  (repeat' split) <;> simp [*]

@[simp] theorem execSpawn_keeps {off : BitVec 25} {sd sa : Reg} {s : State} (h : s.Inv) : Keeps (execSpawn off sd sa s) := by
  refine issue_keeps h fun c => ?_
  (repeat' split) <;> simp [*]

@[simp] theorem mergeSplits_inv {s : State} {gid a b : Nat} : (mergeSplits s gid a b).Inv ↔ s.Inv := by
  unfold mergeSplits
  (repeat' split) <;> simp [*]

@[simp] theorem State.rejoin_inv {s : State} {gid k : Nat} : (State.rejoin s gid k).Inv ↔ s.Inv := by
  unfold State.rejoin
  (repeat' split) <;> simp [*]

@[simp] theorem execSplitMerge_keeps {gid a b : Nat} {s : State} (h : s.Inv) : Keeps (execSplitMerge gid a b s) := by
  simp [execSplitMerge, h]

@[simp] theorem execDeferralRejoin_keeps {gid split : Nat} {s : State} (h : s.Inv) : Keeps (execDeferralRejoin gid split s) := by
  simp [execDeferralRejoin, h]

@[simp] theorem State.endWait_inv {s : State} {gid k : Nat} : (State.endWait s gid k).Inv ↔ s.Inv := by
  simp [State.endWait]

@[simp] theorem State.endWaits_inv {s : State} {was gid : Nat} : (State.endWaits s was gid).Inv ↔ s.Inv := by
  unfold State.endWaits
  (repeat' split) <;> simp [*]

@[simp] theorem execYieldTimeout_keeps {gid split : Nat} {s : State} (h : s.Inv) : Keeps (execYieldTimeout gid split s) := by
  unfold execYieldTimeout
  (repeat' split) <;> simp [*]

@[simp] theorem execPendingWriteComplete_keeps {gid : Nat} {s : State} (h : s.Inv) : Keeps (execPendingWriteComplete gid s) := by
  simp [execPendingWriteComplete, h]

@[simp] theorem execContextRelease_keeps {gid : Nat} {s : State} (h : s.Inv) : Keeps (execContextRelease gid s) := by
  unfold execContextRelease
  (repeat' split) <;> simp [*]

@[simp] theorem execForwardArrival_keeps {lid item port : Nat} {s : State} (h : s.Inv) : Keeps (execForwardArrival lid item port s) := by
  simp [execForwardArrival, h]

@[simp] theorem execTrapEntry_keeps {gid : Nat} {s : State} (h : s.Inv) : Keeps (execTrapEntry gid s) := by
  unfold execTrapEntry
  (repeat' split) <;> simp [*]

@[simp] theorem execNestedTrap_keeps {gid : Nat} {cause : Byte} {s : State} (h : s.Inv) : Keeps (execNestedTrap gid cause s) := by
  simp [execNestedTrap, h]

@[simp] theorem execPcBreakpoint_keeps {gid split : Nat} {s : State} (h : s.Inv) : Keeps (execPcBreakpoint gid split s) := by
  unfold execPcBreakpoint
  (repeat' split) <;> simp [*]

theorem shadowed_keeps {i : Instr} {o : VBin} {f : Word → Word → Word → ExactVal} {run : State → Host.Outcome State Fault Refusal} {s : State}
    (e : shadowed i = some (o, f, run)) (h : s.Inv) : Keeps (run s) := by
  unfold shadowed at e
  split at e <;> cases e
  · exact execVfadd_keeps h
  · exact execVfsub_keeps h
  · exact execVfmul_keeps h
  · exact execVfma_keeps h

@[simp] theorem execShadowRetry_keeps {gid split : Nat} {lanes : List Nat} {first second : List Word} {s : State} (h : s.Inv) :
    Keeps (execShadowRetry gid split lanes first second s) := by
  unfold execShadowRetry
  rw [keeps_next]
  split
  · exact h
  split
  · exact h
  split
  · next i s1 hi =>
    split
    · next o exact' run c hr _ =>
      dsimp only
      split
      · next t ht =>
        have hT : t.Inv := shadowed_keeps hr (by simp [State.fetchInstr_inv h hi]) t ht
        (repeat' split) <;> simp [h, hT]
      · exact h
    · exact h
  · exact h

@[simp] theorem execScrubError_keeps {dev addr : Nat} {s : State} (h : s.Inv) : Keeps (execScrubError dev addr s) := by
  simp [execScrubError, h]

@[simp] theorem execPreemption_keeps {gid : Nat} {s : State} (h : s.Inv) : Keeps (execPreemption gid s) := by
  unfold execPreemption
  (repeat' split) <;> simp [*]

@[simp] theorem State.resumeOne_inv {s : State} {gid part slot : Nat} (h : s.Inv) : ∀ t, State.resumeOne s gid part slot = some t → t.Inv := by
  simp only [State.resumeOne]
  (repeat' split) <;> simp [*]

theorem State.resumeAll_inv : ∀ (l : List (Nat × Nat × Nat)) {s t : State}, s.Inv → s.resumeAll l = some t → t.Inv
  | [], _, _, h, e => by cases e; exact h
  | (g, part, slot) :: l, s, t, h, e => by
    unfold State.resumeAll at e
    split at e
    · next hg => exact State.resumeAll_inv l (State.resumeOne_inv h _ hg) e
    · cases e

@[simp] theorem execResumption_keeps {gid : Nat} {places : List (Nat × Nat × Nat)} {s : State} (h : s.Inv) : Keeps (execResumption gid places s) := by
  unfold execResumption
  rw [keeps_next]
  split
  · exact h
  dsimp only
  split
  · cases e : s.resumeAll places with
    | none => exact h
    | some t => exact State.resumeAll_inv places h e
  · exact h

end Sys2Proof.Machine
end

section
/-! SUPPORT. Asynchronous instructions keep the memories canonical. -/

namespace Sys2Proof.Machine

@[simp] theorem State.undefByte_inv {s : State} {scratch : Bool} {key : Nat} (h : s.Inv) : (s.undefByte scratch key).Inv := by
  have cleared : (s.clearLines key 1).Inv := State.clearLines_inv.2 h
  unfold State.undefByte
  split <;> simp [Mem.wf_undefine, h, cleared]

@[simp] theorem State.undefKeys_inv {s : State} {scratch : Bool} {keys : List (Option Nat)} (h : s.Inv) : (s.undefKeys scratch keys).Inv := by
  unfold State.undefKeys
  refine State.Inv.foldl (fun t k ht => State.undefByte_inv ht) _ ?_
  dsimp only
  split <;> simp [h]

@[simp] theorem State.countCopies_inv {s : State} {gid : Nat} : (State.countCopies s gid).Inv ↔ s.Inv := by
  exact .rfl

@[simp] theorem execCpy_keeps {k : CpyKind} {sh : Bool} {tr : CpyTr} {trows tcols : Byte} {sd sa sb : Reg} {s : State} (h : s.Inv) : Keeps (execCpy k sh tr trows tcols sd sa sb s) := by
  refine issue_keeps h fun c => ?_
  dsimp only
  (repeat' split) <;> simp [*]

@[simp] theorem State.copyByte_inv {s : State} {scratch : Bool} {key : Nat} {b : Byte} (h : s.Inv) : (s.copyByte scratch key b).Inv := by
  unfold State.copyByte
  dsimp only
  split
  · simp [Mem.wf_put, h]
  · have cleared (t : State) (ht : t.Inv) : (t.clearLines key 1).Inv := State.clearLines_inv.2 ht
    simp [Mem.wf_put, h, cleared]

@[simp] theorem State.copyEnd_inv {s : State} {id : Nat} {c : Copy} (h : s.Inv) : (s.copyEnd id c).Inv := by
  unfold State.copyEnd
  refine State.Inv.foldl (fun t i ht => ?_) _ ?_
  · dsimp only
    split
    · exact ht
    split
    · exact State.undefByte_inv ht
    split
    · exact State.undefByte_inv ht
    split
    · exact State.copyByte_inv ht
    · exact State.copyByte_inv ht
  · dsimp only
    split <;> simp [h]

@[simp] theorem execCopyComplete_keeps {id : Nat} {s : State} (h : s.Inv) : Keeps (execCopyComplete id s) := by
  unfold execCopyComplete
  (repeat' split) <;> simp [*]

@[simp] theorem execPubl_keeps {sa : Reg} {s : State} (h : s.Inv) : Keeps (execPubl sa s) := by
  refine issue_keeps h fun c => ?_
  dsimp only
  (repeat' split) <;> simp [*]

@[simp] theorem State.undefRegion_inv {s : State} {v core : Nat} {base : DWord} (h : s.Inv) : (s.undefRegion v core base).Inv :=
  State.Inv.foldl (fun _ _ ht => State.undefMem_inv ht) _ h

@[simp] theorem State.swapRegion_inv {s : State} {v : Nat} {base : DWord} : (s.swapRegion v base).Inv ↔ s.Inv :=
  State.foldl_inv_iff (fun _ _ => State.setVf_inv) _

@[simp] theorem execPublSwap_keeps {id : Nat} {s : State} (h : s.Inv) : Keeps (execPublSwap id s) := by
  unfold execPublSwap
  rw [keeps_next]
  split
  · exact h
  next p _ =>
  dsimp only
  split
  · exact h
  · refine State.settleTasks_inv.2 ?_
    have swapped : (s.swapRegion p.vf p.base).Inv := State.swapRegion_inv.2 h
    have undefined (vs : List Nat) (core : Nat → Nat) : (vs.foldl (fun s v => s.undefRegion v (core v) p.base) (s.swapRegion p.vf p.base)).Inv :=
      State.Inv.foldl (fun _ _ ht => State.undefRegion_inv ht) vs swapped
    split <;> simp [swapped, undefined]

@[simp] theorem execMqput_keeps {core : Byte} {queue : BitVec 4} {len : BitVec 5} {sd sa : Reg} {s : State} (h : s.Inv) : Keeps (execMqput core queue len sd sa s) := by
  refine issue_keeps h fun c => ?_
  (repeat' split) <;> simp [*]

@[simp] theorem execMessageAppend_keeps {id : Nat} {s : State} (h : s.Inv) : Keeps (execMessageAppend id s) := by
  unfold execMessageAppend
  (repeat' split) <;> simp [*]

@[simp] theorem execMqget_keeps {queue : BitVec 4} {len : BitVec 5} {sd : Reg} {s : State} (h : s.Inv) : Keeps (execMqget queue len sd s) := by
  refine issue_keeps h fun c => ?_
  dsimp only
  (repeat' split) <;> simp [*]

@[simp] theorem execMqfree_keeps {core : Byte} {queue : BitVec 4} {sa : Reg} {s : State} (h : s.Inv) : Keeps (execMqfree core queue sa s) := by
  refine issue_keeps h fun c => ?_
  simp [h]

@[simp] theorem execMfork_keeps {narg : BitVec 4} {off : BitVec 25} {sd sa : Reg} {s : State} (h : s.Inv) : Keeps (execMfork narg off sd sa s) := by
  refine issue_keeps h fun c => ?_
  (repeat' split) <;> simp [*]

@[simp] theorem Ctx.metEnd_inv {c : Ctx} {s : State} {serial : Nat} {f : Nat × Nat × Word} (h : s.Inv) : (Ctx.metEnd c s serial f).Inv := by
  unfold Ctx.metEnd
  (repeat' split) <;> simp [*]

@[simp] theorem execMrdv_keeps {sa : Reg} {s : State} (h : s.Inv) : Keeps (execMrdv sa s) := by
  refine issue_keeps h fun c => ?_
  dsimp only
  split
  · exact Act.inv_trapAct
  split
  · exact Act.inv_trapAct
  split
  · exact Ctx.metEnd_inv h
  split
  · exact h
  split
  · exact h
  · exact Ctx.metEnd_inv h

@[simp] theorem execSequencerProgramStart_keeps {quad : Nat} {s : State} (h : s.Inv) : Keeps (execSequencerProgramStart quad s) := by
  simp only [execSequencerProgramStart]
  (repeat' split) <;> simp [*]

@[simp] theorem execSequencerProgramEnd_keeps {quad : Nat} {s : State} (h : s.Inv) : Keeps (execSequencerProgramEnd quad s) := by
  simp [execSequencerProgramEnd, h]

end Sys2Proof.Machine
end

section
/-! SUPPORT. Tasks keep the memories canonical. -/

namespace Sys2Proof.Machine

theorem packetCheck_inv {s : State} {g : Group} {spm : Bool} {a : DWord} {e : Act} (h : packetCheck s g spm a = .error e) : e.Inv := by
  unfold packetCheck at h
  dsimp only at h
  split at h
  · cases h; exact Act.inv_trap
  split at h
  · split at h
    · cases h; exact Act.inv_trap
    split at h
    · cases h; exact Act.inv_trap
    split at h <;> cases h
    exact Act.inv_trap
  split at h
  · cases h; exact Act.inv_accessAct
  split at h
  · next far =>
    obtain ⟨i, -, hi⟩ := List.exists_of_findSome?_eq_some far
    cases h
    split at hi <;> cases hi
    exact Act.inv_accessAct
  · cases h

@[simp] theorem packetBars_inv {s : State} {c : Ctx} {spm : Bool} {a : DWord} {n : Nat} (h : s.Inv) : ∀ t, packetBars s c spm a n = some t → t.Inv := by
  simp only [packetBars]
  (repeat' split) <;> simp [*]

@[simp] theorem execTsub_keeps {nb spm : Bool} {sd sa : Reg} {s : State} (h : s.Inv) : Keeps (execTsub nb spm sd sa s) := by
  refine issue_keeps h fun c => ?_
  dsimp only
  split
  · exact Act.inv_trapAct
  split
  · next he => exact packetCheck_inv he
  · refine Act.Inv.getD (fun a ha => packetBars_inv h _ ha) ?_
    (repeat' split) <;> simp [h]

@[simp] theorem execTemit_keeps {nb : Bool} {succ : BitVec 3} {sd va : Reg} {s : State} (h : s.Inv) : Keeps (execTemit nb succ sd va s) := by
  refine issue_keeps h fun c => ?_
  (repeat' split) <;> simp [*]

@[simp] theorem execKrel_keeps {b : SSrc} {s : State} (h : s.Inv) : Keeps (execKrel b s) := by
  refine issue_keeps h fun c => ?_
  (repeat' split) <;> simp [*]

@[simp] theorem State.refuseTask_inv {s : State} {v uid : Nat} {t : Task} : (State.refuseTask s v uid t).Inv ↔ s.Inv := by
  simp [State.refuseTask]

@[simp] theorem State.considerTask_inv {s : State} {v : Nat} {reserved : Option Nat} {uid : Nat} : (State.considerTask s v reserved uid).Inv ↔ s.Inv := by
  unfold State.considerTask
  (repeat' split) <;> simp [*]

@[simp] theorem execAdmissionRound_keeps {pkg : Nat} {s : State} (h : s.Inv) : Keeps (execAdmissionRound pkg s) :=
  keeps_next.2 ((State.foldl_inv_iff (fun _ _ => State.foldl_inv_iff (fun _ _ => State.considerTask_inv) _) _).2 h)

@[simp] theorem State.moveTasks_inv {s : State} {v n : Nat} {from' to' : List Nat} : (s.moveTasks v n from' to').Inv ↔ s.Inv :=
  State.foldl_inv_iff (fun _ _ => by (repeat' split) <;> rfl) _

@[simp] theorem State.balance_inv {s : State} {v t : Nat} {parts : List (List Nat)} : (s.balance v t parts).Inv ↔ s.Inv := by
  unfold State.balance
  dsimp only
  split
  · rfl
  · exact State.foldl_inv_iff (fun _ _ => by split <;> simp) _

@[simp] theorem State.cairnBalance_inv {s : State} {v core : Nat} {quad : List Nat} : (s.cairnBalance v core quad).Inv ↔ s.Inv := by
  unfold State.cairnBalance
  dsimp only
  split
  · rfl
  split
  · rfl
  split
  · rfl
  · next low _ _ =>
    refine State.foldl_inv_iff (fun t name => ?_) _
    split
    · next k _ =>
      split
      · cases e : t.beginMove k low none false with
        | none => rfl
        | some u => exact State.beginMove_inv_iff e
      · rfl
    · rfl

@[simp] theorem execQueueDepthExchange_keeps {pkg : Nat} {s : State} (h : s.Inv) : Keeps (execQueueDepthExchange pkg s) := by
  refine keeps_next.2 ((State.foldl_inv_iff (fun t v => ?_) _).2 h)
  refine (State.foldl_inv_iff (fun _ _ => State.foldl_inv_iff (fun _ _ => State.cairnBalance_inv) _) _).trans ?_
  exact (State.foldl_inv_iff (fun _ _ => State.balance_inv) _).trans State.balance_inv

end Sys2Proof.Machine
end

section
/-! SUPPORT. Cairns keep the memories canonical. -/

namespace Sys2Proof.Machine

@[simp] theorem Ctx.answer_inv {c : Ctx} {sd : Nat} {status value : Word} {s : State} (h : s.Inv) : (Ctx.answer c sd status value s).Inv := by
  simp [Ctx.answer, h]

theorem cairnRequest_inv {c : Ctx} {sd sa : Reg} {demotes : Bool} {s : State} {f : Nat → Nat → DWord → Option Cairn → State → Act} (h : s.Inv)
    (hf : ∀ gid k name entry t, t.Inv → (f gid k name entry t).Inv) : (cairnRequest c sd sa demotes s f).Inv := by
  unfold cairnRequest
  split
  · have start : (if demotes && c.held.isNone then s.demote c.g.vf .pkg else s).Inv := by split <;> simp [h]
    dsimp only
    generalize (if demotes && c.held.isNone then s.demote c.g.vf .pkg else s) = t at start ⊢
    exact Act.Inv.ite start (hf _ _ _ _ _ start)
  · exact h

@[simp] theorem execCnew_keeps {size : BitVec 10} {life : Life} {mir : Bool} {sd sa : Reg} {s : State} (h : s.Inv) :
    Keeps (execCnew size life mir sd sa s) :=
  issue_keeps h fun _ => cairnRequest_inv h fun _ _ _ _ _ ht => by dsimp only; (repeat' split) <;> simp [ht]

@[simp] theorem execCopen_keeps {nomove : Bool} {sd sa : Reg} {s : State} (h : s.Inv) : Keeps (execCopen nomove sd sa s) := by
  refine issue_keeps h fun c => cairnRequest_inv h fun gid sp name entry t ht => ?_
  have moved (k : Cairn) (restore : Bool) : (match t.beginMove k c.g.core (some (gid, sp)) restore with
      | some u => Act.wait (.move name sd.toNat) c.next u
      | none => c.answer sd.toNat cNOSPACE 0 t).Inv := by
    split
    · next u hu => exact (State.beginMove_inv_iff hu).2 ht
    · simp [ht]
  dsimp only
  split
  · simp [ht]
  split
  · simp [ht]
  split
  · simp [ht]
  split
  · simp [ht]
  split
  · exact moved _ _
  split
  · simp [ht]
  split
  · simp [ht]
  split
  · simp [ht]
  · exact moved _ _

@[simp] theorem Ctx.mirrored_inv {c : Ctx} {gid sp sd : Nat} {k : Cairn} {value : Word} {close : Option Bool} {s now : State} (h : s.Inv)
    (h_now : now.Inv) : (c.mirrored gid sp sd k value close s now).Inv := by
  unfold Ctx.mirrored
  split <;> simp [h, h_now]

@[simp] theorem State.closeOne_inv {s : State} {k : Cairn} {gid : Nat} {free : Bool} : (State.closeOne s k gid free).Inv ↔ s.Inv := by
  simp [State.closeOne]

@[simp] theorem execCdrop_keeps {free : Bool} {sd sa : Reg} {s : State} (h : s.Inv) : Keeps (execCdrop free sd sa s) :=
  issue_keeps h fun _ => cairnRequest_inv h fun _ _ _ _ _ ht => by dsimp only; (repeat' split) <;> simp [ht]

@[simp] theorem execChand_keeps {k : ChandKind} {sd sa : Reg} {s : State} (h : s.Inv) : Keeps (execChand k sd sa s) := by
  refine issue_keeps h fun c => Act.Inv.ite Act.inv_trapAct (cairnRequest_inv h fun _ _ _ _ _ ht => ?_)
  dsimp only
  (repeat' split) <;> simp [ht]

@[simp] theorem execCinfo_keeps {sync : Bool} {sd sa : Reg} {s : State} (h : s.Inv) : Keeps (execCinfo sync sd sa s) :=
  issue_keeps h fun _ => cairnRequest_inv h fun _ _ _ _ _ ht => by dsimp only; (repeat' split) <;> simp [ht]

@[simp] theorem State.answerWait_inv {s : State} {gid k sd : Nat} {status value : Word} : (State.answerWait s gid k sd status value).Inv ↔ s.Inv := by
  unfold State.answerWait
  (repeat' split) <;> simp [*]

@[simp] theorem State.followCairn_inv {s : State} {k : Cairn} : (s.followCairn k).Inv ↔ s.Inv :=
  State.foldl_inv_iff (fun _ _ => by dsimp only; (repeat' split) <;> rfl) _

@[simp] theorem execCairnMoveComplete_keeps {vf : Nat} {name : DWord} {s : State} (h : s.Inv) : Keeps (execCairnMoveComplete vf name s) := by
  unfold execCairnMoveComplete
  rw [keeps_next]
  split
  · exact h
  next k _ =>
  split
  · exact h
  next m _ =>
  extract_lets key placed moved followed opener
  have start : followed.Inv := by
    refine State.followCairn_inv.2 ?_
    unfold placed
    split
    · exact State.undefScratch_inv h
    · exact State.storeScratch_inv h.of_same
  clear_value followed opener
  match opener with
  | none => simp [start]
  | some (gid, sp, g, sd) => simp [start]

@[simp] theorem State.touchMirrors_inv {s : State} {v : Nat} (h : s.Inv) : (s.touchMirrors v).Inv := State.undefMem_inv h

@[simp] theorem State.leaveAgain_inv {s : State} {v : Nat} {name : DWord} {l : Leaver} : (State.leaveAgain s v name l).Inv ↔ s.Inv := by
  unfold State.leaveAgain
  (repeat' split) <;> simp [*]

@[simp] theorem execCairnWritebackComplete_keeps {id : Nat} {s : State} (h : s.Inv) : Keeps (execCairnWritebackComplete id s) := by
  unfold execCairnWritebackComplete
  rw [keeps_next]
  split
  · exact h
  next w _ =>
  split
  · exact h
  extract_lets taken mirrored
  have start : mirrored.Inv := by
    have ht : taken.Inv := h.of_same
    unfold mirrored
    (repeat' split) <;> simp [ht]
  clear_value mirrored
  (repeat' split) <;> simp [start]

end Sys2Proof.Machine
end

section
/-! SUPPORT. The sequencer and the engine keep the memories canonical. -/

namespace Sys2Proof.Machine

@[simp] theorem State.startOp_inv {s : State} {q : Nat} {o : EngOp} : (State.startOp s q o).Inv ↔ s.Inv := by
  exact .rfl

theorem Ctx.prog_inv {c : Ctx} {s : State} {f : Nat → Prog → Act} (h : s.Inv) (hf : ∀ q p, (f q p).Inv) : (c.prog s f).Inv := by
  unfold Ctx.prog
  (repeat' split) <;> simp [h, hf]

@[simp] theorem Ctx.seqFault_inv {c : Ctx} {cause : Nat} {undefined : State} (h_undefined : undefined.Inv) : (Ctx.seqFault c cause undefined).Inv := by
  simp [Ctx.seqFault, h_undefined]

@[simp] theorem execMres_keeps {fmt : WFmt} {sp ts : Bool} {sd sa : Reg} {s : State} (h : s.Inv) : Keeps (execMres fmt sp ts sd sa s) := by
  refine issue_keeps h fun c => Ctx.prog_inv h fun q p => ?_
  refine Act.Inv.ite (by simp [h]) (Act.Inv.ite (by simp) ?_)
  split
  · simp [h]
  · refine Act.inv_done.2 (Ctx.setS_inv.2 (State.wbufUndefine_inv ?_))
    exact h.of_same

@[simp] theorem execMwld_keeps {len : BitVec 24} {sa sb : Reg} {s : State} (h : s.Inv) : Keeps (execMwld len sa sb s) := by
  refine issue_keeps h fun c => Ctx.prog_inv h fun q p => ?_
  extract_lets n src dst fault
  have fault_inv : ∀ cause, (fault cause).Inv := fun cause => by simp [fault, Ctx.seqFault, h]
  clear_value fault
  refine Act.Inv.ite (fault_inv _) (Act.Inv.ite (fault_inv _) ?_)
  (repeat' split) <;> simp [h, fault_inv]

@[simp] theorem execMldw_keeps {blk : BitVec 12} {sa : Reg} {s : State} (h : s.Inv) : Keeps (execMldw blk sa s) := by
  refine issue_keeps h fun c => Ctx.prog_inv h fun q p => ?_
  dsimp only
  split
  · simp
  · exact Act.Inv.ite (by simp) (by simp [h])

@[simp] theorem issueRows_keeps {i : Instr} {dist : Option Reg} {mm1 acc : BitVec 10} {sa sb : Reg} {s : State} (h : s.Inv) :
    Keeps (issueRows i dist mm1 acc sa sb s) := by
  refine issue_keeps h fun c => Ctx.prog_inv h fun q p => ?_
  extract_lets rows ring fault
  have fault_inv : ∀ cause, (fault cause).Inv := fun cause => by simp [fault, Ctx.seqFault, h]
  clear_value fault
  split
  · exact fault_inv _
  · exact Act.Inv.ite (fault_inv _) (by simp [h])

@[simp] theorem execMma_keeps {mm1 acc : BitVec 10} {sa sb : Reg} {s : State} (h : s.Inv) : Keeps (execMma mm1 acc sa sb s) := by
  simp [execMma, h]

@[simp] theorem execMdist_keeps {mm1 acc : BitVec 10} {sd sa sb : Reg} {s : State} (h : s.Inv) : Keeps (execMdist mm1 acc sd sa sb s) := by
  simp [execMdist, h]

@[simp] theorem execMtopk_keeps {mm1 acc : BitVec 10} {km1 : BitVec 4} {min : Bool} {sa sb : Reg} {s : State} (h : s.Inv) :
    Keeps (execMtopk mm1 acc km1 min sa sb s) :=
  issue_keeps h fun _ => Ctx.prog_inv h fun _ _ => Act.Inv.ite (by simp) (Act.Inv.ite (by simp) (by simp [h]))

@[simp] theorem execMdrn_keeps {mm1 acc : BitVec 10} {fmt : DFmt} {sh dst : Bool} {sa sb : Reg} {s : State} (h : s.Inv) :
    Keeps (execMdrn mm1 acc fmt sh dst sa sb s) :=
  issue_keeps h fun _ => Ctx.prog_inv h fun _ _ => Act.Inv.ite (by simp) (Act.Inv.ite (by simp) (by simp [h]))

@[simp] theorem execMzero_keeps {regs : BitVec 16} {s : State} (h : s.Inv) : Keeps (execMzero regs s) :=
  issue_keeps h fun _ => Ctx.prog_inv h fun _ _ => Act.Inv.ite (by simp) (by simp [h])

@[simp] theorem State.rowDone_inv {s : State} {q id : Nat} {o : EngOp} (h : s.Inv) : (State.rowDone s q id o).Inv := by
  simp [State.rowDone, h]

@[simp] theorem State.mmaRow_inv {s : State} {q id : Nat} {p : Prog} {o : EngOp} {pl : Plane} (h : s.Inv) : (State.mmaRow s q id p o pl).Inv := by
  unfold State.mmaRow
  (repeat' split) <;> simp [*]

@[simp] theorem State.distRow_inv {s : State} {q id : Nat} {p : Prog} {o : EngOp} {norm : Nat} {pl : Plane} (h : s.Inv) : (State.distRow s q id p o norm pl).Inv := by
  unfold State.distRow
  (repeat' split) <;> simp [*]

@[simp] theorem State.drainStore_inv {s : State} {scratch : Bool} {key : Nat} {bs : List Byte} (h : s.Inv) : (State.drainStore s scratch key bs).Inv := by
  simp [State.drainStore, h]

theorem Keeps.ite {c : Prop} [Decidable c] {a b : Host.Outcome State Fault Refusal} (ha : Keeps a) (hb : Keeps b) :
    Keeps (if c then a else b) := by
  split
  · exact ha
  · exact hb

@[simp] theorem State.drainRow_keeps {s : State} {q id : Nat} {p : Prog} {o : EngOp} {fmt : DFmt} {sh : Bool} {scale : Word} {dst : Option DWord}
    (h : s.Inv) : Keeps (State.drainRow s q id p o fmt sh scale dst) := by
  unfold State.drainRow
  cases s.accRow p.vf q (o.acc + o.row) with
  | none => exact keeps_next.2 h
  | some r =>
    refine Keeps.ite (keeps_next.2 (State.killOp_inv h)) ?_
    cases dst with
    | none => exact keeps_next.2 (State.rowDone_inv (State.drainStore_inv h))
    | some a =>
      refine Keeps.ite (keeps_next.2 h) ?_
      match drainKeys s p (a + BitVec.ofNat 64 (o.row * (drained fmt scale (s.accVals r)).length)) (drained fmt scale (s.accVals r)).length
        fmt.bytes sh with
      | .error (.cause c) => exact keeps_next.2 (State.killOp_inv h)
      | .error (.hole pa) => exact keeps_fault
      | .ok [(k, n), (k2, m)] => exact keeps_next.2 (State.rowDone_inv (State.drainStore_inv (State.drainStore_inv h)))
      | .ok [] => exact keeps_next.2 (State.rowDone_inv (State.drainStore_inv h))
      | .ok [x] => exact keeps_next.2 (State.rowDone_inv (State.drainStore_inv h))
      | .ok (x :: y :: z :: l) => exact keeps_next.2 (State.rowDone_inv (State.drainStore_inv h))

@[simp] theorem State.topRow_inv {s : State} {q id : Nat} {p : Prog} {o : EngOp} {k : Nat} {min : Bool} {base : Word} (h : s.Inv) : (State.topRow s q id p o k min base).Inv := by
  unfold State.topRow
  (repeat' split) <;> simp [*]

@[simp] theorem execEngineRingSlot_keeps {quad op : Nat} {s : State} (h : s.Inv) : Keeps (execEngineRingSlot quad op s) := by
  unfold execEngineRingSlot
  (repeat' split) <;> simp [*]

@[simp] theorem execMwldComplete_keeps {quad op : Nat} {s : State} (h : s.Inv) : Keeps (execMwldComplete quad op s) := by
  unfold execMwldComplete
  rw [keeps_next]
  split
  · exact h
  next p _ =>
  split
  · exact h
  next o _ =>
  split
  · next src dst n _ =>
    refine State.inv_ite.2 ?_
    split
    · exact h
    refine State.inv_ite.2 ?_
    split
    · exact State.killOp_inv h
    exact State.dropOp_inv (State.Inv.foldl (fun t i ht => State.wbufUndefine_inv ht) _ (by simp [h]))
  · exact h

@[simp] theorem execWeightPlaneLoaded_keeps {quad op : Nat} {s : State} (h : s.Inv) : Keeps (execWeightPlaneLoaded quad op s) := by
  unfold execWeightPlaneLoaded
  (repeat' split) <;> simp [*]

@[simp] theorem execSequencerPreemption_keeps {quad : Nat} {s : State} (h : s.Inv) : Keeps (execSequencerPreemption quad s) := by
  simp only [execSequencerPreemption]
  (repeat' split) <;> simp [*]

@[simp] theorem execSequencerResumption_keeps {quad serial : Nat} {s : State} (h : s.Inv) : Keeps (execSequencerResumption quad serial s) := by
  simp only [execSequencerResumption]
  (repeat' split) <;> simp [*]

end Sys2Proof.Machine
end

section
/-! SUPPORT. Launches and dispatch keep the memories canonical. -/

namespace Sys2Proof.Machine

@[simp] theorem State.startExit_inv {s : State} {p : Nat} : (State.startExit s p).Inv ↔ s.Inv := by
  simp [State.startExit]

@[simp] theorem State.setHostq_inv {s : State} {v q : Nat} {x : HostQ} : (State.setHostq s v q x).Inv ↔ s.Inv := by
  exact .rfl

@[simp] theorem execDoorbellWrite_keeps {vf q : Nat} {tail : Word} {s : State} (h : s.Inv) : Keeps (execDoorbellWrite vf q tail s) := by
  simp [execDoorbellWrite, h]

@[simp] theorem State.writeRecord_inv {s : State} {v : Nat} {done : DWord} {status cause core : Nat} {pc : Word} (h : s.Inv) :
    (s.writeRecord v done status cause core pc).Inv := by
  refine State.Inv.foldl (fun t x ht => ?_) _ h
  split <;> simp [ht]

@[simp] theorem State.podStart_inv {s : State} {l : Launch} : (s.podStart l).Inv ↔ s.Inv := by
  unfold State.podStart
  split
  · rfl
  · refine (State.foldl_inv_iff (fun t x => ?_) _).trans ?_
    · split <;> simp
    · simp

@[simp] theorem State.accept_inv {s : State} {v q : Nat} {graph : Bool} (h : s.Inv) : (State.accept s v q graph).Inv := by
  simp only [State.accept]
  (repeat' split) <;> simp [*]

@[simp] theorem execLaunch_keeps {vf q : Nat} {s : State} (h : s.Inv) : Keeps (execLaunch vf q s) := by
  simp [execLaunch, h]

@[simp] theorem execGraphLaunch_keeps {vf q : Nat} {s : State} (h : s.Inv) : Keeps (execGraphLaunch vf q s) := by
  simp [execGraphLaunch, h]

@[simp] theorem State.taskOpen_inv {s : State} {uid : Nat} {t : Task} : (State.taskOpen s uid t).Inv ↔ s.Inv := by
  unfold State.taskOpen
  (repeat' split) <;> simp [*]

theorem State.dispatchTask_place_inv {s : State} {uid : Nat} {t : Task} {u : Option State} {next : Nat} (h : s.Inv)
    (hu : ∀ t, u = some t → t.Inv) : (State.dispatchTask.place s uid t u next).Inv := by
  unfold State.dispatchTask.place
  split
  · exact h
  · next u => have := hu u rfl; split <;> simp [this]

@[simp] theorem State.dispatchTask_inv {s : State} {uid : Nat} {t : Task} {c : Nat} {cores : List Nat} (h : s.Inv) :
    (s.dispatchTask uid t c cores).Inv := by
  unfold State.dispatchTask
  extract_lets w k whole next near
  have near_inv : ∀ s i t, s.Inv → near s i = some t → t.Inv := fun s i t hs e => State.placeNear_inv hs e
  clear_value near k
  have chosen (next : Nat) : ∀ t, (if whole then s.placeWhole w near else near s next) = some t → t.Inv := by
    intro t e
    split at e
    · exact State.placeWhole_inv (fun s t i => near_inv s i t) h e
    · exact near_inv _ _ _ h e
  cases k with
  | none => exact State.dispatchTask_place_inv h (chosen _)
  | some x =>
  dsimp only
  split
  · exact h
  split
  · cases e : s.beginMove x c none true with
    | none => exact h
    | some u => exact (State.beginMove_inv_iff e).2 h
  split
  · split <;> simp [h]
  · exact State.dispatchTask_place_inv h (chosen _)

@[simp] theorem State.dispatchNode_inv {s : State} {lid : Nat} {l : Launch} {i n : Nat} {cores : List Nat} (h : s.Inv) :
    (s.dispatchNode lid l i n cores).Inv := by
  unfold State.dispatchNode
  split
  · exact h
  extract_lets w handed
  split
  · exact h
  refine State.inv_ite.2 ?_
  split
  · exact h
  split
  · exact h
  · next u e => exact State.placeAny_inv h e |>.of_same

@[simp] theorem State.endCairns_inv {s : State} {p : Cairn → Bool} : (s.endCairns p).Inv ↔ s.Inv :=
  State.foldl_inv_iff (fun t k => by (repeat' split) <;> simp) _

@[simp] theorem State.endLaunch_inv {s : State} {lid : Nat} {l : Launch} (h : s.Inv) : (State.endLaunch s lid l).Inv := by
  simp only [State.endLaunch]
  (repeat' split) <;> simp [*]

theorem State.beginPlacing_ok {s t : State} {lid : Nat} {l : Launch} (h : s.Inv) (e : s.beginPlacing lid l = .ok t) : t.Inv := by
  unfold State.beginPlacing at e
  (repeat' split at e) <;> cases e <;> simp [h]

theorem State.beginPlacing_error {s t : State} {lid : Nat} {l : Launch} (h : s.Inv) (e : s.beginPlacing lid l = .error t) : t.Inv := by
  unfold State.beginPlacing at e
  (repeat' split at e) <;> cases e <;> simp [h]

@[simp] theorem State.dispatchLaunch_inv {s : State} {lid : Nat} {l : Launch} {cores : List Nat} (h : s.Inv) :
    (s.dispatchLaunch lid l cores).Inv := by
  unfold State.dispatchLaunch
  extract_lets w whole
  split
  · next t e => exact State.beginPlacing_error h e
  next s' e =>
  have h' := State.beginPlacing_ok h e
  split
  · exact h'
  next u e =>
  suffices hu : u.Inv from hu.of_same
  split at e
  · exact State.placeWhole_inv (fun s t i hs e => State.placeAny_inv hs e) h' e
  · exact State.placeAny_inv h' e

@[simp] theorem execBlockDispatch_keeps {t : DispatchTarget} {cores : List Nat} {s : State} (h : s.Inv) : Keeps (execBlockDispatch t cores s) := by
  unfold execBlockDispatch
  rw [keeps_next]
  cases t with
  | launch lid =>
    dsimp only
    split
    · exact h
    · (repeat' split) <;> simp [h]
  | task uid =>
    dsimp only
    split
    · exact h
    · (repeat' split) <;> simp [h]
  | node lid i =>
    dsimp only
    split
    · exact h
    split
    · exact h
    split
    · exact h
    split
    · next t e => exact State.beginPlacing_error h e
    · next t e => exact State.dispatchNode_inv (State.beginPlacing_ok h e)

@[simp] theorem execFlushTimeout_keeps {lid node : Nat} {s : State} (h : s.Inv) : Keeps (execFlushTimeout lid node s) := by
  unfold execFlushTimeout
  rw [keeps_next]
  split
  · exact h
  split
  · exact h
  split
  · exact h
  split
  · exact h
  split
  · next t e => exact State.beginPlacing_error h e
  · next t e => exact State.dispatchNode_inv (State.beginPlacing_ok h e)

@[simp] theorem State.undelivered_inv {s : State} {lid : Nat} : (s.undelivered lid).Inv ↔ s.Inv :=
  State.foldl_inv_iff (fun t q => by simp [State.foldl_inv_iff (fun _ _ => State.fateToLaunch_inv)]) _

@[simp] theorem State.complete_inv {s : State} {lid : Nat} {reset : Bool} (h : s.Inv) : (State.complete s lid reset).Inv := by
  simp only [State.complete]
  (repeat' split) <;> simp [*]

@[simp] theorem execLaunchComplete_keeps {lid : Nat} {s : State} (h : s.Inv) : Keeps (execLaunchComplete lid s) := by
  unfold execLaunchComplete
  (repeat' split) <;> simp [*]

@[simp] theorem execTerminationWave_keeps {lid : Nat} {s : State} (h : s.Inv) : Keeps (execTerminationWave lid s) := by
  unfold execTerminationWave
  (repeat' split) <;> simp [*]

@[simp] theorem execHostQueueDestroy_keeps {vf q : Nat} {s : State} (h : s.Inv) : Keeps (execHostQueueDestroy vf q s) := by
  unfold execHostQueueDestroy
  rw [keeps_next]
  extract_lets idle
  refine State.inv_ite.2 ?_
  split
  · exact h
  · exact State.endCairns_inv.2 (State.Inv.foldl (fun t l ht => State.complete_inv ht) idle h)

end Sys2Proof.Machine
end

section
/-! SUPPORT. The fabric keeps the memories canonical. -/

namespace Sys2Proof.Machine

@[simp] theorem State.pumpAll_inv {s : State} {pkg : Nat} : (s.pumpAll pkg).Inv ↔ s.Inv :=
  State.foldl_inv_iff (fun t w => by split <;> simp) _

@[simp] theorem State.noteCuts_inv {s old : State} {pkg : Nat} : (State.noteCuts s old pkg).Inv ↔ s.Inv := by
  exact .rfl

@[simp] theorem State.failRoutes_inv {s : State} {pkg port : Nat} {dst : Option Nat} : (State.failRoutes s pkg port dst).Inv ↔ s.Inv := by
  exact .rfl

@[simp] theorem State.replay_inv {s : State} {id : Nat} : (State.replay s id).Inv ↔ s.Inv := by
  unfold State.replay
  (repeat' split) <;> simp [*]

@[simp] theorem State.replayPort_inv {s : State} {pkg port : Nat} {dst : Option Nat} : (s.replayPort pkg port dst).Inv ↔ s.Inv :=
  State.pumpAll_inv.trans (State.foldl_inv_iff (fun _ _ => State.replay_inv) _)

@[simp] theorem State.losePort_inv {s : State} {pkg port : Nat} : (State.losePort s pkg port).Inv ↔ s.Inv := by
  exact .rfl

@[simp] theorem State.loseLink_inv {s : State} {pkg port : Nat} : (s.loseLink pkg port).Inv ↔ s.Inv :=
  (State.foldl_inv_iff (fun _ _ => State.replayPort_inv) _).trans (State.foldl_inv_iff (fun t e => by simp) _)

@[simp] theorem execFlitCheckFail_keeps {pkg port : Nat} {o : FlitOutcome} {s : State} (h : s.Inv) : Keeps (execFlitCheckFail pkg port o s) := by
  unfold execFlitCheckFail
  (repeat' split) <;> simp [*]

@[simp] theorem State.returnPort_inv {s : State} {pkg port : Nat} : (State.returnPort s pkg port).Inv ↔ s.Inv := by
  exact .rfl

@[simp] theorem execLinkReturn_keeps {pkg port : Nat} {s : State} (h : s.Inv) : Keeps (execLinkReturn pkg port s) :=
  keeps_next.2 ((State.foldl_inv_iff (fun _ _ => State.pumpAll_inv) _).2 ((State.foldl_inv_iff (fun _ _ => State.returnPort_inv) _).2 h))

@[simp] theorem execRouteTableChange_keeps {pkg dst : Nat} {ports : List Nat} {s : State} (h : s.Inv) : Keeps (execRouteTableChange pkg dst ports s) := by
  simp [execRouteTableChange, h]

@[simp] theorem execReplayTimeout_keeps {win : Nat} {s : State} (h : s.Inv) : Keeps (execReplayTimeout win s) := by
  unfold execReplayTimeout
  (repeat' split) <;> simp [*]

@[simp] theorem State.remoteDone_inv {s : State} {gid : Nat} {r : RInstr} : (State.remoteDone s gid r).Inv ↔ s.Inv := by
  unfold State.remoteDone
  (repeat' split) <;> simp [*]

@[simp] theorem State.fabTrap_inv {s : State} {gid k order : Nat} : (State.fabTrap s gid k order).Inv ↔ s.Inv := by
  simp only [State.fabTrap]
  (repeat' split) <;> simp [*]

@[simp] theorem State.remoteLost_inv {s : State} {gid : Nat} {r : RInstr} : (State.remoteLost s gid r).Inv ↔ s.Inv := by
  simp [State.remoteLost]

@[simp] theorem State.remoteProgress_inv {s : State} {gid : Nat} : (s.remoteProgress gid).Inv ↔ s.Inv := by
  unfold State.remoteProgress
  split
  · rfl
  · refine State.foldl_inv_iff (fun t r => ?_) _
    dsimp only
    (repeat' split) <;> simp

@[simp] theorem State.opsOver_inv {s : State} {gids : List Nat} : (s.opsOver gids).Inv ↔ s.Inv :=
  State.settleTasks_inv.trans (State.foldl_inv_iff (fun t gid => by dsimp only; split <;> simp) _)

@[simp] theorem State.remoteRead_inv {s : State} {id : Nat} {r : ROp} : (State.remoteRead s id r).1.Inv ↔ s.Inv := by
  exact .rfl

@[simp] theorem State.remoteWrite_inv {s : State} {r : ROp} {v : Nat} (h : s.Inv) : (State.remoteWrite s r v).Inv := by
  simp [State.remoteWrite, h]

@[simp] theorem State.remotePromote_inv {s : State} {id : Nat} {r : ROp} : (State.remotePromote s id r).Inv ↔ s.Inv := by
  unfold State.remotePromote
  (repeat' split) <;> simp [*]

@[simp] theorem State.applyOp_inv {s : State} {id : Nat} {r : ROp} (h : s.Inv) : (State.applyOp s id r).1.Inv := by
  simp only [State.applyOp]
  (repeat' split) <;> simp [*]

@[simp] theorem State.acknowledge_inv {s : State} {id v : Nat} : (State.acknowledge s id v).Inv ↔ s.Inv := by
  unfold State.acknowledge
  (repeat' split) <;> simp [*]

@[simp] theorem State.deliver_inv {s : State} {t : Triple} {b : Body} (h : s.Inv) : (s.deliver t b).Inv := by
  unfold State.deliver
  split
  · next id l =>
    split
    · exact h
    next r _ =>
    have applied : (if r.applied then (s, r.reply) else s.applyOp id r).1.Inv := by split <;> simp [h]
    generalize (if r.applied then (s, r.reply) else s.applyOp id r) = p at applied ⊢
    obtain ⟨u, v⟩ := p
    dsimp only at applied ⊢
    split <;> simp [applied]
  · simp [h]
  · (repeat' split) <;> simp [h]
  · (repeat' split) <;> simp [h]
  · exact h
  · exact h

@[simp] theorem State.deliverNext_inv {id : Nat} (n : Nat) : ∀ {s : State}, s.Inv → (s.deliverNext id n).Inv := by
  induction n with
  | zero => exact fun h => h
  | succ n ih =>
    intro s h
    unfold State.deliverNext
    split
    · exact h
    dsimp only
    split
    · exact h
    · exact ih (State.deliver_inv h.of_same)

@[simp] theorem State.ackWin_inv {s : State} {id : Nat} : (State.ackWin s id).Inv ↔ s.Inv := by
  unfold State.ackWin
  (repeat' split) <;> simp [*]

@[simp] theorem State.resendReply_inv {s : State} {t : Triple} {b : Body} : (State.resendReply s t b).Inv ↔ s.Inv := by
  unfold State.resendReply
  (repeat' split) <;> simp [*]

@[simp] theorem State.ctlReset_inv {s : State} {peer vf : Nat} : (State.ctlReset s peer vf).Inv ↔ s.Inv := by
  simp [State.ctlReset]

@[simp] theorem State.writeAcked_inv {s : State} {b : Body} : (State.writeAcked s b).Inv ↔ s.Inv := by
  unfold State.writeAcked
  (repeat' split) <;> simp [*]

@[simp] theorem execPacketArrival_keeps {flight : Nat} {s : State} (h : s.Inv) : Keeps (execPacketArrival flight s) := by
  unfold execPacketArrival
  rw [keeps_next]
  split
  · exact h
  next f _ =>
  extract_lets taken
  have start : taken.Inv := h.of_same
  clear_value taken
  split
  · split
    · exact start
    · exact State.pumpAll_inv.2 (State.startExit_inv.2 ((State.foldl_inv_iff (fun _ _ => State.writeAcked_inv) _).2 start.of_same))
  · simp [start]
  split
  · exact start
  split
  · exact start
  have awake : (taken.startExit f.triple.dstPkg).Inv := State.startExit_inv.2 start
  refine State.inv_ite.2 ?_
  split
  · exact awake
  refine State.inv_ite.2 ?_
  split
  · exact State.ackWin_inv.2 (State.resendReply_inv.2 awake)
  refine State.inv_ite.2 ?_
  split
  · exact awake
  · exact State.ackWin_inv.2 (State.deliverNext_inv _ awake.of_same)

@[simp] theorem State.reportGroup_inv {s : State} {gid : Nat} {ops : List (Nat × ROp)} {reached : Bool} : (State.reportGroup s gid ops reached).Inv ↔ s.Inv := by
  simp only [State.reportGroup]
  (repeat' split) <;> simp [*]

@[simp] theorem State.report_inv {s : State} {ops : List (Nat × ROp)} {reached : Bool} : (s.report ops reached).Inv ↔ s.Inv :=
  State.settleLate_inv.trans (State.opsOver_inv.trans (State.foldl_inv_iff (fun _ _ => State.reportGroup_inv) _))

@[simp] theorem execStrandTimeout_keeps {win : Nat} {s : State} (h : s.Inv) : Keeps (execStrandTimeout win s) := by
  unfold execStrandTimeout
  (repeat' split) <;> simp [*]

@[simp] theorem State.endGone_inv {s : State} {gone : Nat → Bool} : (s.endGone gone).Inv ↔ s.Inv :=
  State.foldl_inv_iff (fun _ _ => State.foldl_inv_iff (fun t p => (by simp)) _) _

@[simp] theorem State.dropWork_inv {s : State} {gone : Nat → Bool} : (State.dropWork s gone).Inv ↔ s.Inv := by
  simp [State.dropWork]

@[simp] theorem State.zeroPkg_inv {s : State} {p : Nat} (h : s.Inv) : (s.zeroPkg p).Inv := by
  have copies : ∀ (l : List Nat) (m : Mem), m.wf = true → (l.foldl (fun (m : Mem) n => m.zero (copyKey n 0) (2 ^ 57)) m).wf = true := by
    intro l
    induction l with
    | nil => exact fun _ hm => hm
    | cons n l ih => exact fun m hm => ih _ (Mem.wf_zero _ _ hm)
  exact State.inv_iff.2 ⟨copies _ _ (Mem.wf_zero _ _ h.mem_wf), Mem.wf_zero _ _ h.scratch_wf, Mem.wf_zero _ _ h.wbuf_wf, Mem.wf_zero _ _ h.wdup_wf,
    Mem.wf_zero _ _ h.acc_wf⟩

@[simp] theorem State.breakPod_inv {s : State} {number : Nat} : (s.breakPod number).Inv ↔ s.Inv :=
  State.foldl_inv_iff (fun t g => by split <;> simp) _

@[simp] theorem State.breakPods_inv {s : State} {parts : List Launch} : (s.breakPods parts).Inv ↔ s.Inv :=
  State.foldl_inv_iff (fun _ _ => State.breakPod_inv) _

@[simp] theorem State.pumpEvery_inv {s : State} : s.pumpEvery.Inv ↔ s.Inv := State.foldl_inv_iff (fun _ _ => State.pumpAll_inv) _

@[simp] theorem State.wipePkg_inv {s : State} {p : Nat} (h : s.Inv) : (State.wipePkg s p).Inv := by
  simp [State.wipePkg, h]

@[simp] theorem execStrandResolution_keeps {win : Nat} {reachable : Bool} {s : State} (h : s.Inv) : Keeps (execStrandResolution win reachable s) := by
  unfold execStrandResolution
  (repeat' split) <;> simp [*]

@[simp] theorem execPodBarrierBreak_keeps {number pkg : Nat} {s : State} (h : s.Inv) : Keeps (execPodBarrierBreak number pkg s) := by
  unfold execPodBarrierBreak
  (repeat' split) <;> simp [*]

@[simp] theorem execCtlReset_keeps {peer vf : Nat} {s : State} (h : s.Inv) : Keeps (execCtlReset peer vf s) := by
  simp [execCtlReset, h]

@[simp] theorem execFunctionLevelReset_keeps {vf : Nat} {s : State} (h : s.Inv) : Keeps (execFunctionLevelReset vf s) := by
  unfold execFunctionLevelReset
  rw [keeps_next]
  extract_lets p open' mine peers dropped closed told reported broken x cleared
  have start : closed.Inv := (State.dropWork_inv.2 h).of_same
  clear_value closed
  have sent : told.Inv := (State.foldl_inv_iff (fun _ _ => State.sendLoose_inv) _).2 start
  have ready : cleared.Inv := State.setVf_inv.2 (State.breakPods_inv.2 (State.report_inv.2 sent))
  exact State.pumpEvery_inv.2 (State.Inv.foldl (fun t l ht => State.complete_inv ht) _ ready)

end Sys2Proof.Machine
end

section
/-! SUPPORT. Reset, policy and the host keep the memories canonical. -/

namespace Sys2Proof.Machine

@[simp] theorem State.tell_inv {s : State} {m : HostMsg} : (State.tell s m).Inv ↔ s.Inv := by
  exact .rfl

@[simp] theorem execColdReset_keeps {pkg : Nat} {s : State} (h : s.Inv) : Keeps (execColdReset pkg s) := by
  simp [execColdReset, h]

@[simp] theorem execWipeComplete_keeps {pkg : Nat} {s : State} (h : s.Inv) : Keeps (execWipeComplete pkg s) := by
  simp [execWipeComplete, h]

@[simp] theorem execFirmwareBoot_keeps {pkg : Nat} {rsaOk slhOk : Bool} {s : State} (h : s.Inv) : Keeps (execFirmwareBoot pkg rsaOk slhOk s) := by
  simp [execFirmwareBoot, h]

@[simp] theorem execAttestationRequest_keeps {vf : Nat} {nonce : List Byte} {s : State} (h : s.Inv) : Keeps (execAttestationRequest vf nonce s) := by
  simp [execAttestationRequest, h]

@[simp] theorem State.lifeTo_inv {s : State} {pkg : Nat} {l : LifeCycle} (h : s.Inv) : (State.lifeTo s pkg l).Inv := by
  simp [State.lifeTo, h]

@[simp] theorem State.command_inv {s : State} {pkg : Nat} {ok : Bool} {l : LifeCycle} (h : s.Inv) : (State.command s pkg ok l).Inv := by
  simp [State.command, h]

@[simp] theorem execDeployCommand_keeps {pkg : Nat} {rsaOk slhOk : Bool} {s : State} (h : s.Inv) : Keeps (execDeployCommand pkg rsaOk slhOk s) := by
  simp [execDeployCommand, h]

@[simp] theorem execUnlockCommand_keeps {pkg : Nat} {tokenOk : Bool} {s : State} (h : s.Inv) : Keeps (execUnlockCommand pkg tokenOk s) := by
  simp [execUnlockCommand, h]

@[simp] theorem execRelockCommand_keeps {pkg : Nat} {s : State} (h : s.Inv) : Keeps (execRelockCommand pkg s) := by
  simp [execRelockCommand, h]

@[simp] theorem execDecommissionCommand_keeps {pkg : Nat} {signed : Bool} {s : State} (h : s.Inv) : Keeps (execDecommissionCommand pkg signed s) := by
  simp [execDecommissionCommand, h]

@[simp] theorem State.zeroSlices_inv {s : State} {core : Nat} {idx : List Nat} (h : s.Inv) : (s.zeroSlices core idx).Inv :=
  State.Inv.foldl (fun t i ht => by simp [ht, Mem.wf_zero]) _ h

@[simp] theorem State.zeroQuarters_inv {s : State} {q : Nat} {idx : List Nat} (h : s.Inv) : (s.zeroQuarters q idx).Inv :=
  State.Inv.foldl (fun t i ht => by simp [ht, Mem.wf_zero]) _ h

@[simp] theorem State.wire_inv {s : State} {e : Nat × Nat} {peer : Option (Nat × Nat)} : (State.wire s e peer).Inv ↔ s.Inv := by
  exact .rfl

@[simp] theorem State.link_inv {s : State} {a b : Nat × Nat} : (s.link a b).Inv ↔ s.Inv :=
  (State.foldl_inv_iff (fun _ _ => State.pumpAll_inv) _).trans ((State.foldl_inv_iff (fun _ _ => State.noteCuts_inv) _).trans
    (State.wire_inv.trans (State.wire_inv.trans (State.foldl_inv_iff (fun _ _ => State.wire_inv) _))))

@[simp] theorem State.renewImages_inv {s : State} {key n : Nat} : (State.renewImages s key n).Inv ↔ s.Inv := by
  exact .rfl

@[simp] theorem State.setPolicy_inv {s : State} {v : Nat} {f : PolicyField} (h : s.Inv) : (s.setPolicy v f).Inv := by
  cases f with
  | mode m =>
    refine State.inv_ite.2 ?_
    split
    · exact h
    · refine State.setPkg_inv.2 (State.inv_iff.2 ⟨Mem.wf_undefine _ _ _ h.mem_wf, h.scratch_wf, h.wbuf_wf, h.wdup_wf, h.acc_wf⟩)
  | slices c idx => exact State.zeroSlices_inv (State.setVf_inv.2 h)
  | quarters q idx => exact State.setQuad_inv.2 (State.zeroQuarters_inv (State.setVf_inv.2 h))
  | link port p q => exact State.link_inv.2 h
  | _ => exact h.of_same

@[simp] theorem execPolicyWrite_keeps {vf : Nat} {f : PolicyField} {s : State} (h : s.Inv) : Keeps (execPolicyWrite vf f s) := by
  simp [execPolicyWrite, h]

@[simp] theorem execTlbInvalidation_keeps {core vf : Nat} {s : State} (h : s.Inv) : Keeps (execTlbInvalidation core vf s) := by
  simp [execTlbInvalidation, h]

@[simp] theorem execHbmWipe_keeps {dev addr len : Nat} {s : State} (h : s.Inv) : Keeps (execHbmWipe dev addr len s) := by
  unfold execHbmWipe
  refine Keeps.ite keeps_fault (keeps_next.2 ?_)
  extract_lets k ready
  have start : ready.Inv := by
    refine State.startExit_inv.2 ?_
    split <;> simp [h]
  exact State.inv_iff.2 ⟨Mem.wf_zero _ _ start.mem_wf, start.scratch_wf, start.wbuf_wf, start.wdup_wf, start.acc_wf⟩

@[simp] theorem execQuadRemap_keeps {pkg die quad : Nat} {s : State} (h : s.Inv) : Keeps (execQuadRemap pkg die quad s) := by
  unfold execQuadRemap
  rw [keeps_next]
  refine State.inv_ite.2 ?_
  split
  · exact h
  · refine State.setPkg_inv.2 (State.setQuad_inv.2 (State.zeroQuarters_inv (State.Inv.foldl (fun t i ht => State.zeroSlices_inv ht) _ ?_)))
    exact (State.foldl_inv_iff (fun _ _ => State.setCore_inv) _).2 h

@[simp] theorem State.setPower_inv {s : State} {p : Nat} {to' : Power} : (State.setPower s p to').Inv ↔ s.Inv := by
  exact .rfl

@[simp] theorem execPowerStateEntry_keeps {pkg : Nat} {s : State} (h : s.Inv) : Keeps (execPowerStateEntry pkg s) := by
  simp [execPowerStateEntry, h]

@[simp] theorem execPowerStateExit_keeps {pkg : Nat} {s : State} (h : s.Inv) : Keeps (execPowerStateExit pkg s) := by
  unfold execPowerStateExit
  (repeat' split) <;> simp [*]

@[simp] theorem execHostDebugAccess_keeps {target : DebugTarget} {n : BitVec 16} {write : Option Word} {s : State} (h : s.Inv) : Keeps (execHostDebugAccess target n write s) := by
  unfold execHostDebugAccess
  (repeat' split) <;> simp [*]

@[simp] theorem State.barQueue_inv {s : State} {v q : Nat} {cfg : Bool} {x : DWord} : (State.barQueue s v q cfg x).Inv ↔ s.Inv := by
  simp [State.barQueue]

@[simp] theorem execHostMemoryAccess_keeps {a : HostAccess} {s : State} (h : s.Inv) : Keeps (execHostMemoryAccess a s) := by
  unfold execHostMemoryAccess
  (repeat' split) <;> simp [*]

end Sys2Proof.Machine
end

section
/-! SUPPORT. Instructions across lanes keep the memories canonical. -/

namespace Sys2Proof.Machine

@[simp] theorem execVbperm_keeps {hi : Bool} {o : VBin} {s : State} (h : s.Inv) : Keeps (execVbperm hi o s) := by
  refine issue_keeps h fun c => ?_
  simp [h]

@[simp] theorem execVshfl_keeps {m : ShflMode} {delta : Reg} {o : VBin} {s : State} (h : s.Inv) : Keeps (execVshfl m delta o s) := by
  refine issue_keeps h fun c => ?_
  simp [h]

@[simp] theorem execVscan_keeps {op : RedOp} {t : ElemTy} {nat excl : Bool} {o : VUn} {s : State} (h : s.Inv) : Keeps (execVscan op t nat excl o s) := by
  refine issue_keeps h fun c => ?_
  simp [h]

@[simp] theorem execVred_keeps {op : RedOp} {t : ElemTy} {nat : Bool} {o : VUn} {s : State} (h : s.Inv) : Keeps (execVred op t nat o s) := by
  refine issue_keeps h fun c => ?_
  simp [h]

@[simp] theorem execVvote_keeps {f : VoteFn} {o : VUn} {s : State} (h : s.Inv) : Keeps (execVvote f o s) := by
  refine issue_keeps h fun c => ?_
  (repeat' split) <;> simp [*]

end Sys2Proof.Machine
end

section
/-! SUPPORT. Every instruction and every step of the device keeps the memories canonical. -/

namespace Sys2Proof.Machine

@[simp] theorem exec_keeps {i : Instr} {s : State} (h : s.Inv) : Keeps (exec i s) := by
  unfold exec
  cases i <;> simp [h]

end Sys2Proof.Machine
end

section
/-! SUPPORT. Turns keep the memories canonical. -/

namespace Sys2Proof.Machine

@[simp] theorem State.gather_inv {s : State} {gid k : Nat} : (s.gather gid k).1.Inv ↔ s.Inv := by
  unfold State.gather
  split
  · rfl
  · exact State.rejoin_inv.trans ((State.foldl_inv_iff (fun _ _ => mergeSplits_inv) _).trans (State.foldl_inv_iff (fun _ _ => State.rejoin_inv) _))

@[simp] theorem State.noteIssue_inv {s : State} {gid k key : Nat} {i : Instr} {m : Mask} : (State.noteIssue s gid k key i m).Inv ↔ s.Inv := by
  simp [State.noteIssue]

@[simp] theorem State.issueAt_keeps {s : State} {gid k : Nat} (h : s.Inv) : Keeps (s.issueAt gid k) := by
  unfold State.issueAt
  split
  · simp [h]
  next g sp _ =>
  refine Keeps.ite (exec_keeps h) ?_
  split
  · simp only [keeps_next, State.inv_ite, State.kill_inv, State.fetchedBad_inv, State.raise_inv]
    split <;> exact h
  · simp
  · simp [h]
  next i t e =>
  have ran : Keeps (exec i { t with cur := .group gid k }) := exec_keeps (State.fetchInstr_inv h e).of_same
  split
  · next u eu => exact keeps_next.2 (State.noteIssue_inv.2 (ran u eu))
  · exact ran

@[simp] theorem State.splitTurn_keeps {s : State} {gid k : Nat} (h : s.Inv) : Keeps (State.splitTurn s gid k) := by
  unfold State.splitTurn
  (repeat' split) <;> simp [*]

@[simp] theorem State.seqTurn_keeps {s : State} {q : Nat} (h : s.Inv) : Keeps (s.seqTurn q) := by
  unfold State.seqTurn
  split
  · exact exec_keeps h
  next p _ =>
  refine Keeps.ite (exec_keeps h) ?_
  split
  · simp only [keeps_next, State.killProg_inv, State.inv_ite, State.fetchedBad_inv]
    split <;> exact h
  · simp
  · simp [h]
  · next i t e => exact exec_keeps (State.fetchInstr_inv h e).of_same

@[simp] theorem State.countReady_inv {s : State} : (State.countReady s).Inv ↔ s.Inv := by
  exact .rfl

@[simp] theorem State.endYields_inv {s : State} : s.endYields.Inv ↔ s.Inv := State.foldl_inv_iff (fun _ _ => State.endWait_inv) _

@[simp] theorem State.advance_inv {s : State} (h : s.Inv) : s.advance.Inv := by
  have before : (if s.turn.clks = 0 then s else s.endYields).Inv := by split <;> simp [h]
  exact State.countReady_inv.2 ((State.foldl_inv_iff (fun _ _ => State.endWaits_inv) _).2 before.of_same)

@[simp] theorem State.act_keeps {s : State} {a0 : Mover} (h : s.Inv) : Keeps (State.act s a0) := by
  unfold State.act
  (repeat' split) <;> simp [*]

end Sys2Proof.Machine
end

section
/-! SUPPORT. A step keeps the memories canonical. -/

namespace Sys2Proof.Machine

@[simp] theorem step_keeps {s : State} (h : s.Inv) : Keeps (step s) := State.act_keeps (State.advance_inv h)

end Sys2Proof.Machine
end

section
/-! OBLIGATIONS. The canonical form of every memory is kept (log entry 54). -/

namespace Sys2Proof.Machine

/-- Settles O58: a step advances the clk and its mover acts, and no instruction, turn or event leaves the canonical form. -/
theorem stepKeepsMemoryForm : Obligations.StepKeepsMemoryForm := fun _ t h e => step_keeps h t e

end Sys2Proof.Machine
end

section
/-! SUPPORT. The results of the U-set compares, moves, counts and bit fields, a write of a scalar register, and the statements about them. -/

namespace Sys2Proof.Machine

/-! ### Completion -/

/-- A ready instruction that writes `r` to sd completes with it there. -/
theorem completes_writesS {s : State} {gid k : Nat} {g : Group} {sp : Split} {i : Instr} {body : Ctx → State → Act} {n : Nat} {r : Word}
    (hi : PlainScalar i) (hx : exec i s = issue i s body) (h : Ready s gid k g sp i)
    (hb : body (groupCtx gid k g sp i) s = .done ((groupCtx gid k g sp i).setS n r s)) :
    Completes i s gid k (g.setS k n r) (sp.after i) := by
  obtain ⟨notEngine, notVector, noDests⟩ := hi
  obtain ⟨t, issued, only⟩ := completes_setS h notEngine notVector noDests n r hb
  exact ⟨t, hx.trans issued, only⟩

/-- A ready instruction that writes `r` to a pair completes with it there. -/
theorem completes_writesPair {s : State} {gid k : Nat} {g : Group} {sp : Split} {i : Instr} {body : Ctx → State → Act} {n : Nat} {r : DWord}
    (hi : PlainScalar i) (hx : exec i s = issue i s body) (h : Ready s gid k g sp i)
    (hb : body (groupCtx gid k g sp i) s = .done ((groupCtx gid k g sp i).setPair n r s)) :
    Completes i s gid k (g.setPair k n r) (sp.after i) := by
  obtain ⟨notEngine, notVector, noDests⟩ := hi
  obtain ⟨t, issued, only⟩ := completes_setPair h notEngine notVector noDests n r hb
  exact ⟨t, hx.trans issued, only⟩

/-! ### Compares (R330) -/

/-- The conditions of SCMP order signed values, or natural ones with the suffix `.n`. -/
theorem sCond_holds_iff (c : SCond) (x y : Word) : c.holds x y = true ↔ match c with
    | .eq => x = y | .ne => x ≠ y | .lt => x.toInt < y.toInt | .le => x.toInt ≤ y.toInt | .gt => y.toInt < x.toInt
    | .ge => y.toInt ≤ x.toInt | .ltN => x.toNat < y.toNat | .geN => y.toNat ≤ x.toNat := by
  cases c <;> simp [SCond.holds, BitVec.slt_iff_toInt_lt, BitVec.sle_iff_toInt_le, BitVec.ult_iff_toNat_lt, BitVec.ule_iff_toNat_le]

/-- Settles O2: SCMP writes its condition, SMOV and SMOVI their operand, the counts and SBFX the value of their function of the source. -/
theorem scalarMoveAndBitResults : Obligations.ScalarMoveAndBitResults := by
  intro s gid k g sp sd sa b x y writes
  have count32 (f : Nat → Nat → Nat) (i : Instr) (hi : PlainScalar i) (hx : exec i s = issue i s (scalarCount false sd sa f))
      (h : Ready s gid k g sp i) : writes i (BitVec.ofNat 32 (f 32 x.toNat)) :=
    completes_writesS hi hx h (by simp [scalarCount, x])
  have count64 (f : Nat → Nat → Nat) (i : Instr) (hi : PlainScalar i) (hx : exec i s = issue i s (scalarCount true sd sa f))
      (h : Ready s gid k g sp i) :
      Completes i s gid k (g.setPair k sd.toNat (BitVec.ofNat 64 (f 64 (g.spair sp sa.toNat).toNat))) (sp.after i) :=
    completes_writesPair hi hx h (by simp [scalarCount])
  refine ⟨?scmp, ?smov, ?smovPair, ?smovi, ?sclz, ?sclzPair, ?spopc, ?spopcPair, ?sbfx⟩
  case scmp =>
    intro c h
    have runs : execScmp c sd sa b s = issue (.scmp c sd sa b) s _ := rfl
    refine completes_writesS ⟨rfl, rfl, rfl⟩ runs h ?_
    simp only [groupCtx_s, groupCtx_b]
    cases c <;> simp only [sCond_holds_iff, ne_eq, ite_not] <;> rfl
  case smov =>
    have runs : execSmov false sd b s = issue (.smov false sd b) s _ := rfl
    exact fun h => completes_writesS ⟨rfl, rfl, rfl⟩ runs h (by simp [y])
  case smovPair =>
    have runs : execSmov true sd b s = issue (.smov true sd b) s _ := rfl
    exact fun h => completes_writesPair ⟨rfl, rfl, rfl⟩ runs h (by simp)
  case smovi =>
    intro imm h
    have runs : execSmovi sd imm s = issue (.smovi sd imm) s _ := rfl
    exact completes_writesS ⟨rfl, rfl, rfl⟩ runs h rfl
  case sclz =>
    intro h
    obtain ⟨le, lt, ge⟩ := clz_spec x.isLt
    exact ⟨clz 32 x.toNat, le, lt, ge, count32 clz _ ⟨rfl, rfl, rfl⟩ rfl h⟩
  case sclzPair =>
    intro h
    obtain ⟨le, lt, ge⟩ := clz_spec (g.spair sp sa.toNat).isLt
    exact ⟨clz 64 (g.spair sp sa.toNat).toNat, le, lt, ge, count64 clz _ ⟨rfl, rfl, rfl⟩ rfl h⟩
  case spopc =>
    intro h
    have := count32 popc _ ⟨rfl, rfl, rfl⟩ rfl h
    rwa [popc_eq_length] at this
  case spopcPair =>
    intro h
    have := count64 popc _ ⟨rfl, rfl, rfl⟩ rfl h
    rwa [popc_eq_length] at this
  case sbfx =>
    intro sx h
    have runs : execSbfx sx sd sa b s = issue (.sbfx sx sd sa b) s _ := rfl
    exact ⟨extractField sx x y, fun j hj => getLsbD_extractField sx x y hj, completes_writesS ⟨rfl, rfl, rfl⟩ runs h (by simp [x, y])⟩

/-! ### A write of a scalar register (R46) -/

/-- A write of word `i` of the active mask changes the lanes of that word only, and no lane that another holds. -/
theorem getLsbD_maskAfter (g : Group) (k : Nat) {i l : Nat} (old : Mask) (x : Word) (hl : l < 96) :
    (g.maskAfter k i old x).getLsbD l = if l / 32 = i then x.getLsbD (l % 32) && !(g.held k).getLsbD l else old.getLsbD l := by
  have sel : (((0xFFFFFFFF : Mask) <<< (32 * i)).getLsbD l) = decide (l / 32 = i) := by
    have ones : (0xFFFFFFFF : Mask) = (BitVec.allOnes 32).setWidth 96 := rfl
    rw [ones, BitVec.getLsbD_shiftLeft, BitVec.getLsbD_setWidth, BitVec.getLsbD_allOnes, Bool.eq_iff_iff]
    simp only [Bool.and_eq_true, Bool.not_eq_true', decide_eq_true_eq, decide_eq_false_iff_not]
    omega
  simp only [Group.maskAfter, BitVec.getLsbD_or, BitVec.getLsbD_and, BitVec.getLsbD_not, sel, BitVec.getLsbD_shiftLeft, BitVec.getLsbD_setWidth]
  by_cases inside : l / 32 = i
  · have bit : l - 32 * i = l % 32 := by omega
    simp [inside, hl, bit, show ¬ l < 32 * i by omega, show l % 32 < 96 by omega]
  · simp [inside, hl]

/-- Settles O4: below s125 the word is set; am0 to am2 change the mask of the split that writes. -/
theorem scalarRegisterWrite : Obligations.ScalarRegisterWrite := by
  intro g k n x sp split
  refine ⟨fun low => if_pos low, fun high top => ?_⟩
  have written : g.setS k n x = { g with splits := tmod k (fun sp => { sp with mask := g.maskAfter k (n - 125) sp.mask x }) g.splits } :=
    if_neg (by omega)
  refine ⟨g.maskAfter k (n - 125) sp.mask x, ?_, ?_, fun j hj => ?_, fun l hl => getLsbD_maskAfter g k sp.mask x hl⟩
  · rw [written]
  · simp [written, split]
  · simp only [written, tget_tmod_ne hj]

end Sys2Proof.Machine
end

section
/-! SUPPORT. The results of the L-set float family: the moulds of R375, the table of R108, minimum and maximum, and the statement about
them. -/

namespace Sys2Proof.Machine

/-! ### The moulds of R375 -/

/-- A ready instruction that runs the mould of R375 completes with the flushed function of the flushed sources. -/
theorem floatBin_completes {s : State} {gid k : Nat} {g : Group} {sp : Split} {i : Instr} {o : VBin} {vdSource : Bool}
    {f : Word → Word → Word → Word} {h : Nat → Word} (hi : Ready s gid k g sp i) (hr : g.room o.vd.toNat = true) (he : isEngine i = false)
    (hv : isVector i = true) (hx : exec i s = issue i s (floatBin o vdSource f)) (hd : vdSource = false → ∀ x y z z', f x y z = f x y z')
    (value : ∀ n, flush (g.gmode.getLsbD 0) (f (flush (g.gmode.getLsbD 0) (s.srcLane g o.a n)) (flush (g.gmode.getLsbD 0) (s.srcLane g o.b n))
      (flush (g.gmode.getLsbD 0) ((g.v o.vd.toNat).lane n))) = h n) :
    CompletesV i s gid k g sp o.vd.toNat h := by
  have runs : issue i s (floatBin o vdSource f) = issue i s (vecBin o vdSource noShape fun x y z =>
      flush (g.gmode.getLsbD 0) (f (flush (g.gmode.getLsbD 0) x) (flush (g.gmode.getLsbD 0) y) (flush (g.gmode.getLsbD 0) z))) := by
    rw [issue_ready hi he, issue_ready hi he]
    rfl
  have done := vecBin_words hi hr he hv (hx.trans runs) fun hb x y z z' => by rw [hd hb]
  rwa [funext value] at done

/-- A ready instruction that runs the mould of the special functions completes with the flushed function of the flushed source. -/
theorem floatUn_completes {s : State} {gid k : Nat} {g : Group} {sp : Split} {i : Instr} {o : VUn} {f : Word → Word}
    (hi : Ready s gid k g sp i) (hr : g.room o.vd.toNat = true) (he : isEngine i = false) (hv : isVector i = true)
    (hx : exec i s = issue i s (floatUn o f)) :
    CompletesV i s gid k g sp o.vd.toNat fun n => flush (g.gmode.getLsbD 0) (f (flush (g.gmode.getLsbD 0) (s.srcLane g o.a n))) := by
  have runs : issue i s (floatUn o f) = issue i s (vecUn o (fun _ => none) fun x =>
      flush (g.gmode.getLsbD 0) (f (flush (g.gmode.getLsbD 0) x))) := by
    rw [issue_ready hi he, issue_ready hi he]
    rfl
  exact vecUn_completes hi he hv hr (hx.trans runs) fun _ _ hn => nomatch hn

/-! ### The table of R108 -/

/-- Where the table has a result, it is the special function's. -/
theorem special_of_exact {f : Config.SpecialFn} {x w : Word} (h : specialExact f (ofF32 x) = some w) : special f x = w := by
  simp only [special, h]

theorem special_nan (f : Config.SpecialFn) {w : Word} (h : (ofF32 w).isNan = true) : special f w = canonNan := by
  refine special_of_exact ?_
  cases e : ofF32 w with
  | nan => cases f <;> rfl
  | inf _ | fin _ _ _ => rw [e] at h; cases h

theorem special_rcp_pow2 : ∀ (neg : Bool) (i : Fin 255),
    special .rcp (toF32 .rn (.fin neg 1 ((i : Int) - 127))) = toF32 .rn (.fin neg 1 (-((i : Int) - 127))) := by decide +kernel

theorem special_rsq_pow2 : ∀ i : Fin 138,
    special .rsq (toF32 .rn (.fin false 1 (2 * ((i : Int) - 74)))) = toF32 .rn (.fin false 1 (-((i : Int) - 74))) := by decide +kernel

theorem special_ex2_int : ∀ i : Fin 277,
    special .ex2 (toF32 .rn (ExactVal.ofInt ((i : Int) - 149))) = toF32 .rn (.fin false 1 ((i : Int) - 149)) := by decide +kernel

theorem special_lg2_pow2 : ∀ i : Fin 277,
    special .lg2 (toF32 .rn (.fin false 1 ((i : Int) - 149))) = toF32 .rn (ExactVal.ofInt ((i : Int) - 149)) := by decide +kernel

/-- A statement about the whole numbers of a range holds of each of them. -/
theorem forall_int_of_fin {P : Int → Prop} {lo : Int} {m : Nat} (h : ∀ i : Fin m, P ((i : Int) - lo)) (n : Int) (low : -lo ≤ n)
    (high : n < m - lo) : P n := by
  have := h ⟨(n + lo).toNat, by omega⟩
  rwa [show (((n + lo).toNat : Nat) : Int) - lo = n by omega] at this

/-- Below zero there are −∞ and the negative numbers but −0. -/
theorem lt_zero_iff {x : ExactVal} : x.lt (.fin false 0 0) = true ↔ x = .inf true ∨ ∃ m e, x = .fin true m e ∧ m ≠ 0 := by
  cases x with
  | nan => simp [ExactVal.lt]
  | inf n => cases n <;> simp [ExactVal.lt]
  | fin n m e =>
    have : 0 < pow2 (e - min e 0) := Nat.two_pow_pos _
    cases n <;> simp [ExactVal.lt, Nat.pos_iff_ne_zero, this.ne']

theorem special_negative {w : Word} (h : (ofF32 w).lt (.fin false 0 0) = true) : special .rsq w = canonNan ∧ special .lg2 w = canonNan := by
  obtain e | ⟨m, q, e, hm⟩ := lt_zero_iff.1 h
  · exact ⟨special_of_exact (by rw [e]; rfl), special_of_exact (by rw [e]; rfl)⟩
  · exact ⟨special_of_exact (by simp [e, specialExact, hm]), special_of_exact (by simp [e, specialExact, hm])⟩

theorem pow2_of_nonpos {e : Int} (h : e ≤ 0) : pow2 e = 1 := by simp [pow2, Int.toNat_of_nonpos h]

/-- From 128 on the power of two is beyond the format. -/
theorem special_ex2_large {w : Word} (nan : (ofF32 w).isNan = false) (h : (ofF32 w).lt (ExactVal.ofInt 128) = false) :
    special .ex2 w = 0x7F800000 := by
  refine special_of_exact ?_
  cases e : ofF32 w with
  | nan => rw [e] at nan; cases nan
  | inf n => cases n with
    | false => rfl
    | true => rw [e] at h; cases h
  | fin n m q =>
    rw [e] at h
    simp only [ExactVal.lt, ExactVal.ofInt, decide_eq_false_iff_not] at h
    have large : n = false ∧ (128 * pow2 (-q) ≤ m * pow2 q) := by
      rcases le_total q 0 with hq | hq
      · rw [min_eq_left hq, sub_self, zero_sub] at h
        have p0 : pow2 0 = 1 := rfl
        rw [pow2_of_nonpos hq]
        have pos : 0 < pow2 (-q) := Nat.two_pow_pos _
        cases n
        · simp [p0] at h; refine ⟨rfl, ?_⟩; omega
        · simp [p0] at h; omega
      · rw [min_eq_right hq, sub_self, sub_zero] at h
        have p0 : pow2 0 = 1 := rfl
        rw [pow2_of_nonpos (e := -q) (by omega)]
        cases n
        · simp [p0] at h; exact ⟨rfl, by exact_mod_cast h⟩
        · simp [p0] at h; norm_cast at h; omega
    obtain ⟨rfl, large⟩ := large
    have hm : m ≠ 0 := by
      rintro rfl
      have : 0 < pow2 (-q) := Nat.two_pow_pos _
      omega
    have quotient : 128 ≤ m * pow2 q / pow2 (-q) := (Nat.le_div_iff_mul_le (Nat.two_pow_pos _)).2 large
    simp only [specialExact, hm, if_false, Bool.not_false, true_and, quotient, or_true, if_true]
    rfl

/-- Down from −150 the power of two is 0. -/
theorem special_ex2_small {w : Word} (nan : (ofF32 w).isNan = false) (h : (ExactVal.ofInt (-150)).lt (ofF32 w) = false) :
    special .ex2 w = 0 := by
  refine special_of_exact ?_
  cases e : ofF32 w with
  | nan => rw [e] at nan; cases nan
  | inf n => cases n with
    | true => rfl
    | false => rw [e] at h; cases h
  | fin n m q =>
    rw [e] at h
    simp only [ExactVal.lt, ExactVal.ofInt, decide_eq_false_iff_not] at h
    have small : n = true ∧ (150 * pow2 (-q) ≤ m * pow2 q) := by
      rcases le_total q 0 with hq | hq
      · rw [min_eq_right hq, sub_self, zero_sub] at h
        have p0 : pow2 0 = 1 := rfl
        rw [pow2_of_nonpos hq]
        have pos : 0 < pow2 (-q) := Nat.two_pow_pos _
        cases n
        · simp [p0] at h; omega
        · simp [p0] at h; refine ⟨rfl, ?_⟩; omega
      · rw [min_eq_left hq, sub_self, sub_zero] at h
        have p0 : pow2 0 = 1 := rfl
        rw [pow2_of_nonpos (e := -q) (by omega)]
        cases n
        · simp [p0] at h; norm_cast at h; omega
        · simp [p0] at h; exact ⟨rfl, by exact_mod_cast h⟩
    obtain ⟨rfl, small⟩ := small
    have hm : m ≠ 0 := by
      rintro rfl
      have : 0 < pow2 (-q) := Nat.two_pow_pos _
      omega
    simp [specialExact, hm, small]

/-! ### Minimum and maximum (R107) -/

theorem ExactVal.lt_asymm {x y : ExactVal} (h : x.lt y = true) : y.lt x = false := by
  cases x <;> cases y <;> simp_all [ExactVal.lt, min_comm, le_of_lt]

theorem fMin_fMax_spec (x y : Word) :
    let nan (w : Word) : Prop := (ofF32 w).isNan = true
    (nan x → nan y → fMin x y = canonNan ∧ fMax x y = canonNan)
      ∧ (nan x → ¬ nan y → fMin x y = y ∧ fMax x y = y)
      ∧ (¬ nan x → nan y → fMin x y = x ∧ fMax x y = x)
      ∧ (¬ nan x → ¬ nan y → (ofF32 x).lt (ofF32 y) = true → fMin x y = x ∧ fMax x y = y)
      ∧ (¬ nan x → ¬ nan y → (ofF32 y).lt (ofF32 x) = true → fMin x y = y ∧ fMax x y = x) := by
  intro nan
  have asymm := ExactVal.lt_asymm (x := ofF32 x) (y := ofF32 y)
  have asymm' := ExactVal.lt_asymm (x := ofF32 y) (y := ofF32 x)
  simp only [nan, fMin, fMax]
  generalize ofF32 x = a at *
  generalize ofF32 y = b at *
  refine ⟨?_, ?_, ?_, ?_, ?_⟩ <;> cases a <;> cases b <;> simp_all [ExactVal.isNan]

/-- Settles O7, from the float moulds, the table of R108 and what FP32 minimum and maximum choose. -/
theorem vectorFloatResults : Obligations.VectorFloatResults := by
  refine ⟨fun s gid k g sp o u => ?results, fun x y => ?choice⟩
  case results =>
    intro z a b d rounded gives gives1
    refine ⟨?vfadd, ?vfsub, ?vfmul, ?pp, ?np, ?nc, ?npc, ?vfmin, ?vfmax, ?vfrcp, ?vfrsq, ?vfex2, ?vflg2, fun f _ => special_nan f, ?rcp, ?rcpPow2,
      ?rsq, ?rsqPow2, fun _ => special_negative, ?ex2, ?ex2Int, fun _ => special_ex2_large, fun _ => special_ex2_small, ?lg2, ?lg2Pow2, ?words⟩
    case pp | np | nc | npc => exact fun h hr => floatBin_completes h hr rfl rfl rfl nofun fun n => flush_roundRne _ _
    case vfadd | vfsub | vfmul =>
      exact fun h hr => floatBin_completes h hr rfl rfl rfl (fun _ _ _ _ _ => rfl) fun n => flush_roundRne _ _
    case vfmin | vfmax => exact fun h hr => floatBin_completes h hr rfl rfl rfl (fun _ _ _ _ _ => rfl) fun n => rfl
    case vfrcp | vfrsq | vfex2 | vflg2 => exact fun h hr => floatUn_completes h hr rfl rfl rfl
    case rcp | rsq | ex2 | lg2 => decide +kernel
    case rcpPow2 =>
      exact fun neg n low high =>
        forall_int_of_fin (m := 255) (P := fun n => special .rcp (toF32 .rn (.fin neg 1 n)) = toF32 .rn (.fin neg 1 (-n)))
          (special_rcp_pow2 neg) n low (by omega)
    case rsqPow2 =>
      exact fun n low high =>
        forall_int_of_fin (m := 138) (P := fun n => special .rsq (toF32 .rn (.fin false 1 (2 * n))) = toF32 .rn (.fin false 1 (-n)))
          special_rsq_pow2 n low (by omega)
    case ex2Int =>
      exact fun n low high =>
        forall_int_of_fin (m := 277) (P := fun n => special .ex2 (toF32 .rn (ExactVal.ofInt n)) = toF32 .rn (.fin false 1 n))
          special_ex2_int n low (by omega)
    case lg2Pow2 =>
      exact fun n low high =>
        forall_int_of_fin (m := 277) (P := fun n => special .lg2 (toF32 .rn (.fin false 1 n)) = toF32 .rn (ExactVal.ofInt n))
          special_lg2_pow2 n low (by omega)
    case words => decide +kernel
  case choice =>
    obtain ⟨a, b, c, d, e⟩ := fMin_fMax_spec x y
    exact ⟨a, b, c, d, e, by decide +kernel⟩

end Sys2Proof.Machine
end

section
/-! SUPPORT. The results of the conversions: elements of a lane read, replaced and moved, and the statement about them. -/

namespace Sys2Proof.Machine

/-! ### Elements of a lane (R114) -/

theorem testBit_elem (w j i : Nat) (x : Word) : (elem w j x).testBit i = (decide (i < w) && x.getLsbD (w * j + i)) := by
  simp only [elem, Nat.testBit_mod_two_pow, Nat.testBit_div_two_pow, BitVec.getLsbD, Nat.add_comm]

/-- The lane's bits from w·e up are those of the element put there, the others its own. -/
theorem getLsbD_putElem (w e v : Nat) (x : Word) {l : Nat} (hl : l < 32) :
    (putElem w e v x).getLsbD l = if w * e ≤ l ∧ l < w * e + w then v.testBit (l - w * e) else x.getLsbD l := by
  have placed : (BitVec.ofNat 32 (v * 2 ^ (w * e))).getLsbD l = (decide (w * e ≤ l) && v.testBit (l - w * e)) := by
    rw [BitVec.getLsbD_ofNat, Nat.testBit_mul_two_pow, decide_eq_true hl, Bool.true_and]
  simp only [putElem, BitVec.getLsbD_or, BitVec.getLsbD_and, BitVec.getLsbD_not, getLsbD_fieldMask _ _ hl, placed]
  split_ifs with inside <;> simp [inside, hl]

/-- Elements of different numbers share no bit. -/
theorem mem_elem_iff {w j e i : Nat} (hi : i < w) : w * e ≤ w * j + i ∧ w * j + i < w * e + w ↔ j = e := by
  constructor
  · rintro ⟨low, high⟩
    rw [← Nat.mul_succ] at high
    have below : w * e < w * (j + 1) := by rw [Nat.mul_succ]; omega
    have above : w * j < w * (e + 1) := by rw [Nat.mul_succ] at *; omega
    have := Nat.lt_of_mul_lt_mul_left below
    have := Nat.lt_of_mul_lt_mul_left above
    omega
  · rintro rfl
    omega

/-- An element that lies in the lane lies in its 32 bits. -/
theorem elem_bit_lt {w j i : Nat} (hj : j < 32 / w) (hi : i < w) : w * j + i < 32 := by
  have fits : (j + 1) * w ≤ 32 := (Nat.le_div_iff_mul_le (by omega)).1 hj
  have : w * j + w ≤ 32 := by rw [← Nat.mul_succ, Nat.mul_comm]; exact fits
  omega

/-- The element put into a lane is there, modulo 2^w, and the others are kept. -/
theorem elem_putElem {w e j : Nat} (v : Nat) (x : Word) (hj : j < 32 / w) :
    elem w j (putElem w e v x) = if j = e then v % 2 ^ w else elem w j x := by
  refine Nat.eq_of_testBit_eq fun i => ?_
  rw [testBit_elem]
  by_cases hi : i < w
  · rw [getLsbD_putElem w e v x (elem_bit_lt hj hi)]
    by_cases he : j = e
    · subst he
      simp [hi, Nat.testBit_mod_two_pow]
    · rw [if_neg ((mem_elem_iff hi).not.2 he), if_neg he, testBit_elem]
  · split <;> simp [hi, Nat.testBit_mod_two_pow, testBit_elem]

/-- The elements of a lane moved up by two: each is the one two below. -/
theorem elem_moved {w j : Nat} (x : Word) (hj : j < 32 / w) (h2 : 2 ≤ j) :
    elem w j (BitVec.ofNat 32 (x.toNat * 2 ^ (2 * w))) = elem w (j - 2) x := by
  refine Nat.eq_of_testBit_eq fun i => ?_
  rw [testBit_elem, testBit_elem]
  by_cases hi : i < w
  · have room : 2 * w ≤ w * j := by rw [Nat.mul_comm]; exact Nat.mul_le_mul_left w h2
    rw [BitVec.getLsbD_ofNat, Nat.testBit_mul_two_pow, Nat.mul_sub, Nat.mul_comm w 2, decide_eq_true (elem_bit_lt hj hi),
      decide_eq_true (show 2 * w ≤ w * j + i by omega), show w * j + i - 2 * w = w * j - 2 * w + i by omega]
    rfl
  · simp [hi]

/-- The elements of a format fill a lane. -/
theorem fmt_elems_eq (f : Fmt) : f.elems = 32 / Fmt.width f := by cases f <;> rfl

/-- The element of an integer format whose bits are a whole number's. -/
theorem ofNat_emod (i : Int) : BitVec.ofNat 32 (i % 2 ^ 32).toNat = BitVec.ofInt 32 i := by
  refine BitVec.eq_of_toNat_eq ?_
  rw [BitVec.toNat_ofInt, BitVec.toNat_ofNat, Nat.mod_eq_of_lt (by omega)]
  rfl

/-! ### What the three instructions give in a lane -/

/-- A ready instruction runs what its meaning is for the issuer's view of it. -/
theorem issue_congr {s : State} {gid k : Nat} {g : Group} {sp : Split} {i : Instr} {body body' : Ctx → State → Act}
    (h : Ready s gid k g sp i) (he : isEngine i = false) (hb : body (groupCtx gid k g sp i) s = body' (groupCtx gid k g sp i) s) :
    issue i s body = issue i s body' := by
  rw [issue_ready h he, issue_ready h he, hb]

theorem CompletesV.congr {i : Instr} {s : State} {gid k : Nat} {g : Group} {sp : Split} {vd : Nat} {f f' : Nat → Word}
    (h : CompletesV i s gid k g sp vd f) (e : ∀ n, f n = f' n) : CompletesV i s gid k g sp vd f' := (funext e : f = f') ▸ h

/-- VCVT's value of a lane with source `x`, scale `y` and old value `z` (R374). -/
def cvtLane (ftz : Bool) (e : Nat) (scl nosat : Bool) (rm : Rm) (dst src : Fmt) (x y z : Word) : Word :=
  let v := readFmt ftz src (if Fmt.isWide src then 0 else e) x
  let v := if scl then v.mul (ofF32 (flush ftz y)) else v
  if Fmt.isWide dst then BitVec.ofNat 32 (writeFmt ftz dst rm nosat v) else putElem (Fmt.width dst) e (writeFmt ftz dst rm nosat v) z

/-- The format of VPACK's sources (R398). -/
def packSource (dst : Fmt) : Fmt := match dst with | .i16 | .i8 | .n16 | .n8 => .i32 | _ => .f32

/-- VPACK's value of a lane with sources `x` and `y` and old value `z` (R398). -/
def packLane (ftz nosat : Bool) (rm : Rm) (dst : Fmt) (x y z : Word) : Word :=
  let v (x : Word) : Nat := packFmt dst rm nosat (readFmt ftz (packSource dst) 0 x)
  let w := Fmt.width dst
  putElem w 1 (v y) (putElem w 0 (v x) (BitVec.ofNat 32 (z.toNat * 2 ^ (2 * w))))

/-- The format of VUNPK's result (R412). -/
def unpkDest (src : Fmt) : Fmt := match src with | .i16 | .i8 => .i32 | .n16 | .n8 => .n32 | _ => .f32

/-- VUNPK's value of a lane (R412). -/
def unpkLane (ftz : Bool) (p : Nat) (src : Fmt) (x : Word) : Word :=
  BitVec.ofNat 32 (writeFmt ftz (unpkDest src) .rn false (readFmt ftz src p x))

theorem vcvt_runs {s : State} {gid k : Nat} {g : Group} {sp : Split} {e : BitVec 2} {scl nosat : Bool} {rm : Rm} {dst src : Fmt} {o : VBin}
    (h : Ready s gid k g sp (.vcvt e scl nosat rm dst src o)) :
    exec (.vcvt e scl nosat rm dst src o) s = issue (.vcvt e scl nosat rm dst src o) s
      (vecBin o (!dst.isWide) noShape (cvtLane (g.gmode.getLsbD 0) e.toNat scl nosat rm dst src)) := by
  have runs : execVcvt e scl nosat rm dst src o s = issue (.vcvt e scl nosat rm dst src o) s _ := rfl
  exact runs.trans (issue_congr h rfl rfl)

theorem vpack_runs {s : State} {gid k : Nat} {g : Group} {sp : Split} {nosat : Bool} {rm : Rm} {dst : Fmt} {o : VBin}
    (h : Ready s gid k g sp (.vpack nosat rm dst o)) :
    exec (.vpack nosat rm dst o) s = issue (.vpack nosat rm dst o) s (vecBin o true noShape (packLane (g.gmode.getLsbD 0) nosat rm dst)) := by
  have runs : execVpack nosat rm dst o s = issue (.vpack nosat rm dst o) s _ := rfl
  exact runs.trans (issue_congr h rfl rfl)

theorem vunpk_runs {s : State} {gid k : Nat} {g : Group} {sp : Split} {p : BitVec 2} {src : Fmt} {u : VUn}
    (h : Ready s gid k g sp (.vunpk p src u)) :
    exec (.vunpk p src u) s = issue (.vunpk p src u) s (vecUn u (fun _ => none) (unpkLane (g.gmode.getLsbD 0) p.toNat src)) := by
  have runs : execVunpk p src u s = issue (.vunpk p src u) s _ := rfl
  exact runs.trans (issue_congr h rfl rfl)

/-- VPACK's lane: the two new elements, and the older ones moved up by two. -/
theorem elem_packLane {ftz nosat : Bool} {rm : Rm} {dst : Fmt} (x y z : Word) {j : Nat} (hj : j < dst.elems) :
    elem (Fmt.width dst) j (packLane ftz nosat rm dst x y z) =
      if j = 0 then packFmt dst rm nosat (readFmt ftz (packSource dst) 0 x) % 2 ^ Fmt.width dst
      else if j = 1 then packFmt dst rm nosat (readFmt ftz (packSource dst) 0 y) % 2 ^ Fmt.width dst
      else elem (Fmt.width dst) (j - 2) z := by
  rw [fmt_elems_eq] at hj
  unfold packLane
  rw [elem_putElem _ _ hj, elem_putElem _ _ hj]
  obtain rfl | rfl | h2 : j = 0 ∨ j = 1 ∨ 2 ≤ j := by omega
  · rfl
  · rfl
  · rw [if_neg (by omega), if_neg (by omega), if_neg (by omega), if_neg (by omega), elem_moved _ hj h2]

/-! ### The statement -/

/-- Settles O8: the three instructions are moulds of R363 with their function of the lanes, whose elements are those put there or kept. -/
theorem vectorConversionResults : Obligations.VectorConversionResults := by
  intro s gid k g sp o u e scl nosat rm dst src ftz el a b d val bits
  refine ⟨fun h hr => ?vcvt, fun h hr => ?vpack, fun h hr => ?vunpk⟩
  case vcvt =>
    refine ⟨_, vecBin_words h hr rfl rfl (vcvt_runs h) ?_, fun n hn => ?_⟩
    · intro wide x y z z'
      simp only [Bool.not_eq_false'] at wide
      simp only [cvtLane, wide, if_true]
    · simp only [cvtLane]
      split
      · rfl
      · exact fun j hj => elem_putElem _ _ (fmt_elems_eq dst ▸ hj)
  case vpack =>
    have narrow : dst.isWide = false := by
      have limits := h.wf
      simp only [Instr.wf, Bool.and_eq_true, Bool.not_eq_true'] at limits
      exact limits.1
    have notF32 : dst ≠ .f32 := by rintro rfl; cases narrow
    have source : (if dst = .i16 ∨ dst = .i8 ∨ dst = .n16 ∨ dst = .n8 then Fmt.i32 else .f32) = packSource dst := by cases dst <;> rfl
    refine ⟨_, vecBin_words h hr rfl rfl (vpack_runs h) nofun, fun n hn => ?_⟩
    intro from' j hj
    refine (elem_packLane _ _ _ hj).trans ?_
    simp only [from', source, bits, if_neg notF32]
    rfl
  case vunpk =>
    refine (vecUn_completes h rfl rfl hr (vunpk_runs h) fun _ _ hn => nomatch hn).congr fun n => ?_
    cases src with
    | i16 | i8 | n16 | n8 => exact ofNat_emod _
    | i32 | n32 | f32 | bf16 | e4m3 | hs4 => exact BitVec.ofNat_toNat _ _

end Sys2Proof.Machine
end

section
/-! SUPPORT. FP32 words as numbers: the value of a word, the order of the values, and which words are NaNs (R104, R105, R107). -/

namespace Sys2Proof.Machine

/-! ### The value of a word -/

/-- The bits of an FP32 word without its sign. -/
def magBits (w : Word) : Nat := w.toNat % 2 ^ 31

theorem toNat_eq_magBits (w : Word) : w.toNat = (if w.msb then 2 ^ 31 else 0) + magBits w := by
  have := w.isLt
  rw [BitVec.msb_eq_decide, magBits]
  simp only [decide_eq_true_eq]
  split <;> omega

/-- The significand of the finite value with magnitude bits `t`. -/
def mantOf (t : Nat) : Nat := if t < 2 ^ 23 then t else t % 2 ^ 23 + 2 ^ 23

/-- The exponent of the finite value with magnitude bits `t`, above the least one. -/
def expOf (t : Nat) : Nat := t / 2 ^ 23 - 1

/-- A word is a NaN, an infinity or the number that its significand and exponent give. -/
theorem ofF32_eq (w : Word) : ofF32 w =
    if 0x7F800000 < magBits w then .nan else if magBits w = 0x7F800000 then .inf w.msb
    else .fin w.msb (mantOf (magBits w)) (-149 + expOf (magBits w)) := by
  have value := toNat_eq_magBits w
  have small : magBits w < 2 ^ 31 := Nat.mod_lt _ (by decide)
  have sign : decide (w.toNat / 2 ^ (24 + 7) % 2 = 1) = w.msb := by
    rw [BitVec.msb_eq_decide]; congr 1; simp only [eq_iff_iff]; have := w.isLt; omega
  have exponent : w.toNat / 2 ^ (24 - 1) % 256 = magBits w / 2 ^ 23 := by rw [value]; split <;> omega
  have fraction : w.toNat % 2 ^ (24 - 1) = magBits w % 2 ^ 23 := by rw [value]; split <;> omega
  simp only [ofF32, ofBin, sign, exponent, fraction]
  generalize magBits w = t at *
  by_cases nan : 0x7F800000 < t
  · rw [if_pos (by omega), if_neg (by omega), if_pos nan]
  by_cases inf : t = 0x7F800000
  · rw [if_pos (by omega), if_pos (by omega), if_neg nan, if_pos inf]
  rw [if_neg (by omega), if_neg nan, if_neg inf]
  by_cases sub : t < 2 ^ 23
  · rw [if_pos (by omega), mantOf, if_pos sub, expOf, Nat.mod_eq_of_lt sub, show t / 2 ^ 23 - 1 = 0 by omega]
    rfl
  · rw [if_neg (by omega), mantOf, if_neg sub, expOf]
    congr 1
    omega

theorem isNan_ofF32 (w : Word) : (ofF32 w).isNan = true ↔ 0x7F800000 < magBits w := by
  rw [ofF32_eq]
  split_ifs <;> simp_all [ExactVal.isNan]

/-! ### The order of the values -/

/-- A finite magnitude in units of the least one. -/
def unitsOf (t : Nat) : Nat := mantOf t * 2 ^ expOf t

theorem unitsOf_zero : unitsOf 0 = 0 := rfl

theorem unitsOf_strictMono : StrictMono unitsOf := by
  refine strictMono_nat_of_lt_succ fun t => ?_
  simp only [unitsOf, mantOf, expOf]
  by_cases sub : t + 1 < 2 ^ 23
  · rw [if_pos (by omega), if_pos sub, show t / 2 ^ 23 - 1 = 0 by omega, show (t + 1) / 2 ^ 23 - 1 = 0 by omega]
    omega
  rw [if_neg sub]
  by_cases first : t < 2 ^ 23
  · rw [if_pos first, show t / 2 ^ 23 - 1 = 0 by omega, show (t + 1) / 2 ^ 23 - 1 = 0 by omega]
    omega
  rw [if_neg first]
  by_cases carry : (t + 1) % 2 ^ 23 = 0
  · rw [show (t + 1) / 2 ^ 23 - 1 = (t / 2 ^ 23 - 1) + 1 by omega, carry, pow_succ 2 (t / 2 ^ 23 - 1),
      show t % 2 ^ 23 = 2 ^ 23 - 1 by omega]
    have : 0 < 2 ^ (t / 2 ^ 23 - 1) := Nat.two_pow_pos _
    omega
  · rw [show (t + 1) / 2 ^ 23 - 1 = t / 2 ^ 23 - 1 by omega, show (t + 1) % 2 ^ 23 = t % 2 ^ 23 + 1 by omega]
    exact Nat.mul_lt_mul_of_pos_right (by omega) (Nat.two_pow_pos _)

/-- ±n as an integer. -/
def signed (neg : Bool) (n : Nat) : Int := if neg then -(n : Int) else n

theorem signed_eq_mul (neg : Bool) (n : Nat) : signed neg n = (if neg then -1 else 1) * (n : Int) := by
  cases neg <;> simp [signed]

theorem pow2_add {a b : Int} (ha : 0 ≤ a) (hb : 0 ≤ b) : pow2 (a + b) = pow2 a * pow2 b := by
  rw [pow2, pow2, pow2, Int.toNat_add ha hb, pow_add]

/-- Finite values are compared as integers at any exponent that is not above theirs. -/
theorem lt_fin_iff {a b : Bool} {m n : Nat} {e f q : Int} (he : q ≤ e) (hf : q ≤ f) :
    (ExactVal.fin a m e).lt (.fin b n f) = true ↔ signed a (m * pow2 (e - q)) < signed b (n * pow2 (f - q)) := by
  have low : q ≤ min e f := le_min he hf
  have scale : ∀ {g : Int}, min e f ≤ g → pow2 (g - q) = pow2 (g - min e f) * pow2 (min e f - q) := by
    intro g hg
    rw [← pow2_add (by omega) (by omega)]
    congr 1
    omega
  have pos : (0 : Int) < (pow2 (min e f - q) : Nat) := by exact_mod_cast Nat.two_pow_pos _
  simp only [ExactVal.lt, decide_eq_true_eq, signed_eq_mul, scale (min_le_left e f), scale (min_le_right e f)]
  push_cast
  rw [← mul_assoc (m : Int), ← mul_assoc (n : Int), ← mul_assoc _ _ (pow2 (min e f - q) : Int), ← mul_assoc _ _ (pow2 (min e f - q) : Int)]
  exact (mul_lt_mul_iff_left₀ pos).symm

/-- A word's place in the order of the values: −0 and +0 share theirs. -/
def orderKey (w : Word) : Int := signed w.msb (magBits w)

theorem orderKey_eq (w : Word) : orderKey w = if w.msb then 2 ^ 31 - (w.toNat : Int) else (w.toNat : Int) := by
  have value := toNat_eq_magBits w
  unfold orderKey signed
  cases sign : w.msb <;> simp only [sign, if_true, Bool.false_eq_true, if_false] at value ⊢ <;> omega

/-- Signed magnitudes are ordered as their images under a strictly rising function from 0. -/
theorem signed_lt_iff {f : Nat → Nat} (hf : StrictMono f) (h0 : f 0 = 0) (a b : Bool) (m n : Nat) :
    signed a (f m) < signed b (f n) ↔ signed a m < signed b n := by
  have mn := hf.lt_iff_lt (a := m) (b := n)
  have nm := hf.lt_iff_lt (a := n) (b := m)
  have m0 := hf.lt_iff_lt (a := 0) (b := m)
  have n0 := hf.lt_iff_lt (a := 0) (b := n)
  rw [h0] at m0 n0
  cases a <;> cases b <;> simp only [signed, if_true, Bool.false_eq_true, if_false] <;> omega

/-- Words that are no NaNs are ordered as their keys are. -/
theorem lt_ofF32_iff (p q : Word) : (ofF32 p).lt (ofF32 q) = true ↔
    ¬ ((ofF32 p).isNan = true ∨ (ofF32 q).isNan = true) ∧ orderKey p < orderKey q := by
  rw [isNan_ofF32, isNan_ofF32, ofF32_eq, ofF32_eq, orderKey, orderKey]
  generalize magBits p = t
  generalize magBits q = u
  by_cases nanP : 0x7F800000 < t
  · simp [nanP, ExactVal.lt]
  by_cases nanQ : 0x7F800000 < u
  · simp only [nanQ, if_true, or_true, not_true_eq_false, false_and, iff_false]
    cases (if 0x7F800000 < t then ExactVal.nan else if t = 0x7F800000 then .inf p.msb else .fin p.msb (mantOf t) (-149 + expOf t)) <;>
      simp [ExactVal.lt]
  simp only [nanP, nanQ, if_false, or_self, not_false_eq_true, true_and]
  by_cases infP : t = 0x7F800000 <;> by_cases infQ : u = 0x7F800000
  · subst infP infQ
    cases p.msb <;> cases q.msb <;> decide
  · rw [if_pos infP, if_neg infQ]
    cases p.msb <;> cases q.msb <;> simp [ExactVal.lt, signed] <;> omega
  · rw [if_neg infP, if_pos infQ]
    cases p.msb <;> cases q.msb <;> simp [ExactVal.lt, signed] <;> omega
  · rw [if_neg infP, if_neg infQ, lt_fin_iff (q := -149) (by omega) (by omega)]
    have shift : ∀ e : Nat, pow2 (-149 + (e : Int) - -149) = 2 ^ e := fun e => by
      rw [show (-149 + (e : Int) - -149) = e by omega, pow2, Int.toNat_natCast]
    rw [shift, shift]
    exact signed_lt_iff unitsOf_strictMono unitsOf_zero _ _ t u

/-- Words equal as numbers are those with one key. -/
theorem eq_ofF32_iff (p q : Word) : (ofF32 p).eq (ofF32 q) = true ↔
    ¬ ((ofF32 p).isNan = true ∨ (ofF32 q).isNan = true) ∧ orderKey p = orderKey q := by
  have pq := lt_ofF32_iff p q
  have qp := lt_ofF32_iff q p
  simp only [ExactVal.eq, Bool.and_eq_true, Bool.not_eq_true', ← Bool.not_eq_true, pq, qp]
  constructor
  · rintro ⟨⟨⟨hp, hq⟩, h1⟩, h2⟩
    exact ⟨by tauto, by by_contra ne; rcases lt_or_gt_of_ne ne with h | h <;> tauto⟩
  · rintro ⟨hn, he⟩
    simp only [he, lt_irrefl, and_false, not_false_eq_true, and_true]
    tauto

/-! ### A rounded number is no NaN -/

theorem roundAt_le {p : Nat} {qmin : Int} {rm : Rm} {neg : Bool} {m : Nat} {e : Int} : roundAt (unitExp p qmin m e) rm neg m e ≤ 2 ^ p := by
  have width : m < 2 ^ (Nat.log2 m + 1) := Nat.lt_log2_self
  have least : (Nat.log2 m : Int) + 1 - p + e ≤ unitExp p qmin m e := le_max_left _ _
  generalize unitExp p qmin m e = q at *
  unfold roundAt
  split
  · next he =>
    have : pow2 (e - q) * 2 ^ (Nat.log2 m + 1) ≤ 2 ^ p := by
      rw [pow2, ← pow_add]
      exact Nat.pow_le_pow_right (by decide) (by omega)
    calc m * pow2 (e - q) ≤ 2 ^ (Nat.log2 m + 1) * pow2 (e - q) := Nat.mul_le_mul_right _ width.le
      _ ≤ 2 ^ p := by rwa [mul_comm]
  · next he =>
    have quotient : m / pow2 (q - e) < 2 ^ p := by
      rw [Nat.div_lt_iff_lt_mul (show 0 < pow2 (q - e) from Nat.two_pow_pos _), pow2, ← pow_add]
      exact width.trans_le (Nat.pow_le_pow_right (by decide) (by omega))
    have parity : m / pow2 (q - e) % 2 < 2 := Nat.mod_lt _ (by decide)
    dsimp only
    cases rm with
    | rz => exact quotient.le
    | rn | rd | ru => dsimp only; split_ifs <;> omega

theorem packFin_le {p w : Nat} {qmin : Int} {n : Nat} {q : Int} (hp : 0 < p) (hw : 0 < w) (hn : n ≤ 2 ^ p) :
    packFin p w qmin n q ≤ (2 ^ w - 1) * 2 ^ (p - 1) := by
  have half : 2 ^ p = 2 * 2 ^ (p - 1) := by rw [← pow_succ']; congr 1; omega
  have one : 1 ≤ 2 ^ w - 1 := by have := Nat.pow_le_pow_right (n := 2) (by decide) hw; omega
  have unit : 2 ^ (p - 1) ≤ (2 ^ w - 1) * 2 ^ (p - 1) := Nat.le_mul_of_pos_left _ one
  unfold packFin
  generalize hx : (if n = 2 ^ p then (2 ^ (p - 1), q + 1) else (n, q)) = x
  have bound : x.1 < 2 ^ p := by
    rw [← hx]
    split
    · rw [half]; have := Nat.two_pow_pos (p - 1); dsimp only; omega
    · dsimp only; omega
  obtain ⟨n', q'⟩ := x
  dsimp only at bound ⊢
  split
  · omega
  split
  · exact le_rfl
  · next le =>
    generalize (q' - qmin).toNat + 1 = be at *
    have : (be + 1) * 2 ^ (p - 1) ≤ (2 ^ w - 1) * 2 ^ (p - 1) := Nat.mul_le_mul_right _ (by omega)
    rw [Nat.add_mul] at this
    omega

/-- Rounding gives a NaN for a NaN only. -/
theorem isNan_toF32 (rm : Rm) (v : ExactVal) : (ofF32 (toF32 rm v)).isNan = v.isNan := by
  cases v with
  | nan => cases rm <;> rfl
  | inf n => cases n <;> cases rm <;> rfl
  | fin n m e =>
    rw [Bool.eq_iff_iff, isNan_ofF32]
    simp only [ExactVal.isNan, Bool.false_eq_true, iff_false, not_lt]
    have packed : packFin 24 8 (-149) (roundAt (unitExp 24 (-149) m e) rm n m e) (unitExp 24 (-149) m e) ≤ 0x7F800000 :=
      packFin_le (by decide) (by decide) roundAt_le
    have word : ∀ b ≤ 0x7F800000, magBits (BitVec.ofNat 32 (n.toNat * 2 ^ (24 + 7) + b)) ≤ 0x7F800000 := by
      intro b hb
      have : n.toNat ≤ 1 := Bool.toNat_le n
      rw [magBits, BitVec.toNat_ofNat]
      omega
    by_cases zero : m = 0
    · simpa only [toF32, packBin, if_pos zero, Nat.add_zero] using word 0 (by omega)
    simp only [toF32, packBin, if_neg zero]
    generalize packFin 24 8 (-149) (roundAt (unitExp 24 (-149) m e) rm n m e) (unitExp 24 (-149) m e) = b at packed ⊢
    split_ifs
    · have largest := word 0x7F7FFFFF (by omega)
      rwa [show n.toNat * 2 ^ (24 + 7) + 0x7F7FFFFF = n.toNat * 2 ^ (24 + 7) + 255 * 2 ^ (24 - 1) - 1 by omega] at largest
    · exact word b packed

end Sys2Proof.Machine
end

section
/-! SUPPORT. The results of the L-set compares, votes and reductions (R373, R377, R400, R401, R411, R413), and the statement about them. -/

namespace Sys2Proof.Machine

/-! ### Completion of an L-set instruction that writes scalar registers -/

theorem Group.setS_cache (g : Group) (k n : Nat) (x : Word) (c : List (Bool × Nat)) : { g.setS k n x with cache := c } = { g with cache := c }.setS k n x := by
  unfold Group.setS
  split <;> rfl

/-- Three registers written. -/
def Group.setTriple (g : Group) (k n : Nat) (m : Mask) : Group :=
  ((g.setS k n (maskWord m 0)).setS k (n + 1) (maskWord m 1)).setS k (n + 2) (maskWord m 2)

/-- An L-set instruction that leaves the group `g'` but for its operand cache completes so. -/
theorem completes_scalarsV {s t : State} {gid k : Nat} {g g' : Group} {sp sp' : Split} {i : Instr} {body : Ctx → State → Act}
    (hx : exec i s = issue i s body) (h : Ready s gid k g sp i) (he : isEngine i = false) (hv : isVector i = true)
    (hb : body (groupCtx gid k g sp i) s = .done t) (only : OnlyGroup s t gid g') (split : tget k g'.splits = some sp')
    (free : g'.stepped k = false) (quiet : g'.noStep) :
    Completes i s gid k { g' with cache := cacheAfter i (vDests i) } (sp.after i) := by
  unfold Completes
  rw [hx, issue_ready h he, hb]
  exact settle_doneV hv only split free quiet

theorem completes_writesSV {s : State} {gid k : Nat} {g : Group} {sp : Split} {i : Instr} {body : Ctx → State → Act} {n : Nat} {r : Word}
    (hx : exec i s = issue i s body) (h : Ready s gid k g sp i) (he : isEngine i = false) (hv : isVector i = true)
    (hb : body (groupCtx gid k g sp i) s = .done ((groupCtx gid k g sp i).setS n r s)) :
    Completes i s gid k ({ g with cache := cacheAfter i (vDests i) }.setS k n r) (sp.after i) := by
  obtain ⟨sp', split⟩ := Group.setS_split h.issues.split n r
  rw [← Group.setS_cache]
  exact completes_scalarsV hx h he hv hb (setS_only (.refl h.issues.group) n r) split (by rw [Group.setS_stepped]; exact h.free)
    (Group.noStep_setS h.quiet k n r)

theorem setTriple_only {s t : State} {gid k : Nat} {g g' : Group} {sp : Split} {i : Instr} (h : OnlyGroup s t gid g') (n : Nat) (m : Mask) :
    OnlyGroup s ((groupCtx gid k g sp i).setTriple n m t) gid (g'.setTriple k n m) :=
  ((h.modGroup _).modGroup _).modGroup _

theorem completes_writesTriple {s : State} {gid k : Nat} {g : Group} {sp : Split} {i : Instr} {body : Ctx → State → Act} {n : Nat} {m : Mask}
    (hx : exec i s = issue i s body) (h : Ready s gid k g sp i) (he : isEngine i = false) (hv : isVector i = true)
    (hb : body (groupCtx gid k g sp i) s = .done ((groupCtx gid k g sp i).setTriple n m s)) :
    Completes i s gid k ({ g with cache := cacheAfter i (vDests i) }.setTriple k n m) (sp.after i) := by
  obtain ⟨sp1, split1⟩ := Group.setS_split h.issues.split n (maskWord m 0)
  obtain ⟨sp2, split2⟩ := Group.setS_split split1 (n + 1) (maskWord m 1)
  obtain ⟨sp3, split3⟩ := Group.setS_split split2 (n + 2) (maskWord m 2)
  have cache : { g.setTriple k n m with cache := cacheAfter i (vDests i) } = { g with cache := cacheAfter i (vDests i) }.setTriple k n m := by
    simp only [Group.setTriple, Group.setS_cache]
  rw [← cache]
  refine completes_scalarsV hx h he hv hb (setTriple_only (.refl h.issues.group) n m) split3 ?_
    (Group.noStep_setS (Group.noStep_setS (Group.noStep_setS h.quiet k _ _) k _ _) k _ _)
  simp only [Group.setTriple, Group.setS_stepped]
  exact h.free

/-! ### Float conditions (R107, R377) -/

theorem fCond_holds_iff (c : FCond) (p q : Word) : c.holds (ofF32 p) (ofF32 q) = true ↔
    let un : Prop := (ofF32 p).isNan = true ∨ (ofF32 q).isNan = true
    match c with
    | .eq => ¬ un ∧ orderKey p = orderKey q | .ne => un ∨ orderKey p ≠ orderKey q | .lt => ¬ un ∧ orderKey p < orderKey q
    | .le => ¬ un ∧ orderKey p ≤ orderKey q | .gt => ¬ un ∧ orderKey q < orderKey p | .ge => ¬ un ∧ orderKey q ≤ orderKey p
    | .uo => un | .ord => ¬ un := by
  have lt := lt_ofF32_iff p q
  have gt := lt_ofF32_iff q p
  have eq := eq_ofF32_iff p q
  have nan := Bool.or_eq_true_iff (x := (ofF32 p).isNan) (y := (ofF32 q).isNan)
  rw [or_comm] at gt
  dsimp only
  generalize ((ofF32 p).isNan = true ∨ (ofF32 q).isNan = true) = un at *
  cases c
  case eq => exact eq
  case ne => rw [FCond.holds, Bool.not_eq_true', ← Bool.not_eq_true, eq]; tauto
  case lt => exact lt
  case le => rw [FCond.holds, Bool.or_eq_true, lt, eq, ← and_or_left, ← le_iff_lt_or_eq]
  case gt => exact gt
  case ge => rw [FCond.holds, Bool.or_eq_true, gt, eq, ← and_or_left, eq_comm, ← le_iff_lt_or_eq]
  case uo => exact nan
  case ord => rw [FCond.holds, Bool.not_eq_true', ← Bool.not_eq_true, nan]

/-! ### The table of R400 -/

theorem elem_bitwise {f : Nat → Nat → Nat} {b : Bool → Bool → Bool} (hf : ∀ x y i, (f x y).testBit i = b (x.testBit i) (y.testBit i))
    {p q r : Word} (hr : ∀ l, r.getLsbD l = b (p.getLsbD l) (q.getLsbD l)) (h0 : b false false = false) (w j : Nat) :
    elem w j r = f (elem w j p) (elem w j q) := by
  refine Nat.eq_of_testBit_eq fun i => ?_
  rw [hf, testBit_elem, testBit_elem, testBit_elem, hr]
  cases decide (i < w) <;> simp [h0]

/-- The combination of two values by an integer operation, element by element. -/
theorem elem_redCombine (op : RedOp) (t : ElemTy) (nat ftz : Bool) {j : Nat} (hj : j < 32 / t.width) (p q : Word) : op.isFloat = false →
    elem t.width j (redCombine op t nat ftz p q) =
      match op with
      | .add => (elem t.width j p + elem t.width j q) % 2 ^ t.width
      | .min => if elemInt (signedElems t nat) t.width (elem t.width j p) ≤ elemInt (signedElems t nat) t.width (elem t.width j q)
          then elem t.width j p else elem t.width j q
      | .max => if elemInt (signedElems t nat) t.width (elem t.width j p) ≤ elemInt (signedElems t nat) t.width (elem t.width j q)
          then elem t.width j q else elem t.width j p
      | .and => elem t.width j p &&& elem t.width j q | .or => elem t.width j p ||| elem t.width j q
      | .xor => elem t.width j p ^^^ elem t.width j q | _ => 0 := by
  intro hop
  have pick (max : Bool) : elem t.width j (mapElems t.width (fun x y _ => elemPick (signedElems t nat) max t.width x y) p q 0) =
      if elemInt (signedElems t nat) t.width (elem t.width j p) ≤ elemInt (signedElems t nat) t.width (elem t.width j q)
        then (if max then elem t.width j q else elem t.width j p) else (if max then elem t.width j p else elem t.width j q) := by
    rw [elem_mapElems t _ p q 0 hj, Nat.mod_eq_of_lt (elemPick_lt (elem_lt ..) (elem_lt ..)), elemPick_eq_ite_le max (elem_lt ..) (elem_lt ..)]
  cases op with
  | add => exact elem_mapElems t (fun x y _ => x + y) p q 0 hj
  | min => exact pick false
  | max => exact pick true
  | and => exact elem_bitwise (b := and) (fun _ _ _ => Nat.testBit_and ..) (fun _ => BitVec.getLsbD_and ..) rfl _ _
  | or => exact elem_bitwise (b := or) (fun _ _ _ => Nat.testBit_or ..) (fun _ => BitVec.getLsbD_or ..) rfl _ _
  | xor => exact elem_bitwise (b := Bool.xor) (fun _ _ _ => Nat.testBit_xor ..) (fun _ => BitVec.getLsbD_xor ..) rfl _ _
  | fadd | fmin | fmax => cases hop

theorem elemInt_eq_ite (signed : Bool) (w n : Nat) :
    elemInt signed w n = if !signed || decide (n < 2 ^ (w - 1)) then (n : Int) else (n : Int) - 2 ^ w := by
  cases signed <;> simp [elemInt, sInt]

theorem elem_zero (w j : Nat) : elem w j 0 = 0 := by simp [elem]

/-- The identities of the integer operations, element by element. -/
theorem elem_redIdentity (op : RedOp) (t : ElemTy) (nat : Bool) {j : Nat} (hj : j < 32 / t.width) : op.isFloat = false →
    elem t.width j (redIdentity op t nat) = match op with
      | .min => if signedElems t nat then 2 ^ (t.width - 1) - 1 else 2 ^ t.width - 1
      | .max => if signedElems t nat then 2 ^ (t.width - 1) else 0
      | .and => 2 ^ t.width - 1
      | _ => 0 := by
  intro hop
  have half : 2 ^ (t.width - 1) < 2 ^ t.width := Nat.pow_lt_pow_right (by decide) (by cases t <;> decide)
  have pos := Nat.two_pow_pos t.width
  have rep {x : Nat} (hx : x < 2 ^ t.width) : elem t.width j (ofElems t.width fun _ => x) = x := by rw [elem_ofElems t _ hj, Nat.mod_eq_of_lt hx]
  cases op with
  | add | or | xor => exact elem_zero _ _
  | and => exact rep (by omega)
  | min => dsimp only [redIdentity]; split <;> exact rep (by omega)
  | max =>
    dsimp only [redIdentity]
    split
    · exact rep half
    · exact elem_zero _ _
  | fadd | fmin | fmax => cases hop

/-! ### Reductions (R400, R401) -/

/-- A fold of VRED from nothing is the fold of its later values from the first. -/
def foldFirst (f : Word → Word → Word) (x : Nat → Word) (empty : Word) : List Nat → Word
  | [] => empty
  | n :: ns => ns.foldl (fun y m => f y (x m)) (x n)

/-- One more value of a reduction, after those combined so far. -/
def foldStep (f : Word → Word → Word) (acc : Option Word) (x : Word) : Option Word := some (match acc with | none => x | some y => f y x)

theorem foldl_foldStep (f : Word → Word → Word) (x : Nat → Word) (l : List Nat) (y : Word) :
    (l.map x).foldl (foldStep f) (some y) = some (l.foldl (fun y m => f y (x m)) y) := by
  induction l generalizing y with
  | nil => rfl
  | cons n l ih => exact ih _

theorem foldl_foldStep_none (f : Word → Word → Word) (x : Nat → Word) (empty : Word) (l : List Nat) :
    ((l.map x).foldl (foldStep f) none).getD empty = foldFirst f x empty l := by
  cases l with
  | nil => rfl
  | cons n l => exact congrArg (Option.getD · empty) (foldl_foldStep f x l (x n))

/-- A node of the tree of R123 over the values of its children. -/
def treeNode (f : Word → Word → Word) (l : Nat → Option Word) (i : Nat) : Option Word :=
  match l (2 * i), l (2 * i + 1) with
  | some x, some y => some (f x y)
  | some x, none => some x
  | none, y => y

theorem treeLevel_map (f : Word → Word → Word) (l : Nat → Option Word) (n : Nat) :
    treeLevel f ((List.range (2 * n)).map l) = (List.range n).map (treeNode f l) := by
  suffices ∀ n a, treeLevel f ((List.range' (2 * a) (2 * n)).map l) = (List.range' a n).map (treeNode f l) by
    simpa [List.range_eq_range'] using this n 0
  intro n
  induction n with
  | zero => exact fun _ => rfl
  | succ n ih =>
    intro a
    rw [show 2 * (n + 1) = 2 * n + 1 + 1 by omega, List.range'_succ, List.range'_succ, List.range'_succ, List.map_cons, List.map_cons,
      List.map_cons, ← ih (a + 1)]
    refine congrArg (· :: _) ?_
    unfold treeNode
    cases l (2 * a) <;> cases l (2 * a + 1) <;> rfl

/-- The root over 2^h leaves. -/
theorem treeRoot_map (f : Word → Word → Word) (h : Nat) (l : Nat → Option Word) :
    treeRoot f h ((List.range (2 ^ h)).map l) = Nat.rec (motive := fun _ => Nat → Option Word) l (fun _ l => treeNode f l) h 0 := by
  induction h generalizing l with
  | zero => rfl
  | succ h ih =>
    rw [treeRoot, pow_succ', treeLevel_map, ih]
    have commute : ∀ h, Nat.rec (motive := fun _ => Nat → Option Word) (treeNode f l) (fun _ l => treeNode f l) h
        = treeNode f (Nat.rec (motive := fun _ => Nat → Option Word) l (fun _ l => treeNode f l) h) := by
      intro h
      induction h with
      | zero => rfl
      | succ h ih => exact congrArg (treeNode f) ih
    rw [commute]

/-- The result of a float operation, canonical and flushed (R400). -/
def floatOut (ftz : Bool) (w : Word) : Word := if (ofF32 w).isNan then canonNan else flush ftz w

theorem redOut_float {op : RedOp} (h : op.isFloat = true) (ftz : Bool) (w : Word) : redOut op ftz w = floatOut ftz w := by
  rw [redOut, if_pos h, canonF, floatOut]
  split
  · exact flush_canonNan ftz
  · rfl

/-- A rounded result is canonical as it stands. -/
theorem flush_roundRne_eq_floatOut (ftz : Bool) (v : ExactVal) : flush ftz (roundRne v) = floatOut ftz (toF32 .rn v) := by
  rw [flush_roundRne, floatOut, isNan_toF32]

/-! ### The statement -/

theorem groupCtx_srcTag (gid k : Nat) (g : Group) (sp : Split) (i : Instr) (s : State) (x : VSrc) :
    ((groupCtx gid k g sp i).src s x).tag = s.srcTag g x := by
  cases x <;> rfl

theorem groupCtx_active (gid k : Nat) (g : Group) (sp : Split) (i : Instr) : (groupCtx gid k g sp i).active = lanes.filter (laneOn sp.mask) := rfl

end Sys2Proof.Machine
end

section
/-! OBLIGATIONS. L-set compares, votes, reductions and tag reads: their results and completions. -/

namespace Sys2Proof.Machine

theorem vcmp_completes {s : State} {gid k : Nat} {g : Group} {sp : Split} {c : Cond} {t : ElemTy} {nat : Bool} {o : VBin}
    (h : Ready s gid k g sp (.vcmp c t nat o)) :
    ∃ m : Mask, (∀ n, n < 96 → m.getLsbD n = (laneOn sp.mask n && allElems t.width (fun x y =>
        c.holds (elemInt (signedElems t nat) t.width x) (elemInt (signedElems t nat) t.width y)) (s.srcLane g o.a n) (s.srcLane g o.b n)))
      ∧ Completes (.vcmp c t nat o) s gid k ({ g with cache := cacheAfter (.vcmp c t nat o) (vDests (.vcmp c t nat o)) }.setTriple k o.vd.toNat m)
        (sp.after (.vcmp c t nat o)) := by
  have runs : execVcmp c t nat o s = issue (.vcmp c t nat o) s _ := rfl
  refine ⟨_, fun n hn => ?_, completes_writesTriple runs h rfl rfl rfl⟩
  rw [← laneOn, maskWhere_lane _ hn, groupCtx_mask, groupCtx_src, groupCtx_src]

theorem vfcmp_completes {s : State} {gid k : Nat} {g : Group} {sp : Split} {c : FCond} {o : VBin} (h : Ready s gid k g sp (.vfcmp c o)) :
    ∃ m : Mask, (∀ n, n < 96 → m.getLsbD n = (laneOn sp.mask n && c.holds (ofF32 (flush (g.gmode.getLsbD 0) (s.srcLane g o.a n)))
        (ofF32 (flush (g.gmode.getLsbD 0) (s.srcLane g o.b n)))))
      ∧ Completes (.vfcmp c o) s gid k ({ g with cache := cacheAfter (.vfcmp c o) (vDests (.vfcmp c o)) }.setTriple k o.vd.toNat m)
        (sp.after (.vfcmp c o)) := by
  have runs : execVfcmp c o s = issue (.vfcmp c o) s _ := rfl
  refine ⟨_, fun n hn => ?_, completes_writesTriple runs h rfl rfl rfl⟩
  rw [← laneOn, maskWhere_lane _ hn, groupCtx_mask, groupCtx_src, groupCtx_src, groupCtx_ftz]

theorem ballot_completes {s : State} {gid k : Nat} {g : Group} {sp : Split} {u : VUn} (h : Ready s gid k g sp (.vvote .ballot u)) :
    ∃ m : Mask, (∀ n, n < 96 → m.getLsbD n = (laneOn sp.mask n && s.srcLane g u.a n != 0))
      ∧ Completes (.vvote .ballot u) s gid k
        ({ g with cache := cacheAfter (.vvote .ballot u) (vDests (.vvote .ballot u)) }.setTriple k u.vd.toNat m) (sp.after (.vvote .ballot u)) := by
  have runs : execVvote .ballot u s = issue (.vvote .ballot u) s _ := rfl
  refine ⟨_, fun n hn => ?_, completes_writesTriple runs h rfl rfl rfl⟩
  rw [← laneOn, maskWhere_lane _ hn, groupCtx_mask, groupCtx_src]

/-- The lanes of a vote are the active ones whose value is not 0 (R413). -/
theorem votes_eq {s : State} {gid k : Nat} {g : Group} {sp : Split} {i : Instr} {u : VUn} :
    ((groupCtx gid k g sp i).active.filter fun n => ((groupCtx gid k g sp i).src s u.a).lane n != 0)
      = lanes.filter fun n => laneOn sp.mask n && s.srcLane g u.a n != 0 := by
  rw [groupCtx_active, List.filter_filter]
  simp only [groupCtx_src, Bool.and_comm]

theorem length_filter_and_eq_iff (l : List Nat) (p q : Nat → Bool) :
    (l.filter fun n => p n && q n).length = (l.filter p).length ↔ (l.filter fun n => p n && q n) = l.filter p := by
  refine ⟨fun h => ?_, congrArg _⟩
  have sub : (l.filter fun n => p n && q n) = (l.filter p).filter q := by rw [List.filter_filter]; simp only [Bool.and_comm]
  rw [sub] at h ⊢
  exact List.filter_sublist.eq_of_length h

/-- VRED writes the combination of the active lanes' values. -/
theorem vred_completes {s : State} {gid k : Nat} {g : Group} {sp : Split} {op : RedOp} {t : ElemTy} {nat : Bool} {u : VUn}
    (h : Ready s gid k g sp (.vred op t nat u)) (hop : op ≠ .fadd) :
    Completes (.vred op t nat u) s gid k ({ g with cache := cacheAfter (.vred op t nat u) (vDests (.vred op t nat u)) }.setS k u.vd.toNat
      (redOut op (g.gmode.getLsbD 0) (foldFirst (redCombine op t nat (g.gmode.getLsbD 0))
        (fun n => redIn op (g.gmode.getLsbD 0) (s.srcLane g u.a n)) (redIdentity op t nat) (lanes.filter (laneOn sp.mask)))))
      (sp.after (.vred op t nat u)) := by
  have runs : execVred op t nat u s = issue (.vred op t nat u) s _ := rfl
  refine completes_writesSV runs h rfl rfl ?_
  rw [← foldl_foldStep_none]
  simp only [if_neg hop, groupCtx_ftz, groupCtx_src, groupCtx_active]
  rfl

/-- VRED.fadd writes the root of the tree over the active lanes' values. -/
theorem vred_fadd_completes {s : State} {gid k : Nat} {g : Group} {sp : Split} {t : ElemTy} {nat : Bool} {u : VUn}
    (h : Ready s gid k g sp (.vred .fadd t nat u)) :
    Completes (.vred .fadd t nat u) s gid k ({ g with cache := cacheAfter (.vred .fadd t nat u) (vDests (.vred .fadd t nat u)) }.setS k u.vd.toNat
      (redOut .fadd (g.gmode.getLsbD 0) ((treeRoot (redCombine .fadd t nat (g.gmode.getLsbD 0)) 7 ((List.range (2 ^ 7)).map fun n =>
        if n < 96 ∧ laneOn sp.mask n then some (flush (g.gmode.getLsbD 0) (s.srcLane g u.a n)) else none)).getD 0)))
      (sp.after (.vred .fadd t nat u)) := by
  have runs : execVred .fadd t nat u s = issue (.vred .fadd t nat u) s _ := rfl
  refine completes_writesSV runs h rfl rfl ?_
  simp only [if_true, groupCtx_ftz, groupCtx_src, groupCtx_mask]
  rfl

theorem floatOut_zero (ftz : Bool) : floatOut ftz 0 = 0 := by cases ftz <;> decide

/-- The infinities are canonical. -/
theorem floatOut_inf (ftz : Bool) : floatOut ftz 0x7F800000 = 0x7F800000 ∧ floatOut ftz 0xFF800000 = 0xFF800000 := by cases ftz <;> decide

/-- The result of a float fold: the canonical one of its values, or that of no value. -/
theorem floatOut_foldFirst {ftz : Bool} {f : Word → Word → Word} {x : Nat → Word} {empty : Word} (he : floatOut ftz empty = empty) (l : List Nat) :
    floatOut ftz (foldFirst f x empty l) = match l with | [] => empty | n :: ns => floatOut ftz (ns.foldl (fun y m => f y (x m)) (x n)) := by
  cases l with
  | nil => exact he
  | cons n ns => rfl

/-- Settles O9, from the completion of each instruction, the fold of a reduction and the tree of a float sum. -/
theorem vectorToScalarResults : Obligations.VectorToScalarResults := by
  intro s gid k g sp o u ftz a b x kept mask word votes active z out sum leaf node tree fold
  refine ⟨?vcmp, ?cond, ?fcond, ?nan, ?vfcmp, ?ballot, ?any, ?all, ?count, ?tag, ?vred, ?table, ?fadd, ?fmin, ?fmax⟩
  case vcmp =>
    intro c t nat h
    obtain ⟨m, bits, done⟩ := vcmp_completes h
    refine ⟨m, fun n hn => (bits n hn).trans ?_, done⟩
    simp only [allElems, elemInt_signedElems]
    rfl
  case cond => intro c p q; cases c <;> simp [Cond.holds]
  case fcond =>
    intro c p q
    have key : ∀ w : Word, orderKey w = if w.msb then 2 ^ 31 - (w.toNat : Int) else (w.toNat : Int) := orderKey_eq
    have holds := fCond_holds_iff c p q
    simp only [key] at holds
    exact holds
  case nan => exact isNan_ofF32
  case vfcmp => exact fun c h => vfcmp_completes h
  case ballot => exact fun h => ballot_completes h
  case any =>
    intro h
    have runs : execVvote .any u s = issue (.vvote .any u) s _ := rfl
    refine completes_writesSV runs h rfl rfl ?_
    simp only [votes_eq, List.isEmpty_iff]
    rfl
  case all =>
    intro h
    have runs : execVvote .all u s = issue (.vvote .all u) s _ := rfl
    refine completes_writesSV runs h rfl rfl ?_
    simp only [votes_eq]
    simp only [groupCtx_active, length_filter_and_eq_iff, votes, active, x]
  case count =>
    intro h
    have runs : execVvote .count u s = issue (.vvote .count u) s _ := rfl
    refine completes_writesSV runs h rfl rfl ?_
    simp only [votes_eq]
    rfl
  case tag =>
    intro h
    have runs : execVtag .read u s = issue (.vtag .read u) s _ := rfl
    exact completes_writesSV runs h rfl rfl (by simp only [groupCtx_srcTag])
  case vred =>
    intro op t nat hop h
    have done := vred_completes h (by rintro rfl; cases hop)
    simp only [redOut, redIn, hop] at done
    exact done
  case table =>
    intro op t nat j hop hj e signed int
    have sign : signedElems t nat = signed := Bool.and_comm _ _
    have value : ∀ y, elemInt (signedElems t nat) t.width (e y) = int y := fun y => by rw [sign]; exact elemInt_eq_ite ..
    refine ⟨fun p q => ?_, ?_⟩
    · rw [← value, ← value]
      exact elem_redCombine op t nat ftz hj p q hop
    · rw [← sign]
      exact elem_redIdentity op t nat hj hop
  case fadd =>
    intro t nat h
    have combine : redCombine .fadd t nat ftz = sum := funext fun p => funext fun q => flush_roundRne_eq_floatOut ftz _
    have done := vred_fadd_completes h
    rw [treeRoot_map, redOut_float rfl, combine] at done
    have root : floatOut ftz ((tree 7 0).getD 0) = match tree 7 0 with | some r => out r | none => 0 := by
      cases tree 7 0 with
      | some r => rfl
      | none => exact floatOut_zero ftz
    exact Eq.subst (motive := fun r => Completes _ s gid k ((kept _).setS k u.vd.toNat r) (sp.after _)) root done
  case fmin =>
    intro t nat h
    have done := vred_completes h (by decide)
    rw [redOut_float rfl] at done
    have root : floatOut ftz (foldFirst (redCombine .fmin t nat ftz) (fun n => z (x n)) (redIdentity .fmin t nat) active) = fold fMin 0x7F800000 :=
      floatOut_foldFirst (floatOut_inf ftz).1 active
    exact Eq.subst (motive := fun r => Completes _ s gid k ((kept _).setS k u.vd.toNat r) (sp.after _)) root done
  case fmax =>
    intro t nat h
    have done := vred_completes h (by decide)
    rw [redOut_float rfl] at done
    have root : floatOut ftz (foldFirst (redCombine .fmax t nat ftz) (fun n => z (x n)) (redIdentity .fmax t nat) active) = fold fMax 0xFF800000 :=
      floatOut_foldFirst (floatOut_inf ftz).2 active
    exact Eq.subst (motive := fun r => Completes _ s gid k ((kept _).setS k u.vd.toNat r) (sp.after _)) root done

end Sys2Proof.Machine
end

section
/-! OBLIGATIONS. The L-set instructions across lanes: permutes, shuffles and scans (R371, R403, R405). -/

namespace Sys2Proof.Machine

/-! ### Permutes and shuffles -/

/-- VBPERM: byte j of a lane is the byte of the table that nibble j of it names. -/
theorem vbperm_completes {s : State} {gid k : Nat} {g : Group} {sp : Split} {hi : Bool} {o : VBin} {first : Reg} (hb : o.b = .reg first)
    (h : Ready s gid k g sp (.vbperm hi o)) (hr : g.room o.vd.toNat = true) :
    CompletesV (.vbperm hi o) s gid k g sp o.vd.toNat fun n => ofElems 8 fun j =>
      let c := (s.srcLane g o.a n).toNat / 2 ^ (8 * j + if hi then 4 else 0) % 16
      elem 8 (c % 4) ((g.v (first.toNat + c / 4)).lane n) := by
  have runs : execVbperm hi o s = issue (.vbperm hi o) s _ := rfl
  refine completesV_writeV runs h hr rfl rfl rfl fun n hn => ?_
  have entry : ∀ c < 4, ((regsFrom first.toNat 4).map g.v).getD c (.u 0) = g.v (first.toNat + c)
    | 0, _ | 1, _ | 2, _ | 3, _ => rfl
  rw [packReg_lane (shaped := none) nofun (fun hu m _ => ?_) hn]
  · simp only [hb, groupCtx_src, groupCtx_mask, groupCtx_g]
    refine congrArg (if laneOn sp.mask n = true then · else _) (congrArg (ofElems 8) (funext fun j => ?_))
    rw [entry _ (by omega)]
  · have table (c : Nat) : (((regsFrom (match o.b with | .reg n => n.toNat | _ => 0) 4).map g.v).getD c (.u 0)).tag = 0 := by
      rw [List.getD_eq_getElem?_getD]
      cases e : ((regsFrom (match o.b with | .reg n => n.toNat | _ => 0) 4).map g.v)[c]? with
      | none => rfl
      | some r => exact allUniform_mem hu (List.mem_cons_of_mem _ (List.mem_of_getElem? e))
    have nibbles := lane_uniform (allUniform_mem hu (List.mem_cons_self ..)) m
    refine congrArg (ofElems 8) (funext fun j => ?_)
    rw [nibbles]
    exact congrArg (elem 8 _) (lane_uniform (table _) m)

/-- VSHFL: each lane reads the lane of a that its mode names. -/
theorem vshfl_completes {s : State} {gid k : Nat} {g : Group} {sp : Split} {m : ShflMode} {d : Reg} {o : VBin}
    (h : Ready s gid k g sp (.vshfl m d o)) (hr : g.room o.vd.toNat = true) :
    CompletesV (.vshfl m d o) s gid k g sp o.vd.toNat fun n => s.srcLane g o.a (shflLane m d.toNat n (s.srcLane g o.b n).toNat) := by
  have runs : execVshfl m d o s = issue (.vshfl m d o) s _ := rfl
  refine completesV_writeV runs h hr rfl rfl rfl fun n hn => ?_
  rw [packReg_lane (shaped := none) nofun (fun hu l _ => ?_) hn]
  · simp only [groupCtx_src, groupCtx_mask]
    rfl
  · have same := lane_uniform (allUniform_mem hu (r := (groupCtx gid k g sp (.vshfl m d o)).src s o.a) (by simp))
    exact (same _).symm.trans (same _)

/-! ### Scans -/

/-- The lanes of a scan whose values its lane n combines. -/
def scanned (excl : Bool) (n : Nat) (l : List Nat) : List Nat := l.filter fun m => decide (m < n) || (!excl && m == n)

theorem scanFrom_cons (f : Word → Word → Word) (excl : Bool) (ident : Word) (acc : Option Word) (n : Nat) (x : Word) (l : List (Nat × Word)) :
    scanFrom f excl ident acc ((n, x) :: l)
      = (n, if excl then acc.getD ident else (foldStep f acc x).getD ident) :: scanFrom f excl ident (foldStep f acc x) l := rfl

/-- A scan of values in rising order of their lanes gives each lane the fold of those before it, and of its own unless it is exclusive. -/
theorem tget_scanFrom (f : Word → Word → Word) (excl : Bool) (ident : Word) (v : Nat → Word) {n : Nat} :
    ∀ (l : List Nat) (acc : Option Word), l.Pairwise (· < ·) → n ∈ l →
      tget n (scanFrom f excl ident acc (l.map fun m => (m, v m)))
        = some ((((scanned excl n l).map v).foldl (foldStep f) acc).getD ident) := by
  intro l
  induction l with
  | nil => nofun
  | cons m l ih =>
    intro acc sorted mem
    obtain ⟨above, sorted⟩ := List.pairwise_cons.1 sorted
    rcases eq_or_ne m n with rfl | other
    · have none_of_later : scanned excl m l = [] := List.filter_eq_nil_iff.2 fun q hq => by have := above q hq; simp; omega
      have own : scanned excl m (m :: l) = if excl then [] else [m] := by
        rw [← none_of_later]; cases excl <;> simp [scanned]
      rw [own, List.map_cons, scanFrom_cons, tget, if_pos rfl]
      cases excl <;> rfl
    · have later : n ∈ l := (List.mem_cons.1 mem).resolve_left (Ne.symm other)
      have one : scanned excl n (m :: l) = m :: scanned excl n l := by simp [scanned, above n later]
      rw [one]
      rw [List.map_cons, scanFrom_cons, tget, if_neg other]
      exact ih (foldStep f acc (v m)) sorted later

/-- VSCAN gives each active lane the combination of the active lanes' values up to it. -/
theorem vscan_completes {s : State} {gid k : Nat} {g : Group} {sp : Split} {op : RedOp} {t : ElemTy} {nat excl : Bool} {u : VUn}
    (h : Ready s gid k g sp (.vscan op t nat excl u)) (hr : g.room u.vd.toNat = true) :
    CompletesV (.vscan op t nat excl u) s gid k g sp u.vd.toNat fun n =>
      redOut op (g.gmode.getLsbD 0) (foldFirst (redCombine op t nat (g.gmode.getLsbD 0))
        (fun m => redIn op (g.gmode.getLsbD 0) (s.srcLane g u.a m)) (redIdentity op t nat)
        (lanes.filter fun m => laneOn sp.mask m && (decide (m < n) || (!excl && m == n)))) := by
  have runs : execVscan op t nat excl u s = issue (.vscan op t nat excl u) s _ := rfl
  refine completesV_writeV runs h hr rfl rfl rfl fun n hn => ?_
  rw [packGeneral_lane _ _ _ hn, groupCtx_mask]
  by_cases on : laneOn sp.mask n = true
  · rw [if_pos on, if_pos on, tgetD, groupCtx_active,
      tget_scanFrom _ _ _ _ (lanes.filter (laneOn sp.mask)) none (List.pairwise_lt_range.filter _) (List.mem_filter.2 ⟨List.mem_range.2 hn, on⟩), foldl_foldStep_none]
    simp only [scanned, List.filter_filter, Bool.and_comm, groupCtx_src, Option.getD_some, groupCtx_ftz]
  · rw [if_neg on, if_neg on, groupCtx_g]

/-! ### The statement -/

/-- Settles O10, from what a permute, a shuffle and a scan give each lane. -/
theorem vectorAcrossResults : Obligations.VectorAcrossResults := by
  intro s gid k g sp o u a b x gives
  refine ⟨?vbperm, ?idx, ?up, ?down, ?xor, ?rot, ?vscan, ?table, ?floats⟩
  case vbperm =>
    intro hi first hb h hr
    refine ⟨_, vbperm_completes hb h hr, fun n _ j hj => ?_⟩
    refine (elem_ofElems .i8x4 _ hj).trans (Nat.mod_eq_of_lt (elem_lt 8 _ _)) |>.trans ?_
    rfl
  case idx => exact fun h hr => vshfl_completes h hr
  case up | down | xor | rot => exact fun d h hr => vshfl_completes h hr
  case vscan =>
    intro op t nat excl hop h hr
    refine (vscan_completes h hr).congr fun n => ?_
    simp only [redOut, redIn, hop]
    cases op
    case fadd | fmin | fmax => cases hop
    all_goals rfl
  case table =>
    intro op t nat j hop hj e signed int
    have sign : signedElems t nat = signed := Bool.and_comm _ _
    have value : ∀ y, elemInt (signedElems t nat) t.width (e y) = int y := fun y => by rw [sign]; exact elemInt_eq_ite ..
    refine ⟨fun p q => ?_, ?_⟩
    · rw [← value, ← value]
      exact elem_redCombine op t nat false hj p q hop
    · rw [← sign]
      exact elem_redIdentity op t nat hj hop
  case floats =>
    intro op t nat excl hop h hr z out both
    have combine : redCombine op t nat (g.gmode.getLsbD 0) = both := by
      cases op
      case fadd => exact funext fun p => funext fun q => flush_roundRne_eq_floatOut _ _
      case fmin | fmax => rfl
      all_goals cases hop
    have identity : floatOut (g.gmode.getLsbD 0) (redIdentity op t nat) = if op = .fadd then 0 else if op = .fmin then 0x7F800000 else 0xFF800000 := by
      cases op
      case fadd => exact floatOut_zero _
      case fmin => exact (floatOut_inf _).1
      case fmax => exact (floatOut_inf _).2
      all_goals cases hop
    refine (vscan_completes h hr).congr fun n => ?_
    simp only [redOut_float hop, redIn, hop, if_true, combine]
    generalize lanes.filter _ = l
    cases l with
    | nil => exact identity
    | cons m ms => rfl

end Sys2Proof.Machine
end

section
/-! OBLIGATIONS. What a step runs (O59). -/

namespace Sys2Proof.Machine

/-- A split that a YIELD has parked at 0x40010. -/
def parkedSplit : Split := { pc := 0x40010, mask := fullMask, wait := .yield 100, cont := 0x40004 }

/-- Its group. -/
def parkedGroup : Group := { probeGroup 0 0 with splits := [(0, parkedSplit)] }

/-- Two records of one number in the table of the groups: a parked split that is alone in its partition ends its wait once for each. -/
def parkedTwice : State := { State.reset with groups := [(0, parkedGroup), (0, parkedGroup)], agenda := [⟨1, .idle⟩] }

theorem parkedTwice_alone : (0, 0) ∈ ({ parkedTwice with now := parkedTwice.now + 1 } : State).aloneYields := by decide +kernel

theorem parkedTwice_quiet : ∀ y ∈ parkedTwice.groups, ∀ z ∈ y.2.splits, y.2.stepped z.1 = false ∧ z.2.due = none := by decide +kernel

/-- The second end of the wait takes the split from its target on to its continuation. -/
theorem parkedTwice_advance : ((parkedTwice.advance.group? 0).bind fun g => (tget 0 g.splits).map Split.pc) = some 0x40004 := by decide +kernel

/-- Refutes O59: of a table of groups with two records of one number, `advance` ends the wait of a parked split twice, and the second end moves the
split on from the YIELD's target. -/
theorem not_stepRunsInstruction : ¬ Obligations.StepRunsInstruction := by
  intro holds
  obtain ⟨advances, -⟩ := holds parkedTwice 0 0 0 parkedGroup parkedSplit (probeProg 0 0) .nop .nop 0 0 parkedTwice parkedTwice false 0 0 0 0
    ⟨0, 0, false, false, false, false, 0, none⟩ [] .gone ⟨0, .nop, [], [], 0⟩
  obtain ⟨-, -, splits⟩ := advances parkedTwice_quiet
  obtain ⟨y, c, group, -, ended, -⟩ := splits 0 parkedGroup 0 parkedSplit rfl rfl rfl
  have pc := parkedTwice_advance
  rw [group, Option.bind_some, ended (.inl ⟨by decide, parkedTwice_alone⟩)] at pc
  exact absurd (Option.some.inj pc) (show (0x40010 : Word) ≠ 0x40004 by decide)

end Sys2Proof.Machine
end

section
/-! OBLIGATIONS. Shape tags: of a destination, of a rewrite, and the general budget (R73, R74, R75, R411). -/

namespace Sys2Proof.Machine

/-! ### The tag of a destination (R73) -/

theorem tag_packReg_part {m : Mask} (hm : m ≠ fullMask) (old : VReg) (allU : Bool) (shaped : Option VReg) (f : Nat → Word) :
    (packReg m old allU shaped f).tag = 2 := by unfold packReg; rw [if_pos hm]; rfl

theorem tag_packReg_full (old : VReg) (allU : Bool) (shaped : Option VReg) (f : Nat → Word) :
    (packReg fullMask old allU shaped f).tag = match shaped with | some r => r.tag | none => if allU then 0 else 2 := by
  cases shaped <;> cases allU <;> rfl

theorem allUniform_pair (x y : VReg) : allUniform [x, y] = true ↔ x.tag = 0 ∧ y.tag = 0 := by simp [allUniform]

/-- The tag under no affine row. -/
theorem tag_packReg_none (m : Mask) (old x y : VReg) (f : Nat → Word) :
    (packReg m old (allUniform [x, y]) none f).tag = if m = fullMask ∧ x.tag = 0 ∧ y.tag = 0 then 0 else 2 := by
  by_cases hm : m = fullMask
  · subst hm
    simp only [tag_packReg_full, allUniform_pair, true_and]
  · rw [tag_packReg_part hm, if_neg fun h => hm h.1]

theorem tag_of_shapeAdd {sub : Bool} {x y : VReg} (h : (x.tag = 1 ∧ y.tag ≤ 1) ∨ (x.tag = 0 ∧ y.tag = 1)) :
    ∃ r, shapeAdd sub x y = some r ∧ r.tag = 1 := by
  cases x <;> cases y <;> simp [VReg.tag, shapeAdd] at h ⊢

theorem shapeAdd_eq_none {sub : Bool} {x y : VReg} (h : ¬ ((x.tag = 1 ∧ y.tag ≤ 1) ∨ (x.tag = 0 ∧ y.tag = 1))) : shapeAdd sub x y = none := by
  cases x <;> cases y <;> simp [VReg.tag, shapeAdd] at h ⊢

theorem tag_of_shapeMul {x y : VReg} (h : (x.tag = 1 ∧ y.tag = 0) ∨ (x.tag = 0 ∧ y.tag = 1)) : ∃ r, shapeMul x y = some r ∧ r.tag = 1 := by
  cases x <;> cases y <;> simp [VReg.tag, shapeMul] at h ⊢

theorem shapeMul_eq_none {x y : VReg} (h : ¬ ((x.tag = 1 ∧ y.tag = 0) ∨ (x.tag = 0 ∧ y.tag = 1))) : shapeMul x y = none := by
  cases x <;> cases y <;> simp [VReg.tag, shapeMul] at h ⊢

theorem tag_of_shapeShl {x y : VReg} (h : x.tag = 1 ∧ y.tag = 0) : ∃ r, shapeShl x y = some r ∧ r.tag = 1 := by
  cases x <;> cases y <;> simp [VReg.tag, shapeShl] at h ⊢

theorem shapeShl_eq_none {x y : VReg} (h : ¬ (x.tag = 1 ∧ y.tag = 0)) : shapeShl x y = none := by
  cases x <;> cases y <;> simp [VReg.tag, shapeShl] at h ⊢

/-- The tag under an affine row of the 32-bit types, which holds where `rows` does. -/
theorem tag_packReg_wide (m : Mask) (old x y : VReg) (f : Nat → Word) (t : ElemTy) {shape : VReg → VReg → Option VReg} {rows : Prop}
    (hs : rows → ∃ r, shape x y = some r ∧ r.tag = 1) (hn : ¬ rows → shape x y = none) (hu : rows → ¬ (x.tag = 0 ∧ y.tag = 0)) :
    let tag := (packReg m old (allUniform [x, y]) (wideShape t shape x y) f).tag
    (¬ m = BitVec.allOnes 96 → tag = 2) ∧ (m = BitVec.allOnes 96 → x.tag = 0 → y.tag = 0 → tag = 0) ∧ (m = BitVec.allOnes 96 → t.width = 32 → rows → tag = 1)
      ∧ (m = BitVec.allOnes 96 → ¬ (x.tag = 0 ∧ y.tag = 0) → ¬ (t.width = 32 ∧ rows) → tag = 2) := by
  intro tag
  have plain (h : ¬ (t.width = 32 ∧ rows)) : tag = if m = fullMask ∧ x.tag = 0 ∧ y.tag = 0 then 0 else 2 := by
    have noRow : wideShape t shape x y = none := by
      unfold wideShape
      split
      · next hw => exact hn fun hr => h ⟨hw, hr⟩
      · rfl
    exact (congrArg (fun sh => (packReg m old (allUniform [x, y]) sh f).tag) noRow).trans (tag_packReg_none ..)
  refine ⟨fun hm => tag_packReg_part hm _ _ _ _, fun hm hx hy => ?_, fun hm hw hr => ?_, fun hm hxy h => ?_⟩
  · rw [plain fun h => hu h.2 ⟨hx, hy⟩, if_pos ⟨hm, hx, hy⟩]
  · obtain ⟨r, row, one⟩ := hs hr
    have wide : wideShape t shape x y = some r := by rw [wideShape, if_pos hw, row]
    subst hm
    exact (congrArg (fun sh => (packReg fullMask old (allUniform [x, y]) sh f).tag) wide).trans ((tag_packReg_full ..).trans one)
  · rw [plain h, if_neg fun h => hxy h.2]

/-- The destination after an instruction that wrote it. -/
theorem dest_of_writeV {s t : State} {gid k : Nat} {g g' : Group} {sp : Split} {i : Instr} {body : Ctx → State → Act} {vd : Nat} {r : VReg}
    (hx : exec i s = issue i s body) (h : Ready s gid k g sp i) (hlen : vd < g.vregs.length) (hr : g.room vd = true) (he : isEngine i = false)
    (hv : isVector i = true) (hb : body (groupCtx gid k g sp i) s = (groupCtx gid k g sp i).writeV [(vd, r)] s)
    (run : exec i s = .next t) (hg : t.group? gid = some g') : g'.v vd = r := by
  obtain ⟨u, issued, only⟩ := completes_writeV h he hv vd r hr hb
  cases run.symm.trans (hx.trans issued)
  cases hg.symm.trans only.group
  simp [Group.v, Group.goesOn, List.getD_eq_getElem?_getD, hlen]

/-- The destination's tag after an instruction of R363 with an affine row. -/
theorem tag_of_affine {s t : State} {gid k : Nat} {g g' : Group} {sp : Split} {i : Instr} {o : VBin} {ty : ElemTy} {shape : VReg → VReg → Option VReg}
    {f : Word → Word → Word → Word} {rows : Nat → Nat → Prop} (hx : exec i s = issue i s (vecBin o false (wideShape ty shape) f)) (he : isEngine i = false)
    (hv : isVector i = true) (hs : ∀ x y : VReg, rows x.tag y.tag → ∃ r, shape x y = some r ∧ r.tag = 1)
    (hn : ∀ x y : VReg, ¬ rows x.tag y.tag → shape x y = none) (hu : ¬ rows 0 0)
    (ran : Ready s gid k g sp i ∧ o.vd.toNat < g.vregs.length ∧ g.room o.vd.toNat = true ∧ exec i s = .next t ∧ t.group? gid = some g') :
    let full := sp.mask = BitVec.allOnes 96
    let tag := (g'.v o.vd.toNat).tag
    let x := s.srcTag g o.a
    let y := s.srcTag g o.b
    (¬ full → tag = 2) ∧ (full → x = 0 → y = 0 → tag = 0) ∧ (full → ty.width = 32 → rows x y → tag = 1)
      ∧ (full → ¬ (x = 0 ∧ y = 0) → ¬ (ty.width = 32 ∧ rows x y) → tag = 2) := by
  obtain ⟨h, hlen, hr, run, hg⟩ := ran
  have dest := dest_of_writeV hx h hlen hr he hv rfl run hg
  simp only [dest, ← groupCtx_srcTag gid k g sp i s]
  exact tag_packReg_wide _ _ _ _ _ ty (hs _ _) (hn _ _) fun hr h => hu (by rwa [h.1, h.2] at hr)

theorem floatBin_eq (o : VBin) (vdSource : Bool) (f : Word → Word → Word → Word) (c : Ctx) (s : State) :
    floatBin o vdSource f c s = vecBin o vdSource noShape (fun a b d => flush c.ftz (f (flush c.ftz a) (flush c.ftz b) (flush c.ftz d))) c s := rfl

/-- The destination's tag after an instruction of R363 with no affine row. -/
theorem tag_of_plain {s t : State} {gid k : Nat} {g g' : Group} {sp : Split} {i : Instr} {o : VBin}
    {body : Ctx → State → Act} {f : Word → Word → Word → Word} (hx : exec i s = issue i s body)
    (hb : body (groupCtx gid k g sp i) s = vecBin o false noShape f (groupCtx gid k g sp i) s) (he : isEngine i = false) (hv : isVector i = true)
    (ran : Ready s gid k g sp i ∧ o.vd.toNat < g.vregs.length ∧ g.room o.vd.toNat = true ∧ exec i s = .next t ∧ t.group? gid = some g') :
    (g'.v o.vd.toNat).tag = if sp.mask = BitVec.allOnes 96 ∧ s.srcTag g o.a = 0 ∧ s.srcTag g o.b = 0 then 0 else 2 := by
  obtain ⟨h, hlen, hr, run, hg⟩ := ran
  rw [dest_of_writeV hx h hlen hr he hv hb run hg, ← groupCtx_srcTag gid k g sp i s, ← groupCtx_srcTag gid k g sp i s]
  exact tag_packReg_none ..

/-! ### Rewrites (R74, R411) -/

theorem lane_general (f : Nat → Word) {n : Nat} (h : n < 96) : (VReg.g (lanes.map f)).lane n = f n := getD_map_lanes f h

theorem all_lanes (p : Nat → Bool) : lanes.all p = true ↔ ∀ n, n < 96 → p n = true := by
  simp only [lanes, nLanes, List.all_eq_true, List.mem_range]

theorem retag_u (r : VReg) : retag 0 r = if lanes.all fun n => r.lane n == r.lane 0 then .u (r.lane 0) else r := rfl

theorem retag_a (r : VReg) : retag 1 r = if lanes.all fun n => r.lane n == r.lane 0 + (r.lane 1 - r.lane 0) * BitVec.ofNat 32 n
    then .a (r.lane 0) (r.lane 1 - r.lane 0) else r := rfl

/-- A rewrite keeps every lane; it leaves the tag asked for where the values allow it, else the source's. -/
structure Rewrites (r r' : VReg) (want : Nat) (can : Prop) : Prop where
  lane : ∀ n, n < 96 → r'.lane n = r.lane n
  asked : can → r'.tag = want
  kept : ¬ can → r'.tag = r.tag

theorem retag_u_rewrites (r : VReg) : Rewrites r (retag 0 r) 0 (∀ n, n < 96 → r.lane n = r.lane 0) := by
  have all : (lanes.all fun n => r.lane n == r.lane 0) = true ↔ ∀ n, n < 96 → r.lane n = r.lane 0 := by simp only [all_lanes, beq_iff_eq]
  rw [← all, retag_u]
  split
  · next h => exact ⟨fun n hn => (all.1 h n hn).symm, fun _ => rfl, fun no => absurd h no⟩
  · next h => exact ⟨fun _ _ => rfl, fun yes => absurd yes h, fun _ => rfl⟩

theorem retag_a_rewrites (r : VReg) :
    Rewrites r (retag 1 r) 1 (∀ n, n < 96 → r.lane n = r.lane 0 + (r.lane 1 - r.lane 0) * BitVec.ofNat 32 n) := by
  have all : (lanes.all fun n => r.lane n == r.lane 0 + (r.lane 1 - r.lane 0) * BitVec.ofNat 32 n) = true
      ↔ ∀ n, n < 96 → r.lane n = r.lane 0 + (r.lane 1 - r.lane 0) * BitVec.ofNat 32 n := by simp only [all_lanes, beq_iff_eq]
  rw [← all, retag_a]
  split
  · next h => exact ⟨fun n hn => (all.1 h n hn).symm, fun _ => rfl, fun no => absurd h no⟩
  · next h => exact ⟨fun _ _ => rfl, fun yes => absurd yes h, fun _ => rfl⟩

theorem retag_g_rewrites (r : VReg) : Rewrites r (retag 2 r) 2 True :=
  ⟨fun _ hn => getD_map_lanes _ hn, fun _ => rfl, fun no => absurd trivial no⟩

/-- VTAG completes with the source rewritten. -/
theorem vtag_completes {s : State} {gid k : Nat} {g : Group} {sp : Split} {f : TagFn} {u : VUn} {want : Nat} {can : Prop}
    {body : Ctx → State → Act} (hx : exec (.vtag f u) s = issue (.vtag f u) s body) (h : Ready s gid k g sp (.vtag f u)) (hr : g.room u.vd.toNat = true)
    (hv : isVector (.vtag f u) = true)
    (hb : body (groupCtx gid k g sp (.vtag f u)) s
      = (groupCtx gid k g sp (.vtag f u)).writeV [(u.vd.toNat, retag want ((groupCtx gid k g sp (.vtag f u)).src s u.a))] s)
    (rewrites : Rewrites ((groupCtx gid k g sp (.vtag f u)).src s u.a) (retag want ((groupCtx gid k g sp (.vtag f u)).src s u.a)) want can) :
    ∃ r : VReg, (∀ n, n < 96 → r.lane n = s.srcLane g u.a n) ∧ (can → r.tag = want) ∧ (¬ can → r.tag = s.srcTag g u.a)
      ∧ Completes (.vtag f u) s gid k { g with vregs := g.vregs.set u.vd.toNat r, cache := cacheAfter (.vtag f u) (vDests (.vtag f u)) } (sp.after (.vtag f u)) := by
  obtain ⟨t, issued, only⟩ := completes_writeV h rfl hv _ _ hr hb
  refine ⟨_, fun n hn => (rewrites.lane n hn).trans (groupCtx_src ..), rewrites.asked, fun no => (rewrites.kept no).trans ?_, t, hx.trans issued, only⟩
  cases u.a <;> rfl

/-! ### The budget (R75) -/

theorem generalCount_cons (x : VReg) (l : List VReg) : generalCount (x :: l) = (if x.tag = 2 then 1 else 0) + generalCount l := by
  unfold generalCount
  rw [List.filter_cons]
  simp only [beq_iff_eq]
  split
  · rw [List.length_cons, Nat.add_comm]
  · rw [Nat.zero_add]

theorem generalCount_set_general (l : List VReg) (n : Nat) {r : VReg} (h : r.tag = 2) : generalCount (l.set n r) = generalCount (l.set n (.g [])) := by
  induction l generalizing n with
  | nil => rfl
  | cons x l ih =>
    cases n with
    | zero => rw [List.set_cons_zero, List.set_cons_zero, generalCount_cons, generalCount_cons, if_pos h, if_pos (show (VReg.g []).tag = 2 from rfl)]
    | succ n => rw [List.set_cons_succ, List.set_cons_succ, generalCount_cons, generalCount_cons, ih]

/-- An instruction that would make vd general beyond the budget traps. -/
theorem traps_over {s : State} {gid k : Nat} {g : Group} {sp : Split} {i : Instr} {body : Ctx → State → Act} {vd : Nat} {r : VReg}
    (hx : exec i s = issue i s body) (h : Ready s gid k g sp i) (he : isEngine i = false) (full : g.room vd = false) (general : r.tag = 2)
    (hb : body (groupCtx gid k g sp i) s = (groupCtx gid k g sp i).writeV [(vd, r)] s) :
    Traps i s gid k sp causeTAGBUDGET 127 0 0 := by
  have exceeds : (groupCtx gid k g sp i).over [(vd, r)] = true := by
    rw [Group.room, decide_eq_false_iff_not, Nat.not_le, ← generalCount_set_general _ _ general] at full
    exact decide_eq_true full
  unfold Traps
  rw [hx, issue_ready h he, hb, Ctx.writeV, if_pos exceeds]
  rfl

/-! ### The statement -/

/-- The tag of a destination (R73). -/
theorem shapeTags_destination :
    ∀ (s t : State) (gid k : Nat) (g g' : Group) (sp : Split) (ty : ElemTy) (o : VBin) (u : VUn),
      let full := sp.mask = BitVec.allOnes 96
      let tag (n : Nat) : Nat := (g'.v n).tag
      let x := s.srcTag g o.a
      let y := s.srcTag g o.b
      let ran (i : Instr) (vd : Nat) : Prop := Ready s gid k g sp i ∧ vd < g.vregs.length ∧ g.room vd = true ∧ exec i s = .next t
        ∧ t.group? gid = some g'
      let affine (i : Instr) (rows : Prop) : Prop := ran i o.vd.toNat →
        (¬ full → tag o.vd.toNat = 2) ∧ (full → x = 0 → y = 0 → tag o.vd.toNat = 0)
          ∧ (full → ty.width = 32 → rows → tag o.vd.toNat = 1)
          ∧ (full → ¬ (x = 0 ∧ y = 0) → ¬ (ty.width = 32 ∧ rows) → tag o.vd.toNat = 2)
      affine (.vadd ty o) ((x = 1 ∧ y ≤ 1) ∨ (x = 0 ∧ y = 1))
        ∧ affine (.vsub ty o) ((x = 1 ∧ y ≤ 1) ∨ (x = 0 ∧ y = 1))
        ∧ affine (.vmul ty o) ((x = 1 ∧ y = 0) ∨ (x = 0 ∧ y = 1))
        ∧ affine (.vshl ty o) (x = 1 ∧ y = 0)
        ∧ (∀ i, i = .vand o ∨ i = .vxor o ∨ i = .vshr ty o ∨ i = .vfadd o ∨ i = .vfmul o → ran i o.vd.toNat →
            tag o.vd.toNat = if sp.mask = BitVec.allOnes 96 ∧ x = 0 ∧ y = 0 then 0 else 2)
        ∧ (ran (.vmov u) u.vd.toNat → tag u.vd.toNat = if sp.mask = BitVec.allOnes 96 then s.srcTag g u.a else 2)
        ∧ (∀ ka kb vd sa, ran (.vbcast ka kb vd sa) vd.toNat → tag vd.toNat = if sp.mask = BitVec.allOnes 96 then 0 else 2)
        ∧ (∀ op nat excl, ran (.vscan op ty nat excl u) u.vd.toNat → tag u.vd.toNat = 2) := by
  intro s t gid k g g' sp ty o u full tag x y ran affine
  refine ⟨?vadd, ?vsub, ?vmul, ?vshl, ?plain, ?vmov, ?vbcast, ?vscan⟩
  case vadd =>
    have runs : execVadd ty o s = issue (.vadd ty o) s _ := rfl
    exact tag_of_affine (rows := fun x y => (x = 1 ∧ y ≤ 1) ∨ (x = 0 ∧ y = 1)) runs rfl rfl (fun _ _ => tag_of_shapeAdd) (fun _ _ => shapeAdd_eq_none) (by decide)
  case vsub =>
    have runs : execVsub ty o s = issue (.vsub ty o) s _ := rfl
    exact tag_of_affine (rows := fun x y => (x = 1 ∧ y ≤ 1) ∨ (x = 0 ∧ y = 1)) runs rfl rfl (fun _ _ => tag_of_shapeAdd) (fun _ _ => shapeAdd_eq_none) (by decide)
  case vmul =>
    have runs : execVmul ty o s = issue (.vmul ty o) s _ := rfl
    exact tag_of_affine (rows := fun x y => (x = 1 ∧ y = 0) ∨ (x = 0 ∧ y = 1)) runs rfl rfl (fun _ _ => tag_of_shapeMul) (fun _ _ => shapeMul_eq_none) (by decide)
  case vshl =>
    have runs : execVshl ty o s = issue (.vshl ty o) s _ := rfl
    exact tag_of_affine (rows := fun x y => x = 1 ∧ y = 0) runs rfl rfl (fun _ _ => tag_of_shapeShl) (fun _ _ => shapeShl_eq_none) (by decide)
  case plain =>
    rintro i (rfl | rfl | rfl | rfl | rfl) done
    · exact tag_of_plain (i := .vand o) (show execVand o s = issue (.vand o) s _ from rfl) rfl rfl rfl done
    · exact tag_of_plain (i := .vxor o) (show execVxor o s = issue (.vxor o) s _ from rfl) rfl rfl rfl done
    · exact tag_of_plain (i := .vshr ty o) (show execVshr ty o s = issue (.vshr ty o) s _ from rfl) rfl rfl rfl done
    · exact tag_of_plain (i := .vfadd o) (show execVfadd o s = issue (.vfadd o) s _ from rfl) (floatBin_eq ..) rfl rfl done
    · exact tag_of_plain (i := .vfmul o) (show execVfmul o s = issue (.vfmul o) s _ from rfl) (floatBin_eq ..) rfl rfl done
  case vmov =>
    rintro ⟨h, hlen, hr, run, hg⟩
    have runs : execVmov u s = issue (.vmov u) s _ := rfl
    have dest := dest_of_writeV (i := .vmov u) runs h hlen hr rfl rfl rfl run hg
    simp only [tag, dest]
    split
    · next hm =>
      rw [groupCtx_mask, hm, ← fullMask, tag_packReg_full]
      exact groupCtx_srcTag ..
    · next hm => exact tag_packReg_part hm _ _ _ _
  case vbcast =>
    rintro ka kb vd sa ⟨h, hlen, hr, run, hg⟩
    have runs : execVbcast ka kb vd sa s = issue (.vbcast ka kb vd sa) s _ := rfl
    have dest := dest_of_writeV (i := .vbcast ka kb vd sa) runs h hlen hr rfl rfl rfl run hg
    simp only [tag, dest]
    split
    · next hm => rw [groupCtx_mask, hm, ← fullMask, tag_packReg_full]; rfl
    · next hm => exact tag_packReg_part hm _ _ _ _
  case vscan =>
    rintro op nat excl ⟨h, hlen, hr, run, hg⟩
    have runs : execVscan op ty nat excl u s = issue (.vscan op ty nat excl u) s _ := rfl
    have dest := dest_of_writeV (i := .vscan op ty nat excl u) runs h hlen hr rfl rfl rfl run hg
    simp only [tag, dest]
    rfl

/-- A rewrite of a tag (R74, R411). -/
theorem shapeTags_rewrite :
    ∀ (s : State) (gid k : Nat) (g : Group) (sp : Split) (u : VUn),
      let x (n : Nat) : Word := s.srcLane g u.a n
      let gives (i : Instr) (want : Nat) (can : Prop) : Prop := Ready s gid k g sp i → g.room u.vd.toNat = true →
        ∃ r : VReg, (∀ n, n < 96 → r.lane n = x n) ∧ (can → r.tag = want) ∧ (¬ can → r.tag = s.srcTag g u.a)
          ∧ Completes i s gid k { g with vregs := g.vregs.set u.vd.toNat r, cache := cacheAfter i (vDests i) } (sp.after i)
      gives (.vtag .toU u) 0 (∀ n, n < 96 → x n = x 0)
        ∧ gives (.vtag .toA u) 1 (∀ n, n < 96 → x n = x 0 + (x 1 - x 0) * BitVec.ofNat 32 n)
        ∧ gives (.vtag .toG u) 2 True := by
  intro s gid k g sp u x gives
  have source (f : TagFn) (n : Nat) : ((groupCtx gid k g sp (.vtag f u)).src s u.a).lane n = x n := groupCtx_src ..
  refine ⟨fun h hr => ?_, fun h hr => ?_, fun h hr => ?_⟩
  · have runs : execVtag .toU u s = issue (.vtag .toU u) s _ := rfl
    have rewrites := retag_u_rewrites ((groupCtx gid k g sp (.vtag .toU u)).src s u.a)
    simp only [source] at rewrites
    exact vtag_completes runs h hr rfl rfl rewrites
  · have runs : execVtag .toA u s = issue (.vtag .toA u) s _ := rfl
    have rewrites := retag_a_rewrites ((groupCtx gid k g sp (.vtag .toA u)).src s u.a)
    simp only [source] at rewrites
    exact vtag_completes runs h hr rfl rfl rewrites
  · have runs : execVtag .toG u s = issue (.vtag .toG u) s _ := rfl
    exact vtag_completes runs h hr rfl rfl (retag_g_rewrites _)

/-- The general budget (R75). -/
theorem shapeTags_budget :
    ∀ (s : State) (gid k : Nat) (g : Group) (sp : Split) (o : VBin) (u : VUn) (t : ElemTy),
      let full (vd : Nat) : Prop := sp.mask ≠ BitVec.allOnes 96 ∧ g.room vd = false
      let trap (i : Instr) : Prop := Ready s gid k g sp i → Traps i s gid k sp causeTAGBUDGET 127 0 0
      (full o.vd.toNat → trap (.vadd t o) ∧ trap (.vmul t o) ∧ trap (.vand o) ∧ trap (.vsel 0 o) ∧ trap (.vfadd o) ∧ trap (.vfma .pp o))
        ∧ (full u.vd.toNat → trap (.vmov u) ∧ trap (.vabs t u) ∧ trap (.vfrcp u) ∧ trap (.vscan .add t false false u))
        ∧ (g.room u.vd.toNat = false → trap (.vtag .toG u)) := by
  intro s gid k g sp o u t full trap
  refine ⟨fun ⟨part, no⟩ => ⟨?_, ?_, ?_, ?_, ?_, ?_⟩, fun ⟨part, no⟩ => ⟨?_, ?_, ?_, ?_⟩, fun no => ?_⟩ <;> intro h
  · exact traps_over (i := .vadd t o) (show execVadd t o s = issue (.vadd t o) s _ from rfl) h rfl no (tag_packReg_part part _ _ _ _) rfl
  · exact traps_over (i := .vmul t o) (show execVmul t o s = issue (.vmul t o) s _ from rfl) h rfl no (tag_packReg_part part _ _ _ _) rfl
  · exact traps_over (i := .vand o) (show execVand o s = issue (.vand o) s _ from rfl) h rfl no (tag_packReg_part part _ _ _ _) rfl
  · exact traps_over (i := .vsel 0 o) (show execVsel 0 o s = issue (.vsel 0 o) s _ from rfl) h rfl no rfl rfl
  · exact traps_over (i := .vfadd o) (show execVfadd o s = issue (.vfadd o) s _ from rfl) h rfl no (tag_packReg_part part _ _ _ _) rfl
  · exact traps_over (i := .vfma .pp o) (show execVfma .pp o s = issue (.vfma .pp o) s _ from rfl) h rfl no (tag_packReg_part part _ _ _ _) rfl
  · exact traps_over (i := .vmov u) (show execVmov u s = issue (.vmov u) s _ from rfl) h rfl no (tag_packReg_part part _ _ _ _) rfl
  · exact traps_over (i := .vabs t u) (show execVabs t u s = issue (.vabs t u) s _ from rfl) h rfl no (tag_packReg_part part _ _ _ _) rfl
  · exact traps_over (i := .vfrcp u) (show execVfrcp u s = issue (.vfrcp u) s _ from rfl) h rfl no (tag_packReg_part part _ _ _ _) rfl
  · exact traps_over (i := .vscan .add t false false u) (show execVscan .add t false false u s = issue (.vscan .add t false false u) s _ from rfl) h rfl no rfl rfl
  · exact traps_over (i := .vtag .toG u) (show execVtag .toG u s = issue (.vtag .toG u) s _ from rfl) h rfl no rfl rfl

/-- Settles O11: the tags are those of the shape given to `packReg`, a rewrite's those of `retag`, and `writeV` traps beyond the budget. -/
theorem shapeTags : Obligations.ShapeTags := ⟨shapeTags_destination, shapeTags_rewrite, shapeTags_budget⟩

end Sys2Proof.Machine
end

section
/-! OBLIGATIONS. The checks of an access: their order, the walk of the page table, and the lowest failing lane (R127, R128, R132, R273). -/

namespace Sys2Proof.Machine

/-! ### One access (R127, R132) -/

theorem canonical_iff (a : DWord) : canonical a = true ↔ a.toNat / 2 ^ 56 = 0 ∨ a.toNat / 2 ^ 56 = 255 := by
  simp only [canonical, Bool.or_eq_true, decide_eq_true_eq]

theorem laneCheck_global_error {s : State} {g : Group} {size : Nat} {need : Need} {p : Nat × DWord} {e : AccessErr}
    (h : s.checkGlobal g.core g.vf g.launch p.2 size need = .error e) : laneCheck s g false size need p = .error e := by
  simp only [laneCheck, h, Bool.false_eq_true, if_false]

theorem checkGlobal_noncanonical {s : State} {core v launch : Nat} {a : DWord} {size : Nat} {need : Need} (h : canonical a = false) :
    s.checkGlobal core v launch a size need = .error (.cause causeXLATE) := by simp [State.checkGlobal, h]

theorem checkGlobal_unaligned {s : State} {core v launch : Nat} {a : DWord} {size : Nat} {need : Need} (h : canonical a = true) (odd : a.toNat % size ≠ 0) :
    s.checkGlobal core v launch a size need = .error (.cause causeALIGN) := by simp [State.checkGlobal, h, odd]

theorem checkGlobal_aligned {s : State} {core v launch : Nat} {a : DWord} {size : Nat} {need : Need} (h : canonical a = true) (even : a.toNat % size = 0) :
    s.checkGlobal core v launch a size need = s.checkPage core v launch a need false := by simp [State.checkGlobal, h, even]

theorem checkPage_untranslated {s : State} {core v launch : Nat} {a : DWord} {need : Need} {shadow : Bool} (h : s.translate core v (va57 a) = none) :
    s.checkPage core v launch a need shadow = .error (.cause causeXLATE) := by simp [State.checkPage, h]

theorem checkPage_forbidden {s : State} {core v launch : Nat} {a : DWord} {need : Need} {shadow : Bool} {l : Leaf}
    (h : s.translate core v (va57 a) = some l)
    (no : match need with | .read => l.r = false | .write => l.r = false ∨ l.w = false | .exec => l.x = false) :
    s.checkPage core v launch a need shadow = .error (.cause causePROT) := by
  cases need <;> simp only at no <;> simp [State.checkPage, h, no]

theorem laneCheck_scratch {s : State} {g : Group} {size : Nat} {need : Need} {n : Nat} {a : DWord} :
    laneCheck s g true size need (n, a) = match s.checkScratch g.block g.core g.vf a size with
      | .ok k => .ok ⟨n, a, k, 0, pkgOf g.vf, false⟩
      | .error e => .error e := rfl

/-! ### The walk (R273) -/

theorem bitField_low (e : Nat) : bitField e 0 0 = e % 2 := by simp [bitField]

theorem bitField_pair (e : Nat) : bitField e 1 0 = 3 ↔ e % 2 = 1 ∧ bitField e 1 1 = 1 := by
  simp only [bitField, show (2 : Nat) ^ 0 = 1 from rfl, Nat.div_one, show 1 + 1 - 0 = 2 from rfl, show 1 + 1 - 1 = 1 from rfl]
  omega

/-- An entry that may be used (R273). -/
def goodEntry (e : Nat) : Prop := bitField e 63 57 = 0 ∧ e % 2 = 1

section
variable {m : Mem} {dev va l base e : Nat} (he : m.read (memKey dev (base + 8 * bitField va (29 + 9 * l) (21 + 9 * l))) 8 = e)
include he

theorem walkFrom_bad (bad : ¬ goodEntry e) : walkFrom m dev va (l + 1) base = none := by
  rw [goodEntry, not_and_or] at bad
  simp only [walkFrom, he, bitField_low, if_pos (show bitField e 63 57 ≠ 0 ∨ e % 2 = 0 by omega)]

theorem walkFrom_good (good : goodEntry e) : walkFrom m dev va (l + 1) base =
    if bitField e 1 1 = 1 then (if l = 0 then some (e, 2 ^ 21) else if l = 1 then some (e, 2 ^ 30) else none)
    else walkFrom m dev va l (bitField e 56 16 * 65536) := by
  obtain ⟨reserved, valid⟩ := good
  simp only [walkFrom, he, bitField_low, if_neg (show ¬ (bitField e 63 57 ≠ 0 ∨ e % 2 = 0) by omega)]

theorem walkFrom_table (table : goodEntry e ∧ bitField e 1 1 = 0) : walkFrom m dev va (l + 1) base = walkFrom m dev va l (bitField e 56 16 * 65536) := by
  rw [walkFrom_good he table.1, table.2, if_neg (by decide)]

end

section
variable {m : Mem} {dev va base e : Nat} (he : m.read (memKey dev (base + 8 * bitField va 20 16)) 8 = e)
include he

theorem walkFrom_leaf (leaf : goodEntry e ∧ bitField e 1 1 = 1) : walkFrom m dev va 0 base = some (e, 65536) := by
  simp only [walkFrom, he, if_pos (show bitField e 63 57 = 0 ∧ bitField e 1 0 = 3 from ⟨leaf.1.1, (bitField_pair e).2 ⟨leaf.1.2, leaf.2⟩⟩)]

theorem walkFrom_no_leaf (no : ¬ (goodEntry e ∧ bitField e 1 1 = 1)) : walkFrom m dev va 0 base = none := by
  have bad : ¬ (bitField e 63 57 = 0 ∧ bitField e 1 0 = 3) := fun ⟨reserved, low⟩ =>
    no ⟨⟨reserved, ((bitField_pair e).1 low).1⟩, ((bitField_pair e).1 low).2⟩
  simp only [walkFrom, he, if_neg bad]

end

theorem leafOf_found (e va size : Nat) : let l := leafOf e va size
    l.pa = bitField e 56 16 * 65536 / size * size + va % size ∧ l.home = bitField e 15 6 ∧ l.page = size ∧ (l.pub = true ↔ bitField e 5 5 = 1)
      ∧ (l.x = true ↔ bitField e 4 4 = 1) ∧ (l.w = true ↔ bitField e 3 3 = 1) ∧ (l.r = true ↔ bitField e 2 2 = 1) := by
  simp [leafOf]

theorem translate_walk {s : State} {core v va : Nat} (h : tlbLookup v va (s.coreAt core).tlb = none) :
    s.translate core v va = (walkFrom s.mem (s.devOf core) va 4 (s.vf v).ptRoot.toNat).map fun x => leafOf x.1 va x.2 := by
  simp only [State.translate, h]

/-! ### All lanes (R127) -/

theorem laneChecks_append {s : State} {g : Group} {scratch : Bool} {size : Nat} {need : Need} {pre post : List (Nat × DWord)} {p : Nat × DWord} {cause : Nat}
    (before : ∀ q ∈ pre, ∃ x, laneCheck s g scratch size need q = .ok x) (bad : laneCheck s g scratch size need p = .error (.cause cause)) :
    laneChecks s g scratch size need (pre ++ p :: post) = .error (.trap cause p.1 p.2 0) := by
  induction pre with
  | nil => simp only [List.nil_append, laneChecks, bad, accessAct]
  | cons q pre ih =>
    obtain ⟨x, ok⟩ := before q (List.mem_cons_self ..)
    simp only [List.cons_append, laneChecks, ok, ih fun r hr => before r (List.mem_cons_of_mem _ hr)]

theorem lmAddrs_eq (s : State) (gid k : Nat) (g : Group) (sp : Split) (i : Instr) (o : LmOp) : lmAddrs (groupCtx gid k g sp i) s o = s.lmAt g sp o := by
  simp only [lmAddrs, State.lmAt, groupCtx_active, groupCtx_pair, groupCtx_src]

theorem umAddr_eq (gid k : Nat) (g : Group) (sp : Split) (i : Instr) (o : UmOp) (size : Nat) : umAddr (groupCtx gid k g sp i) o size = g.umAt sp o size := by
  simp only [umAddr, Group.umAt, groupCtx_pair]

/-- An instruction whose meaning is a trap. -/
theorem traps_of_body {s : State} {gid k : Nat} {g : Group} {sp : Split} {i : Instr} {body : Ctx → State → Act} {cause lane : Nat} {addr : DWord} {code : Word}
    (hx : exec i s = issue i s body) (h : Ready s gid k g sp i) (he : isEngine i = false)
    (hb : body (groupCtx gid k g sp i) s = .trap cause lane addr code) : Traps i s gid k sp cause lane addr code := by
  unfold Traps
  rw [hx, issue_ready h he, hb, settle_trap]

theorem vecLoad_error {scratch : Bool} {o : LmOp} {c : Ctx} {s : State} {e : Act}
    (h : laneChecks s c.g scratch o.width.bytes .read (lmAddrs c s o) = .error e) : vecLoad scratch o c s = e := by simp only [vecLoad, h]

theorem vecStore_error {scratch : Bool} {o : LmOp} {c : Ctx} {s : State} {e : Act}
    (h : laneChecks s c.g scratch o.width.bytes .write (lmAddrs c s o) = .error e) : vecStore scratch o c s = e := by simp only [vecStore, h]

/-- A plain scalar access whose address fails its check. -/
theorem umAccess_error {o : UmOp} {scratch : Bool} {size : Nat} {need : Need} {rd wr : Bool} {f : LaneAt → State → Act} {c : Ctx} {s : State} {cause : Nat}
    (plain : o.ord = .none) (active : c.mask ≠ 0) (bad : laneCheck s c.g scratch size need (127, umAddr c o size) = .error (.cause cause)) :
    umAccess o scratch false size need rd wr f c s = .trap cause 127 (umAddr c o size) 0 := by
  have order : umOrder c o scratch (false && c.mask != 0) s = .ok s := by simp [umOrder, plain]
  have checks := laneChecks_append (pre := []) (post := []) nofun bad
  simp only [List.nil_append] at checks
  simp only [umAccess, order, if_neg active, checks]

/-! ### The statement -/

theorem accessChecks_order (s : State) (g : Group) (size : Nat) (need : Need) (n : Nat) (a : DWord) :
    let globalFails (c : Nat) : Prop := laneCheck s g false size need (n, a) = .error (.cause c)
    let scratchFails (c : Nat) : Prop := laneCheck s g true size need (n, a) = .error (.cause c)
    let canon : Prop := a.toNat / 2 ^ 56 = 0 ∨ a.toNat / 2 ^ 56 = 255
    (¬ canon → globalFails causeXLATE)
      ∧ (canon → a.toNat % size ≠ 0 → globalFails causeALIGN)
      ∧ (canon → a.toNat % size = 0 → s.translate g.core g.vf (a.toNat % 2 ^ 57) = none → globalFails causeXLATE)
      ∧ (∀ l, canon → a.toNat % size = 0 → s.translate g.core g.vf (a.toNat % 2 ^ 57) = some l →
          (match need with | .read => l.r = false | .write => l.r = false ∨ l.w = false | .exec => l.x = false) → globalFails causePROT)
      ∧ (s.scratchOff g.block g.core g.vf a size = none → scratchFails causeSCRATCH)
      ∧ (∀ off, s.scratchOff g.block g.core g.vf a size = some off → a.toNat % size ≠ 0 → scratchFails causeALIGN)
      ∧ (∀ off, s.scratchOff g.block g.core g.vf a size = some off → a.toNat % size = 0 →
          laneCheck s g true size need (n, a) = .ok ⟨n, a, g.core * 2 ^ 21 + off, 0, pkgOf g.vf, false⟩) := by
  intro globalFails scratchFails canon
  have canonical_of (h : canon) : canonical a = true := (canonical_iff a).2 h
  refine ⟨fun h => ?_, fun h odd => ?_, fun h even none' => ?_, fun l h even some' no => ?_, fun none' => ?_, fun off some' odd => ?_, fun off some' even => ?_⟩
  · exact laneCheck_global_error (checkGlobal_noncanonical (Bool.eq_false_iff.2 fun c => h ((canonical_iff a).1 c)))
  · exact laneCheck_global_error (checkGlobal_unaligned (canonical_of h) odd)
  · exact laneCheck_global_error ((checkGlobal_aligned (canonical_of h) even).trans (checkPage_untranslated none'))
  · exact laneCheck_global_error ((checkGlobal_aligned (canonical_of h) even).trans (checkPage_forbidden some' no))
  · simp only [scratchFails, laneCheck_scratch, State.checkScratch, none']
  · simp only [scratchFails, laneCheck_scratch, State.checkScratch, some', if_pos odd]
  · simp only [laneCheck_scratch, State.checkScratch, some', if_neg (not_not.2 even), scratchKey]

theorem accessChecks_walk (s : State) (core v va : Nat) (e4 e3 e2 e1 e0 : Nat) :
    let entry (base i : Nat) : Nat := s.mem.read (s.devOf core * 2 ^ 57 + base + 8 * i) 8
    let frame (e : Nat) : Nat := bitField e 56 16 * 65536
    let good (e : Nat) : Prop := bitField e 63 57 = 0 ∧ e % 2 = 1
    let table (e : Nat) : Prop := good e ∧ bitField e 1 1 = 0
    let leaf (e : Nat) : Prop := good e ∧ bitField e 1 1 = 1
    let found (e size : Nat) : Prop := ∃ l, s.translate core v va = some l ∧ l.pa = frame e / size * size + va % size
      ∧ l.home = bitField e 15 6 ∧ l.page = size ∧ (l.pub = true ↔ bitField e 5 5 = 1) ∧ (l.x = true ↔ bitField e 4 4 = 1)
      ∧ (l.w = true ↔ bitField e 3 3 = 1) ∧ (l.r = true ↔ bitField e 2 2 = 1)
    tlbLookup v va (s.coreAt core).tlb = none →
    entry (s.vf v).ptRoot.toNat (bitField va 56 48) = e4 → entry (frame e4) (bitField va 47 39) = e3 →
    entry (frame e3) (bitField va 38 30) = e2 → entry (frame e2) (bitField va 29 21) = e1 → entry (frame e1) (bitField va 20 16) = e0 →
      (table e4 → table e3 → table e2 → table e1 → leaf e0 → found e0 65536)
        ∧ (table e4 → table e3 → table e2 → leaf e1 → found e1 (2 ^ 21))
        ∧ (table e4 → table e3 → leaf e2 → found e2 (2 ^ 30))
        ∧ (¬ good e4 ∨ table e4 ∧ ¬ good e3 ∨ table e4 ∧ table e3 ∧ ¬ good e2 ∨ table e4 ∧ table e3 ∧ table e2 ∧ ¬ good e1
            ∨ table e4 ∧ table e3 ∧ table e2 ∧ table e1 ∧ ¬ leaf e0 → s.translate core v va = none) := by
  intro entry frame good table leaf found unheld h4 h3 h2 h1 h0
  simp only [entry, Nat.add_assoc] at h4 h3 h2 h1 h0
  have found_of {e size : Nat} (walk : walkFrom s.mem (s.devOf core) va 4 (s.vf v).ptRoot.toNat = some (e, size)) : found e size :=
    ⟨leafOf e va size, by rw [translate_walk unheld, walk]; rfl, leafOf_found e va size⟩
  have none_of (walk : walkFrom s.mem (s.devOf core) va 4 (s.vf v).ptRoot.toNat = none) : s.translate core v va = none := by
    rw [translate_walk unheld, walk]; rfl
  have to3 (t4 : table e4) := walkFrom_table (l := 3) h4 t4
  have to2 (t4 : table e4) (t3 : table e3) := (to3 t4).trans (walkFrom_table (l := 2) h3 t3)
  have to1 (t4 : table e4) (t3 : table e3) (t2 : table e2) := (to2 t4 t3).trans (walkFrom_table (l := 1) h2 t2)
  have to0 (t4 : table e4) (t3 : table e3) (t2 : table e2) (t1 : table e1) := (to1 t4 t3 t2).trans (walkFrom_table (l := 0) h1 t1)
  refine ⟨fun t4 t3 t2 t1 f0 => ?_, fun t4 t3 t2 f1 => ?_, fun t4 t3 f2 => ?_, ?_⟩
  · exact found_of ((to0 t4 t3 t2 t1).trans (walkFrom_leaf h0 f0))
  · exact found_of ((to1 t4 t3 t2).trans ((walkFrom_good (l := 0) h1 f1.1).trans (if_pos f1.2)))
  · exact found_of ((to2 t4 t3).trans ((walkFrom_good (l := 1) h2 f2.1).trans (if_pos f2.2)))
  · rintro (n4 | ⟨t4, n3⟩ | ⟨t4, t3, n2⟩ | ⟨t4, t3, t2, n1⟩ | ⟨t4, t3, t2, t1, n0⟩)
    · exact none_of (walkFrom_bad (l := 3) h4 n4)
    · exact none_of ((to3 t4).trans (walkFrom_bad (l := 2) h3 n3))
    · exact none_of ((to2 t4 t3).trans (walkFrom_bad (l := 1) h2 n2))
    · exact none_of ((to1 t4 t3 t2).trans (walkFrom_bad (l := 0) h1 n1))
    · exact none_of ((to0 t4 t3 t2 t1).trans (walkFrom_no_leaf h0 n0))

/-- Settles O12, from the checks of one access, the walk level by level, and the lowest lane that fails. -/
theorem accessChecks : Obligations.AccessChecks := by
  refine ⟨accessChecks_order, accessChecks_walk, ?_⟩
  intro s gid k g sp scratch o u n a cause pre post
  refine ⟨?vector, ?scalar⟩
  case vector =>
    intro split size fails i j
    refine ⟨fun h bad => ?_, fun h bad => ?_⟩
    · have checks := laneChecks_append (post := post) bad.1 bad.2
      rw [← split] at checks
      cases scratch
      · exact traps_of_body (i := .vld o) (show execVld o s = issue (.vld o) s _ from rfl) h rfl (vecLoad_error (by rw [lmAddrs_eq]; exact checks))
      · exact traps_of_body (i := .vlds o) (show execVlds o s = issue (.vlds o) s _ from rfl) h rfl (vecLoad_error (by rw [lmAddrs_eq]; exact checks))
    · have checks := laneChecks_append (post := post) bad.1 bad.2
      rw [← split] at checks
      cases scratch
      · exact traps_of_body (i := .vst o) (show execVst o s = issue (.vst o) s _ from rfl) h rfl (vecStore_error (by rw [lmAddrs_eq]; exact checks))
      · exact traps_of_body (i := .vsts o) (show execVsts o s = issue (.vsts o) s _ from rfl) h rfl (vecStore_error (by rw [lmAddrs_eq]; exact checks))
  case scalar =>
    intro active plain fails i j
    refine ⟨fun h bad => ?_, fun h bad => ?_⟩
    · cases scratch
      · refine traps_of_body (i := .sld u) (show execSld u s = issue (.sld u) s _ from rfl) h rfl ?_
        simp only [fails, ← umAddr_eq gid k g sp (.sld u)] at bad ⊢
        exact umAccess_error plain active bad
      · refine traps_of_body (i := .slds u) (show execSlds u s = issue (.slds u) s _ from rfl) h rfl ?_
        simp only [fails, ← umAddr_eq gid k g sp (.slds u)] at bad ⊢
        exact umAccess_error plain active bad
    · cases scratch
      · refine traps_of_body (i := .sst u) (show execSst u s = issue (.sst u) s _ from rfl) h rfl ?_
        simp only [fails, ← umAddr_eq gid k g sp (.sst u)] at bad ⊢
        exact umAccess_error plain active bad
      · refine traps_of_body (i := .ssts u) (show execSsts u s = issue (.ssts u) s _ from rfl) h rfl ?_
        simp only [fails, ← umAddr_eq gid k g sp (.ssts u)] at bad ⊢
        exact umAccess_error plain active bad

end Sys2Proof.Machine
end

section
/-! OBLIGATIONS. The vector stores (R130, R141, R409). -/

namespace Sys2Proof.Machine

/-- VSTS of v2 at the offsets of v1. -/
def slotStore : LmOp := { width := .w32, sx := false, vd := 2, pair := 5, off := .reg 1, policy := 0 }

/-- A group whose lanes 0 and 1 store 5 to the header of a ring's slot and 5 + d to its first payload word. -/
def slotGroup (d : Word) : Group :=
  { probeGroup 1 2 with
    count := 16
    budget := 16
    vregs := [.u 0, .a 0 0x40, .a 5 d]
    sregs := [0, 0, 0, 0, 0, 0, 0, 0, 0, 0, 0x240, 0]
    splits := [(0, { pc := 0x40000, mask := 3 })] }

/-- An MMA that takes rows from a ring of four slots at 0x100: its next slot is slot 1, whose header has to be 5. -/
def slotOp : EngOp := { kind := .mma, pc := 0x40000, rows := 2, ring := [0x20000100, 320 / 64 * 65536 + 4, 1, 2] }

/-- The group is about to store, and the quad's program waits for its slot. -/
def slotState (d : Word) : State :=
  { State.reset with
    cur := .group 0 0
    groups := [(0, slotGroup d)]
    blocks := [(2, ⟨1, none, 0, 0, [(0, 0, 4096)], [0], false, [0]⟩)]
    quads := [(0, { running := some { probeProg 0 1 with ops := [(6, slotOp)] } })] }

/-- The two accesses. -/
def slotLanes : List LaneAt := [⟨0, 0x240, 0x240, 0, 0, false⟩, ⟨1, 0x280, 0x280, 0, 0, false⟩]

theorem slotState_inv (d : Word) : (slotState d).Inv := by unfold State.Inv; exact (by decide +kernel : Memory.wf (slotState 0) = true)

/-- Lane 0's store makes the turn at the slot the engine's, so the byte that lane 1 stores is undefined: O14 makes it the byte stored. -/
theorem freeByte_of_vectorStores (holds : Obligations.VectorStores) (d : Word) (hd : d = 0x100 ∨ d = 0x200) :
    Config.freeByte 0 0x281 = BitVec.ofNat 8 (d.toNat / 256) := by
  have ready : Ready (slotState d) 0 0 (slotGroup d) { pc := 0x40000, mask := 3 } (.vsts slotStore) :=
    ⟨⟨rfl, rfl, rfl, rfl⟩, by rcases hd with rfl | rfl <;> decide +kernel, by rcases hd with rfl | rfl <;> decide +kernel, by rcases hd with rfl | rfl <;> decide +kernel⟩
  have reaches : Reaches (slotState d) (slotGroup d) true 4 .write false true ((slotState d).lmAt (slotGroup d) { pc := 0x40000, mask := 3 } slotStore) slotLanes :=
    ⟨by rcases hd with rfl | rfl <;> decide +kernel, by decide +kernel, .inr (by rcases hd with rfl | rfl <;> decide +kernel), .inl rfl, .inr (.inl rfl)⟩
  have free : (slotState d).unclaimed true (0x280 + 1) 1 := by unfold State.unclaimed; rcases hd with rfl | rfl <;> decide +kernel
  obtain ⟨t, run, -, -, -, -, bytes⟩ := holds (slotState d) 0 0 (slotGroup d) _ slotStore true slotLanes ready (slotState_inv d) reaches nofun
  have byte := bytes ⟨1, 0x280, 0x280, 0, 0, false⟩ (by decide) 1 (by decide) (by unfold apart; decide +kernel) free
  have undefined : (match exec (.vsts slotStore) (slotState d) with | .next t => undefAt 0x281 t.scratch.undef | _ => none) = some 0 := by
    rcases hd with rfl | rfl <;> decide +kernel
  rw [show exec (.vsts slotStore) (slotState d) = .next t from run] at undefined
  have free : t.scratch.get 0x281 = Config.freeByte 0 0x281 := by
    unfold Mem.get
    rw [show undefAt 0x281 t.scratch.undef = some 0 from undefined]
  rw [← free]
  refine Eq.trans byte ?_
  rcases hd with rfl | rfl <;> decide +kernel

/-- Refutes O14: a lane that stores the header of a ring's slot hands its turn to the engine, and a byte of the slot's payload that a higher lane of
the same VSTS stores is then undefined, though none claimed it before: for two values stored it would have to be both. -/
theorem not_vectorStores : ¬ Obligations.VectorStores := fun holds =>
  absurd ((freeByte_of_vectorStores holds 0x100 (.inl rfl)).symm.trans (freeByte_of_vectorStores holds 0x200 (.inr rfl))) (by decide)

end Sys2Proof.Machine
end

section
/-! SUPPORT. A table of splits with two records of one number: what a waiting instruction leaves of their places in the order of issue (R78, R228). -/

namespace Sys2Proof.Machine

/-- The places in the order of issue of a group's splits after an instruction. -/
def stampsAfter (i : Instr) (s : State) (gid : Nat) : Option (List Nat) :=
  match exec i s with
  | .next t => (t.group? gid).map fun h => h.splits.map fun p => p.2.stamp
  | _ => none

theorem stampsAfter_of_group {i : Instr} {s t : State} {gid : Nat} {h : Group} (run : exec i s = .next t) (hg : t.group? gid = some h) :
    stampsAfter i s gid = some (h.splits.map fun p => p.2.stamp) := by
  simp only [stampsAfter, run, hg, Option.map_some]

theorem stamps_tmod (k n : Nat) (f : Split → Split) (hf : ∀ x, (f x).stamp = n) (l : Table Split) :
    (tmod k f l).map (fun p => p.2.stamp) = l.map fun p => if p.1 = k then n else p.2.stamp := by
  rw [tmod, List.map_map]
  refine List.map_congr_left fun p _ => ?_
  simp only [Function.comp_apply]
  split
  · exact hf p.2
  · rfl

theorem stamps_of_waitsAgain {i : Instr} {s : State} {gid k : Nat} {g : Group} {sp : Split} {why : Again} (h : WaitsAgain i s gid k g sp why) :
    stampsAfter i s gid = some (g.splits.map fun p => if p.1 = k then 0 else p.2.stamp) := by
  obtain ⟨t, run, only⟩ := h
  rw [stampsAfter_of_group run only.group, stamps_tmod k 0 _ fun _ => rfl]

theorem stamps_of_holdsIn {u : State} {i : Instr} {s : State} {gid k : Nat} {g : Group} {sp : Split} {why : Again} (h : HoldsIn u i s gid k g sp why) :
    stampsAfter i s gid = some (g.splits.map fun p => if p.1 = k then s.nextId else p.2.stamp) := by
  obtain ⟨t, run, only⟩ := h
  rw [stampsAfter_of_group run only.group, stamps_tmod k s.nextId _ fun _ => rfl]

theorem stamps_of_parks {i : Instr} {s : State} {gid k : Nat} {g : Group} {w : Wait} {cont : Word} (h : Parks i s gid k g w cont) :
    stampsAfter i s gid = some (g.splits.map fun p => if p.1 = k then s.nextId else p.2.stamp) := by
  obtain ⟨t, run, only⟩ := h
  rw [stampsAfter_of_group run only.group, stamps_tmod k s.nextId _ fun _ => rfl]

/-- Split 0 of a group, about to issue at 0x40000. -/
def twin : Split := { pc := 0x40000, mask := fullMask }

/-- A second record of split 0, of an instruction that has issued and waits: a wait of the first keeps the second's place in the order of issue. -/
def heldTwin : Split := { pc := 0x40000, mask := 0, held := some ⟨5, .nop, [], [], 0⟩, stamp := 5 }

/-- A group with both records. -/
def twins : Group := { probeGroup 1 2 with splits := [(0, twin), (0, heldTwin)] }

/-- The state in which the first record of the group is about to issue. -/
def issuing (g : Group) : State := { State.reset with cur := .group 0 0, groups := [(0, g)], nextId := 9 }

theorem issues_twins {s : State} {g : Group} (hc : s.cur = .group 0 0) (hg : s.group? 0 = some g) (hs : tget 0 g.splits = some twin) : Issues s 0 0 g twin :=
  ⟨hc, hg, hs, rfl⟩

end Sys2Proof.Machine
end

section
/-! OBLIGATIONS. Statements that a table of splits with two records of one number refutes. -/

namespace Sys2Proof.Machine

/-! ### IssueChecks -/

/-- SMOV of a register whose write is pending. -/
def pendingState : State := issuing { twins with busy := [.s 3] }

/-- Refutes O21: SMOV of a register with a write pending waits, but of two records of split 0 the second, whose instruction has issued, keeps its place. -/
theorem not_issueChecks : ¬ Obligations.IssueChecks := by
  intro holds
  obtain ⟨-, -, waits, -⟩ := holds pendingState 0 0 { twins with busy := [.s 3] } twin (.smov false 4 (.reg 3)) (issues_twins rfl rfl rfl) rfl
  have legal : isEngine (.smov false 4 (.reg 3)) = false ∧ Instr.wf (.smov false 4 (.reg 3)) = true := by decide
  refine absurd (stamps_of_waitsAgain (waits ⟨legal.1, legal.2, nofun, nofun⟩ fun idle => ?_)) (by decide +kernel)
  exact idle (.s 3) (by decide +kernel) (by decide +kernel)

/-! ### FencesAndRemoteLoads -/

/-- An atomic of the tenant is in flight. -/
def atomicInFlight : State := { issuing twins with rops := [(7, { gid := 1, task := none, launch := 1, vf := 0, split := 0, lane := { lane := 0, kind := 2, size := 4, va := 0, pa := 0, home := 1 } })] }

/-- Refutes O19: an acquiring FENCE waits for an atomic in flight, and a second record of split 0 keeps its place. -/
theorem not_fencesAndRemoteLoads : ¬ Obligations.FencesAndRemoteLoads := by
  intro holds
  obtain ⟨-, -, waits⟩ := holds.1 atomicInFlight 0 0 twins twin .acq .pod ⟨issues_twins rfl rfl rfl, by decide +kernel, by decide +kernel, by decide +kernel⟩
  refine absurd (stamps_of_waitsAgain (waits (fun rel => absurd rel (by decide)) fun may => ?_)) (by decide +kernel)
  exact absurd (may rfl _ (List.mem_cons_self ..) rfl rfl) (by decide)

/-! ### BranchesAndWaits -/

/-- A publish of the group is outstanding. -/
def publishing : State := { issuing twins with pubs := [(7, { gid := 0, core := 0, task := none, launch := 1, vf := 0, base := 0, progs := [] })] }

/-- Refutes O24: WAITC waits for a publish, and a second record of split 0 keeps its place. -/
theorem not_branchesAndWaits : ¬ Obligations.BranchesAndWaits := by
  intro holds
  obtain ⟨waitc, -⟩ := holds.2 publishing 0 0 twins twin .pbl (.lit 0) 0 0 none
  obtain ⟨-, waits⟩ := waitc ⟨issues_twins rfl rfl rfl, by decide +kernel, by decide +kernel, by decide +kernel⟩
  exact absurd (stamps_of_parks (waits (by decide +kernel))) (by decide +kernel)

/-! ### GroupBarrierAndRegrouping -/

/-- The group with a third record, of a split that is elsewhere. -/
def withSplit1 : Group := { twins with splits := twins.splits ++ [(1, twin)] }

/-- Refutes O30: one of several splits waits at BAR.grp, and a second record of split 0 keeps its place. -/
theorem not_groupBarrierAndRegrouping : ¬ Obligations.GroupBarrierAndRegrouping := by
  intro holds
  obtain ⟨-, -, waits, -⟩ := holds.2 (issuing withSplit1) 0 0 withSplit1 twin ⟨issues_twins rfl rfl rfl, by decide +kernel, by decide +kernel, by decide +kernel⟩ rfl
  exact absurd (stamps_of_parks (waits nofun ⟨(1, twin), by decide +kernel, by decide, nofun, nofun⟩)) (by decide +kernel)

/-! ### MessageQueues -/

/-- Queue 0 of core 0 is enabled and empty. -/
def emptyQueue : State := { issuing twins with queues := [(0, { cfg := 0x80000000 })] }

/-- Refutes O34: MQGET of an empty queue waits, and a second record of split 0 keeps its place. -/
theorem not_messageQueues : ¬ Obligations.MessageQueues := by
  intro holds
  obtain ⟨-, get, -⟩ := holds emptyQueue 0 0 twins twin 0 0 1 4 0 [] [] 0 ⟨0, none, 0, 0, 0, [], false⟩
  obtain ⟨-, waits, -⟩ := get ⟨issues_twins rfl rfl rfl, by decide +kernel, by decide +kernel, by decide +kernel⟩
  exact absurd (stamps_of_holdsIn (waits (by decide +kernel) nofun (.inl rfl))) (by decide +kernel)

/-! ### ProgramForks -/

/-- The quad runs its program 0. -/
def runningProgram : State := { issuing twins with quads := [(0, { forks := 1, running := some (probeProg 0 1) })] }

/-- Refutes O35: MRDV waits for a program that lives, and a second record of split 0 keeps its place. -/
theorem not_programForks : ¬ Obligations.ProgramForks := by
  intro holds
  obtain ⟨-, rdv⟩ := holds runningProgram 0 0 twins twin 0 0 0 3 ⟨0, 0, 0, 0, 0, 0, false⟩
  obtain ⟨-, -, waits⟩ := rdv ⟨issues_twins rfl rfl rfl, by decide +kernel, by decide +kernel, by decide +kernel⟩ nofun
  obtain ⟨live, -⟩ := waits (by decide +kernel) (by decide +kernel)
  exact absurd (stamps_of_holdsIn (live ⟨probeProg 0 1, by decide +kernel, by decide +kernel⟩)) (by decide +kernel)

/-! ### Barriers -/

/-- The launch of the group. -/
def plainLaunch : Launch :=
  { vf := 0, queue := 0, graph := false, kernel := probeKernel, payload := [], prio := 0, done := 0, podl := 0, next := 1, sums := ⟨0, 0, 1, 0, 0⟩ }

/-- A block barrier in phase 0 that waits for two members. -/
def blockBarrier : Barrier := { expected := 2, members := [0] }

/-- The group's block has it. -/
def barrierState : State := { issuing twins with launches := [(1, plainLaunch)], barriers := [(⟨1, 3, 0, 0⟩, blockBarrier)] }

/-- Refutes O29: BARW waits for a barrier in its phase, and a second record of split 0 keeps its place. -/
theorem not_barriers : ¬ Obligations.Barriers := by
  intro holds
  obtain ⟨-, members, -⟩ := holds barrierState 0 0 twins twin .block 0 3 ⟨1, 3, 0, 0⟩ blockBarrier nofun
  obtain ⟨-, -, -, -, barw⟩ := members (by decide +kernel) (by decide +kernel)
  have waits := barw rfl (by decide) ⟨issues_twins rfl rfl rfl, by decide +kernel, by decide +kernel, by decide +kernel⟩
  rw [if_pos (by decide +kernel)] at waits
  obtain ⟨t, run, -, group, -⟩ := waits
  have stamps : stampsAfter (.barw .block 0 3) barrierState 0 = some [9, 9] := stampsAfter_of_group run group
  exact absurd stamps (by decide +kernel)

/-! ### SendsAndSpawns -/

/-- Port 0 of the group's grid: the value of v0 goes to the next item. -/
def nextPort : PortDecl := { scalar := false, src := 0, k := 1, fromPayload := false, word := 0, lit := 0 }

/-- The group runs item 0, and an FSEND of its split's other record waits to send. -/
def senders : Group := { twins with item := some 0, splits := [(0, twin), (0, { heldTwin with wait := .again (.send 0) })] }

/-- The launch declares the port. -/
def orderedLaunch : Launch := { plainLaunch with kernel := { probeKernel with kind := 1, grid := 4, ports := [some nextPort, none, none, none] } }

def sendState : State := { issuing senders with launches := [(1, orderedLaunch)] }

/-- Refutes O31: FSEND waits behind an earlier one of its port, and that one, of a second record of split 0, keeps its place. -/
theorem not_sendsAndSpawns : ¬ Obligations.SendsAndSpawns := by
  intro holds
  obtain ⟨fsend, -⟩ := holds sendState 0 0 senders twin 0 nextPort 0 orderedLaunch 0 0 0 0 0
  obtain ⟨-, sends⟩ := fsend ⟨issues_twins rfl rfl rfl, by decide +kernel, by decide +kernel, by decide +kernel⟩
  obtain ⟨-, waits, -⟩ := sends rfl (by decide +kernel) rfl rfl
  refine absurd (stamps_of_holdsIn (waits nofun (.inr ⟨(0, senders), by decide +kernel, rfl, rfl, rfl, rfl, rfl, ?_⟩))) (by decide +kernel)
  exact ⟨(0, { heldTwin with wait := .again (.send 0) }), by decide +kernel, rfl, _, rfl, by decide⟩

/-! ### Copies -/

/-- A copy of no bytes. -/
def emptyCopy : Copy :=
  { gid := 0, task := none, launch := 1, vf := 0, core := 0, block := none, fromScratch := true, toScratch := true, addrs := [], srcs := [], dsts := [],
    old := [], faults := false }

/-- The group has 255 copies outstanding. -/
def copying : State := { issuing twins with copies := (List.range 255).map fun n => (n, emptyCopy) }

/-- Refutes O32: CPY waits for one of 255 copies, and a second record of split 0 keeps its place. -/
theorem not_copies : ¬ Obligations.Copies := by
  intro holds
  obtain ⟨waits, -⟩ := holds.1 copying 0 0 twins twin .s2s false .none 0 0 2 4 6 [] 0 ⟨issues_twins rfl rfl rfl, by decide +kernel, by decide +kernel, by decide +kernel⟩
    (by decide +kernel) nofun nofun fun h => absurd rfl h
  exact absurd (stamps_of_holdsIn (waits (by decide +kernel))) (by decide +kernel)

/-! ### Publishing -/

/-- A publishable region of 64 KiB at 0x80000. -/
def publishable : Region := { base := 0x80000, size := 65536, scope := .core }

/-- The group is about to publish it, with 255 publishes outstanding. -/
def publisher : Group := { twins with sregs := [0, 0, 0x80000, 0] }

/-- The low 1 GiB is mapped one to one. -/
def publishState : State :=
  { issuing publisher with
    mem := probeMem {} 0
    vfs := [(0, { ptRoot := 0x10000, regions := [publishable] })]
    pubs := (List.range 255).map fun n => (n, { gid := 0, core := 0, task := none, launch := 1, vf := 0, base := 0x80000, progs := [] }) }

/-- Refutes O33: PUBL waits for one of 255 publishes, and a second record of split 0 keeps its place. -/
theorem not_publishing : ¬ Obligations.Publishing := by
  intro holds
  have mapped : (publishState.checkGlobal 0 0 1 0x80000 1 .read).toOption.isSome = true := by decide +kernel
  obtain ⟨l, checked⟩ : ∃ l, publishState.checkGlobal 0 0 1 0x80000 1 .read = .ok l := by
    cases e : publishState.checkGlobal 0 0 1 0x80000 1 .read with
    | ok l => exact ⟨l, rfl⟩
    | error _ => rw [e] at mapped; cases mapped
  obtain ⟨publ, -⟩ := holds publishState 0 0 publisher twin 2 l publishable 0 ⟨0, 0, none, 0, 0, 0, [], false⟩
  obtain ⟨-, waits, -⟩ := publ ⟨issues_twins rfl rfl rfl, by decide +kernel, by decide +kernel, by decide +kernel⟩ checked
  exact absurd (stamps_of_holdsIn (waits (by decide +kernel) (by decide +kernel))) (by decide +kernel)

/-! ### TaskInstructions -/

/-- A task that holds key 0. -/
def keyTask : Task :=
  { vf := 0, launch := 1, handle := 0, kernel := probeKernel, kind := 0, keys := [(0, true)], held := [(0, true)], retry := false, aff := none, pin := false,
    prio := 0, succ := [], payload := [] }

/-- The group runs the task. -/
def keyHolder : Group := { twins with task := some 3 }

/-- A remote operation of the group is not acknowledged. -/
def keyState : State :=
  { issuing keyHolder with
    tasks := [(3, keyTask)]
    rops := [(7, { gid := 0, task := none, launch := 1, vf := 0, split := 0, lane := { lane := 0, kind := 1, size := 4, va := 0, pa := 0, home := 1 } })] }

/-- Refutes O36: KREL waits for the group's remote operations, and a second record of split 0 keeps its place. -/
theorem not_taskInstructions : ¬ Obligations.TaskInstructions := by
  intro holds
  obtain ⟨-, -, krel⟩ := holds keyState 0 0 keyHolder twin false false 0 0 0 0 0 keyTask 0 0 0 0 0 0 plainLaunch ⟨probeKernel, []⟩ (.lit 0) 3
  obtain ⟨-, waits, -⟩ := krel ⟨issues_twins rfl rfl rfl, by decide +kernel, by decide +kernel, by decide +kernel⟩
  exact absurd (stamps_of_holdsIn (waits rfl rfl ⟨true, by decide +kernel⟩ (by decide +kernel))) (by decide +kernel)

/-! ### CairnInstructions -/

/-- A cairn of name 0 that moves. -/
def movingCairn : Cairn :=
  { vf := 0, name := 0, holder := 0, off := 0, size := 256, life := .launch, mir := false, launch := 1, queue := 0, moving := some ⟨1, 0, none, false, []⟩ }

def cairnState : State := { issuing twins with cairns := [movingCairn] }

/-- Refutes O37: CINFO waits for the cairn's move, and a second record of split 0 keeps its place. -/
theorem not_cairnInstructions : ¬ Obligations.CairnInstructions := by
  intro holds
  obtain ⟨-, busy, -⟩ := holds cairnState 0 0 twins twin 4 2 0 .launch false false false (.succ 0) (.core 0) movingCairn 0
  obtain ⟨waits, -⟩ := busy (.inl (by decide +kernel))
  exact absurd (stamps_of_holdsIn (waits _ (.inr (.inl rfl)) ⟨issues_twins rfl rfl rfl, by decide +kernel, by decide +kernel, by decide +kernel⟩)) (by decide +kernel)

end Sys2Proof.Machine
end

section
/-! OBLIGATIONS. Statements that a state of another shape refutes: a directory or a table with two records of one name, a partition whose entries are
all taken, a copy in flight. -/

namespace Sys2Proof.Machine

/-! ### WorkEvents -/

/-- A closed stream cairn of host queue 0. -/
def streamCairn : Cairn := { vf := 0, name := 1, holder := 0, off := 0, size := 64, life := .stream, mir := false, launch := 0, queue := 0 }

/-- A launch's cairn of the same VF and name. -/
def launchCairn : Cairn := { streamCairn with life := .launch }

/-- Refutes O47: freeing the stream cairn of a destroyed queue takes its name out of the directory, and a launch's cairn of the same name with it. -/
theorem not_workEvents : ¬ Obligations.WorkEvents := by
  intro holds
  obtain ⟨-, -, -, -, -, -, destroyed⟩ := holds { State.reset with cairns := [streamCairn, launchCairn] } 0 0 0 0 0 0 0 0
    keyTask keyTask plainLaunch ⟨probeKernel, []⟩ (0, []) [] launchCairn 0 false false
  obtain ⟨u, run, -, -, -, stays⟩ := destroyed nofun
  have gone : (match exec (.hostQueueDestroy 0 0) { State.reset with cairns := [streamCairn, launchCairn] } with | .next t => t.cairns | _ => [launchCairn]) = [] := by
    decide +kernel
  rw [run] at gone
  have mem : launchCairn ∈ u.cairns := stays (by decide) (by decide)
  rw [show u.cairns = [] from gone] at mem
  exact absurd mem nofun

/-! ### ResetAndTrust -/

/-- Core 0 of package 0 has two records, of which the second is lost. -/
def twoCores : State := { State.reset with cores := [(0, {}), (0, { lost := true })] }

/-- Refutes O50: a cold reset keeps only the records of lost cores, so that of two records of core 0 the second, which is lost, comes to count. -/
theorem not_resetAndTrust : ¬ Obligations.ResetAndTrust := by
  intro holds
  obtain ⟨⟨t, run, ⟨-, -, -, -, -, -, cores, -⟩, -⟩, -⟩ := holds twoCores 0 0 false false false []
  have lost : (match exec (.coldReset 0) twoCores with | .next t => (t.coreAt 0).lost | _ => false) = true := by decide +kernel
  rw [run] at lost
  exact absurd ((congrArg Core.lost (cores 0 rfl)).symm.trans lost) (by decide)

/-! ### Preemption -/

/-- A pre-empted group whose saved context is well formed. -/
def awayGroup : Group := { probeGroup 1 2 with budget := 0, count := 0, vregs := [], life := .preempted (List.replicate 192 0 ++ List.replicate 32 0xFFFFFFFF) }

/-- A group that holds all 16 split entries of its partition. -/
def wideGroup : Group := { probeGroup 1 3 with budget := 0, count := 0, vregs := [], slot := 1, splits := (List.range 16).map fun k => (k, { pc := 0x40000, mask := 0 }) }

/-- Both groups in partition 0 of core 0. -/
def fullPartition : State := { State.reset with groups := [(0, awayGroup), (1, wideGroup)] }

/-- Refutes O42: a pre-empted group takes a split entry as it resumes, and the partition has none, though the group needs none while it is away. -/
theorem not_preemption : ¬ Obligations.Preemption := by
  intro holds
  obtain ⟨-, resumes, -⟩ := holds fullPartition 0 0 0 0 0 awayGroup (probeProg 0 1) (List.replicate 192 0 ++ List.replicate 32 0xFFFFFFFF) { kind := .mma, pc := 0 }
  obtain ⟨h, ⟨t, run, only⟩, back, -⟩ := resumes rfl rfl (by decide +kernel) rfl (by decide +kernel) (by decide) (by decide) (by decide +kernel) (by decide +kernel) rfl
    (by decide +kernel)
  have stays : (match exec (.resumption 0 [(0, 0, 0)]) fullPartition with | .next t => (t.group? 0).map fun h => h.life == .resident | _ => none) = some false := by decide +kernel
  rw [run] at stays
  have away : (h.life == Residence.resident) = false :=
    Option.some.inj ((congrArg (Option.map fun h : Group => h.life == .resident) only.group).symm.trans stays)
  rw [show h.life = .resident from congrArg Group.life back] at away
  exact absurd away (by decide)

/-! ### TrapInstructions -/

/-- A split whose YIELD waits since clk 0, and a second record of split 0 whose place in the order of issue is earlier; both are stepped, and a write
is pending. -/
def yielder : Group :=
  { probeGroup 1 2 with busy := [.s 3], dbg := { ctl := 0xC0000000 },
                        splits := [(0, { pc := 0x40000, mask := fullMask, wait := .yield 0, stamp := 7 }), (0, { pc := 0x40000, mask := 0, stamp := 5 })] }

/-- 16 clk later. -/
def yieldState : State := { issuing yielder with now := 16 }

/-- The order of a group's pending trap. -/
def pendingOrder (s : State) (gid : Nat) : Option Nat := ((s.group? gid).bind Group.pend).map TrapInfo.order

/-- A trap raised in a group with writes pending stays pending, at its place in the order of issue. -/
theorem pendingOrder_raise {t : State} {gid : Nat} {g : Group} {info : TrapInfo} {pc : Word} (hg : t.group? gid = some g) (trap : g.trap = none)
    (pend : g.pend = none) (first : ∀ n, g.dueBefore n info.order = false) (writes : g.busy.isEmpty = false) (order : info.order ≠ 0) :
    pendingOrder (t.raise gid info pc) gid = some info.order := by
  unfold pendingOrder State.raise
  simp [hg, trap, pend, first, writes, order, Group.drained]

/-- Refutes O22: as the YIELD's wait ends, the STEP of the record that issued first is raised, which is not the one that waited. -/
theorem not_trapInstructions : ¬ Obligations.TrapInstructions := by
  intro holds
  obtain ⟨-, -, -, -, -, yields⟩ := holds.2 yieldState 0 0 0 yielder { pc := 0x40000, mask := fullMask, wait := .yield 0, stamp := 7 } 0 0 0 (.lit 0)
    { keepA := false, keepB := false, vd := 0, a := .reg 0, b := .reg 0 }
  obtain ⟨t, only, run⟩ := yields rfl rfl rfl (by decide +kernel) rfl (by decide +kernel) rfl (by decide)
  have earliest : (match exec (.yieldTimeout 0 0) yieldState with | .next t => pendingOrder t 0 | _ => none) = some 5 := by decide +kernel
  rw [run] at earliest
  have kept : pendingOrder _ 0 = some 7 :=
    pendingOrder_raise (info := { cause := causeSTEP, split := 0, pc := 0, order := 7 }) (pc := 0x40000) only.group rfl rfl (fun _ => rfl) rfl (by decide)
  exact absurd (kept.symm.trans earliest) (by decide)

/-! ### EngineEvents -/

/-- A MTOPK of the best entry that numbers the columns from `w`, in a ring of four slots at 0x100 whose stride is 0. -/
def topOp (w : Word) : EngOp := { kind := .mtopk 1 false w, pc := 0x40000, rows := 2, ring := [0x20000100, 4, 0, 0] }

/-- A copy that is to write byte 3 of the slot's payload. -/
def payloadCopy : Copy := { emptyCopy with toScratch := true, dsts := [some 0x143], srcs := [some 0x80000], addrs := [(0x143, 0x80000)], old := [0] }

/-- A program that runs the operation. -/
def topProg (w : Word) : Prog := { probeProg 0 1 with ops := [(6, topOp w)] }

/-- The program runs, and the copy is in flight. -/
def topState (w : Word) : State :=
  { State.reset with
    vfs := [(0, { quarters := [(0, [0])] })]
    copies := [(3, payloadCopy)]
    quads := [(0, { running := some (topProg w) })] }

theorem slotKey_topOp (w : Word) : slotKey 0 (topOp w).ring = 0x100 := (by decide : slotKey 0 [0x20000100, 4, 0, 0] = 0x100)

/-- The number of a column is too small to reach the highest byte of the index stored with it. -/
theorem highByte_column {w : Word} (hw : w = 0x01000000 ∨ w = 0x02000000) {n : Nat} (hn : n < 512) (rest : List Byte) :
    (leBytes 4 (w + BitVec.ofNat 32 n).toNat ++ rest).getD 3 0 = BitVec.ofNat 8 (w.toNat / 2 ^ 24) := by
  have value : w.toNat = 0x01000000 ∨ w.toNat = 0x02000000 := hw.imp (congrArg BitVec.toNat) (congrArg BitVec.toNat)
  have sum : (w + BitVec.ofNat 32 n).toNat / 256 / 256 / 256 = w.toNat / 2 ^ 24 := by
    rw [BitVec.toNat_add, BitVec.toNat_ofNat]
    omega
  rw [← sum]
  simp only [leBytes, List.cons_append, List.getD_cons_succ, List.getD_cons_zero]

/-- The copy's byte is undefined after the row, whatever the program stores there: O44 makes it the byte stored. -/
theorem freeByte_of_engineEvents (holds : Obligations.EngineEvents) (w : Word) (hw : w = 0x01000000 ∨ w = 0x02000000) :
    Config.freeByte 0 0x143 = BitVec.ofNat 8 (w.toNat / 2 ^ 24) := by
  obtain ⟨-, -, -, -, -, rows, -⟩ := holds (topState w) 0 6 0 (topProg w) [] (topOp w) 0 0 0 0 0 ⟨⟨0, 0, 0, .fp8, false, false⟩, 0, []⟩
  obtain ⟨-, -, top, -⟩ := rows ⟨rfl, rfl⟩ (by rcases hw with rfl | rfl <;> decide +kernel) rfl rfl (by rcases hw with rfl | rfl <;> decide +kernel) (Nat.le_refl 2) (by rcases hw with rfl | rfl <;> decide +kernel)
    (by unfold State.unclaimed; rcases hw with rfl | rfl <;> decide +kernel)
  obtain ⟨t, best, len, inside, -, -, run, -, -, -, -, bytes, -⟩ := top 1 false w rfl rfl (by decide)
  have byte : t.scratch.get 0x143 = _ := slotKey_topOp w ▸ bytes 3 (by decide)
  have undefined : (match exec (.engineRingSlot 0 6) (topState w) with | .next t => undefAt 0x143 t.scratch.undef | _ => none) = some 0 := by
    rcases hw with rfl | rfl <;> decide +kernel
  rw [run] at undefined
  have free : t.scratch.get 0x143 = Config.freeByte 0 0x143 := by
    unfold Mem.get
    rw [show undefAt 0x143 t.scratch.undef = some 0 from undefined]
  rw [← free, byte]
  obtain ⟨e, rfl⟩ := List.length_eq_one_iff.mp len
  obtain ⟨column, -⟩ := inside e (List.mem_singleton_self e)
  simpa using highByte_column hw column (leBytes 4 e.2.toNat)

/-- Refutes O44: a byte of the slot's payload that a copy in flight is to write is undefined after MTOPK's row: for two values stored it would have to be
both. -/
theorem not_engineEvents : ¬ Obligations.EngineEvents := fun holds =>
  absurd ((freeByte_of_engineEvents holds 0x01000000 (.inl rfl)).symm.trans (freeByte_of_engineEvents holds 0x02000000 (.inr rfl))) (by decide)

end Sys2Proof.Machine
end

section
/-! SUPPORT. What a store, an exit from a power state and a message to the host change (R102, R140, R274). -/

namespace Sys2Proof.Machine

/-- A store of bytes that no copy in flight is to write leaves them in memory. -/
theorem storeMem_mem {s : State} {key : Nat} {bs : List Byte} (free : s.unclaimed false key bs.length) :
    (s.storeMem key bs).mem = s.mem.putAll key bs := by
  have none : s.inCopy false key bs.length = [] := (List.append_eq_nil_iff.1 free).1
  unfold State.storeMem
  split <;> exact congrArg ((s.mem.putAll key bs).undefAll s.fresh) none

theorem map_get_range (m : Mem) (n : Nat) : ∀ a, m.bytes a n = (List.range n).map fun i => m.get (a + i) := by
  induction n with
  | zero => intro a; rfl
  | succ n ih =>
    intro a
    rw [List.range_succ_eq_map, List.map_cons, List.map_map, Mem.bytes, ih]
    refine congrArg _ (List.map_congr_left fun i _ => ?_)
    simp only [Function.comp_apply, Nat.add_assoc, Nat.add_comm 1]

@[simp] theorem renewImages_mem (s : State) (key n : Nat) : (s.renewImages key n).mem = s.mem := rfl

/-- An exit from a power state starts in the package's record. -/
theorem startExit_pkgs (s : State) (p : Nat) : s.startExit p = { s with pkgs := (s.startExit p).pkgs } := by
  unfold State.startExit
  simp only
  split <;> rfl

theorem startExit_active {s : State} {p : Nat} (h : (s.pkg p).power = .active) : s.startExit p = s := if_pos (.inl h)

end Sys2Proof.Machine
end

section
/-! OBLIGATIONS. What the host reads and writes (R167, R237, R267, R276). -/

namespace Sys2Proof.Machine

/-- The register of BAR0 of a host queue and its part there. -/
theorem queueRegister {q : Nat} (part : Nat) (hp : part < 32) : (0x1000 + 32 * q + part - 0x1000) / 32 = q ∧ (0x1000 + 32 * q + part) % 32 = part := by
  omega

theorem queues_ge (m : Mode) : 8 ≤ Mode.queues m := by cases m <;> decide

theorem sysReg_bpa {w : Nat} (h : w < 4) : sysReg (BitVec.ofNat 16 (0x104 + w)).toNat = some (.bpa w) := by
  rcases w with _ | _ | _ | _ | w
  · rfl
  · rfl
  · rfl
  · rfl
  · omega

theorem barRead_head {s : State} {v q : Nat} (hq : q < 8) : s.barRead v (0x1000 + 32 * q + 0x18) = .value (s.hostq v q).head.toNat := by
  have mode := queues_ge (s.pkg (pkgOf v)).mode
  have part := queueRegister (q := q) 0x18 (by decide)
  rw [State.barRead, part.1, part.2, if_neg (by omega), if_neg (by omega), if_neg (by omega), if_neg (by omega), if_neg (by decide), if_neg (by decide), if_pos rfl]

theorem barWrite_up {s : State} {v off : Nat} {x : DWord} (up : (s.pkg (pkgOf v)).booted = true) :
    exec (.hostMemoryAccess (.barWrite v off x)) s =
      if off = 0x10 then .next (s.setVf v { s.vf v with tolns := loWord x })
      else if off < 0x1000 ∨ Mode.queues (s.pkg (pkgOf v)).mode ≤ (off - 0x1000) / 32 then .next s
      else if off % 32 = 0 then .next (s.barQueue v ((off - 0x1000) / 32) false x)
      else if off % 32 = 8 then .next (s.barQueue v ((off - 0x1000) / 32) true x)
      else if off % 32 = 0x10 then execDoorbellWrite v ((off - 0x1000) / 32) (loWord x) s
      else .next s := by
  show (if !(s.pkg (pkgOf v)).booted then _ else _) = _
  rw [up]; rfl

/-- The host's debug access to a group is refused. -/
def State.shutsHost (s : State) (g : Group) (r : SysReg) : Bool :=
  g.trap.isNone || !r.isDebug || !(s.vf g.vf).debugHost || ((s.pkg (pkgOf g.vf)).life != .deployed && (s.pkg (pkgOf g.vf)).life != .debugUnlocked)

theorem execHostDebugAccess_read {s : State} {gid : Nat} {g : Group} {n : BitVec 16} {r : SysReg} (hg : s.group? gid = some g) (hr : sysReg n.toNat = some r) :
    exec (.hostDebugAccess (.group gid) n none) s = .next (if s.shutsHost g r then s.tell .refused else s.tell (.value (r.read s g).toNat)) := by
  show execHostDebugAccess (.group gid) n none s = _
  simp only [execHostDebugAccess, hg, hr]
  rfl

theorem execHostDebugAccess_write {s : State} {gid : Nat} {g : Group} {n : BitVec 16} {r : SysReg} {v : Word} (hg : s.group? gid = some g)
    (hr : sysReg n.toNat = some r) :
    exec (.hostDebugAccess (.group gid) n (some v)) s =
      .next (if s.shutsHost g r then s.tell .refused else s.setGroup gid { g with dbg := g.dbg.write r v }) := by
  show execHostDebugAccess (.group gid) n (some v) s = _
  simp only [execHostDebugAccess, hg, hr]
  rfl

theorem shutsHost_bpa (s : State) (g : Group) (w : Nat) : s.shutsHost g (.bpa w) = false ↔
    g.trap.isSome = true ∧ (s.vf g.vf).debugHost = true ∧ ((s.pkg (pkgOf g.vf)).life = .deployed ∨ (s.pkg (pkgOf g.vf)).life = .debugUnlocked) := by
  simp only [State.shutsHost, SysReg.isDebug]
  cases g.trap <;> cases (s.vf g.vf).debugHost <;> cases (s.pkg (pkgOf g.vf)).life <;> simp

/-- Proves O52: each access takes the branch of its condition. -/
theorem hostAccesses : Obligations.HostAccesses := by
  intro s dev addr len vf q gid w bs x v g told permitted open' up
  have reads (off : Nat) (h : up) : exec (.hostMemoryAccess (.barRead vf off)) s = .next (told (s.barRead vf off)) := by
    show Host.Outcome.next (s.tell (if !(s.pkg (pkgOf vf)).booted then HostMsg.refused else s.barRead vf off)) = _
    rw [show (s.pkg (pkgOf vf)).booted = true from h]; rfl
  have mode := queues_ge (s.pkg (pkgOf vf)).mode
  refine ⟨?_, ?_, ?_, ?_, ?_, ?_, ?_, ?_, ?_, ?_, ?_, ?_, ?_, ?_, ?_⟩
  · rintro fits ⟨wiping, booted⟩
    show (if _ then _ else Host.Outcome.next _) = _
    rw [if_neg (by omega), wiping, booted, map_get_range]; rfl
  · rintro fits ⟨wiping, booted⟩ wf free
    have mem : ((s.storeMem (memKey dev addr) bs).renewImages (memKey dev addr) bs.length).mem = s.mem.putAll (memKey dev addr) bs := storeMem_mem free
    refine ⟨(s.storeMem (memKey dev addr) bs).renewImages (memKey dev addr) bs.length, ?_, fun i hi => ?_, fun a ha => ?_⟩
    · show (if _ then _ else Host.Outcome.next _) = _
      rw [if_neg (by omega), wiping, booted]; rfl
    · rw [mem, Mem.get_putAll bs wf, if_pos (by unfold memKey; omega)]
      exact congrArg (bs.getD · 0) (by unfold memKey; omega)
    · rw [mem, Mem.get_putAll bs wf, if_neg (by unfold memKey; unfold apart at ha; omega)]
  · intro shut fits
    show (if _ then _ else Host.Outcome.next (s.tell (if _ then _ else _))) = _
    rw [if_neg (by omega), if_pos ?_]; rfl
    by_cases wiping : (s.pkg (dev / 8)).wiping = true
    · simp [wiping]
    · simpa [wiping] using fun booted => shut ⟨by simpa using wiping, booted⟩
  · intro beyond
    exact if_pos beyond
  · intro down
    have booted : (s.pkg (pkgOf vf)).booted = false := Bool.eq_false_iff.2 down
    refine ⟨?_, ?_⟩
    · show Host.Outcome.next (s.tell (if !(s.pkg (pkgOf vf)).booted then HostMsg.refused else _)) = _
      rw [booted]; rfl
    · show (if !(s.pkg (pkgOf vf)).booted then _ else _) = _
      rw [booted]; rfl
  · exact reads 0
  · exact reads 8
  · intro h
    show (if !(s.pkg (pkgOf vf)).booted then _ else _) = _
    rw [show (s.pkg (pkgOf vf)).booted = true from h]; rfl
  · intro h hq
    rw [reads _ h, barRead_head hq]; rfl
  · intro h hq
    rw [barWrite_up h, (queueRegister 0x10 (by decide)).1, (queueRegister 0x10 (by decide)).2, if_neg (by omega), if_neg (by omega), if_neg (by decide),
      if_neg (by decide), if_pos rfl]
    rfl
  · intro h hq off
    have part : (0x1000 + 32 * q - 0x1000) / 32 = q ∧ (0x1000 + 32 * q) % 32 = 0 := queueRegister 0 (by decide)
    rw [barWrite_up h, part.1, part.2, if_neg (by omega), if_neg (by omega), if_pos rfl, State.barQueue, if_neg (by simpa [State.hostq] using off)]
    rfl
  · intro life n
    exact congrArg _ (if_pos ⟨life, rfl⟩)
  · intro life n
    exact congrArg _ (if_neg fun h => life h.1)
  · intro n
    exact congrArg _ (if_neg fun h => absurd h.2 nofun)
  · intro hg hw
    have read := execHostDebugAccess_read hg (sysReg_bpa hw)
    have write := execHostDebugAccess_write (v := v) hg (sysReg_bpa hw)
    refine ⟨fun permit => ?_, fun shut => ?_⟩
    · rw [(shutsHost_bpa s g w).2 permit] at read write
      exact ⟨read, _, write, (OnlyGroup.refl hg).setGroup _⟩
    · rw [Bool.eq_true_of_not_eq_false fun h => shut ((shutsHost_bpa s g w).1 h)] at read write
      exact ⟨read, write⟩

end Sys2Proof.Machine
end

section
/-! OBLIGATIONS. Policy, wipes, remaps and power (R13, R128, R148, R270, R272-R274). -/

namespace Sys2Proof.Machine

/-! ### Policy -/

theorem policyWrite_active {s : State} {vf : Nat} (active : (s.pkg (pkgOf vf)).power = .active) (f : PolicyField) :
    exec (.policyWrite vf f) s = .next (if !(s.pkg (pkgOf vf)).booted || !s.policyOk vf f then s.tell .refused
      else if s.unitIdle vf f then s.setPolicy vf f else s.tell .busy) := by
  show execPolicyWrite vf f s = _
  rw [execPolicyWrite, startExit_active active]

theorem policyWrite_sets {s : State} {vf : Nat} {f : PolicyField} (active : (s.pkg (pkgOf vf)).power = .active) (booted : (s.pkg (pkgOf vf)).booted = true)
    (ok : s.policyOk vf f = true) (idle : s.unitIdle vf f = true) : exec (.policyWrite vf f) s = .next (s.setPolicy vf f) := by
  rw [policyWrite_active active, booted, ok, idle]; rfl

/-- A slice that a VF had not is zero when it receives it. -/
theorem setPolicy_slice {s : State} {vf c i : Nat} (new : i ∉ tgetD c [] (s.vf vf).slices) :
    s.setPolicy vf (.slices c [i]) = { s.setVf vf { s.vf vf with slices := tset c [i] (s.vf vf).slices } with
      scratch := s.scratch.zero (scratchKey (pkgOf vf * 256 + c) (i * Config.sliceBytes)) Config.sliceBytes } := by
  have keep : [i].filter (fun j => !(tgetD c [] (s.vf vf).slices).contains j) = [i] := by simp [new]
  simp only [State.setPolicy]
  rw [show sortBy id [i].eraseDups = [i] from rfl, keep]
  rfl

/-! ### Remap of a quad -/

theorem coreAt_setCores (q j : Nat) (l : List Nat) : ∀ s : State, (j ∈ l ∨ s.coreAt (quadCore q j) = {}) →
    (l.foldl (fun (s : State) i => s.setCore (quadCore q i) {}) s).coreAt (quadCore q j) = {} := by
  induction l with
  | nil => exact fun s h => h.resolve_left nofun
  | cons i l ih =>
    intro s h
    refine ih _ (if same : quadCore q j = quadCore q i then .inr (by rw [same]; simp) else ?_)
    rcases h with h | h
    · rcases List.mem_cons.1 h with rfl | h
      · exact absurd rfl same
      · exact .inl h
    · exact .inr ((State.coreAt_setCore_ne s same {}).trans h)

theorem setCores_frame (q : Nat) (l : List Nat) : ∀ s : State,
    let t := l.foldl (fun (s : State) i => s.setCore (quadCore q i) {}) s
    t = { s with cores := t.cores } := by
  induction l with
  | nil => exact fun s => rfl
  | cons i l ih => exact fun s => ih (s.setCore (quadCore q i) {})

theorem zeroSlices_frame (core : Nat) (idx : List Nat) : ∀ s : State, s.zeroSlices core idx = { s with scratch := (s.zeroSlices core idx).scratch } := by
  induction idx with
  | nil => exact fun s => rfl
  | cons i l ih => exact fun s => ih _

theorem zeroQuarters_frame (q : Nat) (idx : List Nat) : ∀ s : State, s.zeroQuarters q idx =
    { s with wbuf := (s.zeroQuarters q idx).wbuf, wdup := (s.zeroQuarters q idx).wdup, acc := (s.zeroQuarters q idx).acc, rows := (s.zeroQuarters q idx).rows } := by
  induction idx with
  | nil => exact fun s => rfl
  | cons i l ih => exact fun s => ih _

/-- The zeroing of some cores' slices. -/
theorem zeroCores_frame (q : Nat) (l : List Nat) : ∀ s : State,
    let t := l.foldl (fun (s : State) i => s.zeroSlices (quadCore q i) (List.range 8)) s
    t = { s with scratch := t.scratch } := by
  induction l with
  | nil => exact fun s => rfl
  | cons i l ih =>
    intro s
    have step := ih (s.zeroSlices (quadCore q i) (List.range 8))
    rw [zeroSlices_frame] at step
    rw [List.foldl_cons, zeroSlices_frame]
    exact step

/-- The machine with the cores of a quad new and its memories zero. -/
def State.renewQuad (s : State) (q : Nat) : State :=
  let s := (List.range 4).foldl (fun (s : State) i => s.setCore (quadCore q i) {}) s
  let s := (List.range 4).foldl (fun (s : State) i => s.zeroSlices (quadCore q i) (List.range 8)) s
  let s := s.zeroQuarters q (List.range 4)
  s.setQuad q { s.quad q with ranges := [] }

theorem renewQuad_frame (s : State) (q : Nat) : (s.renewQuad q).cores = ((List.range 4).foldl (fun (s : State) i => s.setCore (quadCore q i) {}) s).cores
    ∧ (s.renewQuad q).mem = s.mem ∧ (s.renewQuad q).groups = s.groups := by
  rw [State.renewQuad, State.setQuad]
  simp only
  rw [zeroQuarters_frame]
  simp only
  rw [zeroCores_frame]
  simp only
  rw [setCores_frame]
  exact ⟨trivial, rfl, rfl⟩

/-- An empty quad with a lost core moves to the die's spare. -/
theorem quadRemap_moves {s : State} {pkg die quad i : Nat} (hi : i < 4) (lost : (s.coreAt (quadCore (pkg * 64 + die * 8 + quad) i)).lost = true)
    (spare : ∀ b ∈ (s.pkg pkg).badQuads, b.1 ≠ die) (empty : s.quadEmpty (pkg * 64 + die * 8 + quad) = true) :
    exec (.quadRemap pkg die quad) s =
      .next ((s.renewQuad (pkg * 64 + die * 8 + quad)).setPkg pkg { s.pkg pkg with badQuads := (die, quad) :: (s.pkg pkg).badQuads }) := by
  have lost' : (List.range 4).any (fun i => (s.coreAt (quadCore (pkg * 64 + die * 8 + quad) i)).lost) = true :=
    List.any_eq_true.2 ⟨i, List.mem_range.2 hi, lost⟩
  have spare' : (s.pkg pkg).badQuads.all (fun b => b.1 != die) = true := List.all_eq_true.2 fun b hb => by simpa using spare b hb
  show execQuadRemap pkg die quad s = _
  rw [execQuadRemap]
  exact congrArg _ (if_neg (by rw [lost', spare', empty]; decide))

theorem quadRemap_renews {s : State} {pkg die quad i : Nat} (hi : i < 4) (lost : (s.coreAt (quadCore (pkg * 64 + die * 8 + quad) i)).lost = true)
    (spare : ∀ b ∈ (s.pkg pkg).badQuads, b.1 ≠ die) (empty : s.quadEmpty (pkg * 64 + die * 8 + quad) = true) :
    ∃ t, exec (.quadRemap pkg die quad) s = .next t ∧ t.pkg pkg = { s.pkg pkg with badQuads := (die, quad) :: (s.pkg pkg).badQuads }
      ∧ (∀ j, j < 4 → t.coreAt (quadCore (pkg * 64 + die * 8 + quad) j) = {}) ∧ t.mem = s.mem ∧ t.groups = s.groups := by
  have run := quadRemap_moves hi lost spare empty
  obtain ⟨cores, mem, groups⟩ := renewQuad_frame s (pkg * 64 + die * 8 + quad)
  generalize s.renewQuad (pkg * 64 + die * 8 + quad) = t at run cores mem groups
  refine ⟨_, run, State.pkg_setPkg_self .., fun j hj => ?_, mem, groups⟩
  rw [State.setPkg_coreAt, State.coreAt, cores]
  exact coreAt_setCores _ j (List.range 4) s (.inl (List.mem_range.2 hj))

/-! ### Power -/

theorem setPower_spec (s : State) (p : Nat) (goal : Power) : ∃ y, s.setPower p goal = s.setPkg p y ∧ y.power = goal ∧ y.exitAt = none ∧ y.life = (s.pkg p).life
    ∧ y.booted = (s.pkg p).booted ∧ y.mode = (s.pkg p).mode ∧ (Power.stopsCounters goal = false → y.runFrom ≠ none) := by
  refine ⟨_, rfl, rfl, rfl, ?_⟩
  cases run : (s.pkg p).runFrom <;> cases stops : Power.stopsCounters goal <;> simp [run]

theorem startExit_spec {s : State} {p : Nat} (idle : (s.pkg p).exitAt = none) (power : (s.pkg p).power ≠ .active) :
    s.startExit p = s.setPkg p { s.pkg p with exitAt := some (s.now + Power.latency (s.pkg p).power) } :=
  if_neg fun h => h.elim power fun h => by rw [idle] at h; exact absurd h nofun

theorem powerStateEntry_idle {s : State} {p : Nat} (idle : s.pkgWorks p = false) (exits : (s.pkg p).exitAt = none) : exec (.powerStateEntry p) s =
    .next (if Power.latency (s.powerGoal p) < Power.latency (s.pkg p).power then s.startExit p else s.setPower p (s.powerGoal p)) := by
  show execPowerStateEntry p s = _
  rw [execPowerStateEntry]
  exact congrArg _ (if_neg (by simp [idle, exits]))

/-! ### Wipes -/

theorem noteKeys_frame (s : State) (ks : List Nat) : s.noteKeys ks = { s with written := (s.noteKeys ks).written } := by
  unfold State.noteKeys
  split <;> rfl

theorem noteRange_frame (s : State) (k len : Nat) :
    ∃ gs written, (if len = 0 then s else (s.noteKeys [k, k + len - 1]).clearLines k len) = { s with groups := gs, written := written } := by
  split
  · exact ⟨_, _, rfl⟩
  · rw [noteKeys_frame]
    exact ⟨_, _, rfl⟩

/-- The wipe engine zeroes the bytes of a range. -/
theorem hbmWipe_zero {s : State} {dev addr len : Nat} (fits : addr + len ≤ s.devBytes dev) :
    ∃ t, exec (.hbmWipe dev addr len) s = .next t ∧ t.vfs = s.vfs ∧ t.scratch = s.scratch ∧ t.mem = s.mem.zero (memKey dev addr) len := by
  obtain ⟨gs, written, noted⟩ := noteRange_frame s (memKey dev addr) len
  refine ⟨_, if_neg (by omega), ?_⟩
  dsimp only
  rw [noted, startExit_pkgs]
  exact ⟨rfl, rfl, rfl⟩

/-- Proves O51: each event takes the branch of its condition. -/
theorem policyAndPower : Obligations.PolicyAndPower := by
  intro s vf core dev addr len pkg die quad at' a sc c i p x q sets home
  refine ⟨?_, ?_, ?_, ?_, ?_, ?_, ?_, ?_, ?_, ?_, ?_, ?_, ?_, ?_⟩
  · intro active down f
    rw [policyWrite_active active, down]; rfl
  · intro active booted
    refine ⟨fun f ok idle => policyWrite_sets active booted ok idle, fun f bad => ?_, policyWrite_sets active booted rfl, policyWrite_sets active booted rfl,
      policyWrite_sets active booted rfl, fun f ok busy => ?_, fun hc hi new idle wf => ?_⟩
    · rw [policyWrite_active active, booted, bad]; rfl
    · rw [policyWrite_active active, booted, ok, busy]; rfl
    · refine ⟨_, policyWrite_sets active booted (by simp [State.policyOk, hc, hi]) idle, ?_, ?_, fun b => ?_⟩
      · rw [setPolicy_slice new]; rfl
      · rw [setPolicy_slice new]; exact State.vf_setVf_self ..
      · rw [setPolicy_slice new]; exact Mem.get_zero wf ..
  · refine ⟨_, rfl, ?_, fun active => ?_, State.coreAt_setCore_self .., fun d hd => ?_⟩
    · rw [startExit_pkgs]; rfl
    · rw [startExit_active active]; rfl
    · refine (State.coreAt_setCore_ne _ hd _).trans ?_
      rw [startExit_pkgs]; rfl
  · intro fits
    obtain ⟨t, run, vfs, scratch, mem⟩ := hbmWipe_zero fits
    exact ⟨t, run, vfs, scratch, fun wf b => by rw [mem]; exact Mem.get_zero wf ..⟩
  · intro beyond
    exact if_pos beyond
  · intro hi lost spare empty
    exact quadRemap_renews hi lost spare empty
  · intro full
    show execQuadRemap pkg die quad s = _
    rw [execQuadRemap]
    refine congrArg _ (if_pos ?_)
    rw [show s.quadEmpty (pkg * 64 + die * 8 + quad) = false from full]
    simp
  · intro h
    refine congrArg _ (if_pos ?_)
    rcases h with works | exits
    · simp [works]
    · rw [Option.isSome_iff_ne_none.2 exits, Bool.or_true]
  · intro idle exits deeper
    rw [powerStateEntry_idle idle exits, if_pos deeper, startExit_spec exits fun active => by rw [show p.power = _ from active] at deeper; exact absurd deeper (by simp [Power.latency])]
  · intro idle exits shallower
    obtain ⟨y, set, power, -, life, booted, mode, -⟩ := setPower_spec s pkg (s.powerGoal pkg)
    refine ⟨_, y, ?_, set, power, life, booted, mode⟩
    rw [powerStateEntry_idle idle exits, if_neg (by simpa using shallower)]
  · intro exits early
    show execPowerStateExit pkg s = _
    rw [execPowerStateExit, show (s.pkg pkg).exitAt = some at' from exits]
    exact congrArg _ (if_neg (by omega))
  · intro exits late
    obtain ⟨y, set, power, exit, -, -, -, runs⟩ := setPower_spec s pkg .active
    refine ⟨_, y, ?_, set, power, exit, runs rfl⟩
    show execPowerStateExit pkg s = _
    rw [execPowerStateExit, show (s.pkg pkg).exitAt = some at' from exits]
    exact congrArg _ (if_pos late)
  · intro exits active
    show execPowerStateExit pkg s = _
    rw [execPowerStateExit, show (s.pkg pkg).exitAt = none from exits]
    exact congrArg _ (startExit_active active)
  · intro exits power
    show execPowerStateExit pkg s = _
    rw [execPowerStateExit, show (s.pkg pkg).exitAt = none from exits]
    exact congrArg _ (startExit_spec exits power)

end Sys2Proof.Machine
end

section
/-! SUPPORT. The deferral stack and a transfer of control (R43, R83, R287). -/

namespace Sys2Proof.Machine

/-- A stack holds no entry of a split, or a most recent one. -/
theorem owned_cases (k : Nat) (l : List Defer) :
    (∀ d ∈ l, d.owner ≠ k) ∨ ∃ l1 d l2, l = l1 ++ d :: l2 ∧ d.owner = k ∧ ∀ e ∈ l2, e.owner ≠ k := by
  induction l with
  | nil => exact .inl nofun
  | cons d l ih =>
    rcases ih with none | ⟨l1, e, l2, rfl, owner, after⟩
    · by_cases owner : d.owner = k
      · exact .inr ⟨[], d, l, rfl, owner, none⟩
      · exact .inl (List.forall_mem_cons.2 ⟨owner, none⟩)
    · exact .inr ⟨d :: l1, e, l2, rfl, owner, after⟩

theorem filter_owned_none {k : Nat} {l : List Defer} (n : Nat) (h : ∀ d ∈ l, d.owner ≠ k) : ((l.zipIdx n).filter fun d => d.1.owner == k) = [] := by
  refine List.filter_eq_nil_iff.2 fun d hd => ?_
  simpa using h d.1 (List.fst_mem_of_mem_zipIdx hd)

theorem lastOwned_none {k : Nat} {l : List Defer} (h : ∀ d ∈ l, d.owner ≠ k) : lastOwned k l = none := by
  rw [lastOwned, filter_owned_none 0 h]; rfl

theorem lastOwned_some {k : Nat} {l1 l2 : List Defer} {d : Defer} (owner : d.owner = k) (after : ∀ e ∈ l2, e.owner ≠ k) :
    lastOwned k (l1 ++ d :: l2) = some (d, l1.length) := by
  rw [lastOwned, List.zipIdx_append, List.filter_append, List.zipIdx_cons, List.filter_cons_of_pos (by simpa using owner), filter_owned_none _ after]
  simp

/-- A deferral joins the split's most recent entry where that has the same address. -/
theorem deferPush_joins {k : Nat} {a : Word} {m n : Mask} {l1 l2 : List Defer} (after : ∀ e ∈ l2, e.owner ≠ k) :
    deferPush (l1 ++ ⟨k, a, m⟩ :: l2) k a n = some (l1 ++ ⟨k, a, m ||| n⟩ :: l2) := by
  simp only [deferPush, lastOwned_some (d := ⟨k, a, m⟩) rfl after, if_true]
  simp

/-- No entry of the split is the most recent one at an address. -/
def Apart (k : Nat) (a : Word) (l : List Defer) : Prop :=
  (∀ d ∈ l, d.owner ≠ k) ∨ ∃ l1 d l2, l = l1 ++ d :: l2 ∧ d.owner = k ∧ d.addr ≠ a ∧ ∀ e ∈ l2, e.owner ≠ k

theorem deferPush_apart {k : Nat} {a : Word} {m : Mask} {l : List Defer} (h : Apart k a l) :
    deferPush l k a m = if l.length < 8 then some (l ++ [⟨k, a, m⟩]) else none := by
  rcases h with none | ⟨l1, d, l2, rfl, owner, addr, after⟩
  · simp only [deferPush, lastOwned_none none]
  · simp only [deferPush, lastOwned_some owner after, if_neg addr]

theorem deferPush_none {k : Nat} {a : Word} {m : Mask} {l : List Defer} (h : deferPush l k a m = none) : Apart k a l ∧ 8 ≤ l.length := by
  have apart : Apart k a l := by
    rcases owned_cases k l with none | ⟨l1, d, l2, rfl, owner, after⟩
    · exact .inl none
    · refine .inr ⟨l1, d, l2, rfl, owner, fun addr => ?_, after⟩
      obtain ⟨o, b, n⟩ := d
      obtain rfl : o = k := owner
      obtain rfl : b = a := addr
      rw [deferPush_joins after] at h
      exact absurd h nofun
  rw [deferPush_apart apart] at h
  exact ⟨apart, by by_contra short; rw [if_pos (by omega)] at h; exact absurd h nofun⟩

theorem mem_of_tget {α : Type} {k : Nat} {x : α} {t : Table α} (h : tget k t = some x) : (k, x) ∈ t := by
  induction t with
  | nil => exact absurd h nofun
  | cons p t ih =>
    rw [tget] at h
    split at h
    · next e =>
      obtain rfl := Option.some.inj h
      exact e ▸ List.mem_cons_self ..
    · exact List.mem_cons_of_mem _ (ih h)

theorem eq_or_mem_of_mem_tset {α : Type} {k : Nat} {x : α} {p : Nat × α} {t : Table α} (h : p ∈ tset k x t) : p = (k, x) ∨ p ∈ t := by
  induction t with
  | nil => exact .inl (List.mem_singleton.1 h)
  | cons q t ih =>
    rw [tset] at h
    split at h
    · rcases List.mem_cons.1 h with rfl | h
      · exact .inr (List.mem_cons_self ..)
      · exact (ih h).imp_right (List.mem_cons_of_mem _)
    · split at h
      · exact (List.mem_cons.1 h).imp_right (List.mem_cons_of_mem _)
      · exact List.mem_cons.1 h

/-- A new split with no STEP due leaves none due. -/
theorem noStep_tset {g : Group} (h : g.noStep) (j : Nat) {sp : Split} (due : sp.due = none) : Group.noStep { g with splits := tset j sp g.splits } := by
  intro p hp
  rcases eq_or_mem_of_mem_tset hp with rfl | hp
  · exact due
  · exact h p hp

/-- A transfer within the window completes at its target. -/
theorem jump_completes {s t : State} {gid k : Nat} {g g' : Group} {sp sp' : Split} {i : Instr} {words : Int} (hv : isVector i = false) (hd : vDests i = [])
    (h : OnlyGroup s t gid g') (hs : tget k g'.splits = some sp') (hf : g'.stepped k = false) (hq : g'.noStep)
    (inside : hiWord (g.target sp words) = g.window) :
    ∃ u, (groupCtx gid k g sp i).settle i s ((groupCtx gid k g sp i).jump words t) = .next u
      ∧ OnlyGroup s u gid (g'.goesOn k (loWord (g.target sp words)) s.now) := by
  rw [show (groupCtx gid k g sp i).jump words t = .goto t (loWord (g.target sp words)) from if_pos inside]
  exact settle_goto hv hd h hs hf hq _

theorem jump_outside {t : State} {gid k : Nat} {g : Group} {sp : Split} {i : Instr} {words : Int} (outside : hiWord (g.target sp words) ≠ g.window) :
    (groupCtx gid k g sp i).jump words t = trapAct causeXLATE := if_neg outside

end Sys2Proof.Machine
end

section
/-! OBLIGATIONS. BDIV (R42, R43, R287). -/

namespace Sys2Proof.Machine

/-- Numbers of splits that a group does not use, the lowest first. -/
theorem find_free_iff (l : Table Split) (j : Nat) : (List.range 4).find? (fun j => !l.any fun p => p.1 == j) = some j ↔
    j < 4 ∧ ¬ (∃ x, (j, x) ∈ l) ∧ ∀ i, i < j → ∃ x, (i, x) ∈ l := by
  have used (i : Nat) : (l.any fun p => p.1 == i) = true ↔ ∃ x, (i, x) ∈ l := by
    simp only [List.any_eq_true, beq_iff_eq, Prod.exists, exists_and_right]
    exact ⟨fun ⟨a, ⟨x, hx⟩, ha⟩ => ⟨x, ha ▸ hx⟩, fun ⟨x, hx⟩ => ⟨i, ⟨x, hx⟩, rfl⟩⟩
  rw [List.find?_range_eq_some]
  simp only [Bool.not_eq_true', ← Bool.not_eq_true, used, List.mem_range, Bool.not_not]
  tauto

/-- The number that a new split of a group takes, if its partition has an entry. -/
def State.newSplit (s : State) (gid : Nat) (g : Group) : Option Nat :=
  ((List.range 4).find? fun j => !g.splits.any fun p => p.1 == j).filter fun _ => s.splitFree gid g

theorem newSplit_iff (s : State) (gid : Nat) (g : Group) (j : Nat) : s.newSplit gid g = some j ↔
    j < 4 ∧ ¬ (∃ x, (j, x) ∈ g.splits) ∧ (∀ i, i < j → ∃ x, (i, x) ∈ g.splits) ∧ s.splitFree gid g = true := by
  rw [State.newSplit, Option.filter_eq_some_iff, find_free_iff]
  tauto

/-- What BDIV does of its two parts of the active lanes. -/
def Ctx.divide (c : Ctx) (gid k : Nat) (words : Int) (taken rest : Mask) (s : State) : Act :=
  if taken = 0 then .done s
  else if rest = 0 then c.jump words s
  else match s.newSplit gid c.g, deferPush c.g.defer k c.next rest with
    | some j, _ => c.jump words (s.modGroup gid fun g =>
        { g.setMask k taken with splits := tset j { pc := c.next, mask := rest, since := s.now + 1 } (g.setMask k taken).splits })
    | none, some d => c.jump words (s.modGroup gid fun g => { g.setMask k taken with defer := d })
    | none, none => trapAct causeILLEGAL

theorem taken_eq {g : Group} {sp : Split} {clr : Bool} {sa : Reg} {taken : Mask}
    (h : ∀ n, n < 96 → taken.getLsbD n = (sp.mask.getLsbD n && ((g.sreg sp (sa.toNat + n / 32)).getLsbD (n % 32) != clr))) :
    sp.mask &&& (if clr then ~~~maskOf (g.sreg sp sa.toNat) (g.sreg sp (sa.toNat + 1)) (g.sreg sp (sa.toNat + 2))
      else maskOf (g.sreg sp sa.toNat) (g.sreg sp (sa.toNat + 1)) (g.sreg sp (sa.toNat + 2))) = taken := by
  refine BitVec.eq_of_getLsbD_eq fun n hn => ?_
  have bit := laneOn_maskOf (fun j => g.sreg sp (sa.toNat + j)) hn
  simp only [laneOn, Nat.add_zero] at bit
  rw [h n hn, ← bit, BitVec.getLsbD_and]
  cases clr <;> simp [hn]

/-- BDIV divides the active lanes as its mask tells. -/
theorem bdiv_divides {s : State} {gid k : Nat} {g : Group} {sp : Split} {clr : Bool} {sa : Reg} {off : BitVec 16} {taken rest : Mask}
    (h : Ready s gid k g sp (.bdiv clr sa off))
    (ht : ∀ n, n < 96 → taken.getLsbD n = (sp.mask.getLsbD n && ((g.sreg sp (sa.toNat + n / 32)).getLsbD (n % 32) != clr)))
    (hr : ∀ n, n < 96 → rest.getLsbD n = (sp.mask.getLsbD n && !taken.getLsbD n)) :
    exec (.bdiv clr sa off) s = (groupCtx gid k g sp (.bdiv clr sa off)).settle (.bdiv clr sa off) s
      ((groupCtx gid k g sp (.bdiv clr sa off)).divide gid k off.toInt taken rest s) := by
  have others : sp.mask &&& ~~~taken = rest := BitVec.eq_of_getLsbD_eq fun n hn => by
    rw [hr n hn, BitVec.getLsbD_and, BitVec.getLsbD_not, decide_eq_true hn, Bool.true_and]
  show execBdiv clr sa off s = _
  rw [execBdiv, issue_ready h rfl]
  simp only [groupCtx_s, groupCtx_mask, taken_eq ht, others]
  rfl

theorem noStep_setMask {g : Group} (h : g.noStep) (k : Nat) (m : Mask) : (g.setMask k m).noStep := by
  intro p hp
  simp only [Group.setMask, tmod, List.mem_map] at hp
  obtain ⟨q, hq, rfl⟩ := hp
  split <;> exact h q hq

/-- Proves O25, along the branches of `Ctx.divide`. -/
theorem divergence : Obligations.Divergence := by
  intro s gid k g sp clr sa off taken rest i next to' part used room push apart full h ht hr
  have run := bdiv_divides h ht hr
  have hs := h.issues.split
  have same := OnlyGroup.refl h.issues.group
  have masked : tget k (g.setMask k taken).splits = some { sp with mask := taken } := by simp [Group.setMask, hs]
  have quiet : (g.setMask k taken).noStep := noStep_setMask h.quiet k taken
  have rooms (j : Nat) : s.newSplit gid g = some j ↔ room j := newSplit_iff s gid g j
  have none_iff : s.newSplit gid g = none ↔ ∀ j, ¬ room j := by simp [Option.eq_none_iff_forall_ne_some, ← rooms]
  have pushed {d : List Defer} (some' : taken ≠ 0) (inside : hiWord to' = g.window) (split : rest ≠ 0) (no : s.newSplit gid g = none)
      (stack : deferPush g.defer k next rest = some d) : push d := by
    have only := same.modGroup fun g => { g.setMask k taken with defer := d }
    obtain ⟨u, hu, only⟩ := jump_completes (i := i) rfl rfl only masked h.free quiet inside
    refine ⟨u, (run.trans (congrArg _ ?_)).trans hu, only⟩
    simp only [Ctx.divide, if_neg some', if_neg split, groupCtx_g, no]
    rw [show deferPush g.defer k (groupCtx gid k g sp i).next rest = some d from stack]
  refine ⟨fun zero => ?_, fun some' isFull => ?_, fun some' free outside => ?_, fun some' inside => ⟨fun all => ?_, fun split j hj => ?_, fun split no => ⟨fun hap short => ?_, fun l1 m l2 stack after => ?_⟩⟩⟩
  · have done := run.trans (congrArg _ (if_pos zero))
    obtain ⟨u, hu, only⟩ := settle_done (i := i) (g := g) (sp := sp) rfl rfl same hs h.free h.quiet
    exact ⟨u, done.trans hu, only⟩
  · obtain ⟨split, no, hap, long⟩ := isFull
    have stack : deferPush g.defer k next rest = none := by rw [deferPush_apart hap, if_neg (by omega)]
    have stops : (groupCtx gid k g sp i).divide gid k off.toInt taken rest s = trapAct causeILLEGAL := by
      simp only [Ctx.divide, if_neg some', if_neg split, groupCtx_g, none_iff.2 no]
      rw [show deferPush g.defer k (groupCtx gid k g sp i).next rest = none from stack]
    exact run.trans (congrArg _ stops)
  · have stops : (groupCtx gid k g sp i).divide gid k off.toInt taken rest s = trapAct causeXLATE := by
      unfold Ctx.divide
      rw [if_neg some']
      split
      · exact jump_outside outside
      · next split =>
        split
        · exact jump_outside outside
        · exact jump_outside outside
        · next new stack => exact absurd ⟨split, none_iff.1 new, deferPush_none stack⟩ free
    exact run.trans (congrArg _ stops)
  · obtain ⟨u, hu, only⟩ := jump_completes (i := i) rfl rfl same hs h.free h.quiet inside
    exact ⟨u, (run.trans (congrArg _ (by rw [Ctx.divide, if_neg some', if_pos all]))).trans hu, only⟩
  · have fresh : j ≠ k := fun e => hj.2.1 ⟨sp, e ▸ mem_of_tget hs⟩
    have only := same.modGroup fun g => { g.setMask k taken with splits := tset j { pc := next, mask := rest, since := s.now + 1 } (g.setMask k taken).splits }
    obtain ⟨u, hu, only⟩ := jump_completes (i := i) rfl rfl only (by rw [tget_tset_ne fresh.symm]; exact masked) h.free (noStep_tset quiet j rfl) inside
    refine ⟨u, (run.trans (congrArg _ ?_)).trans hu, only⟩
    simp only [Ctx.divide, if_neg some', if_neg split, groupCtx_g, (rooms j).2 hj]
    rfl
  · exact pushed some' inside split (none_iff.2 no) ((deferPush_apart hap).trans (if_pos short))
  · exact pushed some' inside split (none_iff.2 no) (stack ▸ deferPush_joins after)

end Sys2Proof.Machine
end

section
/-! SUPPORT. What a frame holds (R84, R85, R234): its registers, its masks and its splits. -/

namespace Sys2Proof.Machine

/-- A payload as a general register. -/
def rawPayload (f : List Word) (w : Nat) : VReg := .g ((f.drop w).take 96)

theorem rawPayload_lane (f : List Word) (w : Nat) {l : Nat} (h : l < 96) : (rawPayload f w).lane l = f.getD (w + l) 0 := by
  simp only [rawPayload, VReg.lane, List.getD_eq_getElem?_getD, List.getElem?_take, h, if_true, List.getElem?_drop]

/-- The lanes of a payload satisfy a tag (R72). -/
def Fits (tag : Nat) (lane : Nat → Word) : Prop :=
  tag ≤ 2 ∧ (tag = 0 → ∀ l, l < 96 → lane l = lane 0) ∧ (tag = 1 → ∀ l, l < 96 → lane l = lane 0 + (lane 1 - lane 0) * BitVec.ofNat 32 l)

theorem Fits.congr {tag : Nat} {x y : Nat → Word} (same : ∀ l, l < 96 → x l = y l) (h : Fits tag x) : Fits tag y := by
  obtain ⟨le, u, a⟩ := h
  refine ⟨le, fun e l hl => ?_, fun e l hl => ?_⟩
  · rw [← same l hl, ← same 0 (by decide)]; exact u e l hl
  · rw [← same l hl, ← same 0 (by decide), ← same 1 (by decide)]; exact a e l hl

/-- A payload that satisfies its tag is read as a register of that tag with its lanes. -/
theorem payloadReg_fits {f : List Word} {w tag : Nat} (h : Fits tag (rawPayload f w).lane) :
    ∃ r, payloadReg f w tag = some r ∧ r.tag = tag ∧ ∀ l, l < 96 → r.lane l = f.getD (w + l) 0 := by
  obtain ⟨le, u, a⟩ := h
  have shaped {q : VReg} {can : Prop} (rw' : Rewrites (rawPayload f w) q tag can) (yes : can) (lt : tag < 2) (hq : q = retag tag (rawPayload f w)) :
      ∃ r, payloadReg f w tag = some r ∧ r.tag = tag ∧ ∀ l, l < 96 → r.lane l = f.getD (w + l) 0 := by
    refine ⟨q, ?_, rw'.asked yes, fun l hl => (rw'.lane l hl).trans (rawPayload_lane f w hl)⟩
    subst hq
    simp only [payloadReg, if_neg (show ¬ tag = 2 by omega), if_pos lt]
    exact if_pos (rw'.asked yes)
  obtain rfl | rfl | rfl : tag = 0 ∨ tag = 1 ∨ tag = 2 := by omega
  · exact shaped (retag_u_rewrites _) (u rfl) (by decide) rfl
  · exact shaped (retag_a_rewrites _) (a rfl) (by decide) rfl
  · exact ⟨rawPayload f w, rfl, rfl, fun l hl => rawPayload_lane f w hl⟩

theorem fits_of_payloadReg {f : List Word} {w tag : Nat} (h : (payloadReg f w tag).isSome = true) : Fits tag (rawPayload f w).lane := by
  have can {can : Prop} (rw' : Rewrites (rawPayload f w) (retag tag (rawPayload f w)) tag can) (lt : tag < 2) : can := by
    by_contra no
    have kept := rw'.kept no
    simp only [payloadReg, if_neg (show ¬ tag = 2 by omega), if_pos lt] at h
    rw [if_neg (show ¬ (retag tag (.g ((f.drop w).take 96))).tag = tag from fun e => ?_)] at h
    · exact absurd h (by decide)
    · rw [show (retag tag (.g ((f.drop w).take 96))).tag = 2 from kept] at e; omega
  have le : tag ≤ 2 := by
    by_contra big
    simp only [payloadReg, if_neg (show ¬ tag = 2 by omega), if_neg (show ¬ tag < 2 by omega)] at h
    exact absurd h (by decide)
  refine ⟨le, fun e => ?_, fun e => ?_⟩
  · subst e; exact can (retag_u_rewrites _) (by decide)
  · subst e; exact can (retag_a_rewrites _) (by decide)

theorem payloadReg_isSome_iff (f : List Word) (w tag : Nat) : (payloadReg f w tag).isSome = true ↔ Fits tag fun l => f.getD (w + l) 0 := by
  refine ⟨fun h => (fits_of_payloadReg h).congr fun l hl => rawPayload_lane f w hl, fun h => ?_⟩
  obtain ⟨r, read, -⟩ := payloadReg_fits (h.congr fun l hl => (rawPayload_lane f w hl).symm)
  rw [read]; rfl

theorem payloadReg_spec {f : List Word} {w tag : Nat} {r : VReg} (h : payloadReg f w tag = some r) :
    r.tag = tag ∧ ∀ l, l < 96 → r.lane l = f.getD (w + l) 0 := by
  obtain ⟨q, read, spec⟩ := payloadReg_fits (fits_of_payloadReg (by rw [h]; rfl))
  obtain rfl := Option.some.inj (h.symm.trans read)
  exact spec

/-- Registers that fit their tags count as general by these. -/
theorem generalCount_payloads {f : List Word} {w t : Nat → Nat} (l : List Nat) (h : ∀ i ∈ l, (payloadReg f (w i) (t i)).isSome = true) :
    generalCount ((l.map fun i => payloadReg f (w i) (t i)).filterMap fun r => r) = (l.filter fun i => t i == 2).length := by
  induction l with
  | nil => rfl
  | cons i l ih =>
    obtain ⟨r, hr⟩ := Option.isSome_iff_exists.1 (h i (List.mem_cons_self ..))
    have rest := ih fun j hj => h j (List.mem_cons_of_mem _ hj)
    rw [List.map_cons, List.filterMap_cons_some (f := fun r : Option VReg => r) hr, generalCount_cons, rest, (payloadReg_spec hr).1, List.filter_cons]
    by_cases general : t i = 2
    · simp [general, Nat.add_comm]
    · simp [general]

theorem and_eq_zero_iff (m n : Mask) : m &&& n = 0 ↔ ∀ l, l < 96 → ¬ (m.getLsbD l = true ∧ n.getLsbD l = true) := by
  refine ⟨fun h l _ both => ?_, fun h => BitVec.eq_of_getLsbD_eq fun l hl => ?_⟩
  · have bit := congrArg (·.getLsbD l) h
    simp [both.1, both.2] at bit
  · have := h l hl
    rw [BitVec.getLsbD_and]
    simpa using this

/-- Masks share no lane: each lane is in one of them at most. -/
theorem disjointMasks_iff (ms : List Mask) : disjointMasks ms = true ↔ ∀ l, l < 96 → (ms.filter fun m => m.getLsbD l).length ≤ 1 := by
  induction ms with
  | nil => simp [disjointMasks]
  | cons m ms ih =>
    have apart : (ms.all fun n => m &&& n == 0) = true ↔ ∀ l, l < 96 → m.getLsbD l = true → (ms.filter fun n => n.getLsbD l).length = 0 := by
      simp only [List.all_eq_true, beq_iff_eq, and_eq_zero_iff, List.length_eq_zero_iff, List.filter_eq_nil_iff]
      exact ⟨fun h l hl hm n hn both => h n hn l hl ⟨hm, both⟩, fun h n hn l hl both => h l hl both.1 n hn both.2⟩
    rw [disjointMasks, Bool.and_eq_true, apart, ih]
    refine ⟨fun ⟨first, rest⟩ l hl => ?_, fun h => ⟨fun l hl hm => ?_, fun l hl => ?_⟩⟩
    · rw [List.filter_cons]
      split
      · next hm => simp [first l hl hm]
      · exact rest l hl
    · have := h l hl
      rw [List.filter_cons, if_pos hm, List.length_cons] at this
      omega
    · have := h l hl
      rw [List.filter_cons] at this
      split at this
      · rw [List.length_cons] at this; omega
      · exact this

theorem frameMask_lane (f : List Word) (w : Nat) {l : Nat} (h : l < 96) : (frameMask f w).getLsbD l = (f.getD (w + l / 32) 0).getLsbD (l % 32) :=
  laneOn_maskOf (fun j => f.getD (w + j) 0) h

theorem mem_frameSplits (f : List Word) (j : Nat) : j ∈ frameSplits f ↔ j < 4 ∧ (f.getD (18 + j) 0).msb = true := by
  have top : (frameWord f (18 + j) / 2 ^ 31 % 2 == 1) = (f.getD (18 + j) 0).msb := by
    have lt := (f.getD (18 + j) 0).isLt
    rw [BitVec.msb_eq_decide, frameWord, Bool.eq_iff_iff]
    simp only [beq_iff_eq, decide_eq_true_eq]
    omega
  rw [frameSplits, List.mem_filter, List.mem_range, top]

theorem tget_map_keys {α : Type} (F : Nat → α) (l : List Nat) (j : Nat) : tget j (l.map fun k => (k, F k)) = if j ∈ l then some (F j) else none := by
  induction l with
  | nil => rfl
  | cons k l ih =>
    rw [List.map_cons, tget, ih]
    by_cases e : k = j
    · simp [e]
    · simp [e, Ne.symm e]

end Sys2Proof.Machine
end

section
/-! OBLIGATIONS. TRET (R234, R361). -/

namespace Sys2Proof.Machine

/-- A split as TRET resumes it. -/
def TrapMode.resumed (t : TrapMode) (now k : Nat) : Split :=
  let pc := t.frame.getD (2 + 4 * k) 0
  let mask := frameMask t.frame (3 + 4 * k) &&& ~~~t.exited
  match tget k t.splits with
  | some x =>
    if !t.rewritten.contains k ∧ t.info.split ≠ k then
      if x.wait.kind ≠ 0 then { x with pc := pc, mask := mask, since := now + 1, exempt := true }
      else { pc := pc, mask := mask, since := now + 1, exempt := true, due := x.due }
    else { pc := pc, mask := mask, since := now + 1, exempt := true }
  | none => { pc := pc, mask := mask, since := now + 1, exempt := true }

theorem leaveTrap_splits (g : Group) (t : TrapMode) (now : Nat) : (g.leaveTrap t now).splits = (frameSplits t.frame).map fun k => (k, t.resumed now k) := rfl

theorem resumed_spec (t : TrapMode) (now k : Nat) : (t.resumed now k).pc = t.frame.getD (2 + 4 * k) 0 ∧ (t.resumed now k).exempt = true
    ∧ (t.resumed now k).mask = frameMask t.frame (3 + 4 * k) &&& ~~~t.exited := by
  unfold TrapMode.resumed
  simp only
  split
  · split
    · split <;> exact ⟨rfl, rfl, rfl⟩
    · exact ⟨rfl, rfl, rfl⟩
  · exact ⟨rfl, rfl, rfl⟩

theorem resumed_free {t : TrapMode} (h : ∀ p ∈ t.splits, p.2.free) (now k : Nat) : (t.resumed now k).free := by
  have ready {sp : Split} (w : sp.wait = .none) : sp.free := ⟨by rw [w]; nofun, fun a n => by rw [w]; nofun⟩
  unfold TrapMode.resumed
  simp only
  split
  · next x hx =>
    split
    · split
      · exact h _ (mem_of_tget hx)
      · exact ready rfl
    · exact ready rfl
  · exact ready rfl

/-- A group with a split that is at no BAR.grp and no REGRP completes none. -/
theorem settleGrp_free {s : State} {gid : Nat} {g : Group} {p : Nat × Split} (hg : s.group? gid = some g) (hp : p ∈ g.splits) (free : p.2.free) :
    s.settleGrp gid = s := by
  simp only [State.settleGrp, hg]
  refine if_neg fun all => ?_
  have at' := List.all_eq_true.1 (Bool.and_eq_true_iff.1 all).2 p hp
  rcases Bool.or_eq_true_iff.1 at' with grp | regrp
  · exact free.1 (by simpa using grp)
  · split at regrp
    · next a n e => exact free.2 a n e
    · exact absurd regrp (by decide)

theorem settleRegrp_free {s : State} {gid : Nat} {g : Group} {p : Nat × Split} (hg : s.group? gid = some g) (hp : p ∈ g.splits) (free : p.2.free)
    (alive : g.life ≠ .retired) : s.settleRegrp g.block g.core = s := by
  unfold State.settleRegrp
  split
  · rfl
  · next b hb =>
    refine if_neg fun all => ?_
    have mem : (gid, g) ∈ sortBy (fun p : Nat × Group => p.2.gidx) (s.groups.filter fun p => p.2.block == some b && p.2.core == g.core && p.2.life != .retired) := by
      rw [mem_sortBy, List.mem_filter]
      exact ⟨mem_of_tget hg, by simp [hb, alive]⟩
    have at' := List.all_eq_true.1 (Bool.and_eq_true_iff.1 all).2 _ mem
    have regrp := List.all_eq_true.1 (Bool.and_eq_true_iff.1 at').2 p hp
    split at regrp
    · next a n e => exact free.2 a n e
    · exact absurd regrp (by decide)

theorem tretOk_iff (g : Group) (f : List Word) : tretOk g f = true ↔
    (∃ j, j ∈ frameSplits f) ∧ (∀ j ∈ frameSplits f, frameWord f (2 + 4 * j) % 4 = 0)
      ∧ (∀ l, l < 96 → (((frameSplits f).map fun k => frameMask f (3 + 4 * k)) ++ (frameDefers f).map Defer.mask).countP (·.getLsbD l) ≤ 1)
      ∧ frameWord f 54 % 16 ≤ 8 ∧ (∀ d ∈ frameDefers f, d.owner ∈ frameSplits f)
      ∧ (∀ r, r < g.count → Fits (frameTag f r) fun l => f.getD (224 + 96 * r + l) 0)
      ∧ ((List.range g.count).filter fun r => frameTag f r == 2).length ≤ g.budget := by
  have fits : ((List.range g.count).map fun i => payloadReg f (224 + 96 * i) (frameTag f i)).all Option.isSome = true
      ↔ ∀ r, r < g.count → Fits (frameTag f r) fun l => f.getD (224 + 96 * r + l) 0 := by
    simp only [List.all_map, List.all_eq_true, List.mem_range, Function.comp_apply, payloadReg_isSome_iff]
  simp only [tretOk, Bool.and_eq_true, decide_eq_true_eq, disjointMasks_iff, fits, List.all_eq_true, List.contains_iff_mem, beq_iff_eq,
    Bool.not_eq_true', List.isEmpty_eq_false_iff_exists_mem, ← List.countP_eq_length_filter, and_assoc]
  refine and_congr_right fun _ => and_congr_right fun _ => and_congr_right fun _ => and_congr_right fun _ => and_congr_right fun _ => and_congr_right fun fit => ?_
  rw [generalCount_payloads (w := fun i => 224 + 96 * i) (t := frameTag f) (List.range g.count) fun i hi => (payloadReg_isSome_iff ..).2 (fit i (List.mem_range.1 hi)),
    List.countP_eq_length_filter]

/-- The masks of a frame that hold a lane, counted over its splits and its deferral stack. -/
theorem countP_frameMasks (f : List Word) {l : Nat} (h : l < 96) :
    (((frameSplits f).map fun k => frameMask f (3 + 4 * k)) ++ (frameDefers f).map Defer.mask).countP (·.getLsbD l)
      = ((List.range 4).filter fun j => (f.getD (18 + j) 0).msb && (f.getD (3 + 4 * j + l / 32) 0).getLsbD (l % 32)).length
        + ((List.range ((f.getD 54 0).toNat % 16)).filter fun e => (f.getD (23 + 4 * e + l / 32) 0).getLsbD (l % 32)).length := by
  have splits : (frameSplits f).countP (fun k => (frameMask f (3 + 4 * k)).getLsbD l)
      = (List.range 4).countP fun j => (f.getD (18 + j) 0).msb && (f.getD (3 + 4 * j + l / 32) 0).getLsbD (l % 32) := by
    rw [frameSplits, List.countP_filter]
    refine List.countP_congr fun j hj => ?_
    have valid := mem_frameSplits f j
    rw [frameSplits, List.mem_filter] at valid
    have flag : (frameWord f (18 + j) / 2 ^ 31 % 2 == 1) = (f.getD (18 + j) 0).msb := by
      rw [Bool.eq_iff_iff]; exact ⟨fun h => (valid.1 ⟨hj, h⟩).2, fun h => (valid.2 ⟨List.mem_range.1 hj, h⟩).2⟩
    rw [flag, frameMask_lane f _ h, Bool.and_comm]
  rw [List.countP_append, List.countP_map, List.countP_map, frameDefers, List.countP_map, ← List.countP_eq_length_filter, ← List.countP_eq_length_filter]
  refine congrArg₂ (· + ·) splits (List.countP_congr fun e _ => ?_)
  rw [← frameMask_lane f _ h]
  rfl

/-- Proves O23: `tretOk` is the six checks, and `Group.leaveTrap` reads the frame. -/
theorem trapReturn : Obligations.TrapReturn := by
  intro s gid k g sp tm f valid bit held tag lane
  have valid_iff (j : Nat) : j ∈ frameSplits f ↔ valid j := mem_frameSplits f j
  refine ⟨(tretOk_iff g f).trans ?_, fun h => ?_⟩
  · simp only [valid_iff]
    refine and_congr_right fun _ => and_congr_right fun _ => and_congr (forall₂_congr fun l hl => ?_) (and_congr_right fun _ => and_congr ?_ Iff.rfl)
    · rw [countP_frameMasks f hl]
    · simp only [frameDefers, List.forall_mem_map, List.mem_range]
      rfl
  · have run : exec .tret s = (groupCtx gid k g sp .tret).settle .tret s _ := (show execTret s = _ by rw [execTret, issue_ready h rfl])
    simp only [groupCtx_who, groupCtx_g] at run
    refine ⟨fun out => ?_, fun trap bad => ?_, fun trap ok alive freed => ?_⟩
    · rw [out] at run
      exact run
    · simp only [trap] at run
      exact run.trans (congrArg _ (if_neg (Bool.eq_false_iff.1 bad)))
    · simp only [trap] at run
      replace run := run.trans (congrArg _ (if_pos ok))
      obtain ⟨⟨j0, hj0⟩, -, -, -, -, fits, -⟩ := (tretOk_iff g f).1 ok
      have first : (j0, tm.resumed s.now j0) ∈ (g.leaveTrap tm s.now).splits := List.mem_map_of_mem (f := fun k => (k, tm.resumed s.now k)) hj0
      have only := (OnlyGroup.refl h.issues.group).setGroup (g.leaveTrap tm s.now)
      have free := resumed_free freed s.now j0
      rw [settleGrp_free only.group first free] at run
      rw [show g.block = (g.leaveTrap tm s.now).block from rfl, show g.core = (g.leaveTrap tm s.now).core from rfl,
        settleRegrp_free only.group first free (by rw [show (g.leaveTrap tm s.now).life = g.life from rfl, alive]; nofun)] at run
      refine ⟨_, ⟨_, run, only⟩, rfl, rfl, rfl, rfl, rfl, rfl, fun j hj => ?_, fun j no => ?_, fun n hn => ?_, fun r l hr hl => ?_⟩
      · obtain ⟨pc, exempt, mask⟩ := resumed_spec tm s.now j
        refine ⟨tm.resumed s.now j, ?_, pc, exempt, fun l hl => ?_⟩
        · rw [leaveTrap_splits, tget_map_keys, if_pos ((valid_iff j).2 hj)]
        · rw [mask, BitVec.getLsbD_and, frameMask_lane _ _ hl, BitVec.getLsbD_not, decide_eq_true hl, Bool.true_and]
      · rw [leaveTrap_splits, tget_map_keys, if_neg fun mem => no ((valid_iff j).1 mem)]
      · show ((f.drop 64).take 125).getD n 0 = _
        simp only [List.getD_eq_getElem?_getD, List.getElem?_take, hn, if_true, List.getElem?_drop]
      · obtain ⟨q, read⟩ := Option.isSome_iff_exists.1 ((payloadReg_isSome_iff ..).2 (fits r hr))
        have reg : (g.leaveTrap tm s.now).v r = q := by
          show ((List.range g.count).map fun i => (payloadReg f (224 + 96 * i) (frameTag f i)).getD (.u 0)).getD r (.u 0) = q
          rw [List.getD_eq_getElem?_getD, List.getElem?_map, List.getElem?_range hr]
          simp [read]
        rw [reg]
        exact (payloadReg_spec read).2 l hl

end Sys2Proof.Machine
end

section
/-! OBLIGATIONS. The steps inside a group's life (R44, R45, R60, R63, R78, R81, R82, R239). -/

namespace Sys2Proof.Machine

/-- The wait of a YIELD ends: the split is at its continuation already. -/
theorem endWait_yield {g : Group} {k since now : Nat} {sp : Split} (hs : tget k g.splits = some sp) (w : sp.wait = .yield since) (hf : g.stepped k = false) :
    g.endWait k now = g.comesBack k sp.pc now := by
  simp only [Group.endWait, hs, w, Group.complete, hf, Group.comesBack, Split.rest]
  rfl

theorem noStep_comesBack {g : Group} (h : g.noStep) (k : Nat) (pc : Word) (now : Nat) : (g.comesBack k pc now).noStep := by
  intro p hp
  simp only [Group.comesBack, tmod, List.mem_map] at hp
  obtain ⟨q, hq, rfl⟩ := hp
  split
  · rfl
  · exact h q hq

/-- A split that waits for nothing but registers and has not issued is about to issue. -/
theorem atIssue_ready {s : State} {gid k : Nat} {g : Group} {sp : Split} (runs : g.runs = true) (held : sp.held = none) (due : sp.due = none)
    (w : sp.wait = .none ∨ ∃ l, sp.wait = .again (.regs l)) : s.atIssue gid k g sp = true := by
  rcases w with w | ⟨l, w⟩ <;> simp [State.atIssue, runs, held, due, w]

/-- A split takes back the lanes of its one deferral entry at its address. -/
theorem rejoin_one {g : Group} {k : Nat} {sp : Split} {l1 l2 : List Defer} {d : Defer} (hs : tget k g.splits = some sp) (stack : g.defer = l1 ++ d :: l2)
    (owner : d.owner = k) (addr : d.addr = sp.pc) (others : ∀ e ∈ l1 ++ l2, e.owner ≠ k) (n : Nat) :
    Group.rejoin k (n + 2) g = { g with defer := l1 ++ l2, splits := tset k { sp with mask := sp.mask ||| d.mask } g.splits } := by
  have last : lastOwned k g.defer = some (d, l1.length) := by
    rw [stack]; exact lastOwned_some owner fun e he => others e (List.mem_append_right _ he)
  have erased : g.defer.eraseIdx l1.length = l1 ++ l2 := by
    rw [stack, List.eraseIdx_append_of_length_le (Nat.le_refl _), Nat.sub_self]; rfl
  rw [Group.rejoin]
  simp only [hs, last, addr, beq_self_eq_true, if_true, erased]
  rw [Group.rejoin]
  simp only [tget_tset_self, lastOwned_none others]

theorem hit_some {d : Debug} {pc : Word} {m : Mask} {n : Nat} (hn : n < 4)
    (fires : d.ctl.getLsbD n = true ∧ d.bpa.getD n 0 = pc ∧ (d.bpm.getD n 0 = 0 ∨ d.bpm.getD n 0 &&& m ≠ 0))
    (lowest : ∀ j, j < n → ¬ (d.ctl.getLsbD j = true ∧ d.bpa.getD j 0 = pc ∧ (d.bpm.getD j 0 = 0 ∨ d.bpm.getD j 0 &&& m ≠ 0))) :
    d.hit pc m = some n := by
  have meets (j : Nat) : (d.ctl.getLsbD j && d.bpa.getD j 0 == pc && (d.bpm.getD j 0 == 0 || d.bpm.getD j 0 &&& m != 0)) = true
      ↔ d.ctl.getLsbD j = true ∧ d.bpa.getD j 0 = pc ∧ (d.bpm.getD j 0 = 0 ∨ d.bpm.getD j 0 &&& m ≠ 0) := by
    simp only [Bool.and_eq_true, Bool.or_eq_true, beq_iff_eq, bne_iff_ne, and_assoc]
  rw [Debug.hit, List.find?_range_eq_some]
  refine ⟨(meets n).2 fires, List.mem_range.2 hn, fun j hj => ?_⟩
  rw [Bool.not_eq_true', Bool.eq_false_iff]
  exact fun h => lowest j hj ((meets j).1 h)

/-- Proves O40: each step takes the branch of its condition. -/
theorem groupEvents : Obligations.GroupEvents := by
  intro s gid k a b g sp x y since n l1 l2 d lid item port hg
  have same := OnlyGroup.refl hg
  refine ⟨fun hs w runs hf quiet => ⟨fun past => ?_, fun early others => ?_⟩, ⟨_, rfl, same.modGroup _⟩, fun life busy rinstr => ?_, fun runs ab hx hy pc at' => ?_,
    fun runs hs w held due stack owner addr others => ?_, ?_, fun runs trap hs w held exempt hn fires lowest => ?_⟩
  · have ends : execYieldTimeout gid k s = .next (s.endWait gid k) := by
      simp only [execYieldTimeout, hg, hs, w, runs, State.waitOver]
      exact congrArg _ (if_pos (by rcases past with h | h <;> simp [h]))
    have only := same.modGroup fun g => g.endWait k s.now
    rw [endWait_yield hs w hf] at only
    refine ⟨_, ends, ?_⟩
    rw [State.endWait, stepDue_none only.group (noStep_comesBack quiet k sp.pc s.now)]
    exact only
  · show execYieldTimeout gid k s = _
    simp only [execYieldTimeout, hg, hs, w, State.waitOver]
    exact congrArg _ (if_neg (by simp [others, early]))
  · refine ⟨{ s with groups := tdel gid s.groups }, ?_, rfl, ?_, fun j hj => ?_⟩
    · show execContextRelease gid s = _
      simp only [execContextRelease, hg]
      exact congrArg _ (if_pos ⟨life, by rw [busy]; rfl, by rw [rinstr]; rfl⟩)
    · show tget gid (tdel gid s.groups) = none
      rw [tget_tdel, if_pos rfl]
    · show tget j (tdel gid s.groups) = _
      rw [tget_tdel, if_neg hj]; rfl
  · obtain ⟨xh, xd, xw⟩ := at' x (.inl rfl)
    obtain ⟨yh, yd, yw⟩ := at' y (.inr rfl)
    refine ⟨_, ?_, same.setGroup _⟩
    show Host.Outcome.next (mergeSplits s gid a b) = _
    simp only [mergeSplits, hg, hx, hy]
    exact congrArg _ (if_pos (by simp [atIssue_ready runs xh xd xw, atIssue_ready runs yh yd yw, pc, ab]))
  · refine ⟨_, ?_, same.setGroup _⟩
    show Host.Outcome.next (s.rejoin gid k) = _
    rw [← rejoin_one hs stack owner addr others 6]
    simp only [State.rejoin, hg, Option.bind_some, hs, Option.map_some]
    exact congrArg _ (if_pos (atIssue_ready runs held due (.inl w)))
  · show execForwardArrival lid item port s = _
    simp only [execForwardArrival, Bool.or_eq_true, Bool.not_eq_true']
  · have breaks : g.breaks k = some (n, sp.pc) := by
      simp only [Group.breaks, hs, trap, exempt, runs, held, w, hit_some hn fires lowest]
      rfl
    show execPcBreakpoint gid k s = _
    simp only [execPcBreakpoint, hg, Option.bind_some, breaks]

end Sys2Proof.Machine
end

section
/-! SUPPORT. The numbers of the system registers (R230, R260). -/

namespace Sys2Proof.Machine

theorem sysReg_mqcfg {q : Nat} (h : q < 16) : sysReg (0x40 + q) = some (.mqcfg q) := by
  rw [sysReg]
  simp (disch := omega) only [if_neg, if_pos]
  rw [Nat.add_sub_cancel_left]

theorem sysReg_bpa' {w : Nat} (h : w < 4) : sysReg (0x104 + w) = some (.bpa w) := by
  rw [sysReg]
  simp (disch := omega) only [if_neg, if_pos]
  rw [Nat.add_sub_cancel_left]

theorem sysReg_bpm {w j : Nat} (h : w < 4) (hj : j < 3) : sysReg (0x108 + 3 * w + j) = some (.bpm w j) := by
  rw [sysReg]
  simp (disch := omega) only [if_neg, if_pos]
  rw [show (0x108 + 3 * w + j - 0x108) / 3 = w by omega, show (0x108 + 3 * w + j - 0x108) % 3 = j by omega]

theorem sysReg_wpa_low {w : Nat} (h : w < 4) : sysReg (0x118 + 2 * w) = some (.wpa w false) := by
  rw [sysReg]
  simp (disch := omega) only [if_neg, if_pos]
  rw [show (0x118 + 2 * w - 0x118) / 2 = w by omega, show (0x118 + 2 * w - 0x118) % 2 = 0 by omega]
  rfl

theorem sysReg_wpa_high {w : Nat} (h : w < 4) : sysReg (0x119 + 2 * w) = some (.wpa w true) := by
  rw [sysReg]
  simp (disch := omega) only [if_neg, if_pos]
  rw [show (0x119 + 2 * w - 0x118) / 2 = w by omega, show (0x119 + 2 * w - 0x118) % 2 = 1 by omega]
  rfl

theorem sysReg_wpl {w : Nat} (h : w < 4) : sysReg (0x120 + w) = some (.wpl w) := by
  rw [sysReg]
  simp (disch := omega) only [if_neg, if_pos]
  rw [Nat.add_sub_cancel_left]

theorem sysReg_barecnt {l m : Nat} (h1 : 1 ≤ l) (h4 : l ≤ 4) (hm : m < 16) : sysReg (0x200 + 16 * l + m) = some (.barecnt l m) := by
  rw [sysReg]
  simp (disch := omega) only [if_neg, if_pos]
  rw [show (0x200 + 16 * l + m - 0x200) / 16 = l by omega, show (0x200 + 16 * l + m) % 16 = m by omega]

theorem sysReg_barphase {l m : Nat} (h1 : 1 ≤ l) (h4 : l ≤ 4) (hm : m < 16) : sysReg (0x280 + 16 * l + m) = some (.barphase l m) := by
  rw [sysReg]
  simp (disch := omega) only [if_neg, if_pos]
  rw [show (0x280 + 16 * l + m - 0x280) / 16 = l by omega, show (0x280 + 16 * l + m) % 16 = m by omega]

theorem sysReg_baracnt {l m : Nat} (h1 : 1 ≤ l) (h4 : l ≤ 4) (hm : m < 16) : sysReg (0x800 + 16 * l + m) = some (.baracnt l m) := by
  rw [sysReg]
  simp (disch := omega) only [if_neg, if_pos]
  rw [show (0x800 + 16 * l + m - 0x800) / 16 = l by omega, show (0x800 + 16 * l + m) % 16 = m by omega]

theorem sysReg_portstat {p : Nat} (h : p < 4) : sysReg (0x300 + p) = some (.portstat p) := by
  rw [sysReg]
  simp (disch := omega) only [if_neg, if_pos]
  rw [Nat.add_sub_cancel_left]

theorem sysReg_portlane {p n : Nat} (hp : p < 4) (hn : n < 96) : sysReg (0x400 + 128 * p + n) = some (.portlane p n) := by
  rw [sysReg]
  simp (disch := omega) only [if_neg, if_pos]
  rw [show (0x400 + 128 * p + n - 0x400) / 128 = p by omega, show (0x400 + 128 * p + n) % 128 = n by omega]

theorem sysReg_fl {m w : Nat} (hm : m < 64) (hw : w < 6) : sysReg (0x600 + 8 * m + w) = some (.fl m w) := by
  rw [sysReg]
  simp (disch := omega) only [if_neg, if_pos]
  rw [show (0x600 + 8 * m + w - 0x600) / 8 = m by omega, show (0x600 + 8 * m + w) % 8 = w by omega]

theorem sysReg_frame {w : Nat} (hw : w < 32768) : sysReg (0x8000 + w) = some (.frame w) := by
  rw [sysReg]
  simp (disch := omega) only [if_neg, if_pos]
  rw [Nat.add_sub_cancel_left]

/-- Numbers that name no register. -/
theorem sysReg_none {n : Nat} (h : n = 0 ∨ 2 ≤ n ∧ n ≤ 0x0F ∨ 0x19 ≤ n ∧ n ≤ 0x1F ∨ 0x50 ≤ n ∧ n ≤ 0xFF ∨ 0x850 ≤ n ∧ n < 0x8000) : sysReg n = none := by
  rw [sysReg]
  simp (disch := omega) only [if_neg]

/-- The registers of the trap record, of the report of stranded operations and of the debug unit are marked priv, and valid for every group. -/
theorem sysReg_priv {n : Nat} (h : 0x10 ≤ n ∧ n ≤ 0x18 ∨ n = 0x34 ∨ n = 0x100 ∨ 0x104 ≤ n ∧ n ≤ 0x113 ∨ 0x118 ≤ n ∧ n ≤ 0x123) :
    ∃ r, sysReg n = some r ∧ r.priv = true ∧ ∀ s g, r.valid s g = true := by
  have one {r : SysReg} (e : sysReg n = some r) (priv : r.priv = true) (valid : ∀ s g, r.valid s g = true) :
      ∃ r, sysReg n = some r ∧ r.priv = true ∧ ∀ s g, r.valid s g = true := ⟨r, e, priv, valid⟩
  rcases h with h | rfl | rfl | h | h
  · obtain ⟨j, rfl, hj⟩ : ∃ j, n = 0x10 + j ∧ j < 9 := ⟨n - 0x10, by omega, by omega⟩
    interval_cases j <;> exact one rfl rfl fun _ _ => rfl
  · exact one rfl rfl fun _ _ => rfl
  · exact one rfl rfl fun _ _ => rfl
  · by_cases low : n < 0x108
    · obtain ⟨w, rfl, hw⟩ : ∃ w, n = 0x104 + w ∧ w < 4 := ⟨n - 0x104, by omega, by omega⟩
      exact one (sysReg_bpa' hw) rfl fun _ _ => rfl
    · obtain ⟨w, j, rfl, hw, hj⟩ : ∃ w j, n = 0x108 + 3 * w + j ∧ w < 4 ∧ j < 3 := ⟨(n - 0x108) / 3, (n - 0x108) % 3, by omega, by omega, by omega⟩
      exact one (sysReg_bpm hw hj) rfl fun _ _ => rfl
  · by_cases low : n < 0x120
    · rcases Nat.even_or_odd' (n - 0x118) with ⟨w, even | odd⟩
      · obtain rfl : n = 0x118 + 2 * w := by omega
        exact one (sysReg_wpa_low (by omega)) rfl fun _ _ => rfl
      · obtain rfl : n = 0x119 + 2 * w := by omega
        exact one (sysReg_wpa_high (by omega)) rfl fun _ _ => rfl
    · obtain ⟨w, rfl, hw⟩ : ∃ w, n = 0x120 + w ∧ w < 4 := ⟨n - 0x120, by omega, by omega⟩
      exact one (sysReg_wpl hw) rfl fun _ _ => rfl

/-- An access of a register that the group may reach. -/
theorem sysAccess_reach {s : State} {g : Group} {n : Nat} {r : SysReg} (hr : sysReg n = some r) (valid : r.valid s g = true)
    (reach : r.priv = false ∨ g.trap ≠ none) (f : SysReg → Act) : sysAccess s g n f = f r := by
  simp only [sysAccess, hr, valid]
  refine (if_neg Bool.false_ne_true).trans (if_neg fun shut => ?_)
  obtain ⟨priv, out⟩ := Bool.and_eq_true_iff.1 shut
  rcases reach with open' | inside
  · rw [priv] at open'; exact absurd open' (by decide)
  · exact inside (Option.isNone_iff_eq_none.1 out)

theorem sysAccess_invalid {s : State} {g : Group} {n : Nat} {r : SysReg} (hr : sysReg n = some r) (invalid : r.valid s g = false) (f : SysReg → Act) :
    sysAccess s g n f = trapAct causeILLEGAL := by
  simp only [sysAccess, hr, invalid]
  rfl

theorem sysAccess_unnamed {s : State} {g : Group} {n : Nat} (hr : sysReg n = none) (f : SysReg → Act) : sysAccess s g n f = trapAct causeILLEGAL := by
  simp only [sysAccess, hr]

theorem sysAccess_priv {s : State} {g : Group} {n : Nat} {r : SysReg} (hr : sysReg n = some r) (valid : r.valid s g = true) (priv : r.priv = true)
    (out : g.trap = none) (f : SysReg → Act) : sysAccess s g n f = trapAct causePRIV := by
  simp only [sysAccess, hr, valid, priv, out]
  rfl

end Sys2Proof.Machine
end

section
/-! OBLIGATIONS. SRD and CLK (R11, R12, R230, R231, R295, R347). -/

namespace Sys2Proof.Machine

theorem groupCtx_sysNum (gid k : Nat) (g : Group) (sp : Split) (i : Instr) (b : SSrc) :
    (groupCtx gid k g sp i).sysNum b = (g.opB sp b).toNat % 65536 := by rw [Ctx.sysNum, groupCtx_b]

/-- SRD of the register with the number in operand B. -/
theorem srd_completes {s : State} {gid k : Nat} {g : Group} {sp : Split} {sd : Reg} {b : SSrc} {n : Nat} {r : SysReg} {v : Word}
    (h : Ready s gid k g sp (.srd sd b)) (hn : (g.opB sp b).toNat % 65536 = n) (hr : sysReg n = some r) (valid : r.valid s g = true)
    (reach : r.priv = false ∨ g.trap ≠ none) (value : r.read s g = v) :
    Completes (.srd sd b) s gid k (g.setS k sd.toNat v) (sp.after (.srd sd b)) := by
  show ∃ u, execSrd sd b s = .next u ∧ _
  rw [execSrd]
  refine completes_setS h rfl rfl rfl sd.toNat v ?_
  refine (if_neg Bool.false_ne_true).trans ?_
  rw [groupCtx_sysNum, hn, groupCtx_g, sysAccess_reach hr valid reach, value]

theorem srd_traps {s : State} {gid k : Nat} {g : Group} {sp : Split} {sd : Reg} {b : SSrc} {n cause : Nat}
    (h : Ready s gid k g sp (.srd sd b)) (hn : (g.opB sp b).toNat % 65536 = n) (stop : ∀ f, sysAccess s g n f = trapAct cause) :
    Traps (.srd sd b) s gid k sp cause 127 0 0 := by
  show execSrd sd b s = _
  rw [execSrd, issue_ready h rfl]
  refine (congrArg _ ((if_neg Bool.false_ne_true).trans ?_)).trans (settle_trap ..)
  rw [groupCtx_sysNum, hn, groupCtx_g]
  exact stop _

/-- Proves O27, register by register. -/
theorem systemReads : Obligations.SystemReads := by
  intro s gid k g sp sd b tb n tm i j core reads p known
  refine ⟨fun h hn => ?_, fun h => ?_⟩
  · have read {m : Nat} {v : Word} (r : SysReg) (hr : sysReg m = some r) (valid : r.valid s g = true) (reach : r.priv = false ∨ g.trap ≠ none)
        (value : r.read s g = v) : reads m v := fun e => srd_completes h hn (e ▸ hr) valid reach value
    refine ⟨read .gmode rfl rfl (.inl rfl) rfl, read .cpystat rfl rfl (.inl rfl) rfl, read .sdccnt rfl rfl (.inl rfl) rfl, read .atomloc rfl rfl (.inl rfl) rfl,
      read .atomhome rfl rfl (.inl rfl) rfl, fun q hq => read (.mqcfg q) (sysReg_mqcfg hq) rfl (.inl rfl) rfl, fun off len alloc pos => ?_, fun out named => ?_, fun none => ?_, fun trap => ?_⟩
    · refine read .scrbase rfl rfl (.inl rfl) ?_
      simp only [SysReg.read, alloc]
      exact if_neg (by omega)
    · obtain ⟨r, hr, priv, valid⟩ := sysReg_priv named
      exact srd_traps h hn fun f => sysAccess_priv hr (valid s g) priv out f
    · by_cases beyond : 0x8000 + 224 + 96 * g.count ≤ n
      · obtain ⟨w, rfl⟩ : ∃ w, n = 0x8000 + w := ⟨n - 0x8000, by omega⟩
        exact srd_traps h hn fun f => sysAccess_invalid (sysReg_frame (by omega)) (decide_eq_false (by omega)) f
      · exact srd_traps h hn fun f => sysAccess_unnamed (sysReg_none (by omega)) f
    · have inside {m : Nat} {v : Word} (r : SysReg) (hr : sysReg m = some r) (valid : r.valid s g = true) (value : r.read s g = v) : reads m v :=
        read r hr valid (.inr (by rw [trap]; nofun)) value
      have shown : g.shown = known := by
        simp only [Group.shown, trap]
        rfl
      refine ⟨inside .tcause rfl rfl (by simp only [SysReg.read, trap]; rfl), inside .tpc rfl rfl (by simp only [SysReg.read, trap]; rfl), inside (.taddr false) rfl rfl (by simp only [SysReg.read, trap]; rfl),
        inside (.taddr true) rfl rfl (by simp only [SysReg.read, trap]; rfl), inside .tcode rfl rfl (by simp only [SysReg.read, trap]; rfl), inside .tncause rfl rfl (by simp only [SysReg.read, trap]; rfl), inside .tnpc rfl rfl (by simp only [SysReg.read, trap]; rfl),
        inside .thandler rfl rfl rfl, inside .flcount rfl rfl (congrArg (BitVec.ofNat 32) shown), inside .dbgctl rfl rfl rfl, fun e m hm => ⟨fun beyond w hw => ?_, fun before entry => ?_⟩,
        fun l m key y h1 h4 hm => ⟨fun none named => ?_, fun some' at' => ?_⟩, fun m l d hm => ⟨fun none named => ?_, fun some' => ⟨?_, fun hl => ?_⟩⟩, fun w hw => ?_, fun w hw hw' => ?_⟩
      · refine inside (.fl m w) (sysReg_fl hm hw) rfl ?_
        simp only [SysReg.read]
        rw [List.getElem?_eq_none (by rw [List.length_take, shown]; omega)]
      · have word (w : Nat) (hw : w < 6) {v : Word} (value : e.word w = v) : reads (0x600 + 8 * m + w) v := by
          refine inside (.fl m w) (sysReg_fl hm hw) rfl ?_
          simp only [SysReg.read, List.getElem?_take, shown, if_pos before, entry, value]
        refine ⟨word 0 (by decide) rfl, ?_, ?_, ?_, ?_, ?_⟩
        · exact (by omega : 0x600 + 8 * m + 1 = 0x601 + 8 * m) ▸ word 1 (by decide) rfl
        · exact (by omega : 0x600 + 8 * m + 2 = 0x602 + 8 * m) ▸ word 2 (by decide) rfl
        · exact (by omega : 0x600 + 8 * m + 3 = 0x603 + 8 * m) ▸ word 3 (by decide) rfl
        · exact (by omega : 0x600 + 8 * m + 4 = 0x604 + 8 * m) ▸ word 4 (by decide) rfl
        · exact (by omega : 0x600 + 8 * m + 5 = 0x605 + 8 * m) ▸ word 5 (by decide) rfl
      · have invalid : (s.barKey g l m).isSome = false := by rw [none]; rfl
        rcases named with e | e | e
        · exact srd_traps h hn fun f => sysAccess_invalid (r := .barecnt l m) (e ▸ sysReg_barecnt h1 h4 hm) invalid f
        · exact srd_traps h hn fun f => sysAccess_invalid (r := .baracnt l m) (e ▸ sysReg_baracnt h1 h4 hm) invalid f
        · exact srd_traps h hn fun f => sysAccess_invalid (r := .barphase l m) (e ▸ sysReg_barphase h1 h4 hm) invalid f
      · have valid : (s.barKey g l m).isSome = true := by rw [some']; rfl
        have there : s.barrierAt g l m = y := by rw [State.barrierAt, some', Option.bind_some, at']; rfl
        exact ⟨inside (.barecnt l m) (sysReg_barecnt h1 h4 hm) valid (by simp only [SysReg.read, there]),
          inside (.baracnt l m) (sysReg_baracnt h1 h4 hm) valid (by simp only [SysReg.read, there]),
          inside (.barphase l m) (sysReg_barphase h1 h4 hm) valid (by simp only [SysReg.read, there])⟩
      · exact srd_traps h hn fun f => sysAccess_invalid (named ▸ sysReg_portstat hm) (by simp only [SysReg.valid, none]; rfl) f
      · exact inside (.portstat m) (sysReg_portstat hm) (by simp only [SysReg.valid, some']; rfl) rfl
      · refine inside (.portlane m l) (sysReg_portlane hm hl) (by simp only [SysReg.valid, some']; rfl) ?_
        simp only [SysReg.read]
        cases s.portVal g m with
        | none => rfl
        | some v => cases v <;> rfl
      · exact ⟨inside (.bpa w) (sysReg_bpa' hw) rfl rfl, inside (.wpl w) (sysReg_wpl hw) rfl rfl, fun j hj => inside (.bpm w j) (sysReg_bpm hw hj) rfl rfl,
          inside (.wpa w false) (sysReg_wpa_low hw) rfl rfl, inside (.wpa w true) (sysReg_wpa_high hw) rfl rfl⟩
      · exact inside (.frame w) (sysReg_frame hw') (decide_eq_true hw) (by simp only [SysReg.read, trap]; rfl)
  · show ∃ u, execClk tb sd s = .next u ∧ _
    rw [execClk]
    exact completes_setPair h rfl rfl rfl sd.toNat _ rfl

end Sys2Proof.Machine
end

section
/-! SUPPORT. What the end of a group changes (R48, R56, R62, R82, R212, R235): its own record, its launch's counts, its task, its block and barriers, its
cairns, and the waits that its barriers' phases end. Every memory, package, VF, core, quad and queue stays. -/

namespace Sys2Proof.Machine

/-- `t` is `s` but for what the end of groups may change. -/
def Ending (s t : State) : Prop :=
  t = { s with nextId := t.nextId, trace := t.trace, launches := t.launches, blocks := t.blocks, tasks := t.tasks, groups := t.groups, barriers := t.barriers,
               fwds := t.fwds, cairns := t.cairns, wbacks := t.wbacks, wins := t.wins, flights := t.flights, syslog := t.syslog }

theorem Ending.refl (s : State) : Ending s s := rfl

theorem Ending.trans {s t u : State} (h : Ending s t) (k : Ending t u) : Ending s u := by
  unfold Ending at *
  rw [h] at k
  exact k

/-- `t` is `s` after steps that end no group: a resident group's waits may have ended, and nothing else of any group is changed. -/
structure Waking (s t : State) : Prop where
  ending : Ending s t
  launches : t.launches = s.launches
  group : ∀ i h, s.group? i = some h → ∃ l, t.group? i = some { h with splits := l } ∧ (h.life ≠ .resident → l = h.splits)
  absent : ∀ i, s.group? i = none → t.group? i = none

theorem Waking.refl (s : State) : Waking s s := ⟨.refl s, rfl, fun _ h hg => ⟨h.splits, hg, fun _ => rfl⟩, fun _ => id⟩

theorem Waking.trans {s t u : State} (h : Waking s t) (k : Waking t u) : Waking s u where
  ending := h.ending.trans k.ending
  launches := k.launches.trans h.launches
  group i x hx := by
    obtain ⟨l, ht, stays⟩ := h.group i x hx
    obtain ⟨m, hu, stays'⟩ := k.group i _ ht
    exact ⟨m, hu, fun away => (stays' away).trans (stays away)⟩
  absent i hi := k.absent i (h.absent i hi)

/-- Steps that leave every group. -/
theorem Waking.of_groups {s t : State} (ending : Ending s t) (launches : t.launches = s.launches) (groups : t.groups = s.groups) : Waking s t where
  ending := ending
  launches := launches
  group i h hg := ⟨h.splits, by rw [State.group?, groups]; exact hg, fun _ => rfl⟩
  absent i hi := by rw [State.group?, groups]; exact hi

theorem Waking.foldl {α : Type} {f : State → α → State} (h : ∀ s x, Waking s (f s x)) (l : List α) : ∀ s, Waking s (l.foldl f s) := by
  induction l with
  | nil => exact .refl
  | cons x l ih => exact fun s => (h s x).trans (ih _)

theorem Ending.foldl {α : Type} {f : State → α → State} (h : ∀ s x, Ending s (f s x)) (l : List α) : ∀ s, Ending s (l.foldl f s) := by
  induction l with
  | nil => exact .refl
  | cons x l ih => exact fun s => (h s x).trans (ih _)

/-! ### Packets -/

/-- A packet handed to a window changes windows and flights. -/
def Sending (s t : State) : Prop := t = { s with wins := t.wins, flights := t.flights, nextId := t.nextId, trace := t.trace }

theorem Sending.trans {s t u : State} (h : Sending s t) (k : Sending t u) : Sending s u := by
  unfold Sending at *
  rw [h] at k
  exact k

theorem Sending.waking {s t : State} (h : Sending s t) : Waking s t := by
  rw [show t = _ from h]
  exact .of_groups rfl rfl rfl

theorem pump_sending (n : Nat) (id : Nat) : ∀ s : State, Sending s (s.pump id n) := by
  induction n with
  | zero => exact fun s => rfl
  | succ n ih =>
    intro s
    unfold State.pump
    split
    · rfl
    · split
      · rfl
      · split
        · rfl
        · split
          · rfl
          · split
            · rfl
            · refine Sending.trans ?_ (ih _)
              rfl

theorem send_sending (s : State) (t : Triple) (b : Body) : Sending s (s.send t b) := by
  unfold State.send
  split
  · refine Sending.trans ?_ (pump_sending ..)
    rfl
  · refine Sending.trans ?_ (pump_sending ..)
    rfl

/-! ### Barriers -/

theorem tget_map_values {α β : Type} (f : α → β) (t : Table α) (k : Nat) : tget k (t.map fun p => (p.1, f p.2)) = (tget k t).map f := by
  induction t with
  | nil => rfl
  | cons p t ih =>
    rw [List.map_cons, tget, tget, ih]
    split <;> rfl

theorem foldl_complete_splits (now : Nat) (l : Table Split) : ∀ g : Group, ∃ m, l.foldl (fun g p => g.complete p.1 p.2.pc p.2.cont now) g = { g with splits := m } := by
  induction l with
  | nil => exact fun g => ⟨g.splits, rfl⟩
  | cons p l ih => exact fun g => ih (g.complete p.1 p.2.pc p.2.cont now)

theorem wakeBar_splits (g : Group) (k : BarKey) (phase : Word) (now : Nat) :
    ∃ l, g.wakeBar k phase now = { g with splits := l } ∧ (g.life ≠ .resident → l = g.splits) := by
  unfold Group.wakeBar
  split
  · exact ⟨g.splits, rfl, fun _ => rfl⟩
  · next resident =>
    obtain ⟨m, h⟩ := foldl_complete_splits now (g.splits.filter fun p => match p.2.wait with | .bar j q => j == k && q != phase | _ => false) g
    exact ⟨m, h, fun away => absurd away resident⟩

theorem setBarrier_waking (s : State) (k : BarKey) (b : Barrier) : Waking s (s.setBarrier k b) := by
  unfold State.setBarrier
  simp only
  split
  · refine ⟨rfl, rfl, fun i h hg => ?_, fun i hi => ?_⟩
    · obtain ⟨l, woken, stays⟩ := wakeBar_splits h k b.phase s.now
      refine ⟨l, (tget_map_values (fun g : Group => g.wakeBar k b.phase s.now) s.groups i).trans ?_, stays⟩
      rw [show tget i s.groups = some h from hg, Option.map_some, woken]
    · refine (tget_map_values (fun g : Group => g.wakeBar k b.phase s.now) s.groups i).trans ?_
      rw [show tget i s.groups = none from hi]; rfl
  · exact .of_groups rfl rfl rfl

theorem barStep_waking (s : State) (k : BarKey) (gid v : Nat) (drop : Bool) : Waking s (s.barStep k gid v drop) := by
  unfold State.barStep
  split
  · exact .refl s
  · simp only
    split
    · split
      · exact .refl s
      · split
        · exact (setBarrier_waking ..).trans (send_sending ..).waking
        · split
          · exact (setBarrier_waking ..).trans (send_sending ..).waking
          · exact setBarrier_waking ..
    · exact setBarrier_waking ..

theorem dropAll_waking (s : State) (gid : Nat) (g : Group) : Waking s (s.dropAll gid g) := by
  refine Waking.foldl (fun s x => ?_) s.barriers s
  split
  · exact .refl s
  · split
    · exact .of_groups rfl rfl rfl
    · exact barStep_waking ..

/-! ### Forwarding ports -/

theorem fwdSend_waking (s : State) (g : Group) (target p : Nat) (v : PortVal) : Waking s (s.fwdSend g target p v) := by
  unfold State.fwdSend
  split
  · exact .refl s
  · split
    · exact .refl s
    · exact .of_groups rfl rfl rfl

theorem sendRest_waking (s : State) (g : Group) (poison : Bool) : Waking s (s.sendRest g poison) := by
  refine Waking.foldl (fun s p => ?_) _ s
  split
  · exact fwdSend_waking ..
  · exact .refl s

/-! ### Cairns -/

theorem setCairn_waking (s : State) (k : Cairn) : Waking s (s.setCairn k) := .of_groups rfl rfl rfl

theorem delCairn_waking (s : State) (k : Cairn) : Waking s (s.delCairn k) := .of_groups rfl rfl rfl

theorem beginMove_waking (s : State) (k : Cairn) (core : Nat) (opener : Option (Nat × Nat)) (restore : Bool) :
    Waking s ((s.beginMove k core opener restore).getD s) := by
  unfold State.beginMove
  cases s.scratchRoom k.vf core k.size with
  | none => exact .refl s
  | some off => exact setCairn_waking ..

theorem afterClose_waking (s : State) (k : Cairn) : Waking s (s.afterClose k) := by
  unfold State.afterClose
  simp only
  have set := setCairn_waking s k
  split
  · exact set
  · split
    · exact set.trans (delCairn_waking ..)
    · split
      · split
        · exact set.trans (setCairn_waking ..)
        · exact set.trans (beginMove_waking ..)
      · exact set

theorem leaveCairn_waking (s : State) (k : Cairn) (l : Leaver) : Waking s (s.leaveCairn k l) := by
  unfold State.leaveCairn
  split
  · exact .refl s
  · split
    · exact .of_groups rfl rfl rfl
    · exact afterClose_waking ..

theorem closeOpens_waking (s : State) (gid : Nat) : Waking s (s.closeOpens gid) := Waking.foldl (fun s k => leaveCairn_waking s k _) _ s

theorem waking_ite {c : Prop} [Decidable c] {s t u : State} (h : Waking s t) (k : Waking s u) : Waking s (if c then t else u) := by
  split
  · exact h
  · exact k

theorem closeTask_waking (s : State) (uid : Nat) : Waking s (s.closeTask uid) := by
  exact Waking.foldl (fun s k => (waking_ite (.refl s) (setCairn_waking s _)).trans (leaveCairn_waking ..)) _ s

theorem settleTasks_waking (s : State) : Waking s s.settleTasks := by
  refine Waking.foldl (fun s x => ?_) _ s
  split
  · refine Waking.trans ?_ (closeTask_waking ..)
    exact .of_groups rfl rfl rfl
  · exact .refl s

theorem leaveBlock_waking (s : State) (gid : Nat) (g : Group) : Waking s (s.leaveBlock gid g) := by
  unfold State.leaveBlock
  split
  · exact .refl s
  · split
    · exact .refl s
    · simp only
      split <;> exact .of_groups rfl rfl rfl

/-! ### Retirement -/

/-- The record of a group that has retired. -/
def Group.retiredForm (g : Group) : Group :=
  { g with life := .retired, kept := g.entries g.splits.length, splits := [], defer := [], reserv := none, trap := none, pend := none, rinstr := g.lastWrites }

theorem Group.retiredForm_away (g : Group) : g.retiredForm.life ≠ .resident := Residence.noConfusion

/-- `t` is `s` after the retirement of a group. -/
structure Retiring (s t : State) (gid : Nat) (g : Group) : Prop where
  ending : Ending s t
  launches : t.launches = tmod g.launch (fun l => { l with sums := { l.sums with retired := l.sums.retired + 1 } }) s.launches
  own : t.group? gid = some g.retiredForm
  group : ∀ i h, i ≠ gid → s.group? i = some h → ∃ l, t.group? i = some { h with splits := l } ∧ (h.life ≠ .resident → l = h.splits)
  absent : ∀ i, i ≠ gid → s.group? i = none → t.group? i = none

theorem Waking.after_setGroup {s t u : State} {gid : Nat} {x : Group} (before : Waking s t) (after : Waking (t.setGroup gid x) u) (life : x.life ≠ .resident) :
    Ending s u ∧ u.launches = s.launches ∧ u.group? gid = some x
      ∧ (∀ i h, i ≠ gid → s.group? i = some h → ∃ l, u.group? i = some { h with splits := l } ∧ (h.life ≠ .resident → l = h.splits))
      ∧ ∀ i, i ≠ gid → s.group? i = none → u.group? i = none := by
  refine ⟨(before.ending.trans (show Ending t (t.setGroup gid x) from rfl)).trans after.ending, after.launches.trans before.launches, ?_, fun i h hi hg => ?_, fun i hi none => ?_⟩
  · obtain ⟨l, hu, stays⟩ := after.group gid x (State.group_setGroup_self ..)
    rw [stays life] at hu
    exact hu
  · obtain ⟨l, ht, stays⟩ := before.group i h hg
    obtain ⟨m, hu, stays'⟩ := after.group i _ ((State.group_setGroup_ne _ hi _).trans ht)
    exact ⟨m, hu, fun away => (stays' away).trans (stays away)⟩
  · exact after.absent i ((State.group_setGroup_ne _ hi _).trans (before.absent i none))

theorem retire_over {s : State} {gid : Nat} {g : Group} (poison : Bool) (hg : s.group? gid = some g) (ended : g.life = .retired) : s.retire gid poison = s := by
  rw [State.retire, hg]
  exact if_pos ended

theorem retire_retiring {s : State} {gid : Nat} {g : Group} (poison : Bool) (hg : s.group? gid = some g) (life : g.life ≠ .retired) :
    Retiring s (s.retire gid poison) gid g := by
  rw [State.retire, hg]
  simp only [if_neg life]
  have before := ((sendRest_waking s g poison).trans (dropAll_waking _ gid g)).trans (closeOpens_waking _ gid)
  generalize ((s.sendRest g poison).dropAll gid g).closeOpens gid = t at before ⊢
  have after := leaveBlock_waking (t.setGroup gid g.retiredForm) gid g
  obtain ⟨ending, launches, own, group, absent⟩ := before.after_setGroup after g.retiredForm_away
  have close : t.setGroup gid { g with
      life := .retired, kept := g.entries g.splits.length, splits := [], defer := [], reserv := none, trap := none, pend := none, rinstr := g.lastWrites }
      = t.setGroup gid g.retiredForm := rfl
  rw [close]
  generalize (t.setGroup gid g.retiredForm).leaveBlock gid g = u at after ending launches own group absent ⊢
  generalize last : { u with
        launches := tmod g.launch (fun l => { l with sums := { l.sums with retired := l.sums.retired + 1 } }) u.launches,
        fwds := u.fwds.filter fun f => !(f.launch == g.launch && some f.item == g.item) } = v
  have vending : Ending u v := by rw [← last]; rfl
  have vlaunches : v.launches = tmod g.launch (fun l => { l with sums := { l.sums with retired := l.sums.retired + 1 } }) u.launches := by rw [← last]
  have vgroups : v.groups = u.groups := by rw [← last]
  have settled := settleTasks_waking v
  have vgroup (i : Nat) : v.group? i = u.group? i := by rw [State.group?, vgroups]; rfl
  refine ⟨(ending.trans vending).trans settled.ending, by rw [settled.launches, vlaunches, launches], ?_, fun i h hi hg => ?_, fun i hi none => ?_⟩
  · obtain ⟨l, hl, stays⟩ := settled.group gid _ ((vgroup gid).trans own)
    rw [stays g.retiredForm_away] at hl
    exact hl
  · obtain ⟨l, hl, stays⟩ := group i h hi hg
    obtain ⟨m, hm, stays'⟩ := settled.group i _ ((vgroup i).trans hl)
    exact ⟨m, hm, fun away => (stays' away).trans (stays away)⟩
  · exact settled.absent i ((vgroup i).trans (absent i hi none))

/-! ### A kill -/

theorem tget_tmod_cases {α : Type} {i j : Nat} {f : α → α} {t : Table α} {a : α} (h : tget i t = some a) :
    tget i (tmod j f t) = some (if i = j then f a else a) := by
  rw [tget_tmod, h]
  split <;> rfl

/-- What a retirement keeps of the other launches and groups, whether or not the group stands. -/
theorem retire_keeps (s : State) (gid : Nat) (poison : Bool) :
    Ending s (s.retire gid poison)
      ∧ (∀ i l, tget i s.launches = some l → ∃ m, tget i (s.retire gid poison).launches = some m ∧ m.killed = l.killed ∧ m.fault = l.fault)
      ∧ ∀ i h, s.group? i = some h → ∃ h', (s.retire gid poison).group? i = some h'
          ∧ (h.life = .retired → h' = h) ∧ (h'.life = .retired → h.life = .retired ∨ h'.splits = []) ∧ (i = gid → h'.life = .retired) := by
  cases hg : s.group? gid with
  | none =>
    rw [State.retire, hg]
    exact ⟨.refl s, fun _ l hl => ⟨l, hl, rfl, rfl⟩, fun i h hi => ⟨h, hi, fun _ => rfl, .inl, fun same => by rw [same, hg] at hi; cases hi⟩⟩
  | some g =>
    by_cases life : g.life = .retired
    · rw [retire_over poison hg life]
      exact ⟨.refl s, fun _ l hl => ⟨l, hl, rfl, rfl⟩, fun i h hi => ⟨h, hi, fun _ => rfl, .inl, fun same => by
        rw [same, hg] at hi; cases hi; exact life⟩⟩
    · have ends := retire_retiring poison hg life
      refine ⟨ends.ending, fun i l hl => ?_, fun i h hi => ?_⟩
      · rw [ends.launches, tget_tmod_cases hl]
        refine ⟨_, rfl, ?_⟩
        split <;> exact ⟨rfl, rfl⟩
      · by_cases same : i = gid
        · subst same
          rw [hg] at hi
          cases hi
          exact ⟨_, ends.own, fun ended => absurd ended life, fun _ => .inr rfl, fun _ => rfl⟩
        · obtain ⟨l, hl, stays⟩ := ends.group i h same hi
          exact ⟨_, hl, fun ended => by rw [stays (by rw [ended]; exact Residence.noConfusion)], .inl, fun no => absurd no same⟩

/-- The retirement of several groups. -/
theorem retireAll_keeps (poison : Bool) (ids : List Nat) : ∀ s : State, let t := ids.foldl (fun s i => s.retire i poison) s
    Ending s t
      ∧ (∀ i l, tget i s.launches = some l → ∃ m, tget i t.launches = some m ∧ m.killed = l.killed ∧ m.fault = l.fault)
      ∧ ∀ i h, s.group? i = some h → ∃ h', t.group? i = some h'
          ∧ (h.life = .retired → h' = h) ∧ (h'.life = .retired → h.life = .retired ∨ h'.splits = []) ∧ (i ∈ ids → h'.life = .retired) := by
  induction ids with
  | nil => exact fun s => ⟨.refl s, fun _ l hl => ⟨l, hl, rfl, rfl⟩, fun i h hi => ⟨h, hi, fun _ => rfl, .inl, fun no => by cases no⟩⟩
  | cons gid ids ih =>
    intro s
    obtain ⟨ending, launches, groups⟩ := retire_keeps s gid poison
    obtain ⟨ending', launches', groups'⟩ := ih (s.retire gid poison)
    refine ⟨ending.trans ending', fun i l hl => ?_, fun i h hi => ?_⟩
    · obtain ⟨m, hm, killed, fault⟩ := launches i l hl
      obtain ⟨m', hm', killed', fault'⟩ := launches' i m hm
      exact ⟨m', hm', killed'.trans killed, fault'.trans fault⟩
    · obtain ⟨h', hi', stays, empty, ends⟩ := groups i h hi
      obtain ⟨h'', hi'', stays', empty', ends'⟩ := groups' i h' hi'
      refine ⟨h'', hi'', fun ended => ?_, fun ended => ?_, fun listed => ?_⟩
      · rw [stays' (by rw [stays ended, ended]), stays ended]
      · rcases empty' ended with before | none
        · rw [stays' before]
          exact empty before
        · exact .inr none
      · rcases List.mem_cons.mp listed with first | later
        · rw [stays' (ends first)]
          exact ends first
        · exact ends' later

theorem mem_killSet {s : State} {gid : Nat} {g : Group} (hg : s.group? gid = some g) (life : g.life ≠ .retired) : gid ∈ s.killSet gid g := by
  have listed (p : Group → Bool) (hp : p g = true) : gid ∈ (s.groups.filter fun x => p x.2 && x.2.life != .retired).map fun x => x.1 := by
    refine List.mem_map.mpr ⟨(gid, g), List.mem_filter.mpr ⟨mem_of_tget hg, ?_⟩, rfl⟩
    simpa [hp] using life
  unfold State.killSet
  cases ht : g.task with
  | some t => exact listed (fun h => h.task == some t) (by simp [ht])
  | none =>
    cases hb : g.block with
    | some b => exact listed (fun h => h.block == some b) (by simp [hb])
    | none => exact List.mem_singleton.mpr rfl

/-- The launch's record of a kill (R235): the first one's cause stays. -/
def Launch.struck (l : Launch) (f : FaultRec) : Launch :=
  match l.fault with
  | some f' => if f'.byKill then { l with killed := true } else { l with killed := true, fault := some f }
  | none => { l with killed := true, fault := some f }

theorem kill_eq {s : State} {gid : Nat} {g : Group} (cause : Nat) (pc : Word) (hg : s.group? gid = some g) (life : g.life ≠ .retired) (task : g.task = none) :
    s.kill gid cause pc = (s.killSet gid g).foldl (fun s i => s.retire i true)
      { s with launches := tmod g.launch (fun l => l.struck ⟨cause, coordOf g.core, pc, true⟩) s.launches } := by
  rw [State.kill, hg]
  simp only [if_neg life, task]
  rfl

theorem kill_ending {s : State} {gid : Nat} {g : Group} (cause : Nat) (pc : Word) (hg : s.group? gid = some g) (life : g.life ≠ .retired) (task : g.task = none) :
    Ending s (s.kill gid cause pc) := by
  rw [kill_eq cause pc hg life task]
  refine Ending.trans ?_ (retireAll_keeps true _ _).1
  rfl

theorem kill_killed {s : State} {gid : Nat} {g : Group} (cause : Nat) (pc : Word) (hg : s.group? gid = some g) (life : g.life ≠ .retired) (task : g.task = none) :
    Killed s (s.kill gid cause pc) gid g cause pc := by
  rw [kill_eq cause pc hg life task]
  obtain ⟨-, launches, groups⟩ := retireAll_keeps true (s.killSet gid g)
    { s with launches := tmod g.launch (fun l => l.struck ⟨cause, coordOf g.core, pc, true⟩) s.launches }
  obtain ⟨h, hh, -, empty, ends⟩ := groups gid g hg
  have ended := ends (mem_killSet hg life)
  refine ⟨⟨h, hh, ended, (empty ended).resolve_left life⟩, fun l hl none => ?_⟩
  have struck : tget g.launch (tmod g.launch (fun l => l.struck ⟨cause, coordOf g.core, pc, true⟩) s.launches) = some (l.struck ⟨cause, coordOf g.core, pc, true⟩) :=
    (tget_tmod_cases hl).trans (by rw [if_pos rfl])
  obtain ⟨m, hm, killed, fault⟩ := launches g.launch _ struck
  refine ⟨m, hm, killed.trans ?_, fault.trans ?_⟩
  · rw [Launch.struck, none]
  · rw [Launch.struck, none]

end Sys2Proof.Machine
end

section
/-! SUPPORT. Writes of system registers (R230-R233). -/

namespace Sys2Proof.Machine

/-- The event of a register write, for the group that issues it. -/
theorem sysEvent_reach {s : State} {gid k : Nat} {g : Group} {sp : Split} {n : Nat} {r : SysReg} {v : Word} (h : Issues s gid k g sp)
    (hr : sysReg n = some r) (valid : r.valid s g = true) (reach : r.priv = false ∨ g.trap ≠ none) :
    (∀ t, r.write s gid g v = .done t → sysEvent n v s = t) ∧ (∀ t, r.write s gid g v = .away t → sysEvent n v s = t)
      ∧ ∀ cause, r.write s gid g v = trapAct cause →
          sysEvent n v s = s.raise gid { cause := cause, split := k, pc := sp.pc } sp.pc := by
  have ctx : s.ctx 1 = some { who := .group gid k, g := g, pc := sp.pc, len := 1, mask := sp.mask } := by
    simp only [State.ctx, h.cur, h.group, h.split, h.unheld, Option.map_some]
    cases sp.wait <;> rfl
  have access := sysAccess_reach hr valid reach fun r => r.write s gid g v
  refine ⟨fun t write => ?_, fun t write => ?_, fun cause write => ?_⟩
  · simp only [sysEvent, h.cur, ctx, access, write]
  · simp only [sysEvent, h.cur, ctx, access, write]
  · simp only [sysEvent, h.cur, ctx, access, write]
    rfl

/-- SWR of a register whose write changes the group only. -/
theorem swr_completes {s : State} {gid k : Nat} {g h : Group} {sp : Split} {sa : Reg} {b : SSrc} {n : Nat} {r : SysReg} {v : Word} {t : State}
    (ready : Ready s gid k g sp (.swr sa b)) (hn : (g.opB sp b).toNat % 65536 = n) (hv : g.sreg sp sa.toNat = v) (hr : sysReg n = some r)
    (valid : r.valid s g = true) (reach : r.priv = false ∨ g.trap ≠ none) (write : r.write s gid g v = .done t) (only : OnlyGroup s t gid h)
    (splits : h.splits = g.splits) (free : h.stepped k = false) :
    Completes (.swr sa b) s gid k h (sp.after (.swr sa b)) := by
  show ∃ u, execSwr sa b s = .next u ∧ _
  rw [execSwr, issue_ready ready rfl]
  have body : sysAccess s g ((groupCtx gid k g sp (.swr sa b)).sysNum b) (fun r => r.write s gid g ((groupCtx gid k g sp (.swr sa b)).s sa.toNat)) = .done t := by
    rw [groupCtx_sysNum, hn, groupCtx_s, hv, sysAccess_reach hr valid reach, write]
  obtain ⟨u, hu, done⟩ := settle_done (k := k) (g := g) (sp := sp) (i := .swr sa b) rfl rfl only
    (by rw [splits]; exact ready.issues.split) free (by intro p hp; rw [splits] at hp; exact ready.quiet p hp)
  exact ⟨u, (congrArg _ body).trans hu, done⟩

theorem writeFrame_gmode (t : TrapMode) (v : Word) : t.writeFrame 55 v = { t with frame := t.frame.set 55 (v &&& 1) } := by
  rw [TrapMode.writeFrame]
  simp (disch := omega) only [if_neg]
  rfl

theorem writeFrame_word (t : TrapMode) {w : Nat} (v : Word) (h : 2 ≤ w ∧ w ≤ 17 ∨ 22 ≤ w ∧ w ≤ 54 ∨ 64 ≤ w ∧ w ≤ 188 ∨ 192 ≤ w) :
    t.writeFrame w v = { t with
      frame := t.frame.set w v
      rewritten := if w ≤ 17 ∧ w % 4 = 2 then t.rewritten ++ [(w - 2) / 4] else t.rewritten } := by
  by_cases pc : w ≤ 17 ∧ w % 4 = 2
  · rw [TrapMode.writeFrame]
    simp (disch := omega) only [if_neg, if_pos]
  · rw [TrapMode.writeFrame]
    simp (disch := omega) only [if_neg, if_pos]

theorem stepped_in_trap {g : Group} {tm : TrapMode} (h : g.trap = some tm) (k : Nat) : g.stepped k = false := by
  rw [Group.stepped, h]
  rfl

end Sys2Proof.Machine
end

section
/-! OBLIGATIONS. SWR and the register writes (R134, R140, R230-R233, R357). -/

namespace Sys2Proof.Machine

/-- A write of a register that changes the group alone, by SWR and as a step of its own. -/
theorem sysWrite_both {s : State} {gid k : Nat} {g h : Group} {sp : Split} {sa : Reg} {b : SSrc} {n : BitVec 16} {r : SysReg} {v : Word} {t : State}
    (hr : sysReg n.toNat = some r) (valid : r.valid s g = true) (reach : r.priv = false ∨ g.trap ≠ none) (write : r.write s gid g v = .done t)
    (only : s.group? gid = some g → OnlyGroup s t gid h) (splits : h.splits = g.splits) (free : g.stepped k = false → h.stepped k = false) :
    (Ready s gid k g sp (.swr sa b) → (g.opB sp b).setWidth 16 = n → g.sreg sp sa.toNat = v →
        Completes (.swr sa b) s gid k h (sp.after (.swr sa b)))
      ∧ (Issues s gid k g sp → Leaves (.systemRegisterWrite n v) s gid h) := by
  refine ⟨fun ready number value => ?_, fun issues => ⟨t, ?_, only issues.group⟩⟩
  · exact swr_completes ready (by rw [← number, BitVec.toNat_setWidth]) value hr valid reach write (only ready.issues.group) splits (free ready.free)
  · exact congrArg Host.Outcome.next ((sysEvent_reach issues hr valid reach).1 t write)

/-- Such a write of a debug register or of the frame, in trap mode. -/
theorem groupWrite_only {s : State} {gid : Nat} {g : Group} (f : Group → Group) : s.group? gid = some g → OnlyGroup s (s.modGroup gid f) gid (f g) :=
  fun hg => (OnlyGroup.refl hg).modGroup f

theorem systemWrites_group (s : State) (gid k : Nat) (g : Group) (sp : Split) (sa : Reg) (b : SSrc) (n : BitVec 16) (v : Word) (tm : TrapMode) :
    let i := Instr.swr sa b
    let both (m : Nat) (h : Group) : Prop := n.toNat = m →
      (Ready s gid k g sp i → (g.opB sp b).setWidth 16 = n → g.sreg sp sa.toNat = v → Completes i s gid k h (sp.after i))
        ∧ (Issues s gid k g sp → Leaves (.systemRegisterWrite n v) s gid h)
    both 0x01 { g with gmode := v &&& 1 }
      ∧ both 0x21 { g with copyErr := false }
      ∧ (Issues s gid k g sp → Leaves (.cpystatWrite v) s gid { g with copyErr := false })
      ∧ both 0x20 g ∧ both 0x30 g ∧ both 0x31 g ∧ both 0x32 g
      ∧ (g.trap = some tm →
        both 0x10 g ∧ both 0x11 g ∧ both 0x17 g
          ∧ both 0x100 { g with dbg := { g.dbg with ctl := v &&& 0xF000FF0F } }
          ∧ (∀ w, w < 4 → both (0x104 + w) { g with dbg := { g.dbg with bpa := g.dbg.bpa.set w v } }
              ∧ both (0x120 + w) { g with dbg := { g.dbg with wpl := g.dbg.wpl.set w (v &&& 0xF) } }
              ∧ both (0x118 + 2 * w) { g with dbg := { g.dbg with wpa := g.dbg.wpa.set w (pairOf (hiWord (g.dbg.wpa.getD w 0)) v) } }
              ∧ both (0x119 + 2 * w) { g with dbg := { g.dbg with wpa := g.dbg.wpa.set w (pairOf v (loWord (g.dbg.wpa.getD w 0))) } })
          ∧ both (0x8000 + 55) { g with trap := some { tm with frame := tm.frame.set 55 (v &&& 1) } }
          ∧ ∀ w, (2 ≤ w ∧ w ≤ 17 ∨ 22 ≤ w ∧ w ≤ 54 ∨ 64 ≤ w ∧ w ≤ 188 ∨ 192 ≤ w ∧ w < 224 + 96 * g.count) → w < 32768 →
              let h := { g with trap := some { tm with
                frame := tm.frame.set w v
                rewritten := if w ≤ 17 ∧ w % 4 = 2 then tm.rewritten ++ [(w - 2) / 4] else tm.rewritten } }
              both (0x8000 + w) h ∧ (Issues s gid k g sp → Leaves (.frameWrite w v) s gid h)) := by
  intro i both
  have plain {m : Nat} (r : SysReg) (hr : sysReg m = some r) (valid : r.valid s g = true) (reach : r.priv = false ∨ g.trap ≠ none)
      (write : r.write s gid g v = .done s) : both m g := fun e => sysWrite_both (e ▸ hr) valid reach write (fun hg => .refl hg) rfl id
  have grouped {m : Nat} {h : Group} (r : SysReg) (f : Group → Group) (hr : sysReg m = some r) (valid : r.valid s g = true)
      (reach : r.priv = false ∨ g.trap ≠ none) (write : r.write s gid g v = .done (s.modGroup gid f)) (value : f g = h) (splits : h.splits = g.splits)
      (free : g.stepped k = false → h.stepped k = false) : both m h :=
    fun e => sysWrite_both (e ▸ hr) valid reach write (fun hg => value ▸ groupWrite_only f hg) splits free
  have cleared : (SysReg.cpystat).write s gid g v = .done (s.modGroup gid fun g => { g with copyErr := false }) := rfl
  refine ⟨grouped .gmode _ rfl rfl (.inl rfl) rfl rfl rfl id, grouped .cpystat _ rfl rfl (.inl rfl) cleared rfl rfl id, fun issues => ?_,
    plain .scrbase rfl rfl (.inl rfl) rfl, plain .sdccnt rfl rfl (.inl rfl) rfl, plain .atomloc rfl rfl (.inl rfl) rfl,
    plain .atomhome rfl rfl (.inl rfl) rfl, fun trap => ?_⟩
  · exact ⟨_, congrArg Host.Outcome.next ((sysEvent_reach issues (n := 0x21) rfl rfl (.inl rfl)).1 _ cleared), groupWrite_only _ issues.group⟩
  · have inside : g.trap ≠ none := by rw [trap]; nofun
    have debug {m : Nat} (r : SysReg) (hr : sysReg m = some r) (valid : r.valid s g = true)
        (write : r.write s gid g v = .done (s.modGroup gid fun g => { g with dbg := g.dbg.write r v })) : both m { g with dbg := g.dbg.write r v } :=
      grouped r _ hr valid (.inr inside) write rfl rfl fun _ => stepped_in_trap (g := { g with dbg := g.dbg.write r v }) trap k
    refine ⟨plain .tcause rfl rfl (.inr inside) rfl, plain .tpc rfl rfl (.inr inside) rfl, plain .thandler rfl rfl (.inr inside) rfl,
      debug .dbgctl rfl rfl rfl, fun w hw => ⟨debug (.bpa w) (sysReg_bpa' hw) rfl rfl, debug (.wpl w) (sysReg_wpl hw) rfl rfl,
        debug (.wpa w false) (sysReg_wpa_low hw) rfl rfl, debug (.wpa w true) (sysReg_wpa_high hw) rfl rfl⟩, ?_, fun w hw hw' => ?_⟩
    · refine grouped (.frame 55) _ (sysReg_frame (by decide)) (decide_eq_true (by omega)) (.inr inside) rfl ?_ rfl fun _ => stepped_in_trap rfl k
      simp only [trap, Option.map_some, writeFrame_gmode]
    · have valid : (SysReg.frame w).valid s g = true := decide_eq_true (by omega)
      have value : { g with trap := g.trap.map fun t => t.writeFrame w v } = { g with trap := some { tm with
          frame := tm.frame.set w v
          rewritten := if w ≤ 17 ∧ w % 4 = 2 then tm.rewritten ++ [(w - 2) / 4] else tm.rewritten } } := by
        rw [trap, Option.map_some, writeFrame_word tm v (by omega)]
      have write : (SysReg.frame w).write s gid g v = .done (s.modGroup gid fun g => { g with trap := g.trap.map fun t => t.writeFrame w v }) := rfl
      refine ⟨grouped (.frame w) _ (sysReg_frame hw') valid (.inr inside) write value rfl fun _ => stepped_in_trap rfl k, fun issues => ?_⟩
      exact ⟨_, congrArg Host.Outcome.next ((sysEvent_reach issues (sysReg_frame hw') valid (.inr inside)).1 _ write), value ▸ groupWrite_only _ issues.group⟩

end Sys2Proof.Machine
end

section
/-! OBLIGATIONS. Register writes that act beyond the group (R134, R230, R232, R233, R235). -/

namespace Sys2Proof.Machine

theorem undefScratch_frame (s : State) (key n : Nat) :
    (s.undefScratch key n).queues = s.queues ∧ (s.undefScratch key n).groups = s.groups ∧ (s.undefScratch key n).mem = s.mem := by
  unfold State.undefScratch
  exact ⟨rfl, rfl, rfl⟩

theorem queueGone_bare (g : Group) (core q : Nat) : { g.queueGone core q with splits := [], trap := none } = { g with splits := [], trap := none } := by
  unfold Group.queueGone
  split
  · rfl
  · rfl

/-- The groups but for their splits and frames. -/
def State.bare (s : State) : Table Group := s.groups.map fun p => (p.1, { p.2 with splits := [], trap := none })

theorem resetQueue_spec (s : State) (core q : Nat) (cfg : Word) :
    (s.resetQueue core q cfg).queue (core * 16 + q) = { cfg := cfg } ∧ (s.resetQueue core q cfg).mem = s.mem ∧ (s.resetQueue core q cfg).bare = s.bare
      ∧ ((s.queue (core * 16 + q)).cfg.msb = false → (s.resetQueue core q cfg).groups = s.groups) := by
  refine ⟨State.queue_setQueue_self (s := s) (core * 16 + q) { cfg := cfg }, rfl, ?_, fun off => ?_⟩
  · refine (List.map_map ..).trans (List.map_congr_left fun p _ => ?_)
    refine Prod.ext rfl ?_
    show ({ (if (s.queue (queueKey core q)).cfg.msb then p.2.queueGone core q else p.2) with splits := [], trap := none } : Group) = _
    split
    · exact queueGone_bare ..
    · rfl
  · refine (List.map_congr_left fun p _ => ?_).trans (List.map_id _)
    exact Prod.ext rfl (if_neg (by rw [show queueKey core q = core * 16 + q from rfl, off]; decide))

theorem tableOk_pairwise {α : Type} (t : Table α) : tableOk t = true → t.Pairwise fun p q => p.1 < q.1 := by
  induction t with
  | nil => exact fun _ => .nil
  | cons p t ih =>
    intro h
    refine List.pairwise_cons.mpr ⟨?_, ih (tableOk_tail h)⟩
    cases t with
    | nil => nofun
    | cons q t =>
      have first : p.1 < q.1 := of_decide_eq_true (Bool.and_eq_true_iff.1 h).1
      intro x hx
      rcases List.mem_cons.1 hx with rfl | hx
      · exact first
      · exact first.trans ((List.pairwise_cons.1 (ih (tableOk_tail h))).1 x hx)

/-- The end of waits, one split after the other. -/
def completeAll (now : Nat) (l : Table Split) (g : Group) : Group := l.foldl (fun g p => g.complete p.1 p.2.pc p.2.cont now) g

theorem completeAll_other (now m : Nat) (l : Table Split) (h : ∀ p ∈ l, p.1 ≠ m) : ∀ g : Group, tget m (completeAll now l g).splits = tget m g.splits := by
  induction l with
  | nil => exact fun g => rfl
  | cons p l ih =>
    intro g
    refine (ih (fun q hq => h q (List.mem_cons_of_mem _ hq)) _).trans ?_
    simp only [Group.complete, tget_tmod_ne (h p List.mem_cons_self).symm]

theorem completeAll_listed (now m : Nat) (x : Split) (l : Table Split) (sorted : l.Pairwise fun p q => p.1 < q.1) (hx : (m, x) ∈ l) :
    ∀ (g : Group) (z : Split), tget m g.splits = some z → ∃ y, tget m (completeAll now l g).splits = some y ∧ y.wait = .none ∧ y.pc = x.cont := by
  induction l with
  | nil => cases hx
  | cons p l ih =>
    intro g z hz
    obtain ⟨above, sorted⟩ := List.pairwise_cons.1 sorted
    have step : tget m (g.complete p.1 p.2.pc p.2.cont now).splits = tget m (tmod p.1 (fun sp =>
      { sp.rest p.2.cont with since := now, due := if g.stepped p.1 then some (sp.stamp, p.2.pc) else none }) g.splits) := rfl
    rcases List.mem_cons.1 hx with rfl | hx
    · rw [tget_tmod_self, hz] at step
      exact ⟨_, (completeAll_other now m l (fun q hq => (above q hq).ne') _).trans step, rfl, rfl⟩
    · rw [tget_tmod_ne (above _ hx).ne', hz] at step
      exact ih sorted hx _ z step

theorem wakeBar_wakes {g : Group} {k : BarKey} {phase q : Word} (now : Nat) {m : Nat} {x : Split} (life : g.life = .resident) (ok : tableOk g.splits = true)
    (hx : tget m g.splits = some x) (wait : x.wait = .bar k q) (change : q ≠ phase) :
    ∃ y, tget m (g.wakeBar k phase now).splits = some y ∧ y.wait = .none ∧ y.pc = x.cont := by
  rw [Group.wakeBar, if_neg (fun away => away life)]
  refine completeAll_listed now m x _ ((tableOk_pairwise _ ok).filter _) (List.mem_filter.2 ⟨mem_of_tget hx, ?_⟩) g x hx
  simp only [wait]
  simpa using change

theorem find_setBarrier {s : State} {k : BarKey} {b : Barrier} (h : s.barrier k = some b) (c : Barrier) : (s.setBarrier k c).barrier k = some c := by
  have found (l : List (BarKey × Barrier)) : (l.find? fun x => x.1 == k).isSome →
      ((l.map fun x => if x.1 = k then (k, c) else x).find? fun x => x.1 == k) = some (k, c) := by
    induction l with
    | nil => nofun
    | cons x l ih =>
      intro some'
      by_cases same : x.1 = k
      · rw [List.map_cons, if_pos same, List.find?_cons_of_pos (by simp)]
      · rw [List.find?_cons_of_neg (by simpa using same)] at some'
        rw [List.map_cons, if_neg same, List.find?_cons_of_neg (by simpa using same)]
        exact ih some'
  have there : (s.barriers.find? fun x => x.1 == k).isSome := by
    rw [State.barrier] at h
    cases hf : s.barriers.find? fun x => x.1 == k with
    | none => rw [hf] at h; cases h
    | some x => rfl
  have barriers : (s.setBarrier k c).barriers = s.barriers.map fun x => if x.1 = k then (k, c) else x := by
    unfold State.setBarrier
    simp only
    split <;> rfl
  rw [State.barrier, barriers, found _ there]
  rfl

theorem setBarrier_groups_same {s : State} {k : BarKey} {b c : Barrier} (h : s.barrier k = some b) (phase : c.phase = b.phase) :
    (s.setBarrier k c).groups = s.groups := by
  unfold State.setBarrier
  simp only [h, Option.any_some, phase, bne_self_eq_false]
  rfl

theorem setBarrier_groups_woken {s : State} {k : BarKey} {b c : Barrier} (h : s.barrier k = some b) (phase : c.phase ≠ b.phase) :
    (s.setBarrier k c).groups = s.groups.map fun p => (p.1, p.2.wakeBar k c.phase s.now) := by
  unfold State.setBarrier
  simp only [h, Option.any_some]
  exact congrArg State.groups (if_pos (by simpa using phase.symm))

theorem mem_modPort {s : State} {g : Group} {p : Nat} {f : Fwd} (change : PortVal → PortVal) (hf : f ∈ s.fwds) (launch : f.launch = g.launch)
    (item : some f.item = g.item) (port : f.port = p) (arrived : f.arrived = true) : { f with val := change f.val } ∈ (s.modPort g p change).fwds :=
  List.mem_map.2 ⟨f, hf, if_pos ⟨launch, item, port, arrived⟩⟩

theorem writeBarecnt_found {s : State} {g : Group} {l id : Nat} {v : Word} {key : BarKey} {b : Barrier} (named : s.barKey g l id = some key)
    (found : s.barrier key = some b) (whole : b.broken = false) :
    (b.count < v.toNat → v.toNat ≤ b.expected → writeBarecnt s g l id v = .done (s.setBarrier key { b with expected := v.toNat }))
      ∧ (v.toNat ≤ b.count → b.parts ≠ 0 → writeBarecnt s g l id v = .done (s.setBarrier key { b with expected := v.toNat }))
      ∧ (v.toNat ≤ b.count → b.parts = 0 → writeBarecnt s g l id v = .done (s.setBarrier key (Barrier.complete { b with expected := v.toNat } s.now)))
      ∧ (b.expected < v.toNat → b.count < v.toNat → (∃ p ∈ s.groups, p.2.waitsOn key b.phase = true) → writeBarecnt s g l id v = trapAct causeBARBUSY) := by
  unfold writeBarecnt
  simp only [named, found, whole, Bool.false_or, decide_eq_true_eq]
  refine ⟨fun above within => ?_, fun enough parts => ?_, fun enough none => ?_, fun beyond above waits => ?_⟩
  · rw [if_neg (by omega), if_neg (by omega)]
  · rw [if_pos enough, if_pos parts]
  · rw [if_pos enough, if_neg (by simp [none])]
  · rw [if_neg (by omega), if_pos ⟨beyond, List.any_eq_true.2 waits⟩]

theorem wakeBar_bare (g : Group) (k : BarKey) (phase : Word) (now : Nat) :
    { g.wakeBar k phase now with splits := [], trap := none } = { g with splits := [], trap := none } := by
  obtain ⟨l, woken, -⟩ := wakeBar_splits g k phase now
  rw [woken]

/-- MQCFG: what an enabling write, one that may not enable, and a disabling one do. -/
theorem writeMqcfg_cases (s : State) (g : Group) (q : Nat) (v : Word) :
    let old := s.queue (g.core * 16 + q)
    let t := s.writeMqcfg g q v
    (v.msb = true → old.cfg.msb = false → s.queueOk g.vf g.core v = true →
        t.queue (g.core * 16 + q) = { cfg := v &&& 0xF8007FFF } ∧ t.groups = s.groups ∧ t.mem = s.mem)
      ∧ (v.msb = true → s.queueOk g.vf g.core v = false ∨ old.cfg.msb = true → t = s.resetQueue g.core q (old.cfg &&& 0x7FFFFFFF))
      ∧ (v.msb = false → t = s.resetQueue g.core q (v &&& 0xF8007FFF)) := by
  intro old t
  refine ⟨fun enable off ok => ?_, fun enable shut => ?_, fun disable => ?_⟩
  · have run : t = (s.resetQueue g.core q (v &&& 0xF8007FFF)).undefScratch (scratchKey g.core (bitField v.toNat 14 0 * 64)) (2 ^ bitField v.toNat 30 27 * 64) := by
      refine (if_pos enable).trans (if_pos ?_)
      rw [Bool.and_eq_true_iff]
      exact ⟨by rw [Bool.not_eq_true']; exact off, ok⟩
    obtain ⟨queue, mem, -, groups⟩ := resetQueue_spec s g.core q (v &&& 0xF8007FFF)
    obtain ⟨uqueues, ugroups, umem⟩ := undefScratch_frame (s.resetQueue g.core q (v &&& 0xF8007FFF)) (scratchKey g.core (bitField v.toNat 14 0 * 64))
      (2 ^ bitField v.toNat 30 27 * 64)
    rw [run]
    refine ⟨?_, ugroups.trans (groups off), umem.trans mem⟩
    rw [State.queue, uqueues]
    exact queue
  · refine (if_pos enable).trans (if_neg fun both => ?_)
    obtain ⟨off, ok⟩ := Bool.and_eq_true_iff.1 both
    rw [Bool.not_eq_true'] at off
    rcases shut with no | on
    · rw [no] at ok; cases ok
    · exact absurd (on.symm.trans off) (by decide)
  · exact if_neg (by rw [disable]; decide)

/-- Proves O28, register by register. -/
theorem systemWrites : Obligations.SystemWrites := by
  refine ⟨systemWrites_group, fun s gid k g sp q l id port lane v tm key b f ls => ?_⟩
  intro old bare same issues
  have mqcfg (hq : q < 16) : exec (.mqcfgWrite q v) s = .next (s.writeMqcfg g q v) :=
    congrArg Host.Outcome.next ((sysEvent_reach issues (sysReg_mqcfg hq) rfl (.inl rfl)).1 _ rfl)
  obtain ⟨enabling, refused, disabling⟩ := writeMqcfg_cases s g q v
  refine ⟨fun hq enable off ok => ⟨_, mqcfg hq, enabling enable off ok⟩, fun hq enable shut => ?_, fun hq disable => ?_, fun trap => ?_⟩
  · obtain ⟨queue, mem, rest, groups⟩ := resetQueue_spec s g.core q (old.cfg &&& 0x7FFFFFFF)
    exact ⟨_, (mqcfg hq).trans (congrArg _ (refused enable shut)), queue, ⟨rest, groups⟩, mem⟩
  · obtain ⟨queue, mem, rest, groups⟩ := resetQueue_spec s g.core q (v &&& 0xF8007FFF)
    exact ⟨_, (mqcfg hq).trans (congrArg _ (disabling disable)), queue, ⟨rest, groups⟩, mem⟩
  · have inside : g.trap ≠ none := by rw [trap]; nofun
    refine ⟨fun h1 h4 hid named found whole => ?_, fun hport declared hf launch item fport arrived poisoned => ?_, fun low high life task => ?_, fun out => ?_⟩
    · have valid : (SysReg.barecnt l id).valid s g = true := by simp only [SysReg.valid, named]; rfl
      obtain ⟨done, -, traps⟩ := sysEvent_reach (v := v) issues (sysReg_barecnt h1 h4 hid) valid (.inr inside)
      obtain ⟨within, early, completes, busy⟩ := writeBarecnt_found (v := v) named found whole
      refine ⟨fun above low => ?_, fun enough parts => ?_, fun enough none => ?_, fun beyond above waits => ?_⟩
      · exact ⟨_, congrArg Host.Outcome.next (done _ (within above low)), find_setBarrier found _, setBarrier_groups_same found rfl⟩
      · exact ⟨_, congrArg Host.Outcome.next (done _ (early enough parts)), find_setBarrier found _, setBarrier_groups_same found rfl⟩
      · have phase : (Barrier.complete { b with expected := v.toNat } s.now).phase ≠ b.phase := by
          show b.phase + 1 ≠ b.phase
          bv_omega
        have groups := setBarrier_groups_woken found phase
        refine ⟨_, _, congrArg Host.Outcome.next (done _ (completes enough none)), find_setBarrier found _, rfl, rfl, rfl, ?_, fun j h m x hj life ok hx wait => ?_⟩
        · show List.map _ _ = _
          rw [groups, List.map_map]
          exact List.map_congr_left fun p _ => Prod.ext rfl (wakeBar_bare ..)
        · obtain ⟨y, hy, free, pc⟩ := wakeBar_wakes s.now life ok hx wait phase.symm
          refine ⟨_, y, ?_, hy, free, pc⟩
          rw [State.group?, groups, tget_map_values fun g : Group => g.wakeBar key _ s.now]
          exact congrArg _ hj
      · exact congrArg Host.Outcome.next (traps _ (busy beyond above waits))
    · obtain ⟨d, hd⟩ := declared
      have isDeclared : (s.portDecl g port).isSome = true := by rw [hd]; rfl
      refine ⟨?_, fun hlane => ?_⟩
      · have mem := mem_modPort (fun | .poisoned l => .arrived (.g l) | x => x) hf launch item fport arrived
        rw [poisoned] at mem
        exact ⟨_, congrArg Host.Outcome.next ((sysEvent_reach issues (sysReg_portstat hport) isDeclared (.inr inside)).1 _ rfl), mem, rfl⟩
      · have mem := mem_modPort (fun | .poisoned l => .poisoned (l.set lane v) | x => x) hf launch item fport arrived
        rw [poisoned] at mem
        exact ⟨_, congrArg Host.Outcome.next ((sysEvent_reach issues (sysReg_portlane hport hlane) isDeclared (.inr inside)).1 _ rfl), mem, rfl⟩
    · have write : SysReg.tkill.write s gid g v = .away (s.kill gid v.toNat tm.info.pc) := by
        refine (if_pos ⟨low, high⟩).trans ?_
        rw [trap]
        rfl
      refine ⟨_, congrArg Host.Outcome.next ((sysEvent_reach issues (n := 0x18) rfl rfl (.inr inside)).2.1 _ write), ?_⟩
      exact kill_killed _ _ issues.group (by rw [life]; nofun) task
    · have write : SysReg.tkill.write s gid g v = .done s := by
        refine if_neg fun within => ?_
        rcases out with rfl | out
        · exact absurd within.1 (by decide)
        · omega
      exact congrArg Host.Outcome.next ((sysEvent_reach issues (n := 0x18) rfl rfl (.inr inside)).1 _ write)

end Sys2Proof.Machine
end

section
/-! SUPPORT. What one access of memory leaves: its bytes (R102, R140, R141, R144), the TLB (R126), the count of a demotion (R166) and the record of a
release (R165). -/

namespace Sys2Proof.Machine

/-! ### Bytes -/

theorem leBytes_length (n : Nat) : ∀ v, (leBytes n v).length = n := by
  induction n with
  | zero => exact fun v => rfl
  | succ n ih => exact fun v => congrArg (· + 1) (ih _)

theorem leBytes_getD (n : Nat) : ∀ v j, j < n → (leBytes n v).getD j 0 = BitVec.ofNat 8 (v / 256 ^ j) := by
  induction n with
  | zero => nofun
  | succ n ih =>
    intro v j hj
    cases j with
    | zero => rw [leBytes, List.getD_cons_zero, Nat.pow_zero, Nat.div_one]
    | succ j => rw [leBytes, List.getD_cons_succ, ih _ _ (by omega), Nat.div_div_eq_div_mul, Nat.pow_succ']

theorem Mem.get_undefAll (n : Nat) (ks : List Nat) : ∀ {m : Mem}, m.wf = true → ∀ x, (m.undefAll n ks).get x = if x ∈ ks then Config.freeByte n x else m.get x := by
  induction ks with
  | nil => exact fun _ _ => (if_neg (by nofun)).symm
  | cons k ks ih =>
    intro m h x
    refine (ih (Mem.wf_undefine k 1 n h) x).trans ?_
    rw [Mem.get_undefine h]
    by_cases hx : x ∈ ks
    · rw [if_pos hx, if_pos (List.mem_cons_of_mem _ hx)]
    · by_cases e : x = k
      · rw [if_neg hx, if_pos (by omega), if_pos (by rw [e]; exact List.mem_cons_self)]
      · rw [if_neg hx, if_neg (by omega), if_neg (by rw [List.mem_cons]; exact fun h => h.elim e hx)]

theorem Mem.read_four (m : Mem) (a : Nat) : m.read a 4
    = (m.get (a + 0)).toNat + 256 * (m.get (a + 1)).toNat + 65536 * (m.get (a + 2)).toNat + 16777216 * (m.get (a + 3)).toNat := by
  simp only [Mem.read, Nat.add_zero, Nat.add_assoc, Nat.reduceAdd]
  omega

/-! ### Tables of records -/

theorem tgetD_map_values {α β : Type} (f : α → β) (t : Table α) (k : Nat) (d : α) {e : β} (h : f d = e) : tgetD k e (t.map fun p => (p.1, f p.2)) = f (tgetD k d t) := by
  rw [tgetD, tgetD, tget_map_values, ← h]
  cases tget k t <;> rfl

/-! ### The machine around an access -/

/-- `t` is `s` after an access has filled TLBs (R126). -/
structure Filled (s t : State) : Prop where
  rest : t = { s with cores := t.cores }
  cores : ∀ c, t.coreAt c = { s.coreAt c with tlb := (t.coreAt c).tlb }

theorem Filled.refl (s : State) : Filled s s := ⟨rfl, fun _ => rfl⟩

theorem Filled.trans {s t u : State} (h : Filled s t) (k : Filled t u) : Filled s u where
  rest := by
    have last := k.rest
    rw [h.rest] at last
    exact last
  cores c := by rw [k.cores c, h.cores c]

theorem tlbFill_filled (s : State) (core v va : Nat) : Filled s (s.tlbFill core v va) := by
  unfold State.tlbFill
  split
  · exact .refl s
  · split
    · exact .refl s
    · refine ⟨rfl, fun c => ?_⟩
      by_cases e : c = core
      · subst e
        rw [State.coreAt_setCore_self]
      · rw [State.coreAt_setCore_ne _ e]

theorem fillTlb_filled (s : State) (g : Group) (scratch : Bool) (xs : List LaneAt) : Filled s (fillTlb s g scratch xs) := by
  unfold fillTlb
  split
  · exact .refl s
  · have all (l : List LaneAt) : ∀ s : State, Filled s (l.foldl (fun s x => s.tlbFill g.core g.vf (va57 x.a)) s) := by
      induction l with
      | nil => exact .refl
      | cons x l ih => exact fun s => (tlbFill_filled ..).trans (ih _)
    exact all xs s

/-- `t` is `s` after stores to the accesses `xs` at most, as every group sees them: what `Stored` says, before the group's own record changes. -/
structure Writes (s t : State) (scratch : Bool) (size : Nat) (xs : List LaneAt) : Prop where
  rest : t = { s with
    mem := t.mem
    written := t.written
    lineCore := t.lineCore
    scratch := t.scratch
    bad := t.bad
    fresh := t.fresh
    groups := t.groups
    cores := t.cores
    copies := t.copies
    quads := t.quads
    vfs := t.vfs }
  bytes : ∀ a, (∀ x ∈ xs, apart a 1 x.key size) → (t.space scratch).get a = (s.space scratch).get a
  space : t.space (!scratch) = s.space (!scratch)
  errors : ∀ b ∈ t.bad, b ∈ s.bad
  groups : ∀ j, ∃ f : Group → Option Nat, t.group? j = (s.group? j).map (fun h => { h with reserv := f h }) ∧ ∀ h, f h = h.reserv ∨ f h = none
  copies : ∀ j, ∃ f : Copy → List Nat, tget j t.copies = (tget j s.copies).map fun c => { c with dirty := f c }
  quads : ∀ q, ∃ f : Prog → Prog, (∀ p, ∃ ops loads, f p = { p with ops := ops, loads := loads })
    ∧ t.quad q = { s.quad q with running := (s.quad q).running.map f, saved := (s.quad q).saved.map f }
  cores : ∀ c, t.coreAt c = { s.coreAt c with
    tlb := (t.coreAt c).tlb
    atomloc := (t.coreAt c).atomloc
    atomhome := (t.coreAt c).atomhome }

theorem same_copies (s : State) (j : Nat) : ∃ f : Copy → List Nat, tget j s.copies = (tget j s.copies).map fun c => { c with dirty := f c } :=
  ⟨Copy.dirty, by cases tget j s.copies <;> rfl⟩

theorem same_quads (s : State) (q : Nat) : ∃ f : Prog → Prog, (∀ p, ∃ ops loads, f p = { p with ops := ops, loads := loads })
    ∧ s.quad q = { s.quad q with running := (s.quad q).running.map f, saved := (s.quad q).saved.map f } :=
  ⟨id, fun p => ⟨p.ops, p.loads, rfl⟩, by rw [Option.map_id_fun, List.map_id]; rfl⟩

theorem same_groups (s : State) (j : Nat) : ∃ f : Group → Option Nat, s.group? j = (s.group? j).map (fun h => { h with reserv := f h }) ∧ ∀ h, f h = h.reserv ∨ f h = none :=
  ⟨Group.reserv, by cases s.group? j <;> rfl, fun _ => .inl rfl⟩

theorem Writes.refl (s : State) (scratch : Bool) (size : Nat) (xs : List LaneAt) : Writes s s scratch size xs :=
  ⟨rfl, fun _ _ => rfl, rfl, fun _ => id, same_groups s, same_copies s, same_quads s, fun _ => rfl⟩

theorem Writes.trans {s t u : State} {scratch : Bool} {size : Nat} {xs ys zs : List LaneAt} (h : Writes s t scratch size xs) (k : Writes t u scratch size ys)
    (hx : ∀ x ∈ xs, x ∈ zs) (hy : ∀ y ∈ ys, y ∈ zs) : Writes s u scratch size zs where
  rest := by
    have last := k.rest
    rw [h.rest] at last
    exact last
  bytes a away := (k.bytes a fun y m => away y (hy y m)).trans (h.bytes a fun x m => away x (hx x m))
  space := k.space.trans h.space
  errors b hb := h.errors b (k.errors b hb)
  groups j := by
    obtain ⟨f, ht, hf⟩ := h.groups j
    obtain ⟨f', hu, hf'⟩ := k.groups j
    refine ⟨fun x => f' { x with reserv := f x }, by rw [hu, ht, Option.map_map]; rfl, fun x => ?_⟩
    rcases hf' { x with reserv := f x } with e | e
    · exact (hf x).imp e.trans e.trans
    · exact .inr e
  copies j := by
    obtain ⟨f, ht⟩ := h.copies j
    obtain ⟨f', hu⟩ := k.copies j
    exact ⟨fun c => f' { c with dirty := f c }, by rw [hu, ht, Option.map_map]; rfl⟩
  quads q := by
    obtain ⟨f, hf, ht⟩ := h.quads q
    obtain ⟨f', hf', hu⟩ := k.quads q
    refine ⟨f' ∘ f, fun p => ?_, ?_⟩
    · obtain ⟨ops, loads, e⟩ := hf p
      obtain ⟨ops', loads', e'⟩ := hf' (f p)
      exact ⟨ops', loads', by rw [Function.comp, e', e]⟩
    · rw [hu, ht, Option.map_map, List.map_map]
  cores c := by rw [k.cores c, h.cores c]

theorem Writes.of_filled {s t : State} (h : Filled s t) (scratch : Bool) (size : Nat) (xs : List LaneAt) : Writes s t scratch size xs := by
  have cores := h.cores
  rw [h.rest] at cores ⊢
  exact ⟨rfl, fun _ _ => rfl, rfl, fun _ => id, same_groups s, same_copies s, same_quads s, fun c => by rw [cores c]⟩

/-- A change of the demotion counts and of the records of releases alone. -/
theorem Writes.of_counts {s t : State} (h : t = { s with vfs := t.vfs, lineCore := t.lineCore }) (scratch : Bool) (size : Nat) (xs : List LaneAt) :
    Writes s t scratch size xs := by
  rw [h]
  exact ⟨rfl, fun _ _ => rfl, rfl, fun _ => id, same_groups s, same_copies s, same_quads s, fun _ => rfl⟩

/-! ### Stores -/

/-- A group's reservation after `n` bytes at `a` were stored (R144). -/
def Group.cleared (h : Group) (a n : Nat) : Option Nat := h.reserv.filter fun l => !(decide (a / 128 ≤ l) && decide (l ≤ (a + n - 1) / 128))

theorem clearLines_group (s : State) (a n j : Nat) : (s.clearLines a n).group? j = (s.group? j).map fun h => { h with reserv := h.cleared a n } := by
  refine Eq.trans ?_ (tget_map_values (fun h : Group => { h with reserv := h.cleared a n }) s.groups j)
  refine congrArg (tget j) (List.map_congr_left fun p _ => ?_)
  obtain ⟨i, h⟩ := p
  cases hr : h.reserv with
  | none => simp only [hr, Group.cleared, Option.filter_none]; rw [← hr]
  | some l =>
    by_cases hit : a / 128 ≤ l ∧ l ≤ (a + n - 1) / 128
    · simp only [hr, Group.cleared, if_pos hit]
      rw [Option.filter_some, if_neg (by simp [hit])]
    · simp only [hr, Group.cleared, if_neg hit]
      rw [Option.filter_some, if_pos (by simp only [Bool.not_eq_true', Bool.and_eq_false_iff, decide_eq_false_iff_not]; omega), ← hr]

theorem cleared_cases (a n : Nat) (h : Group) : h.cleared a n = h.reserv ∨ h.cleared a n = none := by
  unfold Group.cleared
  cases h.reserv with
  | none => exact .inr rfl
  | some l =>
    rw [Option.filter_some]
    split
    · exact .inl rfl
    · exact .inr rfl

/-- What a store of bytes to global memory changes. -/
theorem storeMem_eq (s : State) (key : Nat) (bs : List Byte) : s.storeMem key bs = { s with
    groups := if bs.isEmpty then s.groups else (s.clearLines key bs.length).groups
    written := s.wordsBefore key bs.length ++ s.written
    mem := (s.mem.putAll key bs).undefAll s.fresh (s.inCopy false key bs.length)
    bad := s.bad.filter fun x => x < key || key + bs.length ≤ x
    copies := s.copies.map fun c => (c.1, c.2.touch false true key bs.length)
    quads := s.quads.map fun q => (q.1, q.2.touch key bs.length) } := by
  cases bs <;> rfl

theorem storeMem_group {bs : List Byte} (some' : bs ≠ []) (s : State) (key j : Nat) :
    (s.storeMem key bs).group? j = (s.group? j).map fun h => { h with reserv := h.cleared key bs.length } := by
  rw [storeMem_eq, State.group?, if_neg (by simpa using some')]
  exact clearLines_group ..

/-- What a store of a value to a scratchpad changes. -/
theorem writeScratch_eq (s : State) (key size v : Nat) : s.writeScratch key size v = { s with
    scratch := ((s.scratch.putAll key (leBytes size v)).undefAll s.fresh (s.inCopy true key size)).undefAll s.fresh (s.engineBytes key size)
    copies := s.copies.map fun c => (c.1, c.2.touch true true key size) } := by
  unfold State.writeScratch State.storeScratch
  rw [leBytes_length]
  cases s.engineBytes key size <;> rfl

theorem touch_copies (s : State) (scratch both : Bool) (key n j : Nat) :
    ∃ f : Copy → List Nat, tget j (s.copies.map fun c => (c.1, c.2.touch scratch both key n)) = (tget j s.copies).map fun c => { c with dirty := f c } :=
  ⟨fun c => (c.touch scratch both key n).dirty, tget_map_values (fun c : Copy => c.touch scratch both key n) s.copies j⟩

theorem touch_quads (s : State) (key n q : Nat) : ∃ f : Prog → Prog, (∀ p, ∃ ops loads, f p = { p with ops := ops, loads := loads })
    ∧ tgetD q {} (s.quads.map fun q => (q.1, q.2.touch key n)) = { s.quad q with running := (s.quad q).running.map f, saved := (s.quad q).saved.map f } :=
  ⟨fun p => { p with
      ops := p.ops.map fun o => (o.1, o.2.touch key n)
      loads := p.loads.map fun x => if overlap x.1 256 key n then (x.1, x.2.1, x.2.2 ++ bytesHit x.1 key n) else x },
    fun _ => ⟨_, _, rfl⟩, tgetD_map_values (fun q : Quad => q.touch key n) s.quads q {} rfl⟩

theorem inCopy_within {s : State} {scratch : Bool} {key n x : Nat} (h : x ∈ s.inCopy scratch key n) : key ≤ x ∧ x < key + n := by
  obtain ⟨c, -, hx⟩ := List.mem_flatMap.1 h
  split at hx
  · obtain ⟨y, hy, rfl⟩ := List.mem_filterMap.1 hx
    have hit := (List.mem_filter.1 hy).2
    simpa [keyHit] using hit
  · cases hx

theorem engineBytes_within {s : State} {key n x : Nat} (h : x ∈ s.engineBytes key n) : key ≤ x ∧ x < key + n := by
  obtain ⟨j, hj, rfl⟩ := List.mem_map.1 (List.mem_filter.1 h).1
  have := List.mem_range.1 hj
  omega

theorem claimed_within {s : State} {scratch : Bool} {key n x : Nat} (h : x ∈ s.claimed scratch key n) : key ≤ x ∧ x < key + n := by
  rcases List.mem_append.1 h with hx | hx
  · exact inCopy_within hx
  · split at hx
    · exact engineBytes_within hx
    · cases hx

/-- A byte of a range is claimed as it is alone. -/
theorem claimed_alone {s : State} {scratch : Bool} {key n x : Nat} (h : x ∈ s.claimed scratch key n) : x ∈ s.claimed scratch x 1 := by
  rcases List.mem_append.1 h with hx | hx
  · refine List.mem_append_left _ ?_
    obtain ⟨c, hc, hx⟩ := List.mem_flatMap.1 hx
    refine List.mem_flatMap.2 ⟨c, hc, ?_⟩
    split at hx
    · next here =>
      rw [if_pos here]
      obtain ⟨y, hy, rfl⟩ := List.mem_filterMap.1 hx
      exact List.mem_filterMap.2 ⟨some x, List.mem_filter.2 ⟨(List.mem_filter.1 hy).1, by simp [keyHit]⟩, rfl⟩
    · cases hx
  · refine List.mem_append_right _ ?_
    split at hx
    · next here =>
      rw [if_pos here]
      exact List.mem_filter.2 ⟨List.mem_map.2 ⟨0, List.mem_range.2 Nat.one_pos, rfl⟩, (List.mem_filter.1 hx).2⟩
    · cases hx

theorem writeAt_space {s : State} (inv : s.Inv) (scratch : Bool) (size : Nat) (x : LaneAt) (v a : Nat) :
    ((writeAt s scratch size x v).space scratch).get a = if a ∈ s.claimed scratch x.key size then Config.freeByte s.fresh a
      else if x.key ≤ a ∧ a < x.key + size then BitVec.ofNat 8 (v / 256 ^ (a - x.key)) else (s.space scratch).get a := by
  have put {m : Mem} (wf : m.wf = true) : (m.putAll x.key (leBytes size v)).get a
      = if x.key ≤ a ∧ a < x.key + size then BitVec.ofNat 8 (v / 256 ^ (a - x.key)) else m.get a := by
    rw [Mem.get_putAll _ wf, leBytes_length]
    split
    · exact leBytes_getD _ _ _ (by omega)
    · rfl
  cases scratch with
  | false =>
    rw [writeAt, if_neg Bool.false_ne_true, storeMem_eq, leBytes_length]
    show ((s.mem.putAll x.key (leBytes size v)).undefAll s.fresh (s.inCopy false x.key size)).get a = _
    rw [Mem.get_undefAll _ _ (Mem.wf_putAll _ (State.Inv.mem_wf inv)), put (State.Inv.mem_wf inv), show s.claimed false x.key size = s.inCopy false x.key size from List.append_nil _]
    rfl
  | true =>
    rw [writeAt, if_pos rfl, writeScratch_eq]
    show (((s.scratch.putAll x.key (leBytes size v)).undefAll s.fresh (s.inCopy true x.key size)).undefAll s.fresh (s.engineBytes x.key size)).get a
      = if a ∈ s.inCopy true x.key size ++ s.engineBytes x.key size then Config.freeByte s.fresh a
        else if x.key ≤ a ∧ a < x.key + size then BitVec.ofNat 8 (v / 256 ^ (a - x.key)) else s.scratch.get a
    rw [Mem.get_undefAll _ _ (Mem.wf_undefAll _ _ (Mem.wf_putAll _ (State.Inv.scratch_wf inv))), Mem.get_undefAll _ _ (Mem.wf_putAll _ (State.Inv.scratch_wf inv)),
      put (State.Inv.scratch_wf inv)]
    by_cases e : a ∈ s.engineBytes x.key size
    · rw [if_pos e, if_pos (List.mem_append_right _ e)]
    · by_cases c : a ∈ s.inCopy true x.key size
      · rw [if_neg e, if_pos c, if_pos (List.mem_append_left _ c)]
      · rw [if_neg e, if_neg c, if_neg fun h => (List.mem_append.1 h).elim c e]

/-- Every byte stored that none claims. -/
theorem writeAt_byte {s : State} (inv : s.Inv) (scratch : Bool) {size : Nat} (x : LaneAt) (v : Nat) {j : Nat} (hj : j < size)
    (free : s.unclaimed scratch (x.key + j) 1) : ((writeAt s scratch size x v).space scratch).get (x.key + j) = BitVec.ofNat 8 (v / 256 ^ j) := by
  rw [writeAt_space inv, if_neg fun claimed => ?_, if_pos (by omega), Nat.add_sub_cancel_left]
  have alone := claimed_alone claimed
  rw [show s.claimed scratch (x.key + j) 1 = [] from free] at alone
  cases alone

theorem writeAt_writes {s : State} (inv : s.Inv) (scratch : Bool) (size : Nat) (x : LaneAt) (v : Nat) : Writes s (writeAt s scratch size x v) scratch size [x] := by
  have bytes (a : Nat) (away : ∀ y ∈ [x], apart a 1 y.key size) : ((writeAt s scratch size x v).space scratch).get a = (s.space scratch).get a := by
    have apart' := away x List.mem_cons_self
    unfold apart at apart'
    rw [writeAt_space inv, if_neg fun claimed => ?_, if_neg (by omega)]
    have := claimed_within claimed
    omega
  cases scratch with
  | false =>
    have groups (j : Nat) : ∃ f : Group → Option Nat, (writeAt s false size x v).group? j = (s.group? j).map (fun h => { h with reserv := f h })
        ∧ ∀ h, f h = h.reserv ∨ f h = none := by
      by_cases none : leBytes size v = []
      · obtain ⟨f, hf⟩ := same_groups s j
        refine ⟨f, Eq.trans ?_ hf.1, hf.2⟩
        rw [writeAt, if_neg Bool.false_ne_true, storeMem_eq, none]
        rfl
      · exact ⟨_, storeMem_group none s x.key j, cleared_cases _ _⟩
    have stored : writeAt s false size x v = s.storeMem x.key (leBytes size v) := if_neg Bool.false_ne_true
    rw [stored] at bytes groups ⊢
    rw [storeMem_eq] at bytes groups ⊢
    exact ⟨rfl, bytes, rfl, fun b hb => (List.mem_filter.1 hb).1, groups, touch_copies s _ _ _ _, touch_quads s _ _, fun _ => rfl⟩
  | true =>
    have stored : writeAt s true size x v = s.writeScratch x.key size v := if_pos rfl
    rw [stored] at bytes ⊢
    rw [writeScratch_eq] at bytes ⊢
    exact ⟨rfl, bytes, rfl, fun b hb => hb, same_groups s, touch_copies s _ _ _ _, same_quads s, fun _ => rfl⟩

/-! ### The end of an access -/

/-- What an instruction that has stored leaves once its group's own record has changed by `f` and its split has gone on. -/
theorem Writes.completes {s t : State} {gid k : Nat} {g : Group} {sp sp' : Split} {i : Instr} {scratch : Bool} {size : Nat} {xs : List LaneAt}
    (w : Writes s t scratch size xs) (hg : s.group? gid = some g) (f : Group → Group) (commutes : ∀ r, f { g with reserv := r } = { f g with reserv := r })
    (keeps : (f g).reserv = g.reserv) (hs : tget k (f g).splits = some sp') (hf : (f g).stepped k = false) (hq : (f g).noStep) (g₀ : Group) (s₀ : State) :
    ∃ u, (groupCtx gid k g₀ sp i).settle i s₀ (.done (t.modGroup gid f)) = .next u ∧ Stored s u gid (((f g).keeps i).goesOn k (sp.after i) s.now) scratch size xs
      ∧ u = { t with groups := u.groups } := by
  obtain ⟨clear, ht, cases⟩ := w.groups gid
  rw [hg, Option.map_some] at ht
  have only := (OnlyGroup.refl ht).modGroup f
  rw [commutes] at only
  obtain ⟨u, run, done⟩ := settle_goto' (g := g₀) (sp := sp) (i := i) only (sp' := sp') hs hf hq (sp.after i)
  have now : t.now = s.now := by rw [w.rest]
  rw [now] at done
  have rest := done.rest
  refine ⟨u, run, ⟨?_, fun a away => ?_, ?_, fun b hb => ?_, ⟨clear g, done.group, ?_⟩, fun j hj => ?_, fun j => ?_, fun q => ?_, fun c => ?_⟩, rest⟩
  · have last := rest
    rw [w.rest] at last
    rw [last]
  · rw [← w.bytes a away, rest]
    rfl
  · rw [← w.space, rest]
    rfl
  · rw [rest] at hb
    exact w.errors b hb
  · exact (cases g).imp_left fun e => e.trans keeps.symm
  · obtain ⟨f', hf', cases'⟩ := w.groups j
    exact ⟨f', (done.others j hj).trans hf', cases'⟩
  · rw [rest]
    exact w.copies j
  · rw [rest]
    exact w.quads q
  · rw [rest]
    exact w.cores c

/-- A change of the group's own record before the access. -/
theorem Stored.of_base {s s' t : State} {gid : Nat} {g : Group} {scratch : Bool} {size : Nat} {xs : List LaneAt} (h : Stored s' t gid g scratch size xs)
    (rest : s' = { s with groups := s'.groups }) (others : ∀ j, j ≠ gid → s'.group? j = s.group? j) : Stored s t gid g scratch size xs := by
  obtain ⟨trest, bytes, space, errors, group, tothers, copies, quads, cores⟩ := h
  rw [rest] at trest bytes space errors copies quads cores
  refine ⟨trest, bytes, space, errors, group, fun j hj => ?_, copies, quads, cores⟩
  obtain ⟨f, hf, cases⟩ := tothers j hj
  exact ⟨f, hf.trans (by rw [others j hj]), cases⟩

/-- An instruction that changed TLBs and its group. -/
theorem Filled.loaded {s t u : State} {gid : Nat} {g : Group} (h : Filled s t) (k : OnlyGroup t u gid g) : Loaded s u gid g := by
  have rest := k.rest
  have groups : t.groups = s.groups := by rw [h.rest]
  refine ⟨?_, k.group, fun j hj => (k.others j hj).trans (congrArg (tget j) groups), fun c => ?_⟩
  · have last := rest
    rw [h.rest] at last
    rw [last]
  · rw [rest]
    exact h.cores c

/-! ### Orderings -/

theorem Demoted.congr {s t : State} {v : Nat} {p q : Prop} (h : Demoted s t v p) (same : p ↔ q) : Demoted s t v q := by
  obtain ⟨others, yes, no⟩ := h
  exact ⟨others, fun hq => yes (same.2 hq), fun hq => no fun hp => hq (same.1 hp)⟩

/-- `t` is `s` after the ordering of an instruction of VF `v` at issue, demoted or not (R166). -/
structure Ordered (s t : State) (v : Nat) (demoted : Prop) : Prop where
  rest : t = { s with vfs := t.vfs }
  count : Demoted s t v demoted
  allowed : ∀ w sc, t.allowed w sc = s.allowed w sc

theorem Ordered.none {s : State} {v : Nat} {demoted : Prop} (h : ¬ demoted) : Ordered s s v demoted :=
  ⟨rfl, ⟨fun _ _ => rfl, fun d => absurd d h, fun _ => rfl⟩, fun _ _ => rfl⟩

theorem demote_ordered (s : State) (v : Nat) (sc : Scope) : Ordered s (s.demote v sc) v (s.allowed v sc ≠ sc) := by
  unfold State.demote
  split
  · next same => exact .none (fun h => h same)
  · next wider =>
    have self : ({ s with vfs := tset v { s.vf v with demote := (s.vf v).demote + 1 } s.vfs } : State).vf v = { s.vf v with demote := (s.vf v).demote + 1 } :=
      State.vf_setVf_self (s := s) ..
    have other (w : Nat) (hw : w ≠ v) : ({ s with vfs := tset v { s.vf v with demote := (s.vf v).demote + 1 } s.vfs } : State).vf w = s.vf w :=
      State.vf_setVf_ne (s := s) hw ..
    refine ⟨rfl, ⟨other, fun _ => self, fun no => absurd wider no⟩, fun w sc' => ?_⟩
    unfold State.allowed
    by_cases e : w = v
    · subst e
      rw [self]
      rfl
    · rw [other w e]
      rfl

theorem order_done {s : State} {gid k : Nat} {g : Group} {sp : Split} {i : Instr} {ord : Ord4} {sc : Scope} (h : s.mayOrder gid g ord sc) :
    (groupCtx gid k g sp i).order ord sc s = .ok (s.demote g.vf sc) := by
  obtain ⟨release, acquire⟩ := h
  have rel : ((ord.isRel && s.allowed g.vf sc == .pod) && !s.podReady g.vf gid) = false := by
    by_cases r : ord.isRel = true ∧ s.allowed g.vf sc = .pod
    · rw [release r.1 r.2]
      exact Bool.and_false _
    · rw [Bool.eq_false_iff]
      intro both
      obtain ⟨both, -⟩ := Bool.and_eq_true_iff.1 both
      obtain ⟨isRel, pod⟩ := Bool.and_eq_true_iff.1 both
      exact r ⟨isRel, eq_of_beq pod⟩
  have late : (ord.isAcq && s.rops.any fun r => r.2.vf == g.vf && !r.2.applied && r.2.lane.kind == 2) = false := by
    rw [Bool.eq_false_iff]
    intro both
    obtain ⟨isAcq, some'⟩ := Bool.and_eq_true_iff.1 both
    obtain ⟨r, hr, waits⟩ := List.any_eq_true.1 some'
    obtain ⟨waits, kind⟩ := Bool.and_eq_true_iff.1 waits
    obtain ⟨vf, open'⟩ := Bool.and_eq_true_iff.1 waits
    rw [acquire isAcq r hr (eq_of_beq vf) (eq_of_beq kind)] at open'
    cases open'
  simp only [Ctx.order, groupCtx_who, groupCtx_g, rel, late, Bool.false_eq_true, if_false]

/-- The ordering of a scalar access; of a scratchpad's, one wider than quad acts at quad. -/
theorem umOrder_done {s : State} {gid k : Nat} {g : Group} {sp : Split} {i : Instr} {o : UmOp} {scratch atomic : Bool}
    (h : o.ord ≠ .none ∨ atomic = true → s.mayOrder gid g o.ord (if scratch && o.scope != .core && o.scope != .quad then .quad else o.scope)) :
    ∃ t, umOrder (groupCtx gid k g sp i) o scratch atomic s = .ok t
      ∧ Ordered s t g.vf (((o.ord ≠ .none ∨ atomic = true) ∧ (scratch = false ∨ o.scope = .core ∨ o.scope = .quad)) ∧ s.allowed g.vf o.scope ≠ o.scope) := by
  unfold umOrder
  by_cases plain : o.ord = .none ∧ atomic = false
  · obtain ⟨none, no⟩ := plain
    rw [if_pos (by rw [none, no]; rfl)]
    exact ⟨s, rfl, .none fun d => d.1.1.elim (fun h => h none) (by rw [no]; nofun)⟩
  · have orders : o.ord ≠ .none ∨ atomic = true := by
      by_cases none : o.ord = .none
      · exact .inr (Bool.not_eq_false _ ▸ fun no => plain ⟨none, no⟩)
      · exact .inl none
    rw [if_neg fun both => plain ⟨of_decide_eq_true (Bool.and_eq_true_iff.1 both).1, by simpa using (Bool.and_eq_true_iff.1 both).2⟩]
    by_cases narrow : scratch = false ∨ o.scope = .core ∨ o.scope = .quad
    · have scope : (scratch && o.scope != .core && o.scope != .quad) = false := by
        rcases narrow with e | e | e <;> rw [e]
        · rfl
        · rw [show (Scope.core != Scope.core) = false from rfl, Bool.and_false, Bool.false_and]
        · rw [show (Scope.quad != Scope.quad) = false from rfl, Bool.and_false]
      have own := h orders
      rw [scope, if_neg Bool.false_ne_true] at own
      refine ⟨_, (if_neg fun wide => ?_).trans (order_done own), ?_⟩
      · obtain ⟨yes, wide⟩ := Bool.and_eq_true_iff.1 wide
        rcases narrow with e | e | e
        · rw [e] at yes; cases yes
        · rw [e] at wide; exact absurd (of_decide_eq_true wide) (by decide)
        · rw [e] at wide; exact absurd (of_decide_eq_true wide) (by decide)
      · have ordered := demote_ordered s g.vf o.scope
        exact ⟨ordered.rest, ordered.count.congr ⟨fun d => ⟨⟨orders, narrow⟩, d⟩, And.right⟩, ordered.allowed⟩
    · have wide : scratch = true ∧ o.scope ≠ .core ∧ o.scope ≠ .quad :=
        ⟨by simpa using fun no => narrow (.inl no), fun e => narrow (.inr (.inl e)), fun e => narrow (.inr (.inr e))⟩
      obtain ⟨yes, core, quad⟩ := wide
      have atQuad := h orders
      rw [show (scratch && o.scope != .core && o.scope != .quad) = true by simp [yes, core, quad], if_pos rfl] at atQuad
      refine ⟨s, (if_pos ?_).trans ?_, .none fun d => narrow d.1.2⟩
      · rw [yes, Bool.true_and, decide_eq_true_eq]
        cases hs : o.scope with
        | core => exact absurd hs core
        | quad => exact absurd hs quad
        | die => decide
        | pkg => decide
        | pod => decide
      · rw [order_done atQuad]
        rfl

/-! ### Accesses that reach their places -/

theorem Reaches.watch {s : State} {gid k : Nat} {g : Group} {sp : Split} {i : Instr} {scratch : Bool} {size : Nat} {need : Need} {rd wr : Bool}
    {addrs : List (Nat × DWord)} {xs : List LaneAt} (reach : Reaches s g scratch size need rd wr addrs xs) : watchAct (groupCtx gid k g sp i) rd wr size xs = none := by
  unfold watchAct
  rw [groupCtx_seq, groupCtx_g, Bool.false_or]
  rcases reach.quiet with inside | quiet
  · exact if_pos inside
  · split
    · rfl
    · rw [List.findSome?_eq_none_iff]
      intro x hx
      rw [quiet x hx]
      rfl

theorem Reaches.error {s : State} {gid k : Nat} {g : Group} {sp : Split} {i : Instr} {scratch : Bool} {size : Nat} {need : Need} {wr : Bool}
    {addrs : List (Nat × DWord)} {xs : List LaneAt} (reach : Reaches s g scratch size need true wr addrs xs) : uceAct (groupCtx gid k g sp i) s size scratch xs = none := by
  unfold uceAct
  split
  · rfl
  · next global =>
    have sound := (reach.sound.resolve_left global).resolve_left (by decide)
    rw [List.find?_eq_none.2 fun x hx => by rw [sound x hx]; simp]
    rfl

theorem Reaches.far {s : State} {g : Group} {scratch : Bool} {size : Nat} {need : Need} {rd wr : Bool} {addrs : List (Nat × DWord)} {xs : List LaneAt}
    (reach : Reaches s g scratch size need rd wr addrs xs) : xs.filter LaneAt.remote = [] ∧ (xs.filter fun x => !x.remote) = xs :=
  ⟨List.filter_eq_nil_iff.2 fun x hx => by rw [reach.here x hx]; decide, List.filter_eq_self.2 fun x hx => by rw [reach.here x hx]; rfl⟩

/-! ### Scalar accesses -/

/-- The common path of a scalar access that reaches its place. -/
theorem umAccess_reaches {s t : State} {gid k : Nat} {g : Group} {sp : Split} {i : Instr} {o : UmOp} {scratch atomic : Bool} {size : Nat} {need : Need}
    {rd wr : Bool} {x : LaneAt} (f : LaneAt → State → Act) (mask : sp.mask ≠ 0) (order : umOrder (groupCtx gid k g sp i) o scratch atomic s = .ok t)
    (passes : scratch = false → s.behind g.vf ((o.ord != .none || atomic) && s.allowed g.vf o.scope == .pod) wr [x.home] = false)
    (reach : Reaches s g scratch size need rd wr [(127, g.umAt sp o size)] [x]) :
    umAccess o scratch atomic size need rd wr f (groupCtx gid k g sp i) s = f x (fillTlb t g scratch [x]) := by
  have checked : laneChecks s (groupCtx gid k g sp i).g scratch size need [(127, umAddr (groupCtx gid k g sp i) o size)] = .ok [x] := by
    rw [umAddr_eq]
    exact reach.checks
  have watch := reach.watch (gid := gid) (k := k) (sp := sp) (i := i)
  have error : (if rd then uceAct (groupCtx gid k g sp i) s size scratch [x] else none) = none := by
    cases rd with
    | true => exact reach.error
    | false => rfl
  have masked : (atomic && sp.mask != 0) = atomic := by
    rw [show (sp.mask != 0) = true from bne_iff_ne.2 mask, Bool.and_true]
  unfold umAccess
  simp only [groupCtx_mask, masked, order, if_neg mask, checked, watch, error, Option.getD_none]
  have pass : (!scratch && s.behind g.vf ((groupCtx gid k g sp i).strong o.ord o.scope atomic s) wr [x.home]) = false := by
    cases scratch with
    | true => rfl
    | false => exact passes rfl
  refine (if_neg (by rw [groupCtx_seq]; nofun)).trans ((if_neg fun shut => ?_).trans ?_)
  · exact absurd (pass.symm.trans shut) (by decide)
  · refine congrArg (f · _) ?_
    rw [groupCtx_seq, Bool.not_false, Bool.and_true]

/-- With no active lane it is a fence of its ordering. -/
theorem umAccess_idle {s t : State} {gid k : Nat} {g : Group} {sp : Split} {i : Instr} {o : UmOp} {scratch atomic : Bool} {size : Nat} {need : Need}
    {rd wr : Bool} (f : LaneAt → State → Act) (mask : sp.mask = 0) (order : umOrder (groupCtx gid k g sp i) o scratch false s = .ok t) :
    umAccess o scratch atomic size need rd wr f (groupCtx gid k g sp i) s = .done t := by
  have masked : (atomic && sp.mask != 0) = false := by
    rw [mask]
    exact Bool.and_false _
  unfold umAccess
  simp only [groupCtx_mask, masked, order]
  exact if_pos mask

end Sys2Proof.Machine
end

section
/-! OBLIGATIONS. The scalar accesses (R14, R78, R102, R165, R166, R326, R335, R336, R354, R355). -/

namespace Sys2Proof.Machine

theorem Demoted.of_vfs {s t u : State} {v : Nat} {p : Prop} (h : Demoted s t v p) (vfs : u.vfs = t.vfs) : Demoted s u v p := by
  have same (w : Nat) : u.vf w = t.vf w := by rw [State.vf, vfs, State.vf]
  obtain ⟨others, yes, no⟩ := h
  exact ⟨fun w hw => (same w).trans (others w hw), fun hp => (same v).trans (yes hp), fun hp => (same v).trans (no hp)⟩

theorem Uncounted.of_filled {s t t' u : State} (same : t.cores = s.cores) (h : Filled t t') (cores : u.cores = t'.cores) (fresh : u.fresh = s.fresh) :
    Uncounted s u := by
  refine ⟨fresh, fun c => ?_⟩
  have core : u.coreAt c = { s.coreAt c with tlb := (t'.coreAt c).tlb } := by
    rw [show s.coreAt c = t.coreAt c by rw [State.coreAt, ← same, State.coreAt], ← h.cores c, State.coreAt, cores, State.coreAt]
  rw [core]
  exact ⟨rfl, rfl⟩

theorem allowed_congr {s t : State} (vfs : t.vfs = s.vfs) (pkgs : t.pkgs = s.pkgs) (v : Nat) (sc : Scope) : t.allowed v sc = s.allowed v sc := by
  unfold State.allowed State.vf State.pkg
  rw [vfs, pkgs]

theorem writeAt_frame (s : State) (scratch : Bool) (size : Nat) (x : LaneAt) (v : Nat) :
    (writeAt s scratch size x v).vfs = s.vfs ∧ (writeAt s scratch size x v).pkgs = s.pkgs ∧ (writeAt s scratch size x v).lineCore = s.lineCore
      ∧ (writeAt s scratch size x v).cores = s.cores ∧ (writeAt s scratch size x v).fresh = s.fresh := by
  cases scratch with
  | false =>
    rw [writeAt, if_neg Bool.false_ne_true, storeMem_eq]
    exact ⟨rfl, rfl, rfl, rfl, rfl⟩
  | true =>
    rw [writeAt, if_pos rfl, writeScratch_eq]
    exact ⟨rfl, rfl, rfl, rfl, rfl⟩

/-- The record of a core-scope release at the home slice (R165). -/
theorem noteRelease_recorded {s t : State} {gid k : Nat} {g : Group} {sp : Split} {i : Instr} {ord : Ord4} {sc : Scope} (wrote : Bool) (key : Nat)
    (lines : t.lineCore = s.lineCore) (allowed : t.allowed g.vf sc = s.allowed g.vf sc) :
    let u := (groupCtx gid k g sp i).noteRelease ord sc wrote key t
    u = { t with lineCore := u.lineCore } ∧ Recorded s u g (wrote = true ∧ ord.isRel = true ∧ s.allowed g.vf sc = .core) [key] := by
  intro u
  have release : (wrote && (groupCtx gid k g sp i).coreRelease ord sc t) = true ↔ wrote = true ∧ ord.isRel = true ∧ s.allowed g.vf sc = .core := by
    rw [← allowed, Bool.and_eq_true_iff]
    refine and_congr_right fun _ => ?_
    show (!false && ord.isRel && t.allowed g.vf sc == .core) = true ↔ _
    rw [Bool.and_eq_true_iff, Bool.not_false, Bool.true_and]
    exact and_congr_right fun _ => beq_iff_eq
  by_cases released : wrote = true ∧ ord.isRel = true ∧ s.allowed g.vf sc = .core
  · have run : u = { t with lineCore := tset (key / 128) g.core t.lineCore } := if_pos (release.2 released)
    rw [run]
    refine ⟨rfl, fun no => absurd released no, fun _ a => ?_⟩
    show tget a (tset (key / 128) g.core t.lineCore) = _
    rw [tget_tset, lines]
    exact if_congr (by rw [List.map_singleton, List.mem_singleton]) rfl rfl
  · have run : u = t := if_neg fun yes => released (release.1 yes)
    rw [run]
    exact ⟨rfl, fun _ => lines, fun yes => absurd yes released⟩

theorem exec_scalLoad (s : State) (o : UmOp) (scratch : Bool) : exec (if scratch then .slds o else .sld o) s
    = issue (if scratch then .slds o else .sld o) s (scalLoad scratch o) := by
  cases scratch <;> rfl

theorem exec_scalStore (s : State) (o : UmOp) (scratch : Bool) : exec (if scratch then .ssts o else .sst o) s
    = issue (if scratch then .ssts o else .sst o) s (scalStore scratch o) := by
  cases scratch <;> rfl

/-- A load of a register's worth of bytes that a program may read. -/
theorem readAt_space {s : State} {scratch : Bool} {size : Nat} {x : LaneAt} (turn : scratch = false ∨ s.emptyBytes x.key size = []) :
    readAt s scratch size x = (s.space scratch).read x.key size := by
  cases scratch with
  | false => rfl
  | true => exact readScratch_plain (turn.resolve_left (by decide))

/-- `u` is `s` when an access is made: its ordering may have counted a demotion, and its checks have filled TLBs. -/
def Around (s u : State) : Prop := u = { s with vfs := u.vfs, cores := u.cores }

theorem Ordered.around {s t u : State} {v : Nat} {p : Prop} (h : Ordered s t v p) (k : Filled t u) : Around s u := by
  have last := k.rest
  rw [h.rest] at last
  unfold Around
  rw [last]

theorem Around.readAt {s u : State} (h : Around s u) (scratch : Bool) (size : Nat) (x : LaneAt) : readAt u scratch size x = readAt s scratch size x := by
  rw [show u = _ from h]
  rfl

theorem Around.group {s u : State} (h : Around s u) {gid : Nat} : u.group? gid = s.group? gid := by
  rw [show u = _ from h]
  rfl

theorem Around.inv {s u : State} (h : Around s u) (inv : s.Inv) : u.Inv := by
  rw [show u = _ from h]
  exact inv

theorem Around.unclaimed {s u : State} (h : Around s u) {scratch : Bool} {key n : Nat} (free : s.unclaimed scratch key n) : u.unclaimed scratch key n := by
  rw [show u = _ from h]
  exact free

/-- The group after a load of `v` to sd, whose write is pending (R78). -/
def Group.afterLoad (k sd : Nat) (w64 : Bool) (v : Nat) (g : Group) : Group :=
  if w64 then { g.setPair k sd (BitVec.ofNat 64 v) with busy := (g.setPair k sd (BitVec.ofNat 64 v)).busy ++ [scalarRef k sd, scalarRef k (sd + 1)] }
  else { g.setS k sd (BitVec.ofNat 32 v) with busy := (g.setS k sd (BitVec.ofNat 32 v)).busy ++ [scalarRef k sd] }

theorem loadS_eq (gid k : Nat) (g : Group) (sp : Split) (i : Instr) (sd : Nat) (w64 : Bool) (v : Nat) (t : State) :
    (groupCtx gid k g sp i).loadS sd w64 v t = t.modGroup gid (Group.afterLoad k sd w64 v) := by
  cases w64 with
  | false =>
    show (t.modGroup gid _).modGroup gid _ = _
    rw [State.modGroup, State.modGroup_groups, tmod_tmod]
    rfl
  | true =>
    show ((t.modGroup gid _).modGroup gid _).modGroup gid _ = _
    rw [State.modGroup, State.modGroup_groups, State.modGroup_groups, tmod_tmod, tmod_tmod]
    rfl

theorem Group.setS_reserv (g : Group) (k n : Nat) (x : Word) (r : Option Nat) : { g with reserv := r }.setS k n x = { g.setS k n x with reserv := r } := by
  unfold Group.setS
  split <;> rfl

theorem Group.reserv_setS (g : Group) (k n : Nat) (x : Word) : (g.setS k n x).reserv = g.reserv := by
  unfold Group.setS
  split <;> rfl

theorem Group.afterLoad_commutes (g : Group) (k sd : Nat) (w64 : Bool) (v : Nat) (r : Option Nat) :
    Group.afterLoad k sd w64 v { g with reserv := r } = { Group.afterLoad k sd w64 v g with reserv := r } := by
  cases w64 with
  | false =>
    simp only [Group.afterLoad, Bool.false_eq_true, if_false, Group.setS_reserv]
  | true =>
    simp only [Group.afterLoad, if_true, Group.setPair, Group.setS_reserv]

theorem Group.afterLoad_keeps {g : Group} {k : Nat} {sp : Split} (hs : tget k g.splits = some sp) (free : g.stepped k = false) (quiet : g.noStep) (sd : Nat)
    (w64 : Bool) (v : Nat) : (∃ sp', tget k (g.afterLoad k sd w64 v).splits = some sp') ∧ (g.afterLoad k sd w64 v).stepped k = false
      ∧ (g.afterLoad k sd w64 v).noStep ∧ (g.afterLoad k sd w64 v).reserv = g.reserv := by
  cases w64 with
  | false =>
    exact ⟨Group.setS_split hs _ _, (Group.setS_stepped ..).trans free, Group.noStep_setS quiet _ _ _, Group.reserv_setS ..⟩
  | true =>
    obtain ⟨sp', hs'⟩ := Group.setS_split hs sd (loWord (BitVec.ofNat 64 v))
    exact ⟨Group.setS_split hs' _ _, (Group.setS_stepped ..).trans ((Group.setS_stepped ..).trans free), Group.noStep_setS (Group.noStep_setS quiet _ _ _) _ _ _,
      (Group.reserv_setS ..).trans (Group.reserv_setS ..)⟩

/-- The state in which a split's instruction completes that has loaded sd. -/
theorem load_completes {s t u u' : State} {gid k : Nat} {g g' : Group} {sp sp' : Split} {i : Instr} (hv : isVector i = false) (hd : vDests i = [])
    (filled : Filled t u) (only : OnlyGroup u u' gid g') (hs : tget k g'.splits = some sp') (free : g'.stepped k = false) (quiet : g'.noStep)
    (now : t.now = s.now) (sd : Nat) (w64 : Bool) (v : Nat) :
    ∃ w, (groupCtx gid k g sp i).settle i s (.done ((groupCtx gid k g sp i).loadS sd w64 v u')) = .next w
      ∧ Loaded t w gid ((g'.afterLoad k sd w64 v).goesOn k (sp.after i) s.now) ∧ w.vfs = t.vfs := by
  rw [loadS_eq]
  obtain ⟨⟨sp'', hs''⟩, free', quiet', -⟩ := Group.afterLoad_keeps hs free quiet sd w64 v
  obtain ⟨w, run, done⟩ := settle_done (g := g) (sp := sp) (i := i) hv hd (only.modGroup (Group.afterLoad k sd w64 v)) hs'' free' quiet'
  have time : u.now = s.now := by rw [filled.rest, ← now]
  rw [time] at done
  refine ⟨w, run, filled.loaded done, ?_⟩
  rw [done.rest, show u.vfs = t.vfs by rw [filled.rest]]

/-- A word stored by SST or SSTS, and the record of its release (R102, R165). -/
def storedWord (c : Ctx) (o : UmOp) (scratch : Bool) (x : LaneAt) (v : Nat) (s : State) : State :=
  if scratch then writeAt s scratch 4 x v else c.noteRelease o.ord o.scope true x.key (writeAt s scratch 4 x v)

theorem storedWord_spec {s u : State} {gid k : Nat} {g : Group} {sp : Split} {i : Instr} {o : UmOp} {scratch : Bool} {x : LaneAt} {v : Nat}
    (lines : (writeAt u scratch 4 x v).lineCore = s.lineCore) (scopes : (writeAt u scratch 4 x v).allowed g.vf o.scope = s.allowed g.vf o.scope) :
    let fin := storedWord (groupCtx gid k g sp i) o scratch x v u
    fin = { writeAt u scratch 4 x v with lineCore := fin.lineCore }
      ∧ Recorded s fin g (scratch = false ∧ o.ord.isRel = true ∧ s.allowed g.vf o.scope = .core) [x.key] := by
  cases scratch with
  | true => exact ⟨rfl, fun _ => lines, fun yes => absurd yes.1 (by decide)⟩
  | false =>
    obtain ⟨rest, none, some'⟩ := noteRelease_recorded (gid := gid) (k := k) (sp := sp) (i := i) true x.key lines scopes
    exact ⟨rest, fun no => none fun yes => no ⟨rfl, yes.2⟩, fun yes => some' ⟨rfl, yes.2⟩⟩

theorem modGroup_id (s : State) (gid : Nat) : s.modGroup gid id = s := by
  have same (t : Table Group) : tmod gid id t = t := by
    refine (List.map_congr_left fun p _ => ?_).trans (List.map_id t)
    split <;> rfl
  rw [State.modGroup, same]

/-- Proves O15: the load, the store, and the fence that either is with no active lane. -/
theorem scalarAccesses : Obligations.ScalarAccesses := by
  intro s gid k g sp o scratch x load store sd orders demoted may passes at' b v
  have loadShape : isEngine load = false ∧ isVector load = false ∧ vDests load = [] := by cases scratch <;> exact ⟨rfl, rfl, rfl⟩
  have storeShape : isEngine store = false ∧ isVector store = false ∧ vDests store = [] := by cases scratch <;> exact ⟨rfl, rfl, rfl⟩
  have same : (((o.ord ≠ .none ∨ false = true) ∧ (scratch = false ∨ o.scope = .core ∨ o.scope = .quad)) ∧ s.allowed g.vf o.scope ≠ o.scope) ↔ demoted := by
    simp only [Bool.false_eq_true, or_false]
    exact Iff.rfl
  have order (i : Instr) (ok : may) := umOrder_done (gid := gid) (k := k) (g := g) (sp := sp) (i := i) (o := o) (scratch := scratch) (atomic := false)
    fun h => ok (h.resolve_right (by decide))
  refine ⟨fun h ok pass mask reach => ?_, fun h inv ok pass mask reach => ?_, fun i hi h ok mask => ?_⟩
  · obtain ⟨t, ordered, ot⟩ := order load ok
    have filled := fillTlb_filled t g scratch [x]
    have body : scalLoad scratch o (groupCtx gid k g sp load) s
        = .done ((groupCtx gid k g sp load).loadS sd false (readAt (fillTlb t g scratch [x]) scratch 4 x) (fillTlb t g scratch [x])) := by
      refine (umAccess_reaches _ mask ordered (fun global => ?_) reach).trans ?_
      · exact pass global
      · exact if_neg (by rw [reach.here x List.mem_cons_self]; decide)
    have hg : (fillTlb t g scratch [x]).group? gid = some g := (ot.around filled).group.trans h.issues.group
    obtain ⟨w, run, loaded, vfs⟩ := load_completes (g := g) (sp := sp) (i := load) loadShape.2.1 loadShape.2.2 filled (.refl hg) h.issues.split h.free h.quiet
      (by rw [ot.rest]) sd false (readAt (fillTlb t g scratch [x]) scratch 4 x)
    have value : BitVec.ofNat 32 (readAt (fillTlb t g scratch [x]) scratch 4 x) = v := by
      rw [(ot.around filled).readAt, readAt_space (reach.turn.imp_right fun h => (h.resolve_left (by decide)) x List.mem_cons_self), Mem.read_four]
    rw [Group.afterLoad, if_neg Bool.false_ne_true, value] at loaded
    refine ⟨w, ?_, (ot.count.of_vfs vfs).congr same, ?_⟩
    · rw [exec_scalLoad, issue_ready h loadShape.1, body]
      exact run
    · rw [vfs, ← ot.rest]
      exact loaded
  · obtain ⟨t, ordered, ot⟩ := order store ok
    have filled := fillTlb_filled t g scratch [x]
    have pre : Writes s (fillTlb t g scratch [x]) scratch 4 [x] :=
      (Writes.of_counts (by rw [ot.rest]) scratch 4 [x]).trans (.of_filled filled scratch 4 [x]) (fun _ => id) fun _ => id
    have around := ot.around filled
    have frame := writeAt_frame (fillTlb t g scratch [x]) scratch 4 x (g.sreg sp sd).toNat
    have written := pre.trans (writeAt_writes (around.inv inv) scratch 4 x (g.sreg sp sd).toNat) (fun _ => id) fun _ => id
    have byte (j : Nat) (hj : j < 4) (free : s.unclaimed scratch (x.key + j) 1) :=
      writeAt_byte (around.inv inv) scratch x (g.sreg sp sd).toNat hj (around.unclaimed free)
    have lines : (writeAt (fillTlb t g scratch [x]) scratch 4 x (g.sreg sp sd).toNat).lineCore = s.lineCore := by
      rw [frame.2.2.1, show fillTlb t g scratch [x] = _ from around]
    have scopes : (writeAt (fillTlb t g scratch [x]) scratch 4 x (g.sreg sp sd).toNat).allowed g.vf o.scope = s.allowed g.vf o.scope := by
      rw [allowed_congr frame.1 frame.2.1, allowed_congr (s := t) (by rw [filled.rest]) (by rw [filled.rest]), ot.allowed]
    have body : scalStore scratch o (groupCtx gid k g sp store) s
        = .done (storedWord (groupCtx gid k g sp store) o scratch x (g.sreg sp sd).toNat (fillTlb t g scratch [x])) := by
      refine (umAccess_reaches _ mask ordered pass reach).trans ?_
      refine (if_neg (by rw [reach.here x List.mem_cons_self]; decide)).trans ?_
      rw [groupCtx_s]
      rfl
    obtain ⟨noted, recorded⟩ := storedWord_spec (gid := gid) (k := k) (sp := sp) (i := store) lines scopes
    generalize storedWord (groupCtx gid k g sp store) o scratch x (g.sreg sp sd).toNat (fillTlb t g scratch [x]) = fin at body noted recorded
    have whole : Writes s fin scratch 4 [x] := written.trans (.of_counts (by rw [noted]) scratch 4 [x]) (fun _ => id) fun _ => id
    obtain ⟨w, run, stored, last⟩ := whole.completes (k := k) (sp := sp) (i := store) h.issues.group id (fun _ => rfl) rfl h.issues.split h.free h.quiet g s
    rw [modGroup_id] at run
    rw [id, Group.keeps_scalar storeShape.2.1 storeShape.2.2] at stored
    refine ⟨w, ?_, stored, .of_filled (s := s) (t := t) (by rw [ot.rest]) filled ?_ ?_, (ot.count.of_vfs ?_).congr same, ?_, fun j hj free => ?_⟩
    · rw [exec_scalStore, issue_ready h storeShape.1, body]
      exact run
    · rw [last, noted]
      exact frame.2.2.2.1
    · rw [last, noted]
      exact frame.2.2.2.2.trans (by rw [filled.rest, ot.rest])
    · rw [last, noted]
      exact frame.1.trans (by rw [filled.rest])
    · rw [last]
      exact recorded
    · rw [← byte j hj free, last, noted]
      rfl
  · obtain ⟨t, ordered, ot⟩ := order i ok
    have body : (∀ f, umAccess o scratch false 4 .read true false f (groupCtx gid k g sp i) s = .done t)
        ∧ ∀ f, umAccess o scratch false 4 .write false true f (groupCtx gid k g sp i) s = .done t :=
      ⟨fun f => umAccess_idle f mask ordered, fun f => umAccess_idle f mask ordered⟩
    have shape : isEngine i = false ∧ isVector i = false ∧ vDests i = [] := by
      rcases hi with rfl | rfl
      · exact loadShape
      · exact storeShape
    have hg : t.group? gid = some g := by
      rw [ot.rest]
      exact h.issues.group
    obtain ⟨w, run, done⟩ := settle_done (g := g) (sp := sp) (i := i) shape.2.1 shape.2.2 (.refl hg) h.issues.split h.free h.quiet
    have vfs : w.vfs = t.vfs := by rw [done.rest]
    refine ⟨w, ?_, (ot.count.of_vfs vfs).congr same, ?_⟩
    · rcases hi with rfl | rfl
      · rw [exec_scalLoad, issue_ready h shape.1]
        exact (congrArg _ (body.1 _)).trans run
      · rw [exec_scalStore, issue_ready h shape.1]
        exact (congrArg _ (body.2 _)).trans run
    · rw [vfs, ← ot.rest]
      rw [show t.now = s.now by rw [ot.rest]] at done
      exact done

end Sys2Proof.Machine
end

section
/-! OBLIGATIONS. Reservations (R144, R145, R154, R165, R337, R349). -/

namespace Sys2Proof.Machine

/-- The ordering of an atomic access at issue, and of one with no active lane. -/
theorem atomic_order {s : State} {gid k : Nat} {g : Group} {sp : Split} {i : Instr} {o : UmOp} (h : s.mayOrder gid g o.ord o.scope) :
    ∃ t, umOrder (groupCtx gid k g sp i) o false true s = .ok t ∧ Ordered s t g.vf (s.allowed g.vf o.scope ≠ o.scope) := by
  obtain ⟨t, run, ot⟩ := umOrder_done (gid := gid) (k := k) (g := g) (sp := sp) (i := i) (o := o) (scratch := false) (atomic := true) fun _ => h
  exact ⟨t, run, ot.rest, ot.count.congr ⟨And.right, fun d => ⟨⟨.inr rfl, .inl rfl⟩, d⟩⟩, ot.allowed⟩

theorem idle_completes {s : State} {gid k : Nat} {g : Group} {sp : Split} {i : Instr} {o : UmOp} {body : Ctx → State → Act} (h : Ready s gid k g sp i)
    (he : isEngine i = false) (hv : isVector i = false) (hd : vDests i = []) (may : o.ord ≠ .none → s.mayOrder gid g o.ord o.scope)
    (run : ∀ t, umOrder (groupCtx gid k g sp i) o false false s = .ok t → body (groupCtx gid k g sp i) s = .done t) :
    ∃ t, issue i s body = .next t ∧ Demoted s t g.vf (o.ord ≠ .none ∧ s.allowed g.vf o.scope ≠ o.scope)
      ∧ OnlyGroup { s with vfs := t.vfs } t gid (g.goesOn k (sp.after i) s.now) := by
  obtain ⟨t, order, ot⟩ := umOrder_done (gid := gid) (k := k) (g := g) (sp := sp) (i := i) (o := o) (scratch := false) (atomic := false)
    fun orders => may (orders.resolve_right (by decide))
  have hg : t.group? gid = some g := by
    rw [ot.rest]
    exact h.issues.group
  obtain ⟨w, settled, done⟩ := settle_done (g := g) (sp := sp) (i := i) hv hd (.refl hg) h.issues.split h.free h.quiet
  have vfs : w.vfs = t.vfs := by rw [done.rest]
  refine ⟨w, ?_, (ot.count.of_vfs vfs).congr ⟨fun d => ⟨d.1.1.resolve_right (by decide), d.2⟩, fun d => ⟨⟨.inl d.1, .inl rfl⟩, d.2⟩⟩, ?_⟩
  · rw [issue_ready h he, run t order]
    exact settled
  · rw [vfs, ← ot.rest]
    rw [show t.now = s.now by rw [ot.rest]] at done
    exact done

theorem Filled.modGroup {s t : State} (h : Filled s t) (gid : Nat) (f : Group → Group) : Filled (s.modGroup gid f) (t.modGroup gid f) := by
  have cores := h.cores
  rw [h.rest] at cores ⊢
  exact ⟨rfl, cores⟩

theorem Ordered.modGroup {s t : State} {v : Nat} {p : Prop} (h : Ordered s t v p) (gid : Nat) (f : Group → Group) :
    t.modGroup gid f = { s.modGroup gid f with vfs := t.vfs } := by
  rw [h.rest]
  rfl

/-- The group without its reservation (R145). -/
def Group.unreserved (g : Group) : Group := { g with reserv := none }

/-- The value that an atomic step leaves, if it writes one, and the record of its release (R142, R145, R165). -/
def optStored (c : Ctx) (o : UmOp) (size : Nat) (x : LaneAt) (new : Option Nat) (s : State) : State :=
  c.noteRelease o.ord o.scope new.isSome x.key (match new with | some v => writeAt s false size x v | none => s)

theorem optStored_spec {s u : State} {gid k : Nat} {g : Group} {sp : Split} {i : Instr} {o : UmOp} {size : Nat} {x : LaneAt} {new : Option Nat}
    (inv : u.Inv) (lines : u.lineCore = s.lineCore) (scopes : u.allowed g.vf o.scope = s.allowed g.vf o.scope) :
    let fin := optStored (groupCtx gid k g sp i) o size x new u
    Writes u fin false size (if new.isSome then [x] else []) ∧ Recorded s fin g (new.isSome = true ∧ o.ord.isRel = true ∧ s.allowed g.vf o.scope = .core) [x.key]
      ∧ fin.vfs = u.vfs ∧ fin.cores = u.cores ∧ fin.fresh = u.fresh ∧ (new = none → fin.mem = u.mem)
      ∧ ∀ v, new = some v → ∀ j, j < size → u.unclaimed false (x.key + j) 1 → fin.mem.get (x.key + j) = BitVec.ofNat 8 (v / 256 ^ j) := by
  intro fin
  cases new with
  | some v =>
    obtain ⟨vfs, pkgs, lineCore, cores, fresh⟩ := writeAt_frame u false size x v
    obtain ⟨rest, recorded⟩ := noteRelease_recorded (s := s) (t := writeAt u false size x v) (gid := gid) (k := k) (g := g) (sp := sp) (i := i) (ord := o.ord)
      (sc := o.scope) true x.key (lineCore.trans lines) ((allowed_congr vfs pkgs _ _).trans scopes)
    have run : fin = (groupCtx gid k g sp i).noteRelease o.ord o.scope true x.key (writeAt u false size x v) := rfl
    rw [run]
    refine ⟨(writeAt_writes inv false size x v).trans (.of_counts (by rw [rest]) false size [x]) (fun _ => id) fun _ => id, recorded, ?_, ?_, ?_, nofun,
      fun w same j hj free => ?_⟩
    · rw [rest]; exact vfs
    · rw [rest]; exact cores
    · rw [rest]; exact fresh
    · cases same
      rw [rest]
      exact writeAt_byte inv false x v hj free
  | none =>
    have run : fin = u := by
      show (groupCtx gid k g sp i).noteRelease o.ord o.scope false x.key u = u
      rw [Ctx.noteRelease, Bool.false_and]
      exact if_neg Bool.false_ne_true
    rw [run]
    exact ⟨.refl .., ⟨fun _ => lines, fun yes => absurd yes.1 (by decide)⟩, rfl, rfl, rfl, fun _ => rfl, nofun⟩

/-- The store of SSC where the reservation holds. -/
theorem condStored_eq (c : Ctx) (o : UmOp) (x : LaneAt) (v : Nat) (ok : Prop) [Decidable ok] (s : State) :
    c.noteRelease o.ord o.scope ok x.key (if ok then writeAt s false 4 x v else s) = optStored c o 4 x (if ok then some v else none) s := by
  by_cases yes : ok
  · simp only [yes, decide_true]
    rfl
  · simp only [yes, decide_false]
    rfl

/-- Proves O18: the load with its reservation, the conditional store, their fence with no active lane, and what a store clears. -/
theorem reservations : Obligations.Reservations := by
  refine ⟨fun s gid k g sp o x => ?_, fun s key bs j h some' hj => ?_⟩
  · intro slr ssc sd at' line demoted passes
    refine ⟨fun h mask may pass reach => ?_, fun h inv mask may pass reach => ?_, fun i hi h mask may => ?_⟩
    · obtain ⟨t, order, ot⟩ := atomic_order (k := k) (sp := sp) (i := slr) may
      have filled := fillTlb_filled t g false [x]
      have around := ot.around filled
      have hg := (around.group (gid := gid)).trans h.issues.group
      intro h'
      have only := (OnlyGroup.refl hg).modGroup fun g => { g with reserv := some (x.key / 128) }
      obtain ⟨w, run, loaded, vfs⟩ := load_completes (g := g) (sp := sp) (i := slr) rfl rfl filled only h.issues.split h.free h.quiet (s := s) (by rw [ot.rest]) sd false
        (readAt (fillTlb t g false [x]) false 4 x)
      rw [around.readAt, readAt_space (.inl rfl)] at loaded
      refine ⟨w, ?_, ot.count.of_vfs vfs, ?_⟩
      · show execSlr o s = _
        rw [execSlr, issue_ready h rfl]
        refine (congrArg _ ((umAccess_reaches _ mask order (fun _ => pass) reach).trans ?_)).trans run
        exact if_neg (by rw [reach.here x List.mem_cons_self]; decide)
      · rw [vfs, ← ot.rest]
        exact loaded
    · intro ok
      obtain ⟨t, order, ot⟩ := atomic_order (k := k) (sp := sp) (i := ssc) may
      have filled := fillTlb_filled t g false [x]
      have around := ot.around filled
      have body : (∀ f, umAccess o false true 4 .write true true f (groupCtx gid k g sp ssc) s = f x (fillTlb t g false [x])) :=
        fun f => umAccess_reaches f mask order (fun _ => pass) reach
      have pre : Writes (s.modGroup gid Group.unreserved) ((fillTlb t g false [x]).modGroup gid Group.unreserved) false 4 (if ok then [x] else []) :=
        (Writes.of_counts (t := t.modGroup gid Group.unreserved) (by rw [ot.modGroup]) false 4 []).trans
          (.of_filled (filled.modGroup gid Group.unreserved) false 4 []) nofun nofun
      have near := reach.here x List.mem_cons_self
      have lines : (fillTlb t g false [x]).lineCore = s.lineCore := by rw [show fillTlb t g false [x] = _ from around]
      have scopes : (fillTlb t g false [x]).allowed g.vf o.scope = s.allowed g.vf o.scope := by
        rw [allowed_congr (s := t) (by rw [filled.rest]) (by rw [filled.rest]), ot.allowed]
      have hg : (s.modGroup gid Group.unreserved).group? gid = some g.unreserved := by rw [State.group_modGroup_self, h.issues.group]; rfl
      obtain ⟨writes, recorded, vfs, cores, fresh, -, byte⟩ := optStored_spec (s := s) (gid := gid) (k := k) (g := g) (sp := sp) (i := ssc) (o := o) (size := 4)
        (x := x) (new := if ok then some (g.sreg sp sd).toNat else none) (u := (fillTlb t g false [x]).modGroup gid Group.unreserved) (around.inv inv) lines scopes
      have stores : (if ok then some (g.sreg sp sd).toNat else none).isSome = true ↔ ok := by
        split <;> simp [*]
      have run : execSsc o s = (groupCtx gid k g sp ssc).settle ssc s (.done ((optStored (groupCtx gid k g sp ssc) o 4 x (if ok then some (g.sreg sp sd).toNat else none)
          ((fillTlb t g false [x]).modGroup gid Group.unreserved)).modGroup gid fun g => g.setS k (sd + 1) (if ok then 0 else 1))) := by
        rw [execSsc, issue_ready h rfl]
        refine congrArg _ ((body _).trans ((if_neg (by rw [near]; decide)).trans ?_))
        rw [groupCtx_s, ← condStored_eq]
        rfl
      generalize optStored (groupCtx gid k g sp ssc) o 4 x (if ok then some (g.sreg sp sd).toNat else none) ((fillTlb t g false [x]).modGroup gid Group.unreserved) = fin
        at writes recorded vfs cores fresh byte run
      simp only [stores] at writes recorded
      obtain ⟨sp', hs⟩ := Group.setS_split (g := g.unreserved) h.issues.split (sd + 1) (if ok then 0 else 1)
      obtain ⟨w, settled, stored, last⟩ := (pre.trans writes (fun _ => id) fun _ => id).completes (sp := sp) (i := ssc) hg (fun g => g.setS k (sd + 1) (if ok then 0 else 1))
        (fun r => Group.setS_reserv ..) (Group.reserv_setS ..) hs ((Group.setS_stepped ..).trans h.free) (Group.noStep_setS (g := g.unreserved) h.quiet _ _ _) g s
      rw [Group.keeps_scalar rfl rfl] at stored
      refine ⟨w, run.trans settled, .of_filled (s := s) (t := t) (by rw [ot.rest]) filled ?_ ?_, ot.count.of_vfs ?_, ?_, stored.of_base ?_ ?_, fun yes j hj free => ?_⟩
      · rw [last]
        exact cores
      · rw [last]
        exact fresh.trans (by show (fillTlb t g false [x]).fresh = _; rw [show fillTlb t g false [x] = _ from around])
      · rw [last]
        exact vfs.trans (by show (fillTlb t g false [x]).vfs = _; rw [filled.rest])
      · rw [last]
        exact recorded
      · rfl
      · exact fun j hj => State.group_modGroup_ne _ hj _
      · rw [last]
        exact byte _ (if_pos yes) j hj (around.unclaimed free)
    · rcases hi with rfl | rfl
      · exact idle_completes (o := o) h rfl rfl rfl may fun t order => umAccess_idle _ mask order
      · exact idle_completes (o := o) h rfl rfl rfl may fun t order => umAccess_idle _ mask order
  · refine ⟨h.cleared key bs.length, ?_, fun l hl => ⟨fun hit => ?_, fun miss => ?_⟩, fun none => ?_⟩
    · rw [storeMem_group some', hj]
      rfl
    · rw [Group.cleared, hl, Option.filter_some, if_neg (by simp [hit])]
    · rw [Group.cleared, hl, Option.filter_some, if_pos (by simp only [Bool.not_eq_true', Bool.and_eq_false_iff, decide_eq_false_iff_not]; omega)]
    · rw [Group.cleared, none]
      rfl

end Sys2Proof.Machine
end

section
/-! OBLIGATIONS. Scalar atomics (R142, R143, R154, R327). -/

namespace Sys2Proof.Machine

/-- A byte of a little-endian value. -/
theorem Mem.read_byte (m : Mem) (n : Nat) : ∀ a j, j < n → m.get (a + j) = BitVec.ofNat 8 (m.read a n / 256 ^ j) := by
  induction n with
  | zero => nofun
  | succ n ih =>
    intro a j hj
    have low := (m.get a).isLt
    cases j with
    | zero =>
      apply BitVec.eq_of_toNat_eq
      rw [Mem.read, Nat.add_zero, Nat.pow_zero, Nat.div_one, BitVec.toNat_ofNat]
      omega
    | succ j =>
      rw [Mem.read, Nat.pow_succ', ← Nat.div_div_eq_div_mul, show ((m.get a).toNat + 256 * m.read (a + 1) n) / 256 = m.read (a + 1) n by omega,
        ← ih (a + 1) j (by omega), show a + 1 + j = a + (j + 1) by omega]

/-! ### Counts -/

theorem countAtomic_counted (s : State) (core : Nat) (remote : Bool) : Writes s (s.countAtomic core remote) false 0 [] ∧ Counted s (s.countAtomic core remote) core 1
    ∧ s.countAtomic core remote = { s with fresh := s.fresh + 1, cores := (s.countAtomic core remote).cores } := by
  have rest : s.countAtomic core remote = { s with fresh := s.fresh + 1, cores := (s.countAtomic core remote).cores } := rfl
  have self : (s.countAtomic core remote).coreAt core = if (remote || Config.freeBool s.fresh) = true
      then { s.coreAt core with atomhome := (s.coreAt core).atomhome + 1 } else { s.coreAt core with atomloc := (s.coreAt core).atomloc + 1 } :=
    tgetD_tset_self core _ _ s.cores
  have other (c : Nat) (hc : c ≠ core) : (s.countAtomic core remote).coreAt c = s.coreAt c := tgetD_tset_ne hc _ _ _
  refine ⟨⟨rest, fun _ _ => rfl, rfl, fun _ => id, same_groups s, same_copies s, same_quads s, fun c => ?_⟩, ⟨?_, fun d hd => ?_⟩, rest⟩
  · by_cases e : c = core
    · subst e
      rw [self]
      split <;> rfl
    · rw [other c e]
  · rw [self]
    split
    · show (s.coreAt core).atomloc + ((s.coreAt core).atomhome + 1) = _
      exact (BitVec.add_assoc ..).symm
    · show (s.coreAt core).atomloc + 1 + (s.coreAt core).atomhome = _
      rw [BitVec.add_assoc, BitVec.add_comm 1, ← BitVec.add_assoc]
      rfl
  · rw [other d hd]
    exact ⟨rfl, rfl⟩

theorem Counted.congr {s s' t t' : State} {c n : Nat} (h : Counted s t c n)
    (before : ∀ d, (s'.coreAt d).atomloc = (s.coreAt d).atomloc ∧ (s'.coreAt d).atomhome = (s.coreAt d).atomhome)
    (after : t'.cores = t.cores) : Counted s' t' c n := by
  obtain ⟨own, others⟩ := h
  have same (d : Nat) : t'.coreAt d = t.coreAt d := by rw [State.coreAt, after, State.coreAt]
  refine ⟨?_, fun d hd => ?_⟩
  · rw [same, (before c).1, (before c).2]
    exact own
  · rw [same, (before d).1, (before d).2]
    exact others d hd

/-! ### Promotions -/

theorem Demoted.triples {s t : State} {v : Nat} {p : Prop} (h : Demoted s t v p) (w : Nat) : (t.vf w).triples = (s.vf w).triples := by
  obtain ⟨others, yes, no⟩ := h
  by_cases e : w = v
  · subst e
    by_cases d : p
    · rw [yes d]
    · rw [no d]
  · rw [others w e]

/-- An acquire that need not wait for what was written before a release of another core (R165). -/
theorem promotes_none {s u : State} {gid k : Nat} {g : Group} {sp : Split} {i : Instr} {rsp : Bool} {key : Nat} (h : s.promoted g rsp key)
    (lines : u.lineCore = s.lineCore) (rops : u.rops = s.rops) (triples : ∀ w, (u.vf w).triples = (s.vf w).triples) :
    (groupCtx gid k g sp i).promotes rsp key u = none := by
  unfold Ctx.promotes
  cases rsp with
  | false => rfl
  | true =>
    refine (if_neg (by decide)).trans ?_
    rw [lines]
    cases hl : tget (key / 128) s.lineCore with
    | none => rfl
    | some core =>
      have vf : u.vfOn g.vf (pkgOf core) = s.vfOn g.vf (pkgOf core) := by
        unfold State.vfOn State.peerVf
        rw [triples]
      have applied : u.allApplied (s.vfOn g.vf (pkgOf core)) = s.allApplied (s.vfOn g.vf (pkgOf core)) := by
        unfold State.allApplied
        rw [rops]
      refine if_neg fun both => ?_
      obtain ⟨away, waits⟩ := Bool.and_eq_true_iff.1 both
      rw [groupCtx_g, vf, applied, h rfl core hl (by simpa using away)] at waits
      cases waits

/-! ### The values -/

theorem roundRne_cases (v : ExactVal) : roundRne v = if v.isNan then canonNan else toF32 .rn v := by
  cases v <;> rfl

theorem atomNew_values (w64 : Bool) (old d c : Nat) : let size := if w64 then 8 else 4; let w := 8 * size
    old < 2 ^ w → d < 2 ^ w →
    let int (x : Nat) : Int := if x < 2 ^ (w - 1) then x else (x : Int) - 2 ^ w
    let gives (op : Aop) (v : Nat) : Prop := (atomNew op size old d c).getD old = v
    gives .add ((old + d) % 2 ^ w)
      ∧ gives .min (if int d < int old then d else old) ∧ gives .max (if int old < int d then d else old)
      ∧ gives .nmin (if d < old then d else old) ∧ gives .nmax (if old < d then d else old)
      ∧ gives .and (old &&& d) ∧ gives .or (old ||| d) ∧ gives .xor (old ^^^ d)
      ∧ gives .exch d ∧ gives .cas (if old = c then d else old) ∧ gives .ld old
      ∧ (w64 = false → ∃ v : Word, gives .fadd v.toNat
          ∧ v = let r := (ofF32 (BitVec.ofNat 32 old)).add false (ofF32 (BitVec.ofNat 32 d)); if r.isNan then canonNan else toF32 .rn r) := by
  intro size w _ _ int gives
  refine ⟨rfl, rfl, rfl, ?_, ?_, rfl, rfl, rfl, rfl, ?_, rfl, fun _ => ⟨_, rfl, roundRne_cases _⟩⟩
  · show min old d = _
    split <;> omega
  · show max old d = _
    split <;> omega
  · show (if old = c then some d else none).getD old = _
    split <;> rfl

/-! ### The atomic -/

/-- The state of a SATOM's step before it stores: its ordering counted, its translation held, itself counted. -/
theorem satom_body {s t : State} {gid k : Nat} {g : Group} {sp : Split} {o : UmOp} {c : SAtomCw} {x : LaneAt} (h : Ready s gid k g sp (.satom o c)) (mask : sp.mask ≠ 0)
    (order : umOrder (groupCtx gid k g sp (.satom o c)) o false true s = .ok t)
    (pass : s.mayPass g o.ord o.scope true true [x.home]) (stays : (groupCtx gid k g sp (.satom o c)).promotes c.rsp x.key (fillTlb t g false [x]) = none)
    (reach : Reaches s g false (if c.w64 then 8 else 4) (if c.aop = .ld then .read else .write) true true [(127, g.umAt sp o (if c.w64 then 8 else 4))] [x])
    (opnd : Reg → Nat) (hopnd : ∀ n, opnd n = if c.w64 then (g.spair sp n.toNat).toNat else (g.sreg sp n.toNat).toNat) :
    let u := (fillTlb t g false [x]).countAtomic g.core (x.home != pkgOf g.vf)
    let old := u.mem.read x.key (if c.w64 then 8 else 4)
    exec (.satom o c) s = (groupCtx gid k g sp (.satom o c)).settle (.satom o c) s (.done ((groupCtx gid k g sp (.satom o c)).loadS o.sd.toNat c.w64 old
      (optStored (groupCtx gid k g sp (.satom o c)) o (if c.w64 then 8 else 4) x (atomNew c.aop (if c.w64 then 8 else 4) old (opnd c.sb) (opnd c.sc)) u))) := by
  intro u old
  have vals (n : Reg) : (if c.w64 then ((groupCtx gid k g sp (.satom o c)).pair n.toNat).toNat else ((groupCtx gid k g sp (.satom o c)).s n.toNat).toNat) = opnd n := by
    rw [groupCtx_pair, groupCtx_s, hopnd]
  show execSatom o c s = _
  rw [execSatom, issue_ready h rfl]
  refine congrArg _ ((umAccess_reaches _ mask order (fun _ => pass) reach).trans ((if_neg (by rw [reach.here x List.mem_cons_self]; decide)).trans ?_))
  simp only [stays, vals]
  rfl

/-- Proves O16: SATOM at a place of this package, the fence that it is with no active lane, and the values. -/
theorem scalarAtomics : Obligations.ScalarAtomics := by
  refine ⟨fun s gid k g sp o c x => ?_, atomNew_values⟩
  intro i sd size opnd old new g' demoted
  refine ⟨fun h inv mask may promoted pass reach => ?_, fun h mask may => ?_⟩
  · obtain ⟨t, order, ot⟩ := atomic_order (k := k) (sp := sp) (i := i) may
    have filled := fillTlb_filled t g false [x]
    have around := ot.around filled
    have stays := promotes_none (u := fillTlb t g false [x]) (gid := gid) (k := k) (sp := sp) (i := i) promoted
      (by rw [show fillTlb t g false [x] = _ from around]) (by rw [show fillTlb t g false [x] = _ from around])
      (fun w => by rw [show (fillTlb t g false [x]).vf w = t.vf w by rw [filled.rest]; rfl]; exact ot.count.triples w)
    have run := satom_body h mask order pass stays reach opnd fun _ => rfl
    obtain ⟨u, hu⟩ : ∃ u, (fillTlb t g false [x]).countAtomic g.core (x.home != pkgOf g.vf) = u := ⟨_, rfl⟩
    obtain ⟨counting, counted, crest⟩ := countAtomic_counted (fillTlb t g false [x]) g.core (x.home != pkgOf g.vf)
    rw [hu] at counting counted crest
    have mem : u.mem = s.mem := by
      rw [crest, show fillTlb t g false [x] = _ from around]
    simp only [hu, mem] at run
    have fillings : Writes s (fillTlb t g false [x]) false size [] :=
      (Writes.of_counts (by rw [ot.rest]) false size []).trans (.of_filled filled false size []) (fun _ => id) fun _ => id
    have lines : u.lineCore = s.lineCore := by rw [crest, show fillTlb t g false [x] = _ from around]
    have scopes : u.allowed g.vf o.scope = s.allowed g.vf o.scope := by
      rw [allowed_congr (s := t) (by rw [crest, filled.rest]) (by rw [crest, filled.rest]), ot.allowed]
    have inv' : u.Inv := by
      rw [crest]
      exact around.inv inv
    obtain ⟨writes, recorded, vfs, cores, -, kept, byte⟩ := optStored_spec (s := s) (gid := gid) (k := k) (g := g) (sp := sp) (i := i) (o := o) (size := size) (x := x)
      (new := atomNew c.aop size old (opnd c.sb) (opnd c.sc)) inv' lines scopes
    obtain ⟨fin, hfin⟩ : ∃ fin, optStored (groupCtx gid k g sp i) o size x (atomNew c.aop size old (opnd c.sb) (opnd c.sc)) u = fin := ⟨_, rfl⟩
    rw [hfin] at writes recorded vfs cores kept byte
    have run' : exec i s = (groupCtx gid k g sp i).settle i s (.done ((groupCtx gid k g sp i).loadS sd c.w64 old fin)) := by
      rw [← hfin]
      exact run
    rw [loadS_eq] at run'
    obtain ⟨⟨sp', hs⟩, free, quiet, keeps⟩ := Group.afterLoad_keeps h.issues.split h.free h.quiet sd c.w64 old
    have counting' : Writes (fillTlb t g false [x]) u false size [] :=
      ⟨counting.rest, fun a _ => counting.bytes a nofun, counting.space, counting.errors, counting.groups, counting.copies, counting.quads, counting.cores⟩
    have whole : Writes s fin false size [x] := (fillings.trans counting' (zs := []) (fun _ => id) fun _ => id).trans writes nofun fun y hy => by
      split at hy
      · exact hy
      · cases hy
    obtain ⟨w, settled, stored, last⟩ := whole.completes (sp := sp) (i := i) h.issues.group (Group.afterLoad k sd c.w64 old) (Group.afterLoad_commutes g k sd c.w64 old)
      keeps hs free quiet g s
    rw [Group.keeps_scalar rfl rfl] at stored
    refine ⟨w, run'.trans settled, stored, counted.congr (fun d => ?_) ?_, ot.count.of_vfs ?_, ?_, fun j hj unclaimed => ?_⟩
    · have core := (fillTlb_filled t g false [x]).cores d
      rw [core, show t.coreAt d = s.coreAt d by rw [ot.rest]; rfl]
      exact ⟨rfl, rfl⟩
    · rw [last]
      exact cores
    · rw [last]
      refine vfs.trans ?_
      rw [crest, filled.rest]
    · rw [last]
      exact ⟨fun no => recorded.1 fun yes => no ⟨yes.2.1, yes.2.2, yes.1⟩, fun yes => recorded.2 ⟨yes.2.2, yes.1, yes.2.1⟩⟩
    · rw [last]
      show fin.mem.get (x.key + j) = BitVec.ofNat 8 (new / 256 ^ j)
      cases hn : atomNew c.aop size old (opnd c.sb) (opnd c.sc) with
      | some v =>
        rw [show new = v from congrArg (Option.getD · old) hn]
        refine byte v hn j hj ?_
        rw [crest]
        exact around.unclaimed unclaimed
      | none =>
        rw [show new = old from congrArg (Option.getD · old) hn, kept hn, mem]
        exact Mem.read_byte s.mem size x.key j hj
  · show ∃ t, execSatom o c s = .next t ∧ _
    rw [execSatom]
    exact idle_completes (o := o) h rfl rfl rfl may fun t order => umAccess_idle _ mask order

end Sys2Proof.Machine
end

section
/-! OBLIGATIONS. The vector loads (R73, R78, R102, R388, R389). -/

namespace Sys2Proof.Machine

/-- Lane values of a load: a lane that has one takes `f` of it, the others keep theirs (R73). -/
def loadReg (g : Group) (d : Nat) (f : Nat → Word) (vals : Table Nat) : VReg :=
  .g (lanes.map fun n => match tget n vals with | some v => f v | none => (g.v d).lane n)

/-- The upper word of a pair's lane. -/
def upperWord (v : Nat) : Word := BitVec.ofNat 32 (v / 2 ^ 32)

theorem loadRegs_eq (g : Group) (vd : Nat) (w : Width) (sx : Bool) (vals : Table Nat) : loadRegs g vd w sx vals
    = (vd, loadReg g vd (extendLoad w sx) vals) :: if w = .w64 then [(vd + 1, loadReg g (vd + 1) upperWord vals)] else [] := rfl

theorem loadReg_lane (g : Group) (d : Nat) (f : Nat → Word) (vals : Table Nat) {n : Nat} (hn : n < 96) :
    (∀ v, tget n vals = some v → (loadReg g d f vals).lane n = f v) ∧ (tget n vals = none → (loadReg g d f vals).lane n = (g.v d).lane n) := by
  have lane : (loadReg g d f vals).lane n = match tget n vals with | some v => f v | none => (g.v d).lane n := getD_map_lanes _ hn
  refine ⟨fun v hv => ?_, fun none => ?_⟩
  · rw [lane, hv]
  · rw [lane, none]

/-! ### The budget -/

/-- The registers of a load fit where any general values fit (R75). -/
theorem over_loadRegs {gid k : Nat} {g : Group} {sp : Split} {i : Instr} {vd : Nat} {w : Width} {sx : Bool} {vals : Table Nat}
    (room : g.roomFor (if w = .w64 then [vd, vd + 1] else [vd]) = true) : (groupCtx gid k g sp i).over (loadRegs g vd w sx vals) = false := by
  refine decide_eq_false (Nat.not_lt.2 ?_)
  refine Nat.le_trans ?_ (of_decide_eq_true room)
  rw [loadRegs_eq]
  split
  · simp only [setRegs, List.foldl, groupCtx_g]
    refine (generalCount_le_set _ _ _).trans ?_
    rw [List.set_comm _ _ (by omega : vd ≠ vd + 1)]
    refine (generalCount_le_set _ _ _).trans ?_
    rw [List.set_comm _ _ (by omega : vd + 1 ≠ vd)]
  · exact generalCount_le_set _ _ _

/-! ### The accesses -/

theorem laneCheck_lane {s : State} {g : Group} {scratch : Bool} {size : Nat} {need : Need} {p : Nat × DWord} {x : LaneAt}
    (h : laneCheck s g scratch size need p = .ok x) : x.lane = p.1 := by
  unfold laneCheck at h
  split at h
  · split at h
    · cases h; rfl
    · cases h
  · split at h
    · cases h; rfl
    · cases h

theorem laneChecks_lanes {s : State} {g : Group} {scratch : Bool} {size : Nat} {need : Need} : ∀ {ps : List (Nat × DWord)} {xs : List LaneAt},
    laneChecks s g scratch size need ps = .ok xs → xs.map LaneAt.lane = ps.map Prod.fst := by
  intro ps
  induction ps with
  | nil =>
    intro xs h
    cases h
    rfl
  | cons p ps ih =>
    intro xs h
    unfold laneChecks at h
    split at h
    · cases h
    · next x hx =>
      split at h
      · cases h
      · next ys hys =>
        cases h
        rw [List.map_cons, List.map_cons, ih hys, laneCheck_lane hx]

theorem active_nodup (m : Mask) : (lanes.filter (laneOn m)).Nodup := List.Nodup.filter _ List.nodup_range

theorem tget_of_nodup {α : Type} {β : Type} (key : β → Nat) (val : β → α) (xs : List β) (nodup : (xs.map key).Nodup) {x : β} (hx : x ∈ xs) :
    tget (key x) (xs.map fun y => (key y, val y)) = some (val x) := by
  induction xs with
  | nil => cases hx
  | cons y ys ih =>
    obtain ⟨fresh, nodup⟩ := List.nodup_cons.1 nodup
    rcases List.mem_cons.1 hx with rfl | hx
    · exact if_pos rfl
    · refine (if_neg fun same => fresh ?_).trans (ih nodup hx)
      exact same ▸ List.mem_map_of_mem hx

theorem tget_absent {α : Type} {β : Type} (key : β → Nat) (val : β → α) (xs : List β) {n : Nat} (h : n ∉ xs.map key) :
    tget n (xs.map fun y => (key y, val y)) = none := by
  induction xs with
  | nil => rfl
  | cons y ys ih =>
    rw [List.map_cons, List.mem_cons, not_or] at h
    exact (if_neg (Ne.symm h.1)).trans (ih h.2)

/-! ### The values -/

theorem signExtend_sInt (w v : Nat) (h : v < 2 ^ w) (pos : 0 < w) : BitVec.ofInt 32 (sInt w v) = (BitVec.ofNat w v).signExtend 32 := by
  rw [BitVec.signExtend, BitVec.toInt_eq_toNat_cond, BitVec.toNat_ofNat, Nat.mod_eq_of_lt h, sInt]
  have half : 2 ^ w = 2 * 2 ^ (w - 1) := by rw [← Nat.pow_succ', Nat.succ_eq_add_one, Nat.sub_add_cancel pos]
  by_cases low : v < 2 ^ (w - 1)
  · rw [if_pos low, if_pos (by omega)]
  · rw [if_neg low, if_neg (by omega)]
    push_cast
    rfl

/-- A lane's word of a load, by the bytes at its address (R388). -/
def loadedWord (w : Width) (sx : Bool) (b : Nat → Nat) : Word :=
  match w with
  | .w8 => if sx then (BitVec.ofNat 8 (b 0)).signExtend 32 else BitVec.ofNat 32 (b 0)
  | .w16 => let h := b 0 + 256 * b 1
    if sx then (BitVec.ofNat 16 h).signExtend 32 else BitVec.ofNat 32 h
  | _ => BitVec.ofNat 32 (b 0 + 256 * b 1 + 65536 * b 2 + 16777216 * b 3)

theorem Mem.read_eight (m : Mem) (a : Nat) : m.read a 8 = m.read a 4 + 2 ^ 32 * m.read (a + 4) 4 := by
  simp only [Mem.read, Nat.add_assoc, Nat.reduceAdd]
  omega

theorem Mem.read_lt (m : Mem) (n : Nat) : ∀ a, m.read a n < 256 ^ n := by
  induction n with
  | zero => exact fun a => Nat.one_pos
  | succ n ih =>
    intro a
    have low := (m.get a).isLt
    have high := ih (a + 1)
    rw [Mem.read, Nat.pow_succ']
    omega

theorem extendLoad_read (w : Width) (sx : Bool) (m : Mem) (a : Nat) :
    extendLoad w sx (m.read a w.bytes) = loadedWord w sx fun j => (m.get (a + j)).toNat := by
  cases w with
  | w8 =>
    have one : m.read a 1 = (m.get (a + 0)).toNat := rfl
    have lt := m.read_lt 1 a
    cases sx with
    | false => exact congrArg (BitVec.ofNat 32) one
    | true =>
      show BitVec.ofInt 32 (sInt 8 (m.read a 1)) = (BitVec.ofNat 8 (m.get (a + 0)).toNat).signExtend 32
      rw [signExtend_sInt 8 _ lt (by decide), one]
  | w16 =>
    have two : m.read a 2 = (m.get (a + 0)).toNat + 256 * (m.get (a + 1)).toNat := rfl
    have lt := m.read_lt 2 a
    cases sx with
    | false => exact congrArg (BitVec.ofNat 32) two
    | true =>
      show BitVec.ofInt 32 (sInt 16 (m.read a 2)) = (BitVec.ofNat 16 ((m.get (a + 0)).toNat + 256 * (m.get (a + 1)).toNat)).signExtend 32
      rw [signExtend_sInt 16 _ lt (by decide), two]
  | w32 => exact congrArg (BitVec.ofNat 32) (m.read_four a)
  | w64 =>
    show BitVec.ofNat 32 (m.read a 8) = BitVec.ofNat 32 _
    rw [m.read_eight, ← m.read_four]
    apply BitVec.eq_of_toNat_eq
    simp only [BitVec.toNat_ofNat]
    omega

theorem upperWord_read (m : Mem) (a : Nat) : upperWord (m.read a 8)
    = BitVec.ofNat 32 ((m.get (a + 4)).toNat + 256 * (m.get (a + 5)).toNat + 65536 * (m.get (a + 6)).toNat + 16777216 * (m.get (a + 7)).toNat) := by
  have low := m.read_lt 4 a
  rw [upperWord, m.read_eight, show (m.read a 4 + 2 ^ 32 * m.read (a + 4) 4) / 2 ^ 32 = m.read (a + 4) 4 by omega, m.read_four]

/-! ### The load -/

theorem exec_vecLoad (s : State) (o : LmOp) (scratch : Bool) : exec (if scratch then .vlds o else .vld o) s
    = issue (if scratch then .vlds o else .vld o) s (vecLoad scratch o) := by
  cases scratch <;> rfl

/-- A load that reaches its places: every lane's value is read, and the registers are written and pending. -/
theorem vecLoad_reaches {s : State} {gid k : Nat} {g : Group} {sp : Split} {i : Instr} {o : LmOp} {scratch : Bool} {xs : List LaneAt}
    (room : g.roomFor (if o.width = .w64 then [o.vd.toNat, o.vd.toNat + 1] else [o.vd.toNat]) = true)
    (reach : Reaches s g scratch o.width.bytes .read true false (s.lmAt g sp o) xs) :
    vecLoad scratch o (groupCtx gid k g sp i) s
      = .done (((fillTlb s g scratch xs).modGroup gid fun h => { h with vregs := setRegs (loadRegs g o.vd.toNat o.width o.sx
          (xs.map fun x => (x.lane, readAt (fillTlb s g scratch xs) scratch o.width.bytes x))) h.vregs }).modGroup gid
          fun h => { h with busy := h.busy ++ (widthRegs o.vd.toNat o.width).map .v }) := by
  have checked : laneChecks s (groupCtx gid k g sp i).g scratch o.width.bytes .read (lmAddrs (groupCtx gid k g sp i) s o) = .ok xs := by
    rw [lmAddrs_eq]
    exact reach.checks
  obtain ⟨none, all⟩ := reach.far
  unfold vecLoad
  simp only [checked, reach.watch, reach.error, Option.getD_none, none, all, List.isEmpty_nil, if_true]
  exact if_neg (by rw [show (groupCtx gid k g sp i).over (loadRegs (groupCtx gid k g sp i).g o.vd.toNat o.width o.sx []) = false from over_loadRegs room]; decide)

/-- Proves O13. -/
theorem vectorLoads : Obligations.VectorLoads := by
  intro s gid k g sp o scratch xs i w64 vd dests h room reach
  have filled := fillTlb_filled s g scratch xs
  have hg : (fillTlb s g scratch xs).group? gid = some g := by
    rw [filled.rest]
    exact h.issues.group
  have shape : isEngine i = false ∧ isVector i = true := by cases scratch <;> exact ⟨rfl, rfl⟩
  obtain ⟨vals, hvals⟩ : ∃ vals, (xs.map fun x => (x.lane, readAt (fillTlb s g scratch xs) scratch o.width.bytes x)) = vals := ⟨_, rfl⟩
  have body := vecLoad_reaches (gid := gid) (k := k) (i := i) room reach
  rw [hvals] at body
  have only := ((OnlyGroup.refl hg).modGroup fun h => { h with vregs := setRegs (loadRegs g vd o.width o.sx vals) h.vregs }).modGroup
    fun h => { h with busy := h.busy ++ (widthRegs vd o.width).map .v }
  obtain ⟨w, run, done⟩ := settle_doneV (g := g) (sp := sp) (i := i) shape.2 only h.issues.split h.free h.quiet
  have lanes' := laneChecks_lanes reach.checks
  have listed : xs.map LaneAt.lane = lanes.filter (laneOn sp.mask) := lanes'.trans (by rw [State.lmAt, List.map_map]; exact List.map_id _)
  have value (x : LaneAt) (hx : x ∈ xs) : x.lane < 96 ∧ tget x.lane vals = some ((s.space scratch).read x.key o.width.bytes) := by
    have active : x.lane ∈ lanes.filter (laneOn sp.mask) := listed ▸ List.mem_map_of_mem hx
    refine ⟨List.mem_range.1 (List.mem_filter.1 active).1, ?_⟩
    rw [← hvals, tget_of_nodup LaneAt.lane _ xs (listed ▸ active_nodup sp.mask) hx]
    rw [show readAt (fillTlb s g scratch xs) scratch o.width.bytes x = readAt s scratch o.width.bytes x by rw [filled.rest]; rfl,
      readAt_space (reach.turn.imp_right fun h => (h.resolve_left (by decide)) x hx)]
  refine ⟨w, loadReg g vd (extendLoad o.width o.sx) vals, loadReg g (vd + 1) upperWord vals, ?_, ?_, rfl, rfl, fun n hn off => ?_, fun x hx => ?_⟩
  · rw [exec_vecLoad, issue_ready h shape.1, body]
    exact run
  · have loaded := filled.loaded done
    rw [show (fillTlb s g scratch xs).now = s.now by rw [filled.rest]] at loaded
    by_cases wide : o.width = .w64
    · simp only [loadRegs_eq, widthRegs, if_pos wide] at loaded
      simp only [w64, dests, if_pos wide]
      exact loaded
    · simp only [loadRegs_eq, widthRegs, if_neg wide] at loaded
      simp only [w64, dests, if_neg wide]
      exact loaded
  · have absent : tget n vals = none := by
      rw [← hvals]
      refine tget_absent LaneAt.lane _ xs ?_
      rw [listed]
      intro member
      rw [(List.mem_filter.1 member).2] at off
      cases off
    exact ⟨(loadReg_lane g vd _ vals hn).2 absent, (loadReg_lane g (vd + 1) _ vals hn).2 absent⟩
  · obtain ⟨hn, hv⟩ := value x hx
    refine ⟨((loadReg_lane g vd _ vals hn).1 _ hv).trans (extendLoad_read ..), fun wide => ((loadReg_lane g (vd + 1) _ vals hn).1 _ hv).trans ?_⟩
    rw [show o.width = .w64 from wide]
    exact upperWord_read ..

end Sys2Proof.Machine
end

section
/-! SUPPORT. A sequencer's instruction (R99, R175-R177): its issue, its registers and its place. -/

namespace Sys2Proof.Machine

/-- The issuer's view of a program's instruction. -/
def seqCtx (q : Nat) (p : Prog) (i : Instr) : Ctx := { who := .seq q, g := p.asGroup, pc := p.pc, len := i.len, mask := fullMask }

theorem seqCtx_s (q : Nat) (p : Prog) (i : Instr) (n : Nat) : (seqCtx q p i).s n = p.sreg n := rfl

/-- Operand B as a sequencer reads it (R88, R175). -/
def Prog.opB (p : Prog) (b : SSrc) : Word := match b with | .reg n => p.sreg n.toNat | .lit w => w

theorem seqCtx_b (q : Nat) (p : Prog) (i : Instr) (b : SSrc) : (seqCtx q p i).b b = p.opB b := by
  cases b <;> rfl

theorem seq_ctx {s : State} {q : Nat} {p : Prog} (cur : s.cur = .seq q) (prog : (s.quad q).running = some p) (i : Instr) : s.ctx i.len = some (seqCtx q p i) := by
  simp only [State.ctx, cur, prog]
  rfl

theorem issue_seq {s : State} {q : Nat} {p : Prog} {i : Instr} (cur : s.cur = .seq q) (prog : (s.quad q).running = some p) (body : Ctx → State → Act) :
    issue i s body = (seqCtx q p i).settle i s ((seqCheck s (seqCtx q p i) p i).getD (body (seqCtx q p i) s)) := by
  simp only [issue, seq_ctx cur prog]
  rw [show s.check (seqCtx q p i) i = seqCheck s (seqCtx q p i) p i by
    simp only [State.check, show (seqCtx q p i).who = .seq q from rfl, prog]]

/-- A ready instruction runs its own meaning. -/
theorem issue_seqReady {s : State} {q : Nat} {p : Prog} {i : Instr} (h : SeqReady s q p i) (body : Ctx → State → Act) :
    issue i s body = (seqCtx q p i).settle i s (body (seqCtx q p i) s) := by
  rw [issue_seq h.cur h.prog, show seqCheck s (seqCtx q p i) p i = none from h.check]
  rfl

theorem OnlyProg.refl {s : State} {q : Nat} {p : Prog} (prog : (s.quad q).running = some p) : OnlyProg s s q p :=
  ⟨rfl, by rw [← prog], fun _ _ => rfl⟩

theorem OnlyProg.modProg {s t : State} {q : Nat} {p : Prog} (h : OnlyProg s t q p) (f : Prog → Prog) : OnlyProg s (t.modProg q f) q (f p) where
  rest := by rw [h.rest]; rfl
  quad := by rw [State.modProg, State.quad_setQuad_self, h.quad]; rfl
  others j hj := by rw [State.modProg, State.quad_setQuad_ne _ hj, h.others j hj]

theorem OnlyProg.setS {s t : State} {q : Nat} {p₀ p : Prog} {i : Instr} (h : OnlyProg s t q p) (n : Nat) (x : Word) :
    OnlyProg s ((seqCtx q p₀ i).setS n x t) q { p with sregs := p.sregs.set n x } := h.modProg _

theorem OnlyProg.goto {s t : State} {q : Nat} {p₀ p : Prog} {i : Instr} (h : OnlyProg s t q p) (s₀ : State) (pc : Word) :
    ∃ u, (seqCtx q p₀ i).settle i s₀ (.goto t pc) = .next u ∧ OnlyProg s u q { p with pc := pc } := ⟨_, rfl, h.modProg _⟩

theorem OnlyProg.done {s t : State} {q : Nat} {p₀ p : Prog} {i : Instr} (h : OnlyProg s t q p) (s₀ : State) :
    ∃ u, (seqCtx q p₀ i).settle i s₀ (.done t) = .next u ∧ OnlyProg s u q { p with pc := p₀.pc + BitVec.ofNat 32 i.len } := h.goto s₀ _

/-- An instruction that writes one register. -/
theorem seq_writes {s : State} {q : Nat} {p : Prog} {i : Instr} (h : SeqReady s q p i) {body : Ctx → State → Act} (n : Nat) (x : Word)
    (run : body (seqCtx q p i) s = .done ((seqCtx q p i).setS n x s)) :
    ∃ t, issue i s body = .next t ∧ OnlyProg s t q (p.goesOn (p.sregs.set n x) (p.pc + BitVec.ofNat 32 i.len)) := by
  rw [issue_seqReady h, run]
  exact ((OnlyProg.refl h.prog).setS n x).done s

/-- A transfer of control inside the window (R83). -/
theorem seq_jumps {s t : State} {q : Nat} {p p' : Prog} {i : Instr} (h : OnlyProg s t q p') (words : Int)
    (inside : hiWord (pairOf p.window p.pc + BitVec.ofInt 64 (4 * words)) = p.window) :
    ∃ u, (seqCtx q p i).settle i s ((seqCtx q p i).jump words t) = .next u
      ∧ OnlyProg s u q { p' with pc := loWord (pairOf p.window p.pc + BitVec.ofInt 64 (4 * words)) } := by
  rw [show (seqCtx q p i).jump words t = .goto t (loWord (pairOf p.window p.pc + BitVec.ofInt 64 (4 * words))) from if_pos inside]
  exact h.goto s _

theorem killProg_only {s : State} {q : Nat} {p : Prog} (prog : (s.quad q).running = some p) (alive : p.stopped = none) (cause : Nat) (pc : Word) :
    OnlyProg s (s.killProg q cause pc) q { p with stopped := some (cause, pc) } := by
  have only := (OnlyProg.refl prog).modProg fun p => if p.stopped.isSome then p else { p with stopped := some (cause, pc) }
  rw [alive] at only
  exact only

/-- Every encoded instruction that a sequencer may not run goes through the checks of its issue first (R98). -/
theorem exec_issues (i : Instr) (h : isStep i = false) (barred : seqAllowed i = false) (s : State) : ∃ body, exec i s = issue i s body := by
  cases i
  all_goals first
    | exact Bool.noConfusion h
    | exact Bool.noConfusion barred
    | (dsimp only [exec]; exact ⟨_, rfl⟩)

end Sys2Proof.Machine
end

section
/-! OBLIGATIONS. A sequencer's instructions (R98, R99, R175-R177). -/

namespace Sys2Proof.Machine

/-- Proves O38, instruction by instruction; what a sequencer may not run ends at the check of its issue. -/
theorem sequencerInstructions : Obligations.SequencerInstructions := by
  intro s q p o sd sa imm off bo c b code i v to' next ends writes
  have opB (x : SSrc) : v x = p.opB x := by cases x <;> rfl
  have only (h : (s.quad q).running = some p) := OnlyProg.refl h
  refine ⟨fun h => ?_, fun h => ?_, fun h => ?_, fun h => ?_, fun h => ?_, fun h => ?_, fun h inside => ?_, fun h ne inside => ?_, fun h inside => ?_, fun h mult => ?_,
    fun h => ?_, fun h alive => ?_, fun cur prog encoded barred alive => ?_⟩
  · exact seq_writes h _ _ (by rw [opB, ← seqCtx_b]; rfl)
  · exact seq_writes h _ _ (by rw [opB, ← seqCtx_b]; rfl)
  · show ∃ t, execSmov false sd b s = .next t ∧ _
    rw [execSmov]
    exact seq_writes h _ _ (by rw [opB, ← seqCtx_b]; rfl)
  · show ∃ t, execSmovi sd imm s = .next t ∧ _
    rw [execSmovi]
    exact seq_writes h _ _ rfl
  · show ∃ t, execNop s = .next t ∧ _
    rw [execNop, issue_seqReady h]
    exact (only h.prog).done s
  · show ∃ t, execWaitc c b s = .next t ∧ _
    rw [execWaitc, issue_seqReady h]
    exact (only h.prog).done s
  · show ∃ t, execBra off s = .next t ∧ _
    rw [execBra, issue_seqReady h]
    exact seq_jumps (only h.prog) _ inside
  · show ∃ t, execBcc .ne sa bo s = .next t ∧ _
    rw [execBcc, issue_seqReady h]
    have taken : BccCond.ne.holds (p.sreg sa.toNat) = true := by simpa [BccCond.holds] using ne
    obtain ⟨u, run, done⟩ := seq_jumps (p := p) (i := .bcc .ne sa bo) (only h.prog) _ inside
    exact ⟨u, (congrArg _ (if_pos taken)).trans run, done⟩
  · show ∃ t, execCall off s = .next t ∧ _
    rw [execCall, issue_seqReady h]
    exact seq_jumps ((only h.prog).setS 63 (p.pc + 4)) _ inside
  · show ∃ t, execRet s = .next t ∧ _
    rw [execRet, issue_seqReady h]
    obtain ⟨u, run, done⟩ := (only h.prog).goto (p₀ := p) (i := .ret) s (p.sreg 63)
    exact ⟨u, (congrArg _ (if_neg (not_not.2 mult))).trans run, done⟩
  · show ∃ t, execExit s = .next t ∧ _
    rw [execExit, issue_seqReady h]
    exact ⟨_, rfl, (only h.prog).modProg _⟩
  · show ∃ t, execTrap code s = .next t ∧ _
    rw [execTrap, issue_seqReady h]
    exact ⟨_, rfl, killProg_only h.prog alive _ _⟩
  · obtain ⟨body, run⟩ := exec_issues i encoded barred s
    have stop : seqCheck s (seqCtx q p i) p i = some (trapAct causeSEQCTX) := if_pos (by rw [barred]; rfl)
    refine ⟨_, ?_, killProg_only prog alive causeSEQCTX p.pc⟩
    rw [run, issue_seq cur prog, stop]
    rfl

end Sys2Proof.Machine
end

section
/-! SUPPORT. A sequencer's operations that take effect at once (R176, R184, R192). -/

namespace Sys2Proof.Machine

theorem seqCtx_prog {s : State} {q : Nat} {p : Prog} {i : Instr} (prog : (s.quad q).running = some p) (f : Nat → Prog → Act) :
    (seqCtx q p i).prog s f = f q p := by
  simp only [Ctx.prog, show (seqCtx q p i).who = .seq q from rfl, prog]

theorem startOp_only {s : State} {q : Nat} {p : Prog} (prog : (s.quad q).running = some p) (o : EngOp) :
    OnlyProg s (s.startOp q o) q { p with ops := p.ops ++ [(p.nextOp, o)], nextOp := p.nextOp + 1 } := (OnlyProg.refl prog).modProg _

/-- An operation left for the engine (R176). -/
theorem seq_issues {s : State} {q : Nat} {p : Prog} {i : Instr} (h : SeqReady s q p i) {body : Ctx → State → Act} (o : EngOp)
    (run : body (seqCtx q p i) s = .done (s.startOp q o)) : ∃ t, issue i s body = .next t ∧ OnlyProg s t q (p.issued o i) := by
  rw [issue_seqReady h, run]
  exact (startOp_only h.prog o).done s

/-- A program's only operation, a clearing of regions, takes effect. -/
theorem settleOps_mzero {s : State} {q id regs : Nat} {p : Prog} {o : EngOp} (prog : (s.quad q).running = some p) (ops : p.ops = [(id, o)])
    (kind : o.kind = .mzero regs) : s.settleOps q 1 = (s.zeroRegions p.vf q regs).modProg q fun p => { p with ops := tdel id p.ops } := by
  have before : p.before id = [] := by
    rw [Prog.before, ops, List.filter_cons_of_neg (by simp)]
    rfl
  unfold State.settleOps
  simp only [prog, ops, List.find?_cons, kind, before, List.all_nil]
  rfl

/-- A program's only operation, a release of a range that it has, takes effect. -/
theorem settleOps_release {s : State} {q id base sd : Nat} {p : Prog} {o : EngOp} (prog : (s.quad q).running = some p) (ops : p.ops = [(id, o)])
    (kind : o.kind = .release base sd) (found : ∃ x ∈ (s.quad q).ranges, x.vf = p.vf ∧ x.base = base) :
    s.settleOps q 1 = ((s.setQuad q { s.quad q with ranges := (s.quad q).ranges.filter fun r => !(r.vf == p.vf && r.base == base) }).modProg q
        fun p => { p with sregs := p.sregs.set sd 0 }).modProg q fun p => { p with ops := tdel id p.ops } := by
  have before : p.before id = [] := by
    rw [Prog.before, ops, List.filter_cons_of_neg (by simp)]
    rfl
  have some' : (s.quad q).ranges.any (fun r => r.vf == p.vf && r.base == base) = true := by
    obtain ⟨x, hx, vf, hb⟩ := found
    exact List.any_eq_true.2 ⟨x, hx, by simp [vf, hb]⟩
  unfold State.settleOps
  simp only [prog, ops, List.find?_cons, kind, before, List.all_nil, some', if_true]
  rfl

/-! ### Accumulator rows -/

/-- `t` is `s` but for the accumulator. -/
def Clears (s t : State) : Prop := t = { s with acc := t.acc, rows := t.rows }

theorem Clears.trans {s t u : State} (h : Clears s t) (k : Clears t u) : Clears s u := by
  unfold Clears at *
  rw [h] at k
  exact k

/-- The step of `zeroRegions` for one row. -/
def State.zeroRow (v q regs : Nat) (s : State) (r : Nat) : State :=
  if regs.testBit (r / 64) then
    match s.accRow v q r with
    | some row => { s with acc := s.acc.zero (row * 2048) 2048, rows := tdel row s.rows }
    | none => s
  else s

theorem zeroRow_spec {s : State} (wf : s.acc.wf = true) (v q regs r : Nat) :
    Clears s (s.zeroRow v q regs r)
      ∧ (s.zeroRow v q regs r).acc.wf = true
      ∧ ∀ a, (s.zeroRow v q regs r).acc.get a = if regs.testBit (r / 64) = true ∧ s.accRow v q r = some (a / 2048) then 0 else s.acc.get a := by
  unfold State.zeroRow
  by_cases bit : regs.testBit (r / 64) = true
  · rw [if_pos bit]
    cases hr : s.accRow v q r with
    | none => exact ⟨rfl, wf, fun a => (if_neg (by nofun)).symm⟩
    | some row =>
      refine ⟨rfl, Mem.wf_zero _ _ wf, fun a => (Mem.get_zero wf _ _ a).trans ?_⟩
      refine if_congr ⟨fun inside => ⟨bit, congrArg some ?_⟩, fun same => ?_⟩ rfl rfl
      · omega
      · have := Option.some.inj same.2
        omega
  · rw [if_neg bit]
    exact ⟨rfl, wf, fun a => (if_neg fun h => bit h.1).symm⟩

theorem zeroRows_spec (v q regs : Nat) (l : List Nat) : ∀ {s : State}, s.acc.wf = true → let t := l.foldl (State.zeroRow v q regs) s
    Clears s t
      ∧ ∀ a, t.acc.get a = if ∃ r ∈ l, regs.testBit (r / 64) = true ∧ s.accRow v q r = some (a / 2048) then 0 else s.acc.get a := by
  induction l with
  | nil => exact fun _ => ⟨rfl, fun a => (if_neg (by nofun)).symm⟩
  | cons r l ih =>
    intro s wf t
    obtain ⟨rest, wf', get⟩ := zeroRow_spec wf v q regs r
    obtain ⟨rest', get'⟩ := ih wf'
    have rows (r' : Nat) : (s.zeroRow v q regs r).accRow v q r' = s.accRow v q r' := by rw [show s.zeroRow v q regs r = _ from rest]; rfl
    refine ⟨rest.trans rest', fun a => (get' a).trans ?_⟩
    simp only [rows, get a]
    · by_cases later : ∃ r' ∈ l, regs.testBit (r' / 64) = true ∧ s.accRow v q r' = some (a / 2048)
      · obtain ⟨r', hr', h⟩ := later
        rw [if_pos ⟨r', hr', h⟩, if_pos ⟨r', List.mem_cons_of_mem _ hr', h⟩]
      · rw [if_neg later]
        refine if_congr ⟨fun h => ⟨r, List.mem_cons_self, h⟩, fun ⟨r', hr', h⟩ => ?_⟩ rfl rfl
        rcases List.mem_cons.1 hr' with rfl | hr'
        · exact h
        · exact absurd ⟨r', hr', h⟩ later

end Sys2Proof.Machine
end

section
/-! OBLIGATIONS. The sequencer family at its issue (R176, R184-R192, R305-R309, R315-R318). -/

namespace Sys2Proof.Machine

/-- Undefined bytes of a weight buffer (R1, R182). -/
theorem wbufUndefine_frame (s : State) (v q off n : Nat) :
    s.wbufUndefine v q off n = { s with wbuf := (s.wbufUndefine v q off n).wbuf, wdup := (s.wbufUndefine v q off n).wdup, fresh := s.fresh + 1 } := by
  have all (l : List Nat) : ∀ t : State, t = { s with wbuf := t.wbuf, wdup := t.wdup, fresh := s.fresh + 1 } →
      let u := l.foldl (fun (s : State) j =>
        let lo := max off (j * Config.wbufQuarterBytes)
        let hi := min (off + n) ((j + 1) * Config.wbufQuarterBytes)
        match s.wbufKey v q lo with
        | some k => { s with wbuf := s.wbuf.undefine k (hi - lo) s.fresh, wdup := s.wdup.undefine k (hi - lo) s.fresh }
        | none => s) t
      u = { s with wbuf := u.wbuf, wdup := u.wdup, fresh := s.fresh + 1 } := by
    induction l with
    | nil => exact fun t h => h
    | cons j l ih =>
      intro t h
      refine ih _ ?_
      simp only
      split
      · rw [h]
      · exact h
  exact all (List.range 4) { s with fresh := s.fresh + 1 } rfl

/-- A program's instruction that ends with `t`, in whose quad the program is `p'`: it goes on. -/
theorem seq_goesOn {s t : State} {q : Nat} {p p' : Prog} {i : Instr} (prog : (t.quad q).running = some p') :
    ∃ u, (seqCtx q p i).settle i s (.done t) = .next u ∧ OnlyProg t u q { p' with pc := p.pc + BitVec.ofNat 32 i.len } :=
  (OnlyProg.refl prog).done s

theorem wbufUndefine_quad (s : State) (v q off n j : Nat) : (s.wbufUndefine v q off n).quad j = s.quad j := by
  rw [State.quad, wbufUndefine_frame]
  rfl

/-- The program of quad `q` after a range joined the quad's list. -/
def State.withRange (s : State) (q : Nat) (p : Prog) (r : WRange) : State :=
  (s.setQuad q { s.quad q with ranges := (s.quad q).ranges ++ [r] }).wbufUndefine p.vf q r.base r.bytes

theorem withRange_quad (s : State) (q : Nat) (p : Prog) (r : WRange) :
    (s.withRange q p r).quad q = { s.quad q with ranges := (s.quad q).ranges ++ [r] } := by
  rw [State.withRange, wbufUndefine_quad, State.quad_setQuad_self]

theorem withRange_other (s : State) {q j : Nat} (p : Prog) (r : WRange) (hj : j ≠ q) : (s.withRange q p r).quad j = s.quad j := by
  rw [State.withRange, wbufUndefine_quad, State.quad_setQuad_ne _ hj]

theorem withRange_frame (s : State) (q : Nat) (p : Prog) (r : WRange) :
    s.withRange q p r = { s with quads := (s.withRange q p r).quads, wbuf := (s.withRange q p r).wbuf, wdup := (s.withRange q p r).wdup, fresh := s.fresh + 1 } := by
  obtain ⟨u, hu⟩ : ∃ u, s.setQuad q { s.quad q with ranges := (s.quad q).ranges ++ [r] } = u := ⟨_, rfl⟩
  have base : u = { s with quads := u.quads } := by rw [← hu]; rfl
  rw [State.withRange, hu, wbufUndefine_frame]
  rw [base]

/-- Proves O39, instruction by instruction. -/
theorem engineInstructions : Obligations.EngineInstructions := by
  intro s q p fmt sps ts sh dst min sd sa sb len blk m acc km df regs r off ks qd rows ring src issues mine n mres row fits norm
  have undense (dense : ¬ (ts = true ∧ fmt = .bf16)) (mult : n % 256 = 0) : ¬ (n % 256 ≠ 0 ∨ (ts = true ∧ fmt = .bf16)) := fun h => h.elim (fun h => h mult) dense
  refine ⟨fun h some' mult dense room free => ?_, fun h some' mult dense full => ?_, fun h none ops held => ?_, fun h => ?_, fun h range inside => ?_,
    fun h fit range slots => ?_, fun held h fit range slots norms => ?_, fun h fit ok slots => ?_, fun h fit ok => ?_, fun h ops wf inside => ?_⟩
  · -- MRES of a size
    obtain ⟨u, hu⟩ : ∃ u, s.withRange q p { vf := p.vf, base := off, bytes := n, fmt := fmt, sp := sps, ts := ts } = u := ⟨_, rfl⟩
    have quad := hu ▸ withRange_quad s q p _
    have prog : (u.quad q).running = some p := by rw [quad]; exact h.prog
    obtain ⟨t, run, rest, tquad, tothers⟩ := ((OnlyProg.refl prog).setS (p₀ := p) (i := mres) sd.toNat (BitVec.ofNat 32 off)).done s
    refine ⟨t, ?_, ?_, ?_, fun j hj => (tothers j hj).trans (hu ▸ withRange_other s p _ hj)⟩
    · show execMres fmt sps ts sd sa s = _
      rw [execMres, issue_seqReady h, ← run, ← hu]
      have free' : freeOffset ((s.quad q).ranges.filter fun x => x.vf == p.vf) (s.wbufSpace p.vf q) ((seqCtx q p mres).s sa.toNat).toNat = some off := free
      refine congrArg _ ((seqCtx_prog h.prog _).trans ((if_neg some').trans ((if_neg (undense dense mult)).trans ?_)))
      rw [if_pos room, free']
      rfl
    · have frame := hu ▸ withRange_frame s q p _
      rw [rest, frame]
    · rw [tquad, quad]
      rfl
  · -- MRES of a size that finds no place
    show ∃ t, execMres fmt sps ts sd sa s = .next t ∧ _
    rw [execMres]
    refine seq_writes h _ _ ((seqCtx_prog h.prog _).trans ((if_neg some').trans ((if_neg (undense dense mult)).trans ?_)))
    have none' : (if mine.length < Config.recordsPerQuarter * (tgetD (q % 64) [] (s.vf p.vf).quarters).length then freeOffset mine (s.wbufSpace p.vf q) n else none) = none := by
      split
      · next room => exact full.resolve_left (not_le.2 room)
      · rfl
    split
    · rfl
    · next off' place => exact nomatch place.symm.trans none'
  · -- MRES of 0
    let o : EngOp := { kind := .release norm sd.toNat, pc := p.pc }
    have base : (s.startOp q o).quad q = { s.quad q with running := some { p with ops := [(p.nextOp, o)], nextOp := p.nextOp + 1 } } :=
      (startOp_only h.prog o).quad.trans (by rw [ops]; rfl)
    have after := settleOps_release (congrArg Quad.running base) rfl rfl (by rw [base]; exact held)
    obtain ⟨u, hu⟩ : ∃ u, (s.startOp q o).settleOps q 1 = u := ⟨_, rfl⟩
    have gone : tdel p.nextOp [(p.nextOp, o)] = [] := by simp [tdel]
    have uquad : u.quad q = { s.quad q with
        ranges := (s.quad q).ranges.filter fun x => !(x.vf == p.vf && x.base == norm)
        running := some { p with sregs := p.sregs.set sd.toNat 0, ops := [], nextOp := p.nextOp + 1 } } := by
      rw [← hu, after]
      simp only [State.modProg, State.quad_setQuad_self, base, Option.map_some, gone]
    have urest : u = { s with quads := u.quads } := by rw [← hu, after]; rfl
    obtain ⟨t, run, rest, quad, -⟩ := seq_goesOn (i := mres) (p := p) (s := s) (congrArg Quad.running uquad)
    refine ⟨t, ?_, ?_, ?_, ?_⟩
    · show execMres fmt sps ts sd sa s = _
      rw [execMres, issue_seqReady h, ← run, ← hu]
      refine congrArg _ ((seqCtx_prog h.prog _).trans ((if_pos none).trans ?_))
      rw [ops]
      rfl
    · rw [quad, uquad]
    · rw [quad, Prog.goesOn, ops]
    · rw [rest, urest]
  · -- MWLD
    intro d dal sal range keys near
    show ∃ t, execMwld len sa sb s = .next t ∧ _
    rw [execMwld]
    refine seq_issues h _ ((seqCtx_prog h.prog _).trans ((if_neg (not_not.2 dal)).trans ((if_neg (not_not.2 sal)).trans ?_)))
    simp only [show p.rangeHolding (s.quad q) ((seqCtx q p (.mwld len sa sb)).s sb.toNat).toNat (256 * len.toNat) = _ from range,
      show sourceKeys s p.core p.vf p.launch ((seqCtx q p (.mwld len sa sb)).pair sa.toNat) len.toNat = _ from keys,
      show s.busyHome p.core p.vf p.launch ((List.range len.toNat).map fun i => (seqCtx q p (.mwld len sa sb)).pair sa.toNat + BitVec.ofNat 64 (256 * i)) = _ from near]
    rfl
  · -- MLDW
    obtain ⟨t, run, only⟩ := ((startOp_only h.prog { kind := .mldw n blk.toNat, pc := p.pc, plane := some ⟨r, blk.toNat, []⟩, mldw := p.lastLoad, uses := [n] }).modProg
      fun p => { p with lastLoad := some (p.nextOp - 1) }).done (p₀ := p) (i := .mldw blk sa) s
    refine ⟨t, _, ?_, only, rfl⟩
    show execMldw blk sa s = _
    rw [execMldw, issue_seqReady h, ← run]
    refine congrArg _ ((seqCtx_prog h.prog _).trans ?_)
    simp only [show p.rangeAt (s.quad q) ((seqCtx q p (.mldw blk sa)).s sa.toNat).toNat = _ from range]
    exact if_neg (not_le.2 inside)
  · -- MMA
    show ∃ t, execMma m acc sa sb s = .next t ∧ _
    rw [execMma, issueRows]
    refine seq_issues h _ ((seqCtx_prog h.prog _).trans ?_)
    simp only [show rowRange p (s.quad q) (none : Option Reg).isSome ((seqCtx q p (.mma m acc sa sb)).ring sa.toNat)
      ((seqCtx q p (.mma m acc sa sb)).s sb.toNat).toNat = _ from range]
    refine if_neg (Bool.not_eq_true _ ▸ ?_)
    rw [show s.rowsIn p q acc.toNat (m.toNat + 1) = true from fit,
      show s.ringOutside p q ((seqCtx q p (.mma m acc sa sb)).ring sa.toNat) (WFmt.rowBytes r.fmt) (m.toNat + 1) = false from slots]
    rfl
  · -- MDIST
    show ∃ t, execMdist m acc sd sa sb s = .next t ∧ _
    rw [execMdist, issueRows]
    refine seq_issues h _ ((seqCtx_prog h.prog _).trans ?_)
    simp only [show rowRange p (s.quad q) (some sd).isSome ((seqCtx q p (.mdist m acc sd sa sb)).ring sa.toNat)
      ((seqCtx q p (.mdist m acc sd sa sb)).s sb.toNat).toNat = _ from range]
    show (if (!s.rowsIn p q acc.toNat rows || s.ringOutside p q ring (WFmt.rowBytes r.fmt) rows || (true && (p.rangeHolding qd norm (2048 + 4 * rows)).isNone)) = true
      then _ else Act.done (s.startOp q { row (.mdist norm) with
        plane := p.planeLoaded, mldw := p.lastLoad, uses := r.base :: (p.rangeHolding qd norm (2048 + 4 * rows)).toList.map WRange.base })) = _
    rw [norms, show s.rowsIn p q acc.toNat rows = true from fit, slots]
    rfl
  · -- MTOPK
    show ∃ t, execMtopk m acc km min sa sb s = .next t ∧ _
    rw [execMtopk]
    refine seq_issues h _ ((seqCtx_prog h.prog _).trans ?_)
    refine (if_neg (Bool.not_eq_true _ ▸ ok)).trans (if_neg (Bool.not_eq_true _ ▸ ?_))
    rw [show s.rowsIn p q acc.toNat (m.toNat + 1) = true from fit,
      show s.ringOutside p q ((seqCtx q p (.mtopk m acc km min sa sb)).ring sa.toNat) (8 * (km.toNat + 1)) (m.toNat + 1) = false from slots]
    rfl
  · -- MDRN
    show ∃ t, execMdrn m acc df sh dst sa sb s = .next t ∧ _
    rw [execMdrn]
    refine seq_issues h _ ((seqCtx_prog h.prog _).trans ?_)
    cases dst with
    | true =>
      refine (if_neg (Bool.not_eq_true _ ▸ rfl)).trans (if_neg (Bool.not_eq_true _ ▸ ?_))
      rw [show s.rowsIn p q acc.toNat (m.toNat + 1) = true from fit]
      rfl
    | false =>
      obtain ⟨good, slots⟩ := ok.resolve_left nofun
      refine (if_neg (Bool.not_eq_true _ ▸ good)).trans (if_neg (Bool.not_eq_true _ ▸ ?_))
      rw [show s.rowsIn p q acc.toNat (m.toNat + 1) = true from fit,
        show s.ringOutside p q (if false = true then [] else (seqCtx q p (.mdrn m acc df sh false sa sb)).ring sa.toNat) (512 * df.bytes) (m.toNat + 1) = false from slots]
      rfl
  · -- MZERO
    let o : EngOp := { kind := .mzero regs.toNat, pc := p.pc }
    have base : (s.startOp q o).quad q = { s.quad q with running := some { p with ops := [(p.nextOp, o)], nextOp := p.nextOp + 1 } } :=
      (startOp_only h.prog o).quad.trans (by rw [ops]; rfl)
    have after := settleOps_mzero (congrArg Quad.running base) rfl rfl
    obtain ⟨u, hu⟩ : ∃ u, (s.startOp q o).settleOps q 1 = u := ⟨_, rfl⟩
    have start : s.startOp q o = { s with quads := (s.startOp q o).quads } := rfl
    obtain ⟨z, hz⟩ : ∃ z, (s.startOp q o).zeroRegions p.vf q regs.toNat = z := ⟨_, rfl⟩
    have zeroed : z = (List.range 1024).foldl (State.zeroRow p.vf q regs.toNat) (s.startOp q o) := hz.symm
    obtain ⟨zrest, zget⟩ : Clears (s.startOp q o) z ∧ ∀ a, z.acc.get a = if ∃ r ∈ List.range 1024, regs.toNat.testBit (r / 64) = true ∧
        s.accRow p.vf q r = some (a / 2048) then 0 else s.acc.get a := zeroed ▸ zeroRows_spec p.vf q regs.toNat (List.range 1024) (s := s.startOp q o) wf
    have zquad : z.quad q = (s.startOp q o).quad q := by rw [show z = _ from zrest]; rfl
    have gone : tdel p.nextOp [(p.nextOp, o)] = [] := by simp [tdel]
    have urest : u = { s with quads := u.quads, acc := z.acc, rows := z.rows } := by
      rw [← hu, after, hz, show z = _ from zrest]
      rfl
    have uquad : (u.quad q).running = some { p with ops := [], nextOp := p.nextOp + 1 } := by
      rw [← hu, after, hz]
      simp only [State.modProg, State.quad_setQuad_self, zquad, base, Option.map_some, gone]
    obtain ⟨t, run, rest, quad, -⟩ := seq_goesOn (i := .mzero regs) (p := p) (s := s) uquad
    refine ⟨t, ?_, ?_, ?_, fun x a w hx bit row lo hi => ?_, fun a ha => ?_⟩
    · show execMzero regs s = _
      rw [execMzero, issue_seqReady h, ← run, ← hu]
      refine congrArg _ ((seqCtx_prog h.prog _).trans ((if_neg ?_).trans ?_))
      · intro some'
        obtain ⟨j, hj, bad⟩ := List.any_eq_true.1 some'
        obtain ⟨bit, outside⟩ := Bool.and_eq_true_iff.1 bad
        rw [inside j (List.mem_range.1 hj) bit] at outside
        exact nomatch outside
      · rw [ops]
        rfl
    · rw [quad, ops]
    · rw [rest, urest]
    · rw [show t.acc = z.acc by rw [rest, urest], zget]
      refine if_pos ⟨x, List.mem_range.2 hx, bit, row.trans (congrArg some ?_)⟩
      omega
    · rw [show t.acc = z.acc by rw [rest, urest], zget]
      exact if_neg fun ⟨x, hx, bit, row⟩ => ha x (List.mem_range.1 hx) bit row

end Sys2Proof.Machine
end

section
/-! SUPPORT. The frame of a trap (R84, R85, R229), and the entry of a handler. -/

namespace Sys2Proof.Machine

theorem tset_tset (k : Nat) (x y : α) (t : Table α) : tset k y (tset k x t) = tset k y t := by
  induction t with
  | nil => simp [tset]
  | cons p t ih =>
    rw [tset, tset]
    split
    · next lt => rw [tset, if_pos lt, ih]
    · next le =>
      split
      · rw [tset, if_neg (lt_irrefl k), if_pos rfl]
      · rw [tset, if_neg (lt_irrefl k), if_pos rfl]

theorem setGroup_setGroup (s : State) (gid : Nat) (g h : Group) : (s.setGroup gid g).setGroup gid h = s.setGroup gid h :=
  congrArg (fun gs => ({ s with groups := gs } : State)) (tset_tset gid g h s.groups)

theorem length_flatMap_of {l : List α} {f : α → List β} {n : Nat} (h : ∀ x ∈ l, (f x).length = n) : (l.flatMap f).length = n * l.length := by
  induction l with
  | nil => rfl
  | cons x l ih =>
    rw [List.flatMap_cons, List.length_append, h x List.mem_cons_self, ih fun y hy => h y (List.mem_cons_of_mem _ hy), List.length_cons]
    ring

/-- The pieces of a concatenation have one length: element `i` of piece `r`. -/
theorem getD_flatMap_of {f : α → List β} {n : Nat} (size : ∀ x, (f x).length = n) (d : β) (e : α) : ∀ (l : List α) (r i : Nat), r < l.length → i < n →
    (l.flatMap f).getD (n * r + i) d = (f (l.getD r e)).getD i d
  | [], _, _, h, _ => nomatch h
  | x :: l, 0, i, _, hi => by
    rw [List.flatMap_cons, Nat.mul_zero, Nat.zero_add, List.getD_append _ _ _ _ (by rw [size]; exact hi)]
    rfl
  | x :: l, r + 1, i, hr, hi => by
    have shift : n * (r + 1) + i = n * r + i + n := by ring
    rw [List.flatMap_cons, List.getD_append_right _ _ _ _ (by rw [size]; omega), size, shift, Nat.add_sub_cancel,
      getD_flatMap_of size d e l r i (Nat.lt_of_succ_lt_succ hr) hi]
    rfl

/-- Word `i` of a split's PC and mask in a header (R85). -/
def Group.splitWord (g : Group) (k i : Nat) : Word :=
  match tget k g.splits with
  | some x => if i = 0 then x.pc else maskWord x.mask (i - 1)
  | none => 0

/-- A split's word of SSTATE in a header (R85). -/
def Group.stateWord (g : Group) (trapping : Option Nat) (k : Nat) : Word :=
  match tget k g.splits with
  | some x => BitVec.ofNat 32 (2 ^ 31 + (if trapping = some k then 6 else x.wait.kind) * 2 ^ 28)
  | none => 0

/-- The words of a deferral entry in a header (R85). -/
def Group.deferWords (g : Group) (e : Nat) : List Word :=
  match g.defer[e]? with
  | some d => d.addr :: maskWords d.mask
  | none => [0, 0, 0, 0]

/-- The header's first 22 words: the window, the splits and their states. -/
def Group.splitsHeader (g : Group) (trapping : Option Nat) : List Word :=
  [0, g.window,
    g.splitWord 0 0, g.splitWord 0 1, g.splitWord 0 2, g.splitWord 0 3, g.splitWord 1 0, g.splitWord 1 1, g.splitWord 1 2, g.splitWord 1 3,
    g.splitWord 2 0, g.splitWord 2 1, g.splitWord 2 2, g.splitWord 2 3, g.splitWord 3 0, g.splitWord 3 1, g.splitWord 3 2, g.splitWord 3 3,
    g.stateWord trapping 0, g.stateWord trapping 1, g.stateWord trapping 2, g.stateWord trapping 3]

/-- A split's PC and mask in a header (R85). -/
def Group.slotWords (g : Group) (k : Nat) : List Word :=
  match tget k g.splits with
  | some x => x.pc :: maskWords x.mask
  | none => [0, 0, 0, 0]

theorem slotWords_eq (g : Group) (k : Nat) : g.slotWords k = [g.splitWord k 0, g.splitWord k 1, g.splitWord k 2, g.splitWord k 3] := by
  unfold Group.slotWords Group.splitWord
  cases tget k g.splits <;> rfl

theorem deferWords_length (g : Group) (e : Nat) : (g.deferWords e).length = 4 := by
  unfold Group.deferWords
  split <;> rfl

/-- The header's shape: the splits, the deferral stack, and ten more words, the second of which is GMODE. -/
theorem headerWords_eq (s : State) (gid : Nat) (g : Group) (trapping : Option Nat) (c : Nat) :
    ∃ d a₂ a₃ a₄ a₅, headerWords s gid g trapping c
      = g.splitsHeader trapping ++ ((List.range 8).flatMap g.deferWords ++ [d, g.gmode, a₂, a₃, a₄, a₅, 0, 0, 0, 0]) := by
  have shape : headerWords s gid g trapping c = [0, g.window] ++ (g.slotWords 0 ++ g.slotWords 1 ++ g.slotWords 2 ++ g.slotWords 3)
      ++ [g.stateWord trapping 0, g.stateWord trapping 1, g.stateWord trapping 2, g.stateWord trapping 3]
      ++ (List.range 8).flatMap g.deferWords ++ [_, g.gmode, _, _, _, _, 0, 0, 0, 0] := rfl
  rw [shape, List.append_assoc]
  simp only [slotWords_eq]
  exact ⟨_, _, _, _, _, rfl⟩

theorem headerWords_length (s : State) (gid : Nat) (g : Group) (trapping : Option Nat) (c : Nat) : (headerWords s gid g trapping c).length = 64 := by
  obtain ⟨_, _, _, _, _, shape⟩ := headerWords_eq s gid g trapping c
  rw [shape, List.length_append, List.length_append, length_flatMap_of fun e _ => deferWords_length g e]
  rfl

theorem headerWords_splits (s : State) (gid : Nat) (g : Group) (trapping : Option Nat) (c : Nat) {n : Nat} (h : n < 22) :
    (headerWords s gid g trapping c).getD n 0 = (g.splitsHeader trapping).getD n 0 := by
  obtain ⟨_, _, _, _, _, shape⟩ := headerWords_eq s gid g trapping c
  rw [shape, List.getD_append _ _ _ _ h]

theorem headerWords_gmode (s : State) (gid : Nat) (g : Group) (trapping : Option Nat) (c : Nat) : (headerWords s gid g trapping c).getD 55 0 = g.gmode := by
  obtain ⟨_, _, _, _, _, shape⟩ := headerWords_eq s gid g trapping c
  have stack : ((List.range 8).flatMap g.deferWords).length = 32 := length_flatMap_of fun e _ => deferWords_length g e
  have splits : (g.splitsHeader trapping).length = 22 := rfl
  rw [shape, List.getD_append_right _ _ _ _ (by omega), List.getD_append_right _ _ _ _ (by omega), stack, splits]
  rfl

/-- The words of the splits in a header. -/
theorem splitsHeader_word (g : Group) (trapping : Option Nat) {j i : Nat} (hj : j < 4) (hi : i < 4) :
    (g.splitsHeader trapping).getD (2 + 4 * j + i) 0 = g.splitWord j i := by
  interval_cases j <;> interval_cases i <;> rfl

theorem splitsHeader_state (g : Group) (trapping : Option Nat) {j : Nat} (hj : j < 4) : (g.splitsHeader trapping).getD (18 + j) 0 = g.stateWord trapping j := by
  interval_cases j <;> rfl

/-- What the flat frame holds (R229). -/
structure Framed (f : List Word) (g : Group) (k : Nat) : Prop where
  head : ∀ n, n < 22 → f.getD n 0 = (g.splitsHeader (some k)).getD n 0
  gmode : f.getD 55 0 = g.gmode
  sregs : ∀ n, n < 125 → f.getD (64 + n) 0 = g.sregs.getD n 0
  vregs : ∀ r l, r < g.count → l < 96 → f.getD (224 + 96 * r + l) 0 = (g.v r).lane l

theorem flatFrame_framed (s : State) (gid : Nat) (g : Group) (k : Nat) (scalars : g.sregs.length = 125) (vectors : g.vregs.length = g.count) :
    Framed (flatFrame s gid g k) g k := by
  obtain ⟨h, hh⟩ : ∃ h, headerWords s gid g (some k) 0 = h := ⟨_, rfl⟩
  have size : h.length = 64 := hh ▸ headerWords_length ..
  have shape : flatFrame s gid g k = h ++ (g.sregs ++ ([0, 0, 0] ++ (tagWords g.vregs ++ g.vregs.flatMap fun r => lanes.map r.lane))) := by
    rw [flatFrame, hh, scalarWords]
    simp only [List.append_assoc]
  have tags : (tagWords g.vregs).length = 32 := by rw [tagWords, List.length_map, List.length_range]
  rw [shape]
  refine ⟨fun n hn => ?_, ?_, fun n hn => ?_, fun r l hr hl => ?_⟩
  · rw [List.getD_append _ _ _ _ (by omega), ← hh, headerWords_splits _ _ _ _ _ hn]
  · rw [List.getD_append _ _ _ _ (by omega), ← hh, headerWords_gmode]
  · rw [List.getD_append_right _ _ _ _ (by omega), size, Nat.add_sub_cancel_left, List.getD_append _ _ _ _ (by omega)]
  · have pieces : ∀ x : VReg, (lanes.map x.lane).length = 96 := fun x => by rw [List.length_map]; rfl
    rw [List.getD_append_right _ _ _ _ (by omega), List.getD_append_right _ _ _ _ (by omega), List.getD_append_right _ _ _ _ (by simp only [List.length_cons, List.length_nil]; omega),
      List.getD_append_right _ _ _ _ (by simp only [List.length_cons, List.length_nil]; omega), tags, size, scalars,
      show 224 + 96 * r + l - 64 - 125 - [(0 : Word), 0, 0].length - 32 = 96 * r + l by simp only [List.length_cons, List.length_nil]; omega,
      getD_flatMap_of pieces 0 (.u 0) _ _ _ (by omega) hl, Group.v]
    simp [lanes, nLanes, hl]

/-- A killed group of a state that differs from `s` in group `gid` and the quads alone. -/
theorem Killed.of_pending {s u t : State} {gid : Nat} {g h : Group} {cause : Nat} {pc : Word} (killed : Killed u t gid h cause pc)
    (launch : h.launch = g.launch) (core : h.core = g.core) (launches : u.launches = s.launches) : Killed s t gid g cause pc := by
  unfold Killed at *
  rw [launch, core, launches] at killed
  exact killed

theorem tellFate_launches (s : State) (info : TrapInfo) : (s.tellFate info).launches = s.launches := by
  unfold State.tellFate
  split <;> rfl

theorem tellFate_groups (s : State) (info : TrapInfo) : (s.tellFate info).groups = s.groups := by
  unfold State.tellFate
  split <;> rfl

theorem tellFate_setGroup (s : State) (gid : Nat) (g : Group) (info : TrapInfo) : (s.setGroup gid g).tellFate info = (s.tellFate info).setGroup gid g := by
  unfold State.tellFate
  split <;> rfl

theorem tellFate_now (s : State) (info : TrapInfo) : (s.tellFate info).now = s.now := by
  unfold State.tellFate
  split <;> rfl

theorem dues_empty {g : Group} (due : ∀ p ∈ g.splits, p.2.due = none) (now : Nat) : g.dues now = [] := by
  rw [Group.dues, List.filterMap_eq_nil_iff]
  intro p hp
  rw [due p hp]
  rfl

theorem dueBefore_none {g : Group} (due : ∀ p ∈ g.splits, p.2.due = none) (now order : Nat) : g.dueBefore now order = false := by
  rw [Group.dueBefore, dues_empty due]
  rfl

end Sys2Proof.Machine
end

section
/-! OBLIGATIONS. Trap entry and nested traps (R227-R229, R234, R235). -/

namespace Sys2Proof.Machine

/-- A cause of a group outside trap mode with no other trap pending or due is recorded, and taken at once where the scoreboard has drained. -/
theorem raise_recorded {s : State} {gid : Nat} {g : Group} (info : TrapInfo) (pc : Word) (hg : s.group? gid = some g) (due : ∀ p ∈ g.splits, p.2.due = none)
    (trap : g.trap = none) (pend : g.pend = none) :
    let noted : TrapInfo := if info.order = 0 then { info with order := s.nextId } else info
    let raised : Group := { g with splits := tmod info.split (fun x => x.rest pc) g.splits, rinstr := g.rinstr.filter fun r => r.split != info.split }
    s.raise gid info pc = if raised.drained info.split = true then (s.setGroup gid raised).enterTrap gid noted else s.setGroup gid { raised with pend := some noted } := by
  intro noted raised
  have split : noted.split = info.split := by
    show (if _ then _ else _ : TrapInfo).split = _
    split <;> rfl
  have calm := dueBefore_none due s.nextId noted.order
  obtain ⟨⟩ := g
  simp only at trap pend
  subst trap pend
  unfold State.raise
  simp only [hg, Option.isSome_none, Bool.false_eq_true, if_false]
  rw [show (if info.order = 0 then { info with order := s.nextId } else info : TrapInfo) = noted from rfl, calm, split]
  rfl

theorem execTrapEntry_drained {s : State} {gid : Nat} {g : Group} {info : TrapInfo} (hg : s.group? gid = some g) (pend : g.pend = some info)
    (due : ∀ p ∈ g.splits, p.2.due = none) (drained : g.drained info.split = true) :
    exec (.trapEntry gid) s = .next ((s.setGroup gid { g with pend := none }).enterTrap gid info) := by
  show execTrapEntry gid s = _
  simp only [execTrapEntry, hg, pend, dueBefore_none due, drained, Bool.false_eq_true, if_false, if_true]

theorem enterTrap_handler {s : State} {gid : Nat} {g : Group} {info : TrapInfo} (hg : s.group? gid = some g) (handler : (s.vf g.vf).thandler ≠ 0) :
    s.enterTrap gid info = (s.tellFate info).setGroup gid (g.fresh (s.vf g.vf).thandler s.now
      ⟨info, 0, 0, 0, flatFrame (s.tellFate info) gid g info.split, g.splits.map (fun p => p.1), g.exited, g.splits, [], g.fl.length⟩) := by
  simp only [State.enterTrap, hg, if_neg handler, tellFate_now]
  rfl

theorem enterTrap_kill {s : State} {gid : Nat} {g : Group} {info : TrapInfo} (hg : s.group? gid = some g) (none : (s.vf g.vf).thandler = 0) :
    s.enterTrap gid info = (s.tellFate info).kill gid info.cause info.pc := by
  simp only [State.enterTrap, hg, none, if_true]

theorem tellFate_group (s : State) (info : TrapInfo) (j : Nat) : (s.tellFate info).group? j = s.group? j := by
  rw [State.group?, tellFate_groups]
  rfl

theorem nested_restart {s : State} {gid : Nat} {g : Group} {tm : TrapMode} {cause : Nat} (pc : Word) (hg : s.group? gid = some g) (trap : g.trap = some tm) (nest : tm.nest < 3) :
    s.nested gid cause pc = s.setGroup gid (g.fresh (s.vf g.vf).thandler s.now
      { tm with nest := tm.nest + 1, ncause := cause, npc := pc, known := if cause = causeFABLOST then g.fl.length else tm.known }) := by
  simp only [State.nested, hg, trap, if_neg (by omega : ¬ 4 ≤ tm.nest + 1)]
  rfl

theorem nested_fourth {s : State} {gid : Nat} {g : Group} {tm : TrapMode} {cause : Nat} (pc : Word) (hg : s.group? gid = some g) (trap : g.trap = some tm) (nest : 3 ≤ tm.nest) :
    s.nested gid cause pc = s.kill gid cause pc := by
  simp only [State.nested, hg, trap, if_pos (by omega : 4 ≤ tm.nest + 1)]

/-- The causes that a handler's own instruction can raise (R234). -/
theorem nestable_iff (c : Nat) : nestable c = true ↔ 1 ≤ c ∧ c ≤ 0x14 ∧ c ≠ 0x11 ∧ c ≠ 0x09 ∧ c ≠ 0x0A := by
  simp only [nestable, Bool.and_eq_true, bne_iff_ne, decide_eq_true_iff, and_assoc]
  exact Iff.rfl

/-- Proves O20, the first entry and the nested ones. -/
theorem trapEntry : Obligations.TrapEntry := by
  refine ⟨fun s gid g info pc => ?_, fun s gid n g tm sp rest cause hg trap splits => ?_⟩
  · intro raised entry noted hg due
    refine ⟨fun trap pend => ⟨fun busy => ?_, fun drained => ?_⟩, fun pend drained handler => ?_, fun pend drained none life task => ?_⟩
    · have busy' : ¬ raised.drained info.split = true := by rw [busy]; nofun
      rw [show s.raise gid info pc = _ from (raise_recorded info pc hg due trap pend).trans (if_neg busy')]
      exact (OnlyGroup.refl hg).setGroup _
    · rw [show s.raise gid info pc = _ from (raise_recorded info pc hg due trap pend).trans (if_pos drained)]
      have split : noted.split = info.split := by
        show (if _ then _ else _ : TrapInfo).split = _
        split <;> rfl
      have due' : ∀ p ∈ raised.splits, p.2.due = .none := by
        intro p hp
        obtain ⟨x, hx, rfl⟩ := List.mem_map.1 hp
        by_cases own : x.1 = info.split
        · rw [if_pos own]
          exact due x hx
        · rw [if_neg own]
          exact due x hx
      refine (execTrapEntry_drained (g := { raised with pend := some noted }) (info := noted) (State.group_setGroup_self ..) rfl due' ?_).trans ?_
      · rw [split]
        exact drained
      rw [setGroup_setGroup]
      exact congrArg (fun x => Host.Outcome.next (State.enterTrap (s.setGroup gid { raised with pend := x }) gid noted)) pend.symm
    · rw [execTrapEntry_drained hg pend due drained]
      have hg' : (s.setGroup gid { g with pend := .none }).group? gid = some { g with pend := .none } := State.group_setGroup_self ..
      rw [enterTrap_handler hg' handler, tellFate_setGroup, setGroup_setGroup]
      refine ⟨_, _, rfl, (OnlyGroup.refl ((tellFate_group ..).trans hg)).setGroup _, fun scalars vectors => ?_⟩
      obtain ⟨head, gmode, sregs, vregs⟩ := flatFrame_framed ((s.tellFate info).setGroup gid { g with pend := .none }) gid { g with pend := .none } info.split scalars vectors
      refine ⟨head 1 (by omega), gmode, fun j x hj hx => ⟨?_, fun w hw => ?_, ?_⟩, fun j hj empty => ?_, sregs, vregs⟩
      · rw [head _ (by omega), ← Nat.add_zero (2 + 4 * j), splitsHeader_word _ _ hj (by omega : 0 < 4), Group.splitWord, show tget j _ = _ from hx]
        rfl
      · rw [head _ (by omega), show 3 + 4 * j + w = 2 + 4 * j + (w + 1) by omega, splitsHeader_word _ _ hj (by omega), Group.splitWord, show tget j _ = _ from hx]
        rfl
      · rw [head _ (by omega), splitsHeader_state _ _ hj, Group.stateWord, show tget j _ = _ from hx]
        simp only [Option.some.injEq, eq_comm]
      · rw [head _ (by omega), splitsHeader_state _ _ hj, Group.stateWord, show tget j _ = _ from empty]
    · rw [execTrapEntry_drained hg pend due drained]
      have hg' : (s.setGroup gid { g with pend := .none }).group? gid = some { g with pend := .none } := State.group_setGroup_self ..
      rw [enterTrap_kill hg' none]
      refine ⟨_, rfl, (kill_killed (g := { g with pend := .none }) info.cause info.pc ((tellFate_group ..).trans hg') ?_ task).of_pending rfl rfl (tellFate_launches ..)⟩
      rw [show Group.life _ = .resident from life]
      nofun
  · intro can
    have run (h : can) : exec (.nestedTrap gid cause) s = .next (s.nested gid cause.toNat sp.pc) := by
      show execNestedTrap gid cause s = _
      rw [execNestedTrap, (nestable_iff _).2 h, hg]
      simp only [Option.bind_some, splits, List.head?_cons, Option.map_some, Option.getD_some, Bool.not_true, Bool.false_eq_true, if_false]
    refine ⟨fun cannot => ?_, fun can nest => ?_, fun can nest life task => ?_⟩
    · have cannot' : nestable cause.toNat = false := Bool.not_eq_true _ ▸ fun h => cannot ((nestable_iff _).1 h)
      show execNestedTrap gid cause s = _
      rw [execNestedTrap, cannot']
      rfl
    · rw [Leaves, run can, nested_restart sp.pc hg trap nest]
      exact ⟨_, rfl, (OnlyGroup.refl hg).setGroup _⟩
    · rw [run can, nested_fourth sp.pc hg trap nest]
      exact ⟨_, rfl, kill_killed _ _ hg (by rw [life]; nofun) task⟩

end Sys2Proof.Machine
end

section
/-! SUPPORT. What the loss of a core leaves (R222, R245): every core's own record of being lost. -/

namespace Sys2Proof.Machine

/-- No core is lost or found again. -/
def SameLost (s t : State) : Prop := ∀ c, (t.coreAt c).lost = (s.coreAt c).lost

theorem SameLost.trans {s t u : State} (h : SameLost s t) (k : SameLost t u) : SameLost s u := fun c => (k c).trans (h c)

theorem SameLost.of_cores {s t : State} (h : t.cores = s.cores) : SameLost s t := fun c => by rw [State.coreAt, h]; rfl

theorem SameLost.foldl {α : Type} {f : State → α → State} (h : ∀ s x, SameLost s (f s x)) (l : List α) : ∀ s, SameLost s (l.foldl f s) := by
  induction l with
  | nil => exact fun _ _ => rfl
  | cons x l ih => exact fun s => (h s x).trans (ih _)

theorem loadByte_lost (s : State) (key : Nat) (b : Byte) : SameLost s (s.loadByte key b) := by
  intro c
  have core := tgetD_map_values (fun x : Core => { x with icache := freshWord key x.icache }) s.cores c {} (e := {}) rfl
  exact Eq.trans (b := (Core.lost _)) rfl ((congrArg Core.lost core).trans rfl)

theorem putCoords_lost (s : State) (v : Nat) (m : Image) (copy : Option Nat) (bytes : List Byte) : SameLost s (s.putCoords v m copy bytes) := by
  refine .foldl (fun s x => ?_) _ s
  split
  · exact loadByte_lost _ _ _
  · exact fun _ => rfl

theorem copyImage_lost (s : State) (v : Nat) (m : Image) (bytes coords : List Byte) : SameLost s (s.copyImage v m bytes coords).1 := by
  have copied := putCoords_lost { s with mem := s.mem.putAll (copyKey s.nextId m.base) bytes, nextId := s.nextId + 1 } v m (some s.nextId) coords
  exact copied

theorem loadImage_lost (s : State) (v : Nat) (m : Image) : SameLost s (s.loadImage v m).1 := by
  unfold State.loadImage
  simp only
  split
  · exact fun _ => rfl
  · split
    · exact putCoords_lost s v m none _
    · exact copyImage_lost _ _ _ _ _

theorem reloadImage_lost (s : State) (lid v : Nat) (m : Image) (u : ImageUse) : SameLost s (s.reloadImage lid v m u).1 := by
  unfold State.reloadImage
  simp only
  split
  · exact fun _ => rfl
  · split
    · exact copyImage_lost _ _ _ _ _
    · exact putCoords_lost s v m u.copy _

theorem useImages_lost (s : State) (lid : Nat) (ms : List Image) {f : State → Image → State × ImageUse} (h : ∀ s m, SameLost s (f s m).1) :
    SameLost s (s.useImages lid ms f) := by
  have all (ms : List Image) : ∀ r : State × List ImageUse,
      SameLost r.1 (ms.foldl (fun (r : State × List ImageUse) m => let x := f r.1 m; (x.1, r.2 ++ [x.2])) r).1 := by
    induction ms with
    | nil => exact fun _ _ => rfl
    | cons m ms ih => exact fun r => (h r.1 m).trans (ih _)
  exact all ms (s, [])

theorem rehome_lost (s : State) (uid : Nat) (t : Task) : SameLost s (s.rehome uid t) := by
  unfold State.rehome
  simp only
  split
  · refine SameLost.trans (fun _ => rfl) (useImages_lost _ _ _ fun s m => ?_)
    split
    · exact reloadImage_lost _ _ _ _ _
    · exact loadImage_lost _ _ _
  · exact fun _ => rfl

theorem kill_cores (s : State) (gid cause : Nat) (pc : Word) : (s.kill gid cause pc).cores = s.cores := by
  unfold State.kill
  split
  · rfl
  · split
    · rfl
    · simp only
      rw [show State.cores _ = _ from congrArg State.cores (retireAll_keeps true _ _).1]
      split <;> rfl

/-- A core that is lost stays so. -/
theorem loseCore_lost (s : State) (core : Nat) : ((s.loseCore core).coreAt core).lost = true := by
  have kept : SameLost (s.setCore core { s.coreAt core with lost := true }) (s.loseCore core) := by
    unfold State.loseCore
    simp only
    refine SameLost.trans ?_ (.foldl (fun s x => ?_) _ _)
    · refine SameLost.trans (fun _ => rfl) (.foldl (fun s p => ?_) _ _)
      exact .of_cores (kill_cores ..)
    · split
      · exact rehome_lost _ _ _
      · exact fun _ => rfl
  rw [kept core, State.coreAt_setCore_self]

end Sys2Proof.Machine
end

section
/-! SUPPORT. What the shadow unit recomputes (R244, R245), and an uncorrectable error that an access consumes (R246). -/

namespace Sys2Proof.Machine

/-- The instructions that the shadow unit recomputes, with the exact value of each. -/
def Recomputed (f : Instr) (v : VBin) (exact : ExactVal → ExactVal → ExactVal → ExactVal) : Prop :=
  (f = .vfadd v ∧ exact = fun a b _ => a.add false b) ∨ (f = .vfsub v ∧ exact = fun a b _ => a.add false b.neg)
    ∨ (f = .vfmul v ∧ exact = fun a b _ => a.mul b) ∨ (f = .vfma .pp v ∧ exact = fun a b d => (a.mul b).add false d)
    ∨ (f = .vfma .np v ∧ exact = fun a b d => (a.mul b).neg.add false d) ∨ (f = .vfma .nc v ∧ exact = fun a b d => (a.mul b).add false d.neg)
    ∨ (f = .vfma .npc v ∧ exact = fun a b d => (a.mul b).neg.add false d.neg)

/-- What each of them does: the float mould of R375 with one rounding of the exact value. -/
theorem Recomputed.runs {f : Instr} {v : VBin} {exact : ExactVal → ExactVal → ExactVal → ExactVal} (h : Recomputed f v exact) :
    ∃ b, isEngine f = false ∧ isVector f = true
      ∧ (∀ s, exec f s = issue f s (floatBin v b fun x y z => roundRne (exact (ofF32 x) (ofF32 y) (ofF32 z))))
      ∧ shadowed f = some (v, (fun x y z => exact (ofF32 x) (ofF32 y) (ofF32 z)), exec f)
      ∧ (b = false → ∀ x y z z', exact x y z = exact x y z') := by
  rcases h with ⟨rfl, rfl⟩ | ⟨rfl, rfl⟩ | ⟨rfl, rfl⟩ | ⟨rfl, rfl⟩ | ⟨rfl, rfl⟩ | ⟨rfl, rfl⟩ | ⟨rfl, rfl⟩
  · exact ⟨false, rfl, rfl, fun _ => rfl, rfl, fun _ _ _ _ _ => rfl⟩
  · exact ⟨false, rfl, rfl, fun _ => rfl, rfl, fun _ _ _ _ _ => rfl⟩
  · exact ⟨false, rfl, rfl, fun _ => rfl, rfl, fun _ _ _ _ _ => rfl⟩
  · exact ⟨true, rfl, rfl, fun _ => rfl, rfl, nofun⟩
  · exact ⟨true, rfl, rfl, fun _ => rfl, rfl, nofun⟩
  · exact ⟨true, rfl, rfl, fun _ => rfl, rfl, nofun⟩
  · exact ⟨true, rfl, rfl, fun _ => rfl, rfl, nofun⟩

theorem watchAct_quiet {gid k : Nat} {g : Group} {sp : Split} {i : Instr} {rd wr : Bool} {size : Nat} {xs : List LaneAt}
    (quiet : g.trap.isSome = true ∨ ∀ x ∈ xs, watchHit g.dbg rd wr size x.a = none) : watchAct (groupCtx gid k g sp i) rd wr size xs = none := by
  unfold watchAct
  rw [groupCtx_seq, groupCtx_g, Bool.false_or]
  rcases quiet with inside | quiet
  · exact if_pos inside
  · split
    · rfl
    · rw [List.findSome?_eq_none_iff]
      intro x hx
      rw [quiet x hx]
      rfl

/-- An access of a resident group that consumes an uncorrectable error kills it, and the error is gone. -/
theorem uce_kills {s : State} {gid k : Nat} {g : Group} {sp : Split} {i : Instr} {size : Nat} {x : LaneAt} {xs : List LaneAt} (hg : s.group? gid = some g)
    (life : g.life = .resident) (task : g.task = none) (first : xs.find? (fun x => !x.remote && s.badAt x.key size) = some x) :
    ∃ t, uceAct (groupCtx gid k g sp i) s size false xs = some (.away t) ∧ Killed s t gid g causeUCE sp.pc ∧ ∀ b ∈ t.bad, apart b 1 x.key size := by
  have resident : g.life ≠ .retired := by rw [life]; nofun
  let u : State := { s with bad := s.bad.filter fun b => b < x.key || x.key + size ≤ b }
  have killed := kill_killed (s := u) causeUCE sp.pc hg resident task
  have ending := kill_ending (s := u) causeUCE sp.pc hg resident task
  refine ⟨u.kill gid causeUCE sp.pc, ?_, killed.of_pending rfl rfl rfl, fun b hb => ?_⟩
  · rw [uceAct, if_neg Bool.false_ne_true, first]
    rfl
  · rw [show u.kill gid causeUCE sp.pc = _ from ending] at hb
    have := (List.mem_filter.1 hb).2
    simp only [Bool.or_eq_true, decide_eq_true_eq] at this
    unfold apart
    omega

/-- Replacing lanes of a register that is not uniform. -/
theorem setLanes_lane {l : List Word} (ys : List (Nat × Word)) {n : Nat} (h : n < 96) :
    ((VReg.g l).setLanes ys).lane n = ((ys.find? fun y => y.1 == n).map Prod.snd).getD ((VReg.g l).lane n) := getD_map_lanes _ h

end Sys2Proof.Machine
end

section
/-! OBLIGATIONS. Uncorrectable errors and the shadow unit (R244-R246). -/

namespace Sys2Proof.Machine

theorem tmod_id_of {α : Type} {f : α → α} {k : Nat} {t : Table α} (h : ∀ p ∈ t, f p.2 = p.2) : tmod k f t = t := by
  rw [tmod]
  conv => rhs; rw [← List.map_id t]
  refine List.map_congr_left fun p hp => ?_
  split
  · rw [h p hp]
    rfl
  · rfl

/-- The hypotheses under which SHADOW_RETRY finds the instruction that is about to issue. -/
structure Shadowed (s s1 t0 : State) (gid k : Nat) (g h : Group) (sp : Split) (f : Instr) : Prop where
  group : s.group? gid = some g
  split : tget k g.splits = some sp
  issues : g.issues = true
  atIssue : s.atIssue gid k g sp = true
  free : g.stepped k = false
  wait : sp.wait = .none
  breaks : g.breaks k = none
  fetch : s.fetchInstr false g.core g.vf g.launch (pairOf g.window sp.pc) = .ok f s1
  group1 : s1.group? gid = some g
  run : exec f ({ s1 with cur := .group gid k }.modGroup gid fun y => { y with dbg := { y.dbg with ctl := 0 } }) = .next t0
  group0 : t0.group? gid = some h
  wentOn : g.wentOn h k (sp.after f) = true
  quiet : ∀ p ∈ h.splits, p.2.due = none

/-- The lanes that a SHADOW_RETRY gives values to. -/
def Split.shadowLanes (sp : Split) (ls : List Nat) (l : List Word) : List (Nat × Word) := (ls.zip l).filter fun y => laneOn sp.mask y.1

/-- The group once the second execution's values stand (R245). -/
def Group.corrected (h : Group) (k vd : Nat) (dbg : Debug) (ys : List (Nat × Word)) : Group :=
  { h with dbg := dbg, vregs := h.vregs.set vd ((h.v vd).setLanes ys), splits := tmod k (fun x => { x with due := none }) h.splits }

/-- The machine once the second execution's values stand (R245). -/
def State.corrected (t : State) (gid k core vd : Nat) (dbg : Debug) (ys : List (Nat × Word)) : State :=
  let u := (t.modGroup gid fun h => h.corrected k vd dbg ys).setCore core { t.coreAt core with sdccnt := min 0xFFFF ((t.coreAt core).sdccnt + 1) }
  { u with syslog := u.syslog ++ [.sdc core] }

theorem corrected_group {t : State} {gid : Nat} {h : Group} (hg : t.group? gid = some h) (quiet : ∀ p ∈ h.splits, p.2.due = none) (k core vd : Nat) (dbg : Debug)
    (ys : List (Nat × Word)) : (t.corrected gid k core vd dbg ys).group? gid = some { h with dbg := dbg, vregs := h.vregs.set vd ((h.v vd).setLanes ys) } := by
  have group := State.group_modGroup_self t gid fun h => h.corrected k vd dbg ys
  rw [hg, Option.map_some, Group.corrected, tmod_id_of fun p hp => by rw [← quiet p hp]] at group
  exact group

theorem corrected_other {t : State} {gid j : Nat} (hj : j ≠ gid) (k core vd : Nat) (dbg : Debug) (ys : List (Nat × Word)) :
    (t.corrected gid k core vd dbg ys).group? j = t.group? j := by
  have other := State.group_modGroup_ne t hj fun h => h.corrected k vd dbg ys
  exact other

/-- What SHADOW_RETRY does there (R245). -/
theorem Shadowed.retry {s s1 t0 : State} {gid k : Nat} {g h : Group} {sp : Split} {v : VBin} {f : Instr} (hyp : Shadowed s s1 t0 gid k g h sp f)
    {exact : ExactVal → ExactVal → ExactVal → ExactVal} (rec : shadowed f = some (v, (fun x y z => exact (ofF32 x) (ofF32 y) (ofF32 z)), exec f))
    (ls : List Nat) (first second : List Word) :
    let c := groupCtx gid k g sp f
    let bad (l : List Word) : Bool := (sp.shadowLanes ls l).any fun x => diverges x.2 (c.shadow s1 v (fun x y z => exact (ofF32 x) (ofF32 y) (ofF32 z)) x.1)
    exec (.shadowRetry gid k ls first second) s = .next (if (!bad first) = true then s else if bad second = true then s.loseCore g.core
      else t0.corrected gid k g.core v.vd.toNat g.dbg (sp.shadowLanes ls second)) := by
  intro c bad
  have ctx : ({ s1 with cur := .group gid k } : State).ctx f.len = some c := by
    simp only [State.ctx, show ({ s1 with cur := .group gid k } : State).group? gid = some g from hyp.group1, hyp.split, hyp.wait, Option.map_some]
    rfl
  have settled := stepDue_none (corrected_group hyp.group0 hyp.quiet k g.core v.vd.toNat g.dbg (sp.shadowLanes ls second)) hyp.quiet
  rw [← settled]
  show execShadowRetry gid k ls first second s = _
  rw [execShadowRetry]
  simp only [hyp.group, Option.bind_some, hyp.split, Option.map_some, hyp.issues, hyp.atIssue, hyp.breaks, Option.isSome_none, Bool.not_true, Bool.or_false,
    Bool.false_eq_true, if_false, hyp.fetch, rec, ctx, hyp.run, hyp.group0, Option.any_some, hyp.free, show g.wentOn h k c.next = true from hyp.wentOn, Bool.false_or]
  rfl

theorem corrected_frame (t : State) (gid k core vd : Nat) (dbg : Debug) (ys : List (Nat × Word)) :
    let u := t.corrected gid k core vd dbg ys
    u = { t with groups := u.groups, cores := u.cores, syslog := t.syslog ++ [.sdc core] }
      ∧ u.coreAt core = { t.coreAt core with sdccnt := min 0xFFFF ((t.coreAt core).sdccnt + 1) } ∧ ∀ c, c ≠ core → u.coreAt c = t.coreAt c :=
  ⟨rfl, State.coreAt_setCore_self _ core _, fun _ hc => State.coreAt_setCore_ne _ hc _⟩

/-- Whether a lane of the values diverges (R244). -/
theorem bad_iff {gid k : Nat} {g : Group} {sp : Split} {f : Instr} {s1 : State} {v : VBin} (exact : ExactVal → ExactVal → ExactVal → ExactVal) (ys : List (Nat × Word)) :
    let z (w : Word) : Word := flush (g.gmode.getLsbD 0) w
    let sum (n : Nat) : Word := let y := exact (ofF32 (z (s1.srcLane g v.a n))) (ofF32 (z (s1.srcLane g v.b n))) (ofF32 (z ((g.v v.vd.toNat).lane n)))
      if y.isNan then canonNan else z (toF32 .rn y)
    (ys.any fun x => diverges x.2 ((groupCtx gid k g sp f).shadow s1 v (fun x y z => exact (ofF32 x) (ofF32 y) (ofF32 z)) x.1)) = true
      ↔ ∃ y ∈ ys, diverges y.2 (shadowBits (sum y.1)) = true := by
  intro z sum
  have shadow (n : Nat) : (groupCtx gid k g sp f).shadow s1 v (fun x y z => exact (ofF32 x) (ofF32 y) (ofF32 z)) n = shadowBits (sum n) := by
    rw [Ctx.shadow, show (groupCtx gid k g sp f).ftz = g.gmode.getLsbD 0 from rfl, flush_roundRne]
    simp only [groupCtx_src, groupCtx_g]
    rfl
  simp only [List.any_eq_true, shadow]

theorem packReg_general {m : Mask} {old : VReg} {allU : Bool} {f : Nat → Word} (h : m ≠ fullMask ∨ allU = false) :
    packReg m old allU none f = .g (lanes.map fun n => if laneOn m n then f n else old.lane n) := by
  by_cases full : m = fullMask
  · rw [packReg, if_neg (not_not.2 full), h.resolve_left (not_not.2 full)]
    refine congrArg VReg.g (List.map_congr_left fun n hn => ?_)
    rw [full, laneOn_full n (List.mem_range.1 hn), if_pos rfl]
  · exact if_pos full

/-- A ready float instruction one of whose sources is not uniform, or one of whose lanes is inactive, leaves a general register (R73). -/
theorem floatBin_general {s : State} {gid k : Nat} {g : Group} {sp : Split} {i : Instr} {v : VBin} {b : Bool} (ready : Ready s gid k g sp i) (engine : isEngine i = false)
    (vector : isVector i = true) (room : g.room v.vd.toNat = true) {f : Word → Word → Word → Word} (meaning : exec i s = issue i s (floatBin v b f))
    (shape : sp.mask ≠ fullMask ∨ s.srcTag g v.a ≠ 0 ∨ s.srcTag g v.b ≠ 0) :
    let z := flush (g.gmode.getLsbD 0)
    let l := lanes.map fun n => if laneOn sp.mask n then z (f (z (s.srcLane g v.a n)) (z (s.srcLane g v.b n)) (z ((g.v v.vd.toNat).lane n))) else (g.v v.vd.toNat).lane n
    Completes i s gid k { g with vregs := g.vregs.set v.vd.toNat (.g l), cache := cacheAfter i (vDests i) } (sp.after i) := by
  intro z l
  obtain ⟨t, ran, only⟩ := completes_writeV ready engine vector (body := floatBin v b f) v.vd.toNat _ room rfl
  refine ⟨t, meaning.trans ran, ?_⟩
  have general := packReg_general (m := sp.mask) (old := g.v v.vd.toNat)
    (allU := allUniform (if b then [(groupCtx gid k g sp i).src s v.a, (groupCtx gid k g sp i).src s v.b, g.v v.vd.toNat]
      else [(groupCtx gid k g sp i).src s v.a, (groupCtx gid k g sp i).src s v.b]))
    (f := fun n => z (f (z (((groupCtx gid k g sp i).src s v.a).lane n)) (z (((groupCtx gid k g sp i).src s v.b).lane n)) (z ((g.v v.vd.toNat).lane n))))
    (shape.imp_right fun tags => by
      rw [← groupCtx_srcTag gid k g sp i, ← groupCtx_srcTag gid k g sp i] at tags
      cases b <;> rcases tags with tag | tag <;> simp [allUniform, tag])
  have same : l = lanes.map fun n => if laneOn sp.mask n then
      z (f (z (((groupCtx gid k g sp i).src s v.a).lane n)) (z (((groupCtx gid k g sp i).src s v.b).lane n)) (z ((g.v v.vd.toNat).lane n))) else (g.v v.vd.toNat).lane n := by
    simp only [groupCtx_src, l]
  rw [same, ← general]
  exact only

theorem set_setLanes (l : List VReg) (i : Nat) (x : VReg) (ys : List (Nat × Word)) :
    (l.set i x).set i (((l.set i x).getD i (.u 0)).setLanes ys) = l.set i (x.setLanes ys) := by
  rw [List.set_set]
  by_cases h : i < l.length
  · rw [List.getD_eq_getElem?_getD, List.getElem?_set_self h, Option.getD_some]
  · rw [List.set_eq_of_length_le (not_lt.1 h), List.set_eq_of_length_le (not_lt.1 h)]

/-- Proves O41: what reads an error is killed, and what the shadow unit makes of a divergence. -/
theorem memoryAndComputeErrors : Obligations.MemoryAndComputeErrors := by
  intro s s1 t0 gid k dev addr g h sp o lm x xs pre post v ls first second f exact i vld recomputed byte retry quiet z sum shadow on bad
  refine ⟨⟨_, rfl, ?_, rfl, rfl⟩, fun ready mask plain checks near silent error life task => ?_, fun ready checks near silent shape before error room life task => ?_,
    fun rec group split issues at' free wait breaks fetch group1 run group0 wentOn due => ?_,
    fun rec group split issues at' free wait held pend breaks fetch group1 operable room due badFirst goodSecond shape => ?_⟩
  · show byte ∈ if s.bad.contains (memKey dev addr) = true then s.bad else memKey dev addr :: s.bad
    split
    · next here => exact List.contains_iff_mem.1 here
    · exact List.mem_cons_self
  · -- SLD
    obtain ⟨t, uce, killed, gone⟩ := uce_kills (k := k) (sp := sp) (i := i) (xs := [x]) (size := 4) ready.issues.group life task
      (by rw [List.find?_cons_of_pos (by rw [near, error]; rfl)])
    refine ⟨t, ?_, killed, gone⟩
    have quiet : watchAct (groupCtx gid k g sp i) true false 4 [x] = none := watchAct_quiet (silent.imp id fun q y hy => by rw [List.mem_singleton.1 hy]; exact q)
    have order : umOrder (groupCtx gid k g sp i) o false (false && sp.mask != 0) s = .ok s := by simp [umOrder, plain]
    show execSld o s = _
    rw [execSld, issue_ready ready rfl, scalLoad, umAccess]
    simp only [groupCtx_mask, order, if_neg mask, groupCtx_g, umAddr_eq, checks]
    rw [quiet, Option.getD_none, if_pos True.intro, uce]
    rfl
  · -- VLD
    have found : xs.find? (fun y => !y.remote && s.badAt y.key lm.width.bytes) = some x := by
      rw [shape, List.find?_append, List.find?_eq_none.2 fun y hy => by rw [before y hy, Bool.and_false]; nofun,
        List.find?_cons_of_pos (by rw [near x (by rw [shape]; simp), error]; rfl)]
      rfl
    obtain ⟨t, uce, killed, gone⟩ := uce_kills (k := k) (sp := sp) (i := vld) ready.issues.group life task found
    refine ⟨t, ?_, killed, gone⟩
    have checked : laneChecks s g false lm.width.bytes .read (lmAddrs (groupCtx gid k g sp vld) s lm) = .ok xs := by
      rw [lmAddrs_eq]
      exact checks
    have over' : (groupCtx gid k g sp vld).over (loadRegs g lm.vd.toNat lm.width lm.sx []) = false := over_loadRegs room
    show execVld lm s = _
    rw [execVld, issue_ready ready rfl, vecLoad]
    simp only [groupCtx_g, checked]
    have fits : ¬ (groupCtx gid k g sp vld).over (loadRegs g lm.vd.toNat lm.width lm.sx []) = true := by rw [over']; nofun
    rw [watchAct_quiet silent, Option.getD_none, uce]
    exact congrArg _ (if_neg fits)
  · -- SHADOW_RETRY, from what the instruction does
    obtain ⟨-, -, -, -, shadowed, -⟩ := Recomputed.runs rec
    have retried := Shadowed.retry ⟨group, split, issues, at', free, wait, breaks, fetch, group1, run, group0, wentOn, due⟩ shadowed ls first second
    have bads (l : List Word) := bad_iff (gid := gid) (k := k) (sp := sp) (f := f) (g := g) (s1 := s1) (v := v) exact (on l)
    refine ⟨fun good => ?_, fun badFirst good => ?_, fun badFirst badSecond => ?_⟩
    · refine retried.trans (congrArg _ (if_pos ?_))
      rw [Bool.not_eq_true']
      exact Bool.not_eq_true _ ▸ fun h => good ((bads first).1 h)
    · refine ⟨_, retried.trans (congrArg _ ((if_neg ?_).trans (if_neg fun h => good ((bads second).1 h)))), (corrected_frame ..).1, corrected_group group0 due .., 
        fun j hj => corrected_other hj .., (corrected_frame ..).2.1, (corrected_frame ..).2.2⟩
      rw [Bool.not_eq_true']
      exact fun h => Bool.false_ne_true (h.symm.trans ((bads first).2 badFirst))
    · refine ⟨_, retried.trans (congrArg _ ((if_neg ?_).trans (if_pos ((bads second).2 badSecond)))), loseCore_lost ..⟩
      rw [Bool.not_eq_true']
      exact fun h => Bool.false_ne_true (h.symm.trans ((bads first).2 badFirst))
  · -- SHADOW_RETRY of an instruction that is ready
    obtain ⟨b, engine, vector, meaning, shadowed, -⟩ := Recomputed.runs rec
    let q : Group := { g with dbg := { g.dbg with ctl := 0 } }
    have only : OnlyGroup { s1 with cur := .group gid k } quiet gid q := (OnlyGroup.refl (s := { s1 with cur := .group gid k }) group1).modGroup _
    have unstepped : q.stepped k = false := by simp [Group.stepped, bitField, q]
    have ready : Ready quiet gid k q sp f := ⟨⟨rfl, only.group, split, held⟩, operable, unstepped, due⟩
    obtain ⟨t0, ran, rest, group0, -⟩ := floatBin_general ready engine vector room (meaning quiet) shape
    obtain ⟨l, hl⟩ : ∃ l, (lanes.map fun n => if laneOn sp.mask n then z (roundRne (exact (ofF32 (z (s1.srcLane g v.a n))) (ofF32 (z (s1.srcLane g v.b n)))
      (ofF32 (z ((g.v v.vd.toNat).lane n))))) else (g.v v.vd.toNat).lane n) = l := ⟨_, rfl⟩
    have values (n : Nat) (hn : n < 96) : (VReg.g l).lane n = if laneOn sp.mask n then sum n else (g.v v.vd.toNat).lane n := by
      rw [← hl]
      exact (getD_map_lanes _ hn).trans (if_congr Iff.rfl (flush_roundRne _ _) rfl)
    obtain ⟨h, hh⟩ : ∃ h : Group, ({ q with vregs := q.vregs.set v.vd.toNat (.g l), cache := cacheAfter f (vDests f) } : Group).goesOn k (sp.after f) s1.now = h := ⟨_, rfl⟩
    have hgroup : t0.group? gid = some h := by
      rw [← hh, ← hl]
      exact group0
    have due0 : ∀ p ∈ h.splits, p.2.due = none := by
      rw [← hh]
      intro p hp
      obtain ⟨x, hx, rfl⟩ := List.mem_map.1 hp
      by_cases own : x.1 = k
      · rw [if_pos own]
      · rw [if_neg own]
        exact due x hx
    have wentOn : g.wentOn h k (sp.after f) = true := by
      rw [← hh]
      simp only [Group.wentOn, Group.goesOn, tget_tmod_self, split, q, pend, Option.map_some, Option.any_some]
      simp
    have retried := Shadowed.retry ⟨group, split, issues, at', free, wait, breaks, fetch, group1, ran, hgroup, wentOn, due0⟩ shadowed ls first second
    have bads (l : List Word) := bad_iff (gid := gid) (k := k) (sp := sp) (f := f) (g := g) (s1 := s1) (v := v) exact (on l)
    have badFirst' : ¬ (!((on first).any fun x => diverges x.2 ((groupCtx gid k g sp f).shadow s1 v (fun x y z => exact (ofF32 x) (ofF32 y) (ofF32 z)) x.1))) = true := by
      rw [(bads first).2 badFirst]
      nofun
    refine ⟨_, (VReg.g l).setLanes (on second), retried.trans (congrArg _ ((if_neg badFirst').trans (if_neg fun h => goodSecond ((bads second).1 h)))), ?_, ?_, fun n hn => ?_⟩
    · have frame := (corrected_frame t0 gid k g.core v.vd.toNat g.dbg (on second)).1
      obtain ⟨u, hu⟩ : ∃ u, t0.corrected gid k g.core v.vd.toNat g.dbg (on second) = u := ⟨_, rfl⟩
      rw [hu, rest] at frame
      rw [show t0.corrected gid k g.core v.vd.toNat g.dbg (sp.shadowLanes ls second) = u from hu]
      exact frame
    · refine (corrected_group hgroup due0 ..).trans (congrArg some ?_)
      rw [← hh]
      exact congrArg (fun l => ({ g with vregs := l, cache := cacheAfter f (vDests f) } : Group).goesOn k (sp.after f) s1.now) (set_setLanes g.vregs v.vd.toNat (.g l) (on second))
    · rw [setLanes_lane _ hn, values n hn]
      by_cases active : laneOn sp.mask n = true
      · rw [if_pos active, if_pos active]
      · have absent : (on second).find? (fun y => y.1 == n) = none := by
          refine List.find?_eq_none.2 fun y hy same => active ?_
          rw [← beq_iff_eq.1 same]
          exact (List.mem_filter.1 hy).2
        rw [if_neg active, if_neg active, absent]
        rfl

end Sys2Proof.Machine
end

section
/-! SUPPORT. The directory after a cairn changed (R211, R219), the answer of a cairn instruction that waited (R214), and the bytes that a move or a
write-back carries (R224). -/

namespace Sys2Proof.Machine

theorem cairn_named {s : State} {v : Nat} {name : DWord} {c : Cairn} (h : s.cairn v name = some c) : c.vf = v ∧ c.name = name := by
  have found := List.find?_some h
  simpa using found

theorem cairn_setCairn {s : State} {v : Nat} {name : DWord} {c k : Cairn} (h : s.cairn v name = some c) (vf : k.vf = v) (same : k.name = name) :
    (s.setCairn k).cairn v name = some k := by
  have all : ∀ l : List Cairn, l.find? (fun k => k.vf == v && k.name == name) = some c →
      (l.map fun x => if x.vf = k.vf ∧ x.name = k.name then k else x).find? (fun k => k.vf == v && k.name == name) = some k := by
    intro l
    induction l with
    | nil => nofun
    | cons x l ih =>
      intro found
      rw [List.map_cons]
      by_cases here : x.vf = v ∧ x.name = name
      · rw [if_pos (by rw [vf, same]; exact here), List.find?_cons_of_pos (by simp [vf, same])]
      · have miss : ¬ (x.vf == v && x.name == name) = true := by simpa using here
        rw [List.find?_cons_of_neg (p := fun k : Cairn => k.vf == v && k.name == name) miss] at found
        rw [if_neg (by rw [vf, same]; exact here), List.find?_cons_of_neg (p := fun k : Cairn => k.vf == v && k.name == name) miss, ih found]
  exact all s.cairns h

theorem cairn_delCairn (s : State) (k : Cairn) : (s.delCairn k).cairn k.vf k.name = none := by
  refine List.find?_eq_none.2 fun x hx same => ?_
  have kept := (List.mem_filter.1 hx).2
  rw [same] at kept
  exact nomatch kept

/-- `t` is `s` but for the directory and its write-backs. -/
def Directs (s t : State) : Prop := t = { s with cairns := t.cairns, wbacks := t.wbacks }

theorem beginMove_directs {s t : State} {k : Cairn} {core : Nat} {opener : Option (Nat × Nat)} {restore : Bool} (h : s.beginMove k core opener restore = some t) : Directs s t := by
  obtain ⟨off, -, rfl⟩ := Option.map_eq_some_iff.1 h
  rfl

theorem afterClose_directs (s : State) (k : Cairn) : Directs s (s.afterClose k) := by
  unfold State.afterClose
  simp only
  split
  · rfl
  · split
    · rfl
    · split
      · split
        · rfl
        · next c _ _ =>
          cases moved : (s.setCairn k).beginMove k c none false with
          | none => rfl
          | some t =>
            have rest := beginMove_directs moved
            exact rest
      · rfl

/-- The directory after a close of a cairn with no hand (R219). -/
theorem afterClose_cairn {s : State} {v : Nat} {name : DWord} {c k : Cairn} (h : s.cairn v name = some c) (vf : k.vf = v) (same : k.name = name) (hand : k.hand = none) :
    (s.afterClose k).cairn v name = if k.opens = [] ∧ k.topens = [] ∧ k.drop = true then none else some k := by
  have set := cairn_setCairn h vf same
  unfold State.afterClose
  simp only [hand]
  by_cases closed : k.closed = true
  · have empty : k.opens = [] ∧ k.topens = [] := by simpa [Cairn.closed] using closed
    rw [if_neg (by rw [closed]; nofun)]
    by_cases drop : k.drop = true
    · rw [if_pos drop, if_pos ⟨empty.1, empty.2, drop⟩, ← vf, ← same]
      exact cairn_delCairn _ _
    · rw [if_neg drop, if_neg fun h => drop h.2.2, set]
  · rw [if_pos (by simpa using closed), if_neg fun h => closed (by simp [Cairn.closed, h.1, h.2.1]), set]

/-- What answers a cairn instruction that waited: its two registers, and its split goes on (R214). -/
theorem answerWait_only {s : State} {gid k sd : Nat} {g : Group} {sp : Split} (hg : s.group? gid = some g) (hs : tget k g.splits = some sp) (free : g.stepped k = false)
    (quiet : g.noStep) (status value : Word) :
    OnlyGroup s (s.answerWait gid k sd status value) gid (((g.setS k sd status).setS k (sd + 1) value).comesBack k sp.cont s.now) := by
  obtain ⟨sp1, hs1⟩ := Group.setS_split hs sd status
  obtain ⟨sp2, hs2⟩ := Group.setS_split hs1 (sd + 1) value
  have unstepped : ((g.setS k sd status).setS k (sd + 1) value).stepped k = false := by rw [Group.setS_stepped, Group.setS_stepped]; exact free
  have done := finish_only ((OnlyGroup.refl hg).modGroup fun g => (g.setS k sd status).setS k (sd + 1) value) hs2 unstepped
    (Group.noStep_setS (Group.noStep_setS quiet k sd status) k (sd + 1) value) sp.cont s.now
  have back : ((g.setS k sd status).setS k (sd + 1) value).complete k sp2.pc sp.cont s.now = ((g.setS k sd status).setS k (sd + 1) value).comesBack k sp.cont s.now := by
    simp only [Group.complete, unstepped, Group.comesBack, Split.rest, Bool.false_eq_true, if_false]
  rw [← back]
  simp only [State.answerWait, hg, Option.bind_some, hs]
  exact done

/-! ### The bytes carried -/

theorem carried_length {s : State} {old now : List Byte} : (s.carried old now).length = old.length := by
  unfold State.carried
  split
  · rfl
  · next same => simp [not_not.1 same]

theorem carried_byte (s : State) (old now : List Byte) {j : Nat} (h : j < old.length) :
    (s.carried old now).getD j 0 = now.getD j 0 ∨ (s.carried old now).getD j 0 = old.getD j 0 := by
  unfold State.carried
  split
  · exact .inr rfl
  · next same =>
    have hn : j < now.length := not_not.1 same ▸ h
    have zip : ((old.zip now).zipIdx)[j]? = some ((old[j], now[j]), j) := by simp [h, hn]
    simp only [List.getD_eq_getElem?_getD, List.getElem?_map, zip, Option.map_some, Option.getD_some, List.getElem?_eq_getElem h, List.getElem?_eq_getElem hn]
    split
    · exact .inr rfl
    · split
      · exact .inl rfl
      · exact .inr rfl

/-! ### Device memory outside a VF's mirror area -/

theorem cellAt_filter_outside {lo hi x : Nat} (out : x < lo ∨ hi ≤ x) : ∀ l : List Host.Cell, cellAt x (l.filter fun c => c.1 < lo || hi ≤ c.1) = cellAt x l
  | [] => rfl
  | (j, c) :: t => by
    rw [List.filter_cons]
    split
    · rw [cellAt, cellAt, cellAt_filter_outside out t]
    · next dropped =>
      have other : j ≠ x := by
        rintro rfl
        simp only [Bool.or_eq_true, decide_eq_true_eq] at dropped
        exact dropped out
      rw [cellAt_filter_outside out t, cellAt, if_neg other]

/-- A byte outside a range that became undefined, whatever the memory's form. -/
theorem Mem.get_undefine_outside (m : Mem) {a len x : Nat} (n : Nat) (out : x < a ∨ a + len ≤ x) : (m.undefine a len n).get x = m.get x := by
  rw [Mem.undefine]
  split
  · rfl
  · have clear : ∀ y, a ≤ y → y < a + len → undefAt y (cutRanges a (a + len) m.undef) = none := fun y p q => by rw [undefAt_cutRanges, if_pos ⟨p, q⟩]
    simp only [Mem.get, undefAt_putRange _ _ _ _ clear, undefAt_cutRanges, cellAt_filter_outside out]
    rw [if_neg (by omega), if_neg (by omega)]

theorem undefMem_get (s : State) {key n a : Nat} (out : apart a 1 key n) : (s.undefMem key n).mem.get a = s.mem.get a := by
  unfold State.undefMem
  split
  · rfl
  · rw [noteKeys_frame]
    refine Mem.get_undefine_outside _ _ ?_
    unfold apart at out
    omega

/-- What undefined bytes of device memory change. -/
theorem undefMem_frame (s : State) (key n : Nat) : let t := s.undefMem key n
    t = { s with mem := t.mem, fresh := t.fresh, written := t.written, groups := t.groups, bad := t.bad, copies := t.copies, quads := t.quads } := by
  unfold State.undefMem
  split
  · rfl
  · rw [noteKeys_frame]
    rfl

theorem undefMem_group (s : State) (key n j : Nat) :
    ∃ f : Group → Option Nat, (∀ h, f h = h.reserv ∨ f h = none) ∧ (s.undefMem key n).group? j = (s.group? j).map fun h => { h with reserv := f h } := by
  unfold State.undefMem
  split
  · obtain ⟨f, hf, cases⟩ := same_groups s j
    exact ⟨f, cases, hf⟩
  · refine ⟨fun h => h.cleared key n, cleared_cases key n, ?_⟩
    rw [noteKeys_frame]
    have cleared := clearLines_group { s with written := (s.noteKeys [key, key + n - 1]).written } key n j
    exact cleared

end Sys2Proof.Machine
end

section
/-! OBLIGATIONS. The ends of a cairn's move and of a write-back (R217-R219, R222-R224). -/

namespace Sys2Proof.Machine

theorem followCairn_tasks (s : State) (k : Cairn) : s.followCairn k = { s with tasks := (s.followCairn k).tasks } := by
  have all (l : List (Nat × Task)) : ∀ t : State, t = { s with tasks := t.tasks } → ∀ u, u = l.foldl (fun (s : State) x =>
      let follows := (s.taskCairn x.1 x.2).any fun y => y.vf == k.vf && y.name == k.name
      match x.2.place with
      | .queued c => if follows && c != k.holder && s.queueDepth k.holder < Config.coreQueueEntries then
          { s with tasks := tset x.1 { x.2 with place := .queued k.holder } s.tasks } else s
      | _ => s) t → u = { s with tasks := u.tasks } := by
    induction l with
    | nil =>
      intro t h u hu
      rw [hu]
      exact h
    | cons x l ih =>
      intro t h u hu
      refine ih _ ?_ u hu
      simp only
      split
      · split
        · rw [h]
        · exact h
      · exact h
  exact all s.tasks s rfl _ rfl

/-- The machine with a moved cairn's bytes at the new place (R217). -/
def State.placed (s : State) (c : Cairn) (m : Move) : State :=
  { s with fresh := s.fresh + 1 }.storeScratch (scratchKey m.core m.off) (s.carried m.bytes (s.cairnBytes c))

theorem placed_bytes {s : State} {c : Cairn} {m : Move} (inv : s.Inv) (size : m.bytes.length = c.size) (free : s.unclaimed true (m.core * 2 ^ 21 + m.off) c.size) {j : Nat}
    (hj : j < c.size) :
    (s.placed c m).scratch.get (m.core * 2 ^ 21 + m.off + j) = (s.cairnBytes c).getD j 0 ∨ (s.placed c m).scratch.get (m.core * 2 ^ 21 + m.off + j) = m.bytes.getD j 0 := by
  have length : (s.carried m.bytes (s.cairnBytes c)).length = c.size := carried_length.trans size
  have clear : s.inCopy true (scratchKey m.core m.off) c.size = [] := (List.append_eq_nil_iff.1 free).1
  have byte : (s.placed c m).scratch.get (m.core * 2 ^ 21 + m.off + j) = (s.carried m.bytes (s.cairnBytes c)).getD j 0 := by
    show ((s.scratch.putAll (scratchKey m.core m.off) (s.carried m.bytes (s.cairnBytes c))).undefAll (s.fresh + 1)
      (s.inCopy true (scratchKey m.core m.off) (s.carried m.bytes (s.cairnBytes c)).length)).get _ = _
    rw [length, clear]
    refine (Mem.get_putAll _ (State.Inv.scratch_wf inv) _ _).trans ?_
    rw [length, scratchKey, if_pos (by omega), Nat.add_sub_cancel_left]
  rw [byte]
  exact carried_byte s m.bytes (s.cairnBytes c) (size ▸ hj)

theorem placed_cairn (s : State) (c k : Cairn) (m : Move) (v : Nat) (name : DWord) : ((s.placed c m).followCairn k).cairn v name = s.cairn v name := by
  rw [followCairn_tasks]
  rfl

theorem placed_group (s : State) (c k : Cairn) (m : Move) : ((s.placed c m).followCairn k).groups = s.groups := by
  rw [followCairn_tasks]
  rfl

theorem placed_scratch (s : State) (c k : Cairn) (m : Move) : ((s.placed c m).followCairn k).scratch = (s.placed c m).scratch := by
  rw [followCairn_tasks]

theorem placed_now (s : State) (c k : Cairn) (m : Move) : ((s.placed c m).followCairn k).now = s.now := by
  rw [followCairn_tasks]
  rfl

/-- The machine once the mirror of cairn `c` holds what write-back `id` carried (R219). -/
def State.backed (s : State) (id : Nat) (w : Writeback) (c : Cairn) : State :=
  ({ s with wbacks := tdel id s.wbacks, fresh := s.fresh + 1 }.setCairn { c with mirror := s.carried w.bytes (s.cairnBytes c) }).touchMirrors w.vf

theorem backed_frame (s : State) (id : Nat) (w : Writeback) (c : Cairn) : let t := s.backed id w c
    t = { s with cairns := t.cairns, wbacks := tdel id s.wbacks, mem := t.mem, fresh := t.fresh, written := t.written, groups := t.groups, bad := t.bad, copies := t.copies, quads := t.quads } := by
  have frame := undefMem_frame ({ s with wbacks := tdel id s.wbacks, fresh := s.fresh + 1 }.setCairn { c with mirror := s.carried w.bytes (s.cairnBytes c) })
    (memKey (s.vfDev w.vf) (s.vf w.vf).mirrorBase.toNat) (s.vf w.vf).mirrorSize
  intro t
  rw [show t = _ from frame]
  rfl

theorem backed_cairn {s : State} {w : Writeback} {c : Cairn} (found : s.cairn w.vf w.name = some c) (id : Nat) :
    (s.backed id w c).cairn w.vf w.name = some { c with mirror := s.carried w.bytes (s.cairnBytes c) } := by
  obtain ⟨vf, name⟩ := cairn_named found
  have set := cairn_setCairn (s := { s with wbacks := tdel id s.wbacks, fresh := s.fresh + 1 }) (k := { c with mirror := s.carried w.bytes (s.cairnBytes c) }) found vf name
  have frame := undefMem_frame ({ s with wbacks := tdel id s.wbacks, fresh := s.fresh + 1 }.setCairn { c with mirror := s.carried w.bytes (s.cairnBytes c) })
    (memKey (s.vfDev w.vf) (s.vf w.vf).mirrorBase.toNat) (s.vf w.vf).mirrorSize
  rw [show s.backed id w c = _ from frame]
  exact set

theorem backed_mem (s : State) (id : Nat) (w : Writeback) (c : Cairn) {a : Nat} (out : apart a 1 (memKey (s.vfDev w.vf) (s.vf w.vf).mirrorBase.toNat) (s.vf w.vf).mirrorSize) :
    (s.backed id w c).mem.get a = s.mem.get a := by
  have same := undefMem_get ({ s with wbacks := tdel id s.wbacks, fresh := s.fresh + 1 }.setCairn { c with mirror := s.carried w.bytes (s.cairnBytes c) }) out
  exact same

theorem backed_group (s : State) (id : Nat) (w : Writeback) (c : Cairn) (j : Nat) :
    ∃ f : Group → Option Nat, (∀ h, f h = h.reserv ∨ f h = none) ∧ (s.backed id w c).group? j = (s.group? j).map fun h => { h with reserv := f h } := by
  have cleared := undefMem_group ({ s with wbacks := tdel id s.wbacks, fresh := s.fresh + 1 }.setCairn { c with mirror := s.carried w.bytes (s.cairnBytes c) })
    (memKey (s.vfDev w.vf) (s.vf w.vf).mirrorBase.toNat) (s.vf w.vf).mirrorSize j
  exact cleared

theorem setS_reserv (g : Group) (r : Option Nat) (k n : Nat) (x : Word) : ({ g with reserv := r } : Group).setS k n x = { g.setS k n x with reserv := r } := by
  unfold Group.setS
  split <;> rfl

/-- A write-back that has come to its turn, of a cairn that is neither lost nor restorable. -/
theorem execWriteback {s : State} {id : Nat} {w : Writeback} {c : Cairn} (entry : tget id s.wbacks = some w) (found : s.cairn w.vf w.name = some c) (alive : c.lost = false)
    (whole : c.restorable = false) (turn : ∀ x ∈ s.wbacks, x.1 < id → x.2.vf ≠ w.vf ∨ x.2.name ≠ w.name) :
    exec (.cairnWritebackComplete id) s = .next (let s := s.backed id w c
      match w.waiter with
      | none => match w.leaver, s.cairn w.vf w.name with
        | some l, some k => if k.heldBy l = 0 then s else (s.afterClose (k.without l)).leaveAgain w.vf w.name l
        | _, _ => s
      | some (gid, sp, sd, value) =>
        let waits := (s.group? gid).any fun g => (tget sp g.splits).any fun x => x.wait == .writeback id sd
        if !waits then s
        else
          let s := match w.close, s.cairn w.vf w.name with
            | some free, some k => s.closeOne k gid free
            | _, _ => s
          s.answerWait gid sp sd cOK value) := by
  have first : ¬ (s.wbacks.any fun x => decide (x.1 < id) && x.2.vf == w.vf && x.2.name == w.name) = true := by
    rw [List.any_eq_true]
    rintro ⟨x, hx, same⟩
    simp only [Bool.and_eq_true, decide_eq_true_eq, beq_iff_eq] at same
    exact (turn x hx same.1.1).elim (fun h => h same.1.2) fun h => h same.2
  have stands : ¬ (c.lost || c.restorable) = true := by
    rw [alive, whole]
    nofun
  show execCairnWritebackComplete id s = _
  unfold execCairnWritebackComplete
  simp only [entry, if_neg first, show ({ s with wbacks := tdel id s.wbacks } : State).cairn w.vf w.name = some c from found, if_neg stands]
  rfl

/-- Proves O43, for a move without and with an opener, and for write-backs that none, an ended group or an instruction waits for. -/
theorem cairnEvents : Obligations.CairnEvents := by
  intro s vf id gid k sd name c m g sp w carried moved
  refine ⟨fun found moving fresh size hand inv pos apart' fits fits' free => ?_, fun entry found alive whole => ?_⟩
  · obtain ⟨cvf, cname⟩ := cairn_named found
    let d : Cairn := { c with holder := m.core, off := m.off, moving := none, restorable := false }
    have nohand : (if c.hand = some (.core m.core) then none else c.hand) = c.hand := by rw [hand]; rfl
    have run : exec (.cairnMoveComplete vf name) s = .next (
        let s := (s.placed c m).followCairn d
        match (m.opener.bind fun o => (s.group? o.1).bind fun g => (tget o.2 g.splits).bind fun sp =>
          match sp.wait with
          | .move n sd => if n = name then some (o.1, o.2, g, sd) else none
          | _ => none) with
        | some (gid, sp, g, sd) => (s.setCairn (d.openBy gid g)).answerWait gid sp sd cOK d.handle
        | none => if d.drop && d.closed then s.delCairn d else s.setCairn d) := by
      show execCairnMoveComplete vf name s = _
      unfold execCairnMoveComplete
      simp only [found, moving, fresh, nohand, Bool.false_and, Bool.false_eq_true, if_false]
      rfl
    have bytes {t : State} (same : t.scratch = ((s.placed c m).followCairn d).scratch) {j : Nat} (hj : j < c.size) :
        carried (s.cairnBytes c) m.bytes j (t.scratch.get (m.core * 2 ^ 21 + m.off + j)) := by
      rw [same, placed_scratch]
      exact placed_bytes inv size free hj
    have found' := (placed_cairn s c d m vf name).trans found
    refine ⟨fun opener drop => ?_, fun opener hg hs wait free' quiet => ?_⟩
    · refine ⟨_, d, run.trans ?_, cairn_setCairn found' cvf cname, rfl, placed_group s c d m, fun j hj => bytes rfl hj⟩
      rw [opener]
      have stays : ¬ (d.drop && d.closed) = true := by
        rw [show d.drop = false from drop]
        nofun
      exact congrArg Host.Outcome.next (if_neg stays)
    · have hg' : ((s.placed c m).followCairn d).group? gid = some g := (congrArg (tget gid) (placed_group s c d m)).trans hg
      obtain ⟨t, ht⟩ : ∃ t, ((s.placed c m).followCairn d).setCairn (d.openBy gid g) = t := ⟨_, rfl⟩
      have tgroup : t.group? gid = some g := by rw [← ht]; exact hg'
      have tcairn : t.cairn vf name = some (d.openBy gid g) := ht ▸ cairn_setCairn found' cvf cname
      have tscratch : t.scratch = ((s.placed c m).followCairn d).scratch := by rw [← ht]; rfl
      have tnow : t.now = s.now := by rw [← ht]; exact placed_now s c d m
      obtain ⟨rest, group, -⟩ := answerWait_only (sd := sd) tgroup hs free' quiet cOK d.handle
      refine ⟨t.answerWait gid k sd cOK d.handle, d.openBy gid g, run.trans ?_, ?_, rfl, rfl, rfl, rfl, ?_, fun j hj => bytes ?_ hj⟩
      · simp only [opener, Option.bind_some, placed_group, State.group?, show tget gid s.groups = some g from hg, hs, wait, if_true, ht]
      · rw [rest]
        exact tcairn
      · rw [← tnow]
        exact group
      · rw [rest]
        exact tscratch
  · intro x area turn
    obtain ⟨cvf, cname⟩ := cairn_named found
    have run := execWriteback entry found alive whole turn
    have frame := backed_frame s id w c
    have groups := backed_group s id w c
    have mem := fun a => backed_mem (a := a) s id w c
    have cairn := backed_cairn found id
    obtain ⟨bs, hbs⟩ : ∃ bs, s.carried w.bytes (s.cairnBytes c) = bs := ⟨_, rfl⟩
    have moved' : moved bs (s.cairnBytes c) w.bytes := hbs ▸ ⟨carried_length, fun j hj => carried_byte s w.bytes (s.cairnBytes c) hj⟩
    rw [hbs] at cairn
    obtain ⟨t, ht⟩ : ∃ t, s.backed id w c = t := ⟨_, rfl⟩
    rw [ht] at run frame groups cairn
    simp only [ht] at mem
    refine ⟨fun waiter leaver => ?_, fun waiter leaver opens hand => ?_, fun v waiter hg hs wait free quiet => ?_⟩
    · refine ⟨t, _, run.trans ?_, cairn, ⟨bs, moved', rfl⟩, ?_, ?_, groups, mem⟩
      · simp only [waiter, leaver]
      · rw [frame]
        exact (tget_tdel id id s.wbacks).trans (if_pos rfl)
      · rw [frame]
    · -- the last open of an ended group
      let d : Cairn := { c with mirror := bs, opens := [] }
      have closed := afterClose_cairn (k := d) cairn cvf cname hand
      have one : ({ c with mirror := bs } : Cairn).heldBy (.group gid) ≠ 0 := by
        rw [show Cairn.heldBy _ _ = c.opens.count gid from rfl, opens]
        simp
      have left : ({ c with mirror := bs } : Cairn).without (.group gid) = d := by
        show ({ c with mirror := bs, opens := c.opens.erase gid } : Cairn) = d
        rw [opens, List.erase_cons_head]
      have again : (t.afterClose d).leaveAgain w.vf w.name (.group gid) = t.afterClose d := by
        rw [State.leaveAgain, closed]
        split
        · next k hk =>
          have : k = d := by
            split at hk
            · cases hk
            · exact (Option.some.inj hk).symm
          rw [this]
          exact if_pos (by simp [Cairn.heldBy, d])
        · rfl
      refine ⟨t.afterClose d, bs, run.trans ?_, moved', closed.trans (if_congr (by simp [d]) rfl rfl)⟩
      simp only [waiter, leaver, cairn, if_neg one, left, again]
    · -- an instruction that waits
      obtain ⟨f, cases, hf⟩ := groups gid
      rw [hg, Option.map_some] at hf
      have waits : ((t.group? gid).any fun g => (tget k g.splits).any fun x => x.wait == .writeback id sd) = true := by
        simp only [hf, Option.any_some, hs, wait, beq_self_eq_true]
      obtain ⟨u, hu⟩ : ∃ u, (match w.close, t.cairn w.vf w.name with
        | some free, some k => t.closeOne k gid free
        | _, _ => t) = u := ⟨_, rfl⟩
      have directs : Directs t u := by
        rw [← hu]
        split
        · exact afterClose_directs ..
        · rfl
      have ugroup : u.group? gid = some { g with reserv := f g } := by rw [show u = _ from directs]; exact hf
      have now : u.now = s.now := by rw [show u = _ from directs, frame]
      have only := answerWait_only (sd := sd) ugroup hs (show Group.stepped _ k = false from free) quiet cOK v
      obtain ⟨rest, group, -⟩ := only
      refine ⟨u.answerWait gid k sd cOK v, bs, run.trans ?_, moved', ⟨f g, ?_, cases g⟩, fun a out => ?_, fun close => ?_, fun free close hand => ?_⟩
      · simp only [waiter, waits, Bool.not_true, Bool.false_eq_true, if_false]
        exact congrArg (fun x : State => Host.Outcome.next (x.answerWait gid k sd cOK v)) hu
      · rw [group, setS_reserv g (f g) k sd, setS_reserv (g.setS k sd cOK) (f g) k (sd + 1), now]
        rfl
      · have same := congrArg State.mem directs
        rw [rest, ← mem a out]
        exact congrArg (Mem.get · a) same
      · rw [rest, show u = t by rw [← hu, close]]
        exact cairn
      · intro d
        rw [rest]
        have closed := afterClose_cairn (k := d) cairn cvf cname hand
        rw [show u = t.afterClose d by rw [← hu, close, cairn]; rfl]
        exact closed

end Sys2Proof.Machine
end

section
/-! SUPPORT. Barriers changed one after the other, and the records that a front end writes (R261, R269). -/

namespace Sys2Proof.Machine

theorem barrier_setBarrier_ne {s : State} {j k : BarKey} (h : j ≠ k) (b : Barrier) : (s.setBarrier k b).barrier j = s.barrier j := by
  have found (l : List (BarKey × Barrier)) : ((l.map fun x => if x.1 = k then (k, b) else x).find? fun x => x.1 == j) = l.find? fun x => x.1 == j := by
    induction l with
    | nil => rfl
    | cons x l ih =>
      rw [List.map_cons]
      by_cases same : x.1 = k
      · rw [if_pos same, List.find?_cons_of_neg (by simpa using h.symm), List.find?_cons_of_neg (by simpa [same] using h.symm), ih]
      · rw [if_neg same, List.find?_cons, List.find?_cons, ih]
  unfold State.setBarrier
  simp only
  split <;> exact congrArg (Option.map fun b => b.2) (found s.barriers)

/-- `t` is `s` but for barriers and the splits that they wake. -/
def Barring (s t : State) : Prop := t = { s with groups := t.groups, barriers := t.barriers }

theorem Barring.trans {s t u : State} (h : Barring s t) (k : Barring t u) : Barring s u := by
  unfold Barring at *
  rw [h] at k
  exact k

theorem setBarrier_barring (s : State) (k : BarKey) (b : Barrier) : Barring s (s.setBarrier k b) := by
  unfold State.setBarrier Barring
  simp only
  split <;> rfl

/-- The barriers of a pod settle, each from its record in the list (R261). -/
def State.settlePod (owner : Nat) (s : State) (l : List (BarKey × Barrier)) : State :=
  l.foldl (fun s b => if b.1.level = 4 ∧ b.1.owner = owner then s.setBarrier b.1 (b.2.settle s.now) else s) s

theorem settlePod_barring (owner : Nat) (l : List (BarKey × Barrier)) : ∀ s : State, Barring s (s.settlePod owner l) := by
  induction l with
  | nil => exact fun _ => rfl
  | cons x l ih =>
    intro s
    refine Barring.trans ?_ (ih _)
    simp only
    split
    · exact setBarrier_barring ..
    · rfl

theorem settlePod_other (owner : Nat) {k : BarKey} (l : List (BarKey × Barrier)) : ∀ s : State, (∀ b ∈ l, b.1 = k → ¬ (k.level = 4 ∧ k.owner = owner)) →
    (s.settlePod owner l).barrier k = s.barrier k := by
  induction l with
  | nil => exact fun _ _ => rfl
  | cons x l ih =>
    intro s h
    refine (ih _ fun b hb => h b (List.mem_cons_of_mem _ hb)).trans ?_
    simp only
    split
    · next pod =>
      refine barrier_setBarrier_ne (fun same => ?_) _
      exact h x List.mem_cons_self same.symm (same ▸ pod)
    · rfl

theorem settlePod_settles (owner : Nat) {k : BarKey} (pod : k.level = 4 ∧ k.owner = owner) {b : Barrier} (l : List (BarKey × Barrier)) : ∀ s : State,
    (l.map Prod.fst).Nodup → (k, b) ∈ l → (s.barrier k).isSome → (s.settlePod owner l).barrier k = some (b.settle s.now) := by
  induction l with
  | nil => nofun
  | cons x l ih =>
    intro s distinct listed declared
    obtain ⟨new, distinct'⟩ := List.nodup_cons.1 distinct
    rcases List.mem_cons.1 listed with rfl | listed
    · have rest := settlePod_other owner (k := k) l (s.setBarrier k (b.settle s.now)) fun y hy same => absurd (List.mem_map.2 ⟨y, hy, same⟩) new
      obtain ⟨a, ha⟩ := Option.isSome_iff_exists.1 declared
      refine Eq.trans ?_ (rest.trans (find_setBarrier ha _))
      show State.barrier (State.settlePod owner (if k.level = 4 ∧ k.owner = owner then s.setBarrier k (b.settle s.now) else s) l) k = _
      rw [if_pos pod]
    · have other : k ≠ x.1 := fun same => new (List.mem_map.2 ⟨_, listed, same⟩)
      obtain ⟨u, hu⟩ : ∃ u, (if x.1.level = 4 ∧ x.1.owner = owner then s.setBarrier x.1 (x.2.settle s.now) else s) = u := ⟨_, rfl⟩
      have same : u.barrier k = s.barrier k := by
        rw [← hu]
        split
        · exact barrier_setBarrier_ne other _
        · rfl
      have now : u.now = s.now := by
        rw [← hu]
        split
        · rw [show s.setBarrier x.1 (x.2.settle s.now) = _ from setBarrier_barring ..]
        · rfl
      have settled := ih u distinct' listed (by rw [same]; exact declared)
      rw [now] at settled
      refine Eq.trans ?_ settled
      rw [← hu]
      rfl

/-! ### Completion records -/

/-- `t` is `s` but for what stores to device memory change. -/
def Storing (s t : State) : Prop :=
  t = { s with mem := t.mem, written := t.written, groups := t.groups, bad := t.bad, copies := t.copies, quads := t.quads }

theorem Storing.trans {s t u : State} (h : Storing s t) (k : Storing t u) : Storing s u := by
  unfold Storing at *
  rw [h] at k
  exact k

theorem storeMem_storing (s : State) (key : Nat) (bs : List Byte) : Storing s (s.storeMem key bs) := by
  unfold Storing
  rw [storeMem_eq]

theorem writeRecord_storing (s : State) (v : Nat) (done : DWord) (status cause core : Nat) (pc : Word) : Storing s (s.writeRecord v done status cause core pc) := by
  have all (l : List (Byte × Nat)) : ∀ s : State, Storing s (l.foldl (fun (s : State) x => match s.vfKey v (done + BitVec.ofNat 64 x.2) true with
      | some k => s.storeMem k [x.1]
      | none => s) s) := by
    induction l with
    | nil => exact fun _ => rfl
    | cons x l ih =>
      intro s
      refine Storing.trans ?_ (ih _)
      simp only
      split
      · exact storeMem_storing ..
      · rfl
  exact all _ s

end Sys2Proof.Machine
end

section
/-! OBLIGATIONS. Doorbells and the entries of host queues (R261, R267-R269, R274, R278). -/

namespace Sys2Proof.Machine

theorem barrier_mem {s : State} {k : BarKey} {b : Barrier} (h : s.barrier k = some b) : (k, b) ∈ s.barriers := by
  obtain ⟨x, found, rfl⟩ := Option.map_eq_some_iff.1 h
  have key : x.1 = k := by simpa using List.find?_some found
  rw [← key]
  exact List.mem_of_find?_eq_some found

theorem barrier_none {s : State} {k : BarKey} (h : s.barrier k = none) : k ∉ s.barriers.map Prod.fst := by
  rintro listed
  obtain ⟨x, hx, same⟩ := List.mem_map.1 listed
  have := List.find?_eq_none.1 (Option.map_eq_none_iff.1 h) x hx
  simp [same] at this

/-- The pod barriers that a part of a launch declares and no other part did (R261). -/
def State.newPod (s : State) (l : Launch) : List (BarKey × Barrier) := (newBarriers 4 l.podl 0 l.kernel.pbars []).filter fun b => (s.barrier b.1).isNone

/-- A pod barrier once a part of its launch is accepted (R261). -/
def Launch.joins (l : Launch) (left : Nat) (b : BarKey × Barrier) : Barrier :=
  { b.2 with parts := left, expected := if b.1.id < l.kernel.pbars then b.2.expected + l.groups else b.2.expected }

/-- The barriers once a part of a pod launch is accepted (R261). -/
def State.podBarriers (s : State) (l : Launch) (left : Nat) : List (BarKey × Barrier) :=
  (s.barriers ++ s.newPod l).map fun b => if b.1.level = 4 ∧ b.1.owner = l.podl then (b.1, l.joins left b) else b

theorem podStart_none {s : State} {l : Launch} (h : tget l.podl s.pods = none) : s.podStart l = s := by
  simp only [State.podStart, h]

theorem podStart_some {s : State} {l : Launch} {ps acc : List Nat} (h : tget l.podl s.pods = some (ps, acc)) :
    let accepted := acc ++ [pkgOf l.vf]
    let bars := s.podBarriers l (ps.filter fun p => !accepted.contains p).length
    s.podStart l = { s with pods := tset l.podl (ps, accepted) s.pods, barriers := bars }.settlePod l.podl bars := by
  simp only [State.podStart, h]
  rfl

/-- A part of a pod launch changes the pod's record, barriers and the splits that these wake. -/
theorem podStart_frame (s : State) (l : Launch) : let t := s.podStart l
    t = { s with pods := t.pods, groups := t.groups, barriers := t.barriers } := by
  cases h : tget l.podl s.pods with
  | none => rw [podStart_none h]
  | some x =>
    obtain ⟨ps, acc⟩ := x
    intro t
    rw [show t = _ from podStart_some h, show State.settlePod _ _ _ = _ from settlePod_barring ..]

theorem podBarriers_keys (s : State) (l : Launch) (left : Nat) : (s.podBarriers l left).map Prod.fst = (s.barriers ++ s.newPod l).map Prod.fst := by
  rw [State.podBarriers, List.map_map]
  refine List.map_congr_left fun b _ => ?_
  rw [Function.comp]
  split <;> rfl

theorem newPod_key {s : State} {l : Launch} {b : BarKey × Barrier} (h : b ∈ s.newPod l) :
    ∃ j, j < l.kernel.pbars ∧ b = (⟨4, l.podl, 0, j⟩, { expected := 0, members := [] }) ∧ s.barrier ⟨4, l.podl, 0, j⟩ = none := by
  obtain ⟨listed, new⟩ := List.mem_filter.1 h
  obtain ⟨j, hj, rfl⟩ := List.mem_map.1 listed
  exact ⟨j, List.mem_range.1 hj, rfl, Option.isNone_iff_eq_none.1 new⟩

theorem podBarriers_nodup {s : State} (distinct : (s.barriers.map fun b => b.1).Nodup) (l : Launch) (left : Nat) : ((s.podBarriers l left).map Prod.fst).Nodup := by
  rw [podBarriers_keys, List.map_append]
  refine List.Nodup.append distinct ?_ fun k old new => ?_
  · have keys : ((newBarriers 4 l.podl 0 l.kernel.pbars []).map Prod.fst).Nodup := by
      rw [newBarriers, List.map_map]
      exact List.Nodup.map (fun i j same => (BarKey.mk.inj same).2.2.2) List.nodup_range
    exact keys.sublist (List.filter_sublist.map _)
  · obtain ⟨b, hb, rfl⟩ := List.mem_map.1 new
    obtain ⟨j, -, rfl, absent⟩ := newPod_key hb
    exact barrier_none absent old

/-- The record of a pod barrier in the list, for one that an earlier part declared and for a new one. -/
theorem podBarriers_old {s : State} {l : Launch} {left j : Nat} {b : Barrier} (hj : j < l.kernel.pbars) (h : s.barrier ⟨4, l.podl, 0, j⟩ = some b) :
    (⟨4, l.podl, 0, j⟩, { b with parts := left, expected := b.expected + l.groups }) ∈ s.podBarriers l left := by
  refine List.mem_map.2 ⟨(⟨4, l.podl, 0, j⟩, b), List.mem_append_left _ (barrier_mem h), ?_⟩
  rw [if_pos ⟨rfl, rfl⟩, Launch.joins, if_pos hj]

theorem podBarriers_new {s : State} {l : Launch} {left j : Nat} (hj : j < l.kernel.pbars) (h : s.barrier ⟨4, l.podl, 0, j⟩ = none) :
    (⟨4, l.podl, 0, j⟩, { expected := l.groups, members := [], parts := left }) ∈ s.podBarriers l left := by
  refine List.mem_map.2 ⟨(⟨4, l.podl, 0, j⟩, { expected := 0, members := [] }), List.mem_append_right _ (List.mem_filter.2 ⟨?_, ?_⟩), ?_⟩
  · exact List.mem_map.2 ⟨j, List.mem_range.2 hj, rfl⟩
  · rw [h]
    rfl
  · rw [if_pos ⟨rfl, rfl⟩, Launch.joins, if_pos hj, Nat.zero_add]

/-- A key in a list of barriers is found. -/
theorem barrier_isSome {s : State} {k : BarKey} (h : k ∈ s.barriers.map Prod.fst) : (s.barrier k).isSome := by
  cases found : s.barrier k with
  | none => exact absurd h (barrier_none found)
  | some b => rfl

/-- What becomes of a pod barrier as a part of its launch is accepted. -/
theorem podStart_settles {s : State} {l : Launch} {ps acc : List Nat} (h : tget l.podl s.pods = some (ps, acc)) (distinct : (s.barriers.map fun b => b.1).Nodup) {j : Nat} {b : Barrier}
    (listed : (⟨4, l.podl, 0, j⟩, b) ∈ s.podBarriers l (ps.filter fun p => !(acc ++ [pkgOf l.vf]).contains p).length) :
    (s.podStart l).barrier ⟨4, l.podl, 0, j⟩ = some (b.settle s.now) := by
  rw [podStart_some h]
  exact settlePod_settles l.podl ⟨rfl, rfl⟩ _ _ (podBarriers_nodup distinct l _) listed (barrier_isSome (List.mem_map.2 ⟨_, listed, rfl⟩))

theorem podStart_other (s : State) (l : Launch) {k : BarKey} (h : ¬ (k.level = 4 ∧ k.owner = l.podl)) : (s.podStart l).barrier k = s.barrier k := by
  cases pod : tget l.podl s.pods with
  | none => rw [podStart_none pod]
  | some x =>
    obtain ⟨ps, acc⟩ := x
    have same (bs : List (BarKey × Barrier)) (left : Nat) : (bs.map fun b => if b.1.level = 4 ∧ b.1.owner = l.podl then (b.1, l.joins left b) else b).find? (fun b => b.1 == k)
        = bs.find? fun b => b.1 == k := by
      induction bs with
      | nil => rfl
      | cons b bs ih =>
        rw [List.map_cons]
        by_cases here : b.1 = k
        · rw [if_neg (here ▸ h), List.find?_cons_of_pos (by simpa using here), List.find?_cons_of_pos (by simpa using here)]
        · have key : (if b.1.level = 4 ∧ b.1.owner = l.podl then (b.1, l.joins left b) else b).1 = b.1 := by split <;> rfl
          rw [List.find?_cons_of_neg (by rw [key]; simpa using here), List.find?_cons_of_neg (by simpa using here), ih]
    have absent : (s.newPod l).find? (fun b => b.1 == k) = none := by
      refine List.find?_eq_none.2 fun b hb here => ?_
      obtain ⟨j, -, rfl, -⟩ := newPod_key hb
      exact h (by rw [← beq_iff_eq.1 here]; exact ⟨rfl, rfl⟩)
    have lookup (left : Nat) : (s.podBarriers l left).find? (fun b => b.1 == k) = s.barriers.find? fun b => b.1 == k := by
      rw [State.podBarriers, same, List.find?_append, absent, Option.or_none]
    rw [podStart_some pod]
    refine (settlePod_other l.podl _ _ fun b _ _ => h).trans ?_
    rw [State.barrier, State.barrier]
    exact congrArg _ (lookup _)

theorem nextSlot_launches {s t : State} (h : t.launches = s.launches) (v : Nat) : t.nextSlot v = s.nextSlot v := by
  have slots (n : Nat) : ∀ i, t.graphSlot v n i = s.graphSlot v n i := by
    induction n with
    | zero => exact fun _ => rfl
    | succ n ih =>
      intro i
      rw [State.graphSlot, State.graphSlot, ih, State.slotRuns, State.slotRuns, h]
  rw [State.nextSlot, State.nextSlot, slots, h]

/-- A barrier that nothing has reached completes no phase. -/
theorem settle_of_unreached {b : Barrier} {now : Nat} (h : b.count = 0) : b.settle now = b := if_neg fun k => k.1 (k.2.1.symm.trans h)

/-- The record of the pod once a part of the launch is accepted. -/
theorem podStart_pods {s : State} {l : Launch} {ps acc : List Nat} (h : tget l.podl s.pods = some (ps, acc)) :
    (s.podStart l).pods = tset l.podl (ps, acc ++ [pkgOf l.vf]) s.pods := by
  rw [podStart_some h, show State.settlePod _ _ _ = _ from settlePod_barring ..]

theorem podOpen_iff {s : State} {podl p : Nat} : s.podOpen podl p = true ↔ ∃ ps acc, tget podl s.pods = some (ps, acc) ∧ p ∈ ps ∧ p ∉ acc := by
  simp only [State.podOpen, Option.any_eq_true, Prod.exists, Bool.and_eq_true, Bool.not_eq_true', List.contains_eq_mem, decide_eq_true_eq, decide_eq_false_iff_not]

/-- The entry of a ring describes a launch of its kind (R268). -/
def State.Formed (s : State) (v : Nat) (graph : Bool) (ws : List Word) : Prop :=
  (graph = true ∨ bitField (wordAt ws 0) 31 24 = 1) ∧ bitField (wordAt ws 0) 23 10 = 0 ∧ bitField (wordAt ws 0) 7 0 = 0 ∧ (∀ w ∈ ws.drop 8, w = 0)
    ∧ (if graph then 1 ≤ wordAt ws 7 ∧ wordAt ws 7 ≤ 4096 else wordAt ws 7 = 0) ∧ (wordAt ws 6 = 0 ∨ s.podOpen (wordAt ws 6) (pkgOf v) = true)

/-- An entry is refused with BADDESC as soon as its words break the form. -/
theorem formed_iff {s : State} {v : Nat} {graph : Bool} {ws : List Word} (kind : graph = (bitField (wordAt ws 0) 31 24 == 2)) :
    s.Formed v graph ws ↔ ¬ (bitField (wordAt ws 0) 31 24 ≠ (if graph then 2 else 1) ∨ bitField (wordAt ws 0) 23 10 ≠ 0 ∨ bitField (wordAt ws 0) 7 0 ≠ 0
      ∨ (ws.drop 8).any (· != 0) ∨ (if graph then (if graph then wordAt ws 7 else 1) = 0 ∨ 4096 < (if graph then wordAt ws 7 else 1) else wordAt ws 7 ≠ 0)
      ∨ (wordAt ws 6 ≠ 0 ∧ !s.podOpen (wordAt ws 6) (pkgOf v))) := by
  have tail0 : (∀ w ∈ ws.drop 8, w = 0) ↔ ¬ (ws.drop 8).any (· != 0) = true := by simp only [List.any_eq_true, bne_iff_ne, not_exists, not_and, not_not]
  have pod : (wordAt ws 6 = 0 ∨ s.podOpen (wordAt ws 6) (pkgOf v) = true) ↔ ¬ (wordAt ws 6 ≠ 0 ∧ (!s.podOpen (wordAt ws 6) (pkgOf v)) = true) := by
    rw [not_and_or, not_not, Bool.not_eq_true', Bool.not_eq_false]
  rw [State.Formed, tail0, pod]
  cases graph with
  | true =>
    have two : bitField (wordAt ws 0) 31 24 = 2 := beq_iff_eq.1 kind.symm
    have size : (1 ≤ wordAt ws 7 ∧ wordAt ws 7 ≤ 4096) ↔ ¬ (wordAt ws 7 = 0 ∨ 4096 < wordAt ws 7) := by omega
    simp only [two, if_true, size, true_or, true_and, ne_eq, not_true_eq_false, false_or, not_or, not_not]
  | false => simp only [Bool.false_eq_true, if_false, false_or, ne_eq, not_or, not_not]

/-- The device takes the next entry of a queue (R268). -/
def State.Takes (s : State) (v q : Nat) (graph : Bool) : Prop :=
  (s.pkg (pkgOf v)).accepts = true ∧ (s.hostq v q).cfg.msb = true ∧ (s.hostq v q).head ≠ (s.hostq v q).tail ∧ (graph = true → s.nextSlot v ≠ none)

/-- The words of a queue's next entry (R267). -/
def State.entry (s : State) (v q : Nat) : List Word :=
  s.memWords (memKey (s.vfDev v) ((s.hostq v q).base.toNat + 64 * ((s.hostq v q).head.toNat % (s.hostq v q).size))) 64

/-- A queue whose next entry is taken. -/
def State.takeEntry (s : State) (v q : Nat) : State := s.setHostq v q { s.hostq v q with head := (s.hostq v q).head + 1 }

theorem accept_taken {s : State} {v q : Nat} {graph : Bool} (h : s.Takes v q graph) (kind : graph = (bitField (wordAt (s.entry v q) 0) 31 24 == 2))
    (near : s.vfFar v (payloadEnds (pairAt (s.entry v q) 2)) = false) :
    s.accept v q graph = match (s.takeEntry v q).readLaunch v q graph (s.entry v q) with
      | .error st => if (s.takeEntry v q).vfFar v (recordEnds (pairAt (s.entry v q) 4)) then s else (s.takeEntry v q).writeRecord v (pairAt (s.entry v q) 4) st 0 0 0
      | .ok l => { s.takeEntry v q with launches := tset s.nextId l s.launches, nextId := s.nextId + 1 }.podStart l := by
  obtain ⟨accepts, enabled, some', slot⟩ := h
  have slot' : (graph && (s.nextSlot v).isNone) = false := by
    cases hg : graph with
    | false => rfl
    | true =>
      rw [Bool.true_and, Option.isNone_eq_false_iff]
      exact Option.isSome_iff_ne_none.2 (slot hg)
  have goes : ¬ (!(s.pkg (pkgOf v)).accepts || !(s.hostq v q).cfg.msb || (s.hostq v q).head == (s.hostq v q).tail
      || (bitField (wordAt (s.entry v q) 0) 31 24 == 2) != graph || (graph && (s.nextSlot v).isNone) || s.vfFar v (payloadEnds (pairAt (s.entry v q) 2))) = true := by
    rw [accepts, enabled, slot', near, beq_eq_false_iff_ne.2 some', ← kind, bne_self_eq_false]
    nofun
  rw [State.accept]
  exact (if_neg goes).trans rfl

theorem accept_held {s : State} {v q : Nat} {graph : Bool}
    (h : (s.hostq v q).head = (s.hostq v q).tail ∨ (graph = true ∧ s.nextSlot v = none) ∨ s.vfFar v (payloadEnds (pairAt (s.entry v q) 2)) = true) : s.accept v q graph = s := by
  have holds : (!(s.pkg (pkgOf v)).accepts || !(s.hostq v q).cfg.msb || (s.hostq v q).head == (s.hostq v q).tail
      || (bitField (wordAt (s.entry v q) 0) 31 24 == 2) != graph || (graph && (s.nextSlot v).isNone) || s.vfFar v (payloadEnds (pairAt (s.entry v q) 2))) = true := by
    rcases h with h | ⟨rfl, h⟩ | h <;> simp [h]
  rw [State.accept]
  exact if_pos holds

theorem readLaunch_unformed {s : State} {v q : Nat} {graph : Bool} {ws : List Word} (kind : graph = (bitField (wordAt ws 0) 31 24 == 2)) (h : ¬ s.Formed v graph ws) :
    s.readLaunch v q graph ws = .error 1 := by
  rw [State.readLaunch]
  exact if_pos (not_not.1 ((formed_iff kind).not.1 h))

/-- The images of the descriptors from `first` on name cores of the core set only (R34). -/
theorem coordRange_false {s : State} {v first n : Nat}
    (h : ∀ m ∈ (s.vf v).images, (∃ d ∈ m.descs, first ≤ d ∧ d < first + n) → ∀ c ∈ m.coords, c.2 < (s.coreSet v).length) : s.coordRange v first n = false := by
  refine Bool.eq_false_iff.2 fun bad => ?_
  obtain ⟨m, hm, bad⟩ := List.any_eq_true.1 bad
  obtain ⟨c, hc, beyond⟩ := List.any_eq_true.1 bad
  obtain ⟨listed, used⟩ := List.mem_filter.1 hm
  obtain ⟨-, used⟩ := Bool.and_eq_true_iff.1 used
  obtain ⟨d, hd, inside⟩ := List.any_eq_true.1 used
  have := h m listed ⟨d, hd, by simpa using inside⟩ c hc
  have := of_decide_eq_true beyond
  omega

theorem readLaunch_ok {s : State} {v q : Nat} {graph : Bool} {ws : List Word} {k : Kernel} {ks : List Kernel} {payload : List Word}
    (kind : graph = (bitField (wordAt ws 0) 31 24 == 2)) (shape : s.Formed v graph ws)
    (kernels : s.kernelsAt v (wordAt ws 1) (if graph then wordAt ws 7 else 1) = some (k :: ks)) (words : s.payload v (pairAt ws 2) = some payload)
    (each : ∀ y ∈ k :: ks, ((y.kind = 2 ↔ graph = true) ∧ ∀ j ∈ y.succ, j < if graph then wordAt ws 7 else 1) ∧ s.fits v y = true)
    (room : s.coordRange v (wordAt ws 1) (if graph then wordAt ws 7 else 1) = false) :
    s.readLaunch v q graph ws = .ok {
      vf := v
      queue := q
      graph := graph
      slot := if graph then (s.nextSlot v).getD 0 else 0
      kernel := k
      payload := payload
      prio := bitField (wordAt ws 0) 9 8
      done := pairAt ws 4
      podl := wordAt ws 6
      first := wordAt ws 1
      nodes := if graph then (k :: ks).map fun x => { kernel := x } else [] } := by
  have sound : ¬ ((k :: ks).any fun x => (x.kind == 2) != graph || x.succ.any fun i => decide ((if graph then wordAt ws 7 else 1) ≤ i)) = true := by
    intro bad
    obtain ⟨y, hy, bad⟩ := List.any_eq_true.1 bad
    obtain ⟨⟨same, below⟩, -⟩ := each y hy
    rcases Bool.or_eq_true_iff.1 bad with other | beyond
    · exact bne_iff_ne.1 other (Bool.eq_iff_iff.2 (beq_iff_eq.trans same))
    · obtain ⟨j, hj, beyond⟩ := List.any_eq_true.1 beyond
      exact Nat.not_lt.2 (of_decide_eq_true beyond) (below j hj)
  have fits : ¬ ((k :: ks).any fun x => !s.fits v x) = true := by
    intro bad
    obtain ⟨y, hy, bad⟩ := List.any_eq_true.1 bad
    rw [(each y hy).2] at bad
    exact absurd bad nofun
  rw [State.readLaunch]
  refine (if_neg ((formed_iff kind).1 shape)).trans ?_
  simp only [kernels, words]
  exact (if_neg sound).trans ((if_neg fits).trans ((if_neg (by rw [room]; nofun)).trans rfl))

theorem accept_ok {s : State} {v q : Nat} {graph : Bool} {l : Launch} (h : s.Takes v q graph) (kind : graph = (bitField (wordAt (s.entry v q) 0) 31 24 == 2))
    (near : s.vfFar v (payloadEnds (pairAt (s.entry v q) 2)) = false) (reads : (s.takeEntry v q).readLaunch v q graph (s.entry v q) = .ok l) :
    s.accept v q graph = { s.takeEntry v q with launches := tset s.nextId l s.launches, nextId := s.nextId + 1 }.podStart l := by
  rw [accept_taken h kind near, reads]

theorem accept_error {s : State} {v q : Nat} {graph : Bool} {st : Nat} (h : s.Takes v q graph) (kind : graph = (bitField (wordAt (s.entry v q) 0) 31 24 == 2))
    (near : s.vfFar v (payloadEnds (pairAt (s.entry v q) 2)) = false) (refused : (s.takeEntry v q).readLaunch v q graph (s.entry v q) = .error st) :
    s.accept v q graph = if (s.takeEntry v q).vfFar v (recordEnds (pairAt (s.entry v q) 4)) then s else (s.takeEntry v q).writeRecord v (pairAt (s.entry v q) 4) st 0 0 0 := by
  rw [accept_taken h kind near, refused]

/-- A launch set up by the command processor (R268). -/
theorem accept_launch {s : State} {v q : Nat} {graph : Bool} {l : Launch}
    (taken : s.accept v q graph = { s.takeEntry v q with launches := tset s.nextId l s.launches, nextId := s.nextId + 1 }.podStart l) :
    let t := s.accept v q graph
    t = { s with vfs := (s.takeEntry v q).vfs, launches := tset s.nextId l s.launches, nextId := s.nextId + 1, pods := t.pods, groups := t.groups, barriers := t.barriers } := by
  intro t
  rw [show t = _ from taken, podStart_frame]
  rfl

/-! ### Doorbells -/

theorem doorbellWrite_ignored {s : State} {v q : Nat} {tail : Word} (h : Mode.queues (s.pkg (pkgOf v)).mode ≤ q ∨ (s.pkg (pkgOf v)).booted = false) :
    exec (.doorbellWrite v q tail) s = .next s := by
  refine congrArg _ (if_pos ?_)
  rcases h with h | h <;> simp [h]

theorem doorbellWrite_heard {s : State} {v q : Nat} {tail : Word} (hq : q < Mode.queues (s.pkg (pkgOf v)).mode) (booted : (s.pkg (pkgOf v)).booted = true) :
    exec (.doorbellWrite v q tail) s = .next (if (s.hostq v q).size < (tail - (s.hostq v q).head).toNat then s.setVf v { s.vf v with baddb := true }
      else (s.setHostq v q { s.hostq v q with tail := tail }).startExit (pkgOf v)) := by
  refine congrArg _ (if_neg ?_)
  simp [booted, hq]

/-- Proves O45: a doorbell, and the command processor's next entry taken, refused or left. -/
theorem hostQueues : Obligations.HostQueues := by
  intro s v q tail k ks payload st x p ws word graph i n done moved s' ready far formed described placed l
  have modes : (match p.mode with | .whole => 64 | .halves => 32 | .dies => 8) = Mode.queues p.mode := by cases p.mode <;> rfl
  have run : exec i s = .next (s.accept v q graph) := by
    show exec (if graph then Instr.graphLaunch v q else .launch v q) s = _
    cases graph <;> rfl
  have takes (h : ready) : s.Takes v q graph := by
    obtain ⟨booted, wiping, life, power, lost, enabled, some', slot⟩ := h
    refine ⟨?_, enabled, some', slot⟩
    simp only [Pkg.accepts, show (s.pkg (pkgOf v)).booted = true from booted, show (s.pkg (pkgOf v)).wiping = false from wiping,
      show (s.pkg (pkgOf v)).power = .active from power, show (s.pkg (pkgOf v)).lost = false from lost]
    simpa using life
  have kind : graph = (bitField (wordAt ws 0) 31 24 == 2) := rfl
  have shaped : formed ↔ s'.Formed v graph ws := by
    refine and_congr Iff.rfl (and_congr Iff.rfl (and_congr Iff.rfl (and_congr Iff.rfl (and_congr Iff.rfl (or_congr Iff.rfl ?_)))))
    exact podOpen_iff.symm
  have reads (shape : formed) (desc : described) (room : placed) : s'.readLaunch v q graph ws = .ok l := by
    obtain ⟨kernels, words, each⟩ := desc
    have images : (s'.vf v).images = (s.vf v).images := by
      have stored := congrArg Vf.images (State.vf_setVf_self s v { s.vf v with queues := tset q { x with head := x.head + 1 } (s.vf v).queues })
      exact stored
    have inside : s'.coordRange v (wordAt ws 1) (if graph then wordAt ws 7 else 1) = false := coordRange_false (images ▸ room)
    have kernels' : s'.kernelsAt v (wordAt ws 1) (if graph then wordAt ws 7 else 1) = some (k :: ks) := kernels
    have words' : s'.payload v (pairAt ws 2) = some payload := words
    have each' : ∀ y ∈ k :: ks, ((y.kind = 2 ↔ graph = true) ∧ ∀ j ∈ y.succ, j < if graph then wordAt ws 7 else 1) ∧ s'.fits v y = true := each
    have shape' := shaped.1 shape
    have h := readLaunch_ok (q := q) kind shape' kernels' words' each' inside
    rw [nextSlot_launches (s := s) (t := s') rfl] at h
    exact h
  refine ⟨fun hq booted => ?_, fun ignored => doorbellWrite_ignored ignored, fun h near shape desc room => ?_, fun h near record refused => ?_,
    fun h misshaped => readLaunch_unformed rfl (shaped.not.1 misshaped), fun h away => ?_, fun empty => ?_, fun isGraph full => ?_⟩
  · have heard := doorbellWrite_heard (tail := tail) (show q < Mode.queues p.mode from modes ▸ hq) booted
    refine ⟨fun fits awake => ?_, fun fits asleep exit => ?_, fun bad => ?_⟩
    · rw [heard]
      refine congrArg _ ((if_neg (Nat.not_lt.2 fits)).trans (if_pos ?_))
      exact awake.imp_right Option.isSome_iff_ne_none.2
    · rw [heard]
      refine congrArg _ ((if_neg (Nat.not_lt.2 fits)).trans ?_)
      have h := startExit_spec (s := moved { x with tail := tail }) (p := pkgOf v) exit asleep
      exact h
    · rw [heard]
      exact congrArg _ (if_pos bad)
  · have start : s.accept v q graph = { s' with launches := tset s.nextId l s.launches, nextId := s.nextId + 1 }.podStart l :=
      accept_ok (takes h) kind (Bool.eq_false_iff.2 near) (reads shape desc room)
    have frame := accept_launch start
    refine ⟨_, run, by rw [frame], by rw [frame], by rw [frame]; rfl, by rw [frame], by rw [frame], by rw [frame], by rw [frame], fun alone => ?_, fun b other => ?_,
      fun ps acc pod distinct => ⟨?_, fun j hj => ⟨fun new => ?_, fun b old => ?_⟩⟩⟩
    · rw [start, podStart_none alone]
      exact ⟨rfl, rfl, rfl⟩
    · rw [start, podStart_other _ _ other]
      rfl
    · rw [start, podStart_pods pod]
      exact tget_tset_self ..
    · rw [start]
      have settled := podStart_settles (s := { s' with launches := tset s.nextId l s.launches, nextId := s.nextId + 1 }) (l := l) pod distinct (podBarriers_new hj new)
      exact settled.trans (congrArg some (settle_of_unreached rfl))
    · rw [start]
      exact podStart_settles (s := { s' with launches := tset s.nextId l s.launches, nextId := s.nextId + 1 }) (l := l) pod distinct (podBarriers_old hj old)
  · have wrote : s.accept v q graph = s'.writeRecord v done st 0 0 0 :=
      (accept_error (takes h) kind (Bool.eq_false_iff.2 near) refused).trans (if_neg (Bool.eq_false_iff.1 record))
    have frame := writeRecord_storing s' v done st 0 0 0
    refine ⟨_, run, ?_, ?_, ?_, ?_⟩ <;> rw [wrote, frame] <;> rfl
  · rw [run]
    refine congrArg _ ?_
    by_cases near : far
    · exact accept_held (.inr (.inr near))
    · obtain ⟨record, refused⟩ := away.resolve_left near
      exact (accept_error (takes h) kind (Bool.eq_false_iff.2 near) refused).trans (if_pos record)
  · exact ⟨congrArg _ (accept_held (.inl empty)), congrArg _ (accept_held (.inl empty))⟩
  · exact congrArg _ (accept_held (.inr (.inl ⟨rfl, full⟩)))

end Sys2Proof.Machine
end

section
/-! SUPPORT. The drop of a group out of its barriers, and the waits that the completed phases end (R56, R57, R281). -/

namespace Sys2Proof.Machine

/-- A table is in order by its numbers alone. -/
theorem tableOk_numbers {α : Type} (t : Table α) : tableOk t = tableOk (t.map fun p => (p.1, ())) := by
  induction t with
  | nil => rfl
  | cons p t ih =>
    cases t with
    | nil => rfl
    | cons q t => exact congrArg (decide (p.1 < q.1) && ·) ih

theorem tableOk_keys {α β : Type} {t : Table α} {u : Table β} (same : u.map Prod.fst = t.map Prod.fst) (ok : tableOk t = true) : tableOk u = true := by
  have numbers := congrArg (List.map fun n : Nat => (n, ())) same
  rw [List.map_map, List.map_map] at numbers
  rw [tableOk_numbers] at ok ⊢
  exact (congrArg tableOk numbers).trans ok

theorem tmod_keys {α : Type} (k : Nat) (f : α → α) (t : Table α) : (tmod k f t).map Prod.fst = t.map Prod.fst := by
  rw [tmod, List.map_map]
  refine List.map_congr_left fun p _ => ?_
  rw [Function.comp]
  split <;> rfl

/-- `y` is split `x` after its wait has ended in clk `now` (R50). -/
def Split.Woken (now : Nat) (x y : Split) : Prop := y = { x with pc := x.cont, wait := .none, held := none, stamp := 0, since := now, due := y.due }

theorem completeAll_keys (now : Nat) (l : Table Split) : ∀ g : Group, (completeAll now l g).splits.map Prod.fst = g.splits.map Prod.fst := by
  induction l with
  | nil => exact fun _ => rfl
  | cons p l ih =>
    intro g
    refine (ih (g.complete p.1 p.2.pc p.2.cont now)).trans ?_
    simp only [Group.complete]
    exact tmod_keys ..

theorem completeAll_woken (now m : Nat) (x : Split) (l : Table Split) (sorted : l.Pairwise fun p q => p.1 < q.1) (hx : (m, x) ∈ l) :
    ∀ g : Group, tget m g.splits = some x → ∃ y, tget m (completeAll now l g).splits = some y ∧ x.Woken now y := by
  induction l with
  | nil => cases hx
  | cons p l ih =>
    intro g found
    obtain ⟨above, sorted⟩ := List.pairwise_cons.1 sorted
    rcases List.mem_cons.1 hx with rfl | hx
    · have step : tget m (g.complete m x.pc x.cont now).splits = some { x.rest x.cont with since := now, due := if g.stepped m then some (x.stamp, x.pc) else none } := by
        simp only [Group.complete, tget_tmod_self, found, Option.map_some]
      exact ⟨_, (completeAll_other now m l (fun q hq => (above q hq).ne') _).trans step, rfl⟩
    · refine ih sorted hx _ ?_
      simp only [Group.complete, tget_tmod_ne (above _ hx).ne', found]

/-- A split about to issue stays so while waits of the group end. -/
theorem completeAll_resting (now : Nat) (l : Table Split) : ∀ g : Group, (∃ q ∈ g.splits, q.2.wait = .none) → ∃ q ∈ (completeAll now l g).splits, q.2.wait = .none := by
  induction l with
  | nil => exact fun _ h => h
  | cons p l ih =>
    rintro g ⟨q, hq, wait⟩
    refine ih _ ⟨_, List.mem_map.2 ⟨q, hq, rfl⟩, ?_⟩
    split
    · rfl
    · exact wait

/-- The splits of a group that wait on a barrier whose phase is no longer theirs. -/
def Group.behind (g : Group) (k : BarKey) (phase : Word) : Table Split := g.splits.filter fun p => match p.2.wait with | .bar j q => j == k && q != phase | _ => false

theorem wakeBar_resident {g : Group} (k : BarKey) (phase : Word) (now : Nat) (life : g.life = .resident) :
    g.wakeBar k phase now = completeAll now (g.behind k phase) g := if_neg fun away => away life

theorem mem_behind {g : Group} {k : BarKey} {phase : Word} {p : Nat × Split} :
    p ∈ g.behind k phase ↔ p ∈ g.splits ∧ ∃ q, p.2.wait = .bar k q ∧ q ≠ phase := by
  rw [Group.behind, List.mem_filter]
  refine and_congr Iff.rfl ?_
  cases p.2.wait <;> simp

theorem mem_unique {t : Table Split} (ok : tableOk t = true) {n : Nat} {x y : Split} (hx : tget n t = some x) (hy : (n, y) ∈ t) : y = x := by
  have sorted := tableOk_pairwise t ok
  clear ok
  induction t with
  | nil => cases hy
  | cons p t ih =>
    obtain ⟨above, sorted⟩ := List.pairwise_cons.1 sorted
    rcases List.mem_cons.1 hy with rfl | later
    · rw [tget, if_pos rfl] at hx
      exact Option.some.inj hx
    · rw [tget, if_neg (above _ later).ne] at hx
      exact ih hx later sorted

/-- What becomes of a split as a barrier's phase changes: one that waits on it for another phase goes on, any other stays. -/
theorem wakeBar_split {g : Group} (k : BarKey) (phase : Word) (now : Nat) (ok : tableOk g.splits = true) {n : Nat} {x : Split} (hx : tget n g.splits = some x) :
    ∃ y, tget n (g.wakeBar k phase now).splits = some y ∧ ((y = x ∧ ∀ q, g.life = .resident → x.wait = .bar k q → q = phase) ∨ ∃ q, x.wait = .bar k q ∧ q ≠ phase ∧ x.Woken now y) := by
  by_cases life : g.life = .resident
  · rw [wakeBar_resident k phase now life]
    by_cases waits : ∃ q, x.wait = .bar k q ∧ q ≠ phase
    · have listed : (n, x) ∈ g.behind k phase := mem_behind.2 ⟨mem_of_tget hx, waits⟩
      obtain ⟨y, hy, woken⟩ := completeAll_woken now n x _ ((tableOk_pairwise _ ok).filter _) listed g hx
      obtain ⟨q, wait, other⟩ := waits
      exact ⟨y, hy, .inr ⟨q, wait, other, woken⟩⟩
    · have apart : ∀ p ∈ g.behind k phase, p.1 ≠ n := by
        rintro ⟨j, y⟩ hp rfl
        obtain ⟨listed, behind⟩ := mem_behind.1 hp
        exact waits (mem_unique ok hx listed ▸ behind)
      refine ⟨x, (completeAll_other now n _ apart g).trans hx, .inl ⟨rfl, fun q _ wait => ?_⟩⟩
      by_contra other
      exact waits ⟨q, wait, other⟩
  · have same : g.wakeBar k phase now = g := if_pos life
    exact ⟨x, by rw [same]; exact hx, .inl ⟨rfl, fun q here => absurd here life⟩⟩

theorem wakeBar_keys (g : Group) (k : BarKey) (phase : Word) (now : Nat) : (g.wakeBar k phase now).splits.map Prod.fst = g.splits.map Prod.fst := by
  by_cases life : g.life = .resident
  · rw [wakeBar_resident k phase now life]
    exact completeAll_keys ..
  · rw [show g.wakeBar k phase now = g from if_pos life]

theorem wakeBar_idle {g : Group} (k : BarKey) (phase : Word) (now : Nat) (idle : ∀ p ∈ g.splits, ∀ b q, p.2.wait ≠ .bar b q) : g.wakeBar k phase now = g := by
  by_cases life : g.life = .resident
  · have none : g.behind k phase = [] := List.eq_nil_iff_forall_not_mem.2 fun p hp => by
      obtain ⟨listed, q, wait, -⟩ := mem_behind.1 hp
      exact idle p listed k q wait
    rw [wakeBar_resident k phase now life, none]
    rfl
  · exact if_pos life

/-- No group comes to REGRP by a wake. -/
theorem wakeBar_atRegrp {g : Group} {k : BarKey} {phase : Word} {now : Nat} (h : (g.wakeBar k phase now).atRegrp = true) : g.atRegrp = true := by
  by_cases life : g.life = .resident
  · rw [wakeBar_resident k phase now life] at h
    cases hl : g.behind k phase with
    | nil =>
      rw [hl] at h
      exact h
    | cons p l =>
      have listed : p ∈ g.splits := (mem_behind.1 (hl ▸ List.mem_cons_self)).1
      have resting : ∃ q ∈ (completeAll now (g.behind k phase) g).splits, q.2.wait = .none := by
        rw [hl]
        refine completeAll_resting now l (g.complete p.1 p.2.pc p.2.cont now) ⟨_, List.mem_map.2 ⟨p, listed, rfl⟩, ?_⟩
        rw [if_pos rfl]
        rfl
      obtain ⟨q, hq, wait⟩ := resting
      have all := List.all_eq_true.1 (Bool.and_eq_true_iff.1 h).2 q hq
      rw [wait] at all
      exact nomatch all
  · rw [show g.wakeBar k phase now = g from if_pos life] at h
    exact h

/-! ### Drops -/

/-- A barrier after drops of a group: one that the group has left stays left and in its phase; as the group leaves it, one phase may complete. -/
def Barrier.LeftBy (gid : Nat) (a c : Barrier) : Prop :=
  (gid ∉ a.members → gid ∉ c.members) ∧ (c.phase = a.phase ∨ (gid ∈ a.members ∧ gid ∉ c.members ∧ c.phase = a.phase + 1))

theorem Barrier.LeftBy.refl (gid : Nat) (a : Barrier) : a.LeftBy gid a := ⟨id, .inl rfl⟩

theorem Barrier.LeftBy.trans {gid : Nat} {a b c : Barrier} (h : a.LeftBy gid b) (k : b.LeftBy gid c) : a.LeftBy gid c := by
  obtain ⟨gone, phase⟩ := h
  obtain ⟨gone', phase'⟩ := k
  refine ⟨fun none => gone' (gone none), ?_⟩
  rcases phase' with same' | ⟨member, left, next⟩
  · rcases phase with same | ⟨member, left, next⟩
    · exact .inl (same'.trans same)
    · exact .inr ⟨member, gone' left, same'.trans next⟩
  · rcases phase with same | ⟨-, left', -⟩
    · exact .inr ⟨by_contra fun none => gone none member, left, by rw [next, same]⟩
    · exact absurd member left'

theorem settle_members (b : Barrier) (now : Nat) : (b.settle now).members = b.members := by
  unfold Barrier.settle
  split <;> rfl

theorem settle_phase (b : Barrier) (now : Nat) : (b.settle now).phase = b.phase ∨ (b.settle now).phase = b.phase + 1 := by
  unfold Barrier.settle
  split
  · exact .inr rfl
  · exact .inl rfl

theorem dropMember_absent {a : Barrier} {gid : Nat} (now : Nat) (h : gid ∉ a.members) : a.dropMember gid now = a := if_pos (by simpa using h)

theorem dropMember_leaves (a : Barrier) (gid now : Nat) : a.LeftBy gid (a.dropMember gid now) := by
  by_cases member : gid ∈ a.members
  · have settles (b : Barrier) (phase : b.phase = a.phase) (members : b.members = a.members.filter (· != gid)) : a.LeftBy gid (b.settle now) := by
      have left : gid ∉ (b.settle now).members := by
        rw [settle_members, members]
        simp
      rcases settle_phase b now with same | next
      · exact ⟨fun _ => left, .inl (same.trans phase)⟩
      · exact ⟨fun _ => left, .inr ⟨member, left, by rw [next, phase]⟩⟩
    unfold Barrier.dropMember
    rw [if_neg (by simpa using member)]
    simp only
    split
    · exact settles _ rfl rfl
    · exact settles _ (by split <;> rfl) rfl
  · rw [dropMember_absent now member]
    exact .refl gid a

/-- A barrier's phase has completed by a drop of the group, and it is not `q`. -/
def Passed (s t : State) (gid : Nat) (b : BarKey) (q : Word) : Prop :=
  ∃ a c, s.barrier b = some a ∧ t.barrier b = some c ∧ gid ∈ a.members ∧ gid ∉ c.members ∧ c.phase ≠ q

/-- The splits of a group after drops: one whose barrier has left its phase goes on, any other stays (R281). -/
structure WokenBy (s t : State) (gid : Nat) (h : Group) (w : Table Split) : Prop where
  keys : w.map Prod.fst = h.splits.map Prod.fst
  idle : (∀ p ∈ h.splits, ∀ b q, p.2.wait ≠ .bar b q) → w = h.splits
  split : tableOk h.splits = true → ∀ n x, tget n h.splits = some x → ∃ y, tget n w = some y
    ∧ (y = x ∨ ∃ b q, x.wait = .bar b q ∧ Passed s t gid b q ∧ x.Woken s.now y)
    ∧ ∀ b a c, h.life = .resident → x.wait = .bar b a.phase → s.barrier b = some a → t.barrier b = some c → c.phase ≠ a.phase → y.wait = .none

/-- `t` is `s` after drops of a group out of barriers. -/
structure Dropping (s t : State) (gid : Nat) : Prop where
  frame : t = { s with groups := t.groups, barriers := t.barriers, wins := t.wins, flights := t.flights, nextId := t.nextId, trace := t.trace }
  bare : t.groups.map (fun p => (p.1, { p.2 with splits := [] })) = s.groups.map fun p => (p.1, { p.2 with splits := [] })
  regrp : ∀ p ∈ t.groups, p.2.atRegrp = true → ∃ q ∈ s.groups, q.2.atRegrp = true
  barrier : ∀ k, (s.barrier k = none ∧ t.barrier k = none) ∨ ∃ a c, s.barrier k = some a ∧ t.barrier k = some c ∧ a.LeftBy gid c
  group : ∀ i h, s.group? i = some h → ∃ w, t.group? i = some { h with splits := w } ∧ WokenBy s t gid h w

theorem Dropping.now {s t : State} {gid : Nat} (h : Dropping s t gid) : t.now = s.now := by rw [h.frame]

theorem WokenBy.refl (s t : State) (gid : Nat) {h : Group} (phases : ∀ b a c, s.barrier b = some a → t.barrier b = some c → c.phase = a.phase) : WokenBy s t gid h h.splits :=
  ⟨rfl, fun _ => rfl, fun _ _ x hx => ⟨x, hx, .inl rfl, fun b a c _ _ ha hc change => absurd (phases b a c ha hc) change⟩⟩

/-- Steps that leave every group and keep every barrier's phase. -/
theorem Dropping.quiet {s t : State} {gid : Nat}
    (frame : t = { s with barriers := t.barriers, wins := t.wins, flights := t.flights, nextId := t.nextId, trace := t.trace })
    (barrier : ∀ k, (s.barrier k = none ∧ t.barrier k = none) ∨ ∃ a c, s.barrier k = some a ∧ t.barrier k = some c ∧ c.phase = a.phase ∧ (gid ∉ a.members → gid ∉ c.members)) :
    Dropping s t gid := by
  have groups : t.groups = s.groups := by rw [frame]
  refine ⟨by rw [groups]; exact frame, by rw [groups], by rw [groups]; exact fun p hp ready => ⟨p, hp, ready⟩, fun k => ?_, fun i h hg => ?_⟩
  · rcases barrier k with none | ⟨a, c, ha, hc, phase, gone⟩
    · exact .inl none
    · exact .inr ⟨a, c, ha, hc, gone, .inl phase⟩
  · refine ⟨h.splits, by rw [State.group?, groups]; exact hg, .refl s t gid fun b a c ha hc => ?_⟩
    rcases barrier b with ⟨none, -⟩ | ⟨a', c', ha', hc', phase, -⟩
    · rw [none] at ha; cases ha
    · rw [ha] at ha'; rw [hc] at hc'
      cases ha'; cases hc'
      exact phase

theorem Dropping.refl (s : State) (gid : Nat) : Dropping s s gid := .quiet rfl fun k => by
  cases h : s.barrier k with
  | none => exact .inl ⟨rfl, rfl⟩
  | some a => exact .inr ⟨a, a, rfl, rfl, rfl, id⟩

theorem Dropping.sent {s t : State} {gid : Nat} (h : Sending s t) : Dropping s t gid := by
  have barriers : t.barriers = s.barriers := by rw [show t = _ from h]
  refine .quiet (by rw [barriers]; exact h) fun k => ?_
  have same : t.barrier k = s.barrier k := by rw [State.barrier, barriers]; rfl
  rw [same]
  cases h : s.barrier k with
  | none => exact .inl ⟨rfl, rfl⟩
  | some a => exact .inr ⟨a, a, rfl, rfl, rfl, id⟩

/-- A barrier that stays declared, as it is found after both steps. -/
theorem Dropping.found {s t : State} {gid : Nat} (h : Dropping s t gid) {b : BarKey} {a c : Barrier} (ha : s.barrier b = some a) (hc : t.barrier b = some c) : a.LeftBy gid c := by
  rcases h.barrier b with ⟨none, -⟩ | ⟨a', c', ha', hc', left⟩
  · rw [none] at ha; cases ha
  · rw [ha] at ha'; rw [hc] at hc'
    cases ha'; cases hc'
    exact left

theorem Dropping.before {s t : State} {gid : Nat} (h : Dropping s t gid) {b : BarKey} {c : Barrier} (hc : t.barrier b = some c) : ∃ a, s.barrier b = some a ∧ a.LeftBy gid c := by
  rcases h.barrier b with ⟨-, none⟩ | ⟨a, c', ha, hc', left⟩
  · rw [none] at hc; cases hc
  · rw [hc] at hc'
    cases hc'
    exact ⟨a, ha, left⟩

theorem Dropping.after {s t : State} {gid : Nat} (h : Dropping s t gid) {b : BarKey} {a : Barrier} (ha : s.barrier b = some a) : ∃ c, t.barrier b = some c ∧ a.LeftBy gid c := by
  rcases h.barrier b with ⟨none, -⟩ | ⟨a', c, ha', hc, left⟩
  · rw [none] at ha; cases ha
  · rw [ha] at ha'
    cases ha'
    exact ⟨c, hc, left⟩

theorem Passed.later {s t u : State} {gid : Nat} {b : BarKey} {q : Word} (h : Passed s t gid b q) (k : Dropping t u gid) : Passed s u gid b q := by
  obtain ⟨a, c, ha, hc, member, gone, other⟩ := h
  obtain ⟨d, hd, gone', phase⟩ := k.after hc
  refine ⟨a, d, ha, hd, member, gone' gone, ?_⟩
  rcases phase with same | ⟨member', -⟩
  · rw [same]; exact other
  · exact absurd member' gone

theorem Passed.earlier {s t u : State} {gid : Nat} {b : BarKey} {q : Word} (h : Dropping s t gid) (k : Passed t u gid b q) : Passed s u gid b q := by
  obtain ⟨c, d, hc, hd, member, gone, other⟩ := k
  obtain ⟨a, ha, stays, -⟩ := h.before hc
  exact ⟨a, d, ha, hd, by_contra fun none => stays none member, gone, other⟩

theorem Dropping.trans {s t u : State} {gid : Nat} (h : Dropping s t gid) (k : Dropping t u gid) : Dropping s u gid where
  frame := by
    have kf := k.frame
    rw [h.frame] at kf
    exact kf
  bare := k.bare.trans h.bare
  regrp p hp ready := by
    obtain ⟨q, hq, ready'⟩ := k.regrp p hp ready
    exact h.regrp q hq ready'
  barrier b := by
    rcases h.barrier b with ⟨none, none'⟩ | ⟨a, c, ha, hc, left⟩
    · rcases k.barrier b with ⟨-, none''⟩ | ⟨c, -, hc, -⟩
      · exact .inl ⟨none, none''⟩
      · rw [none'] at hc; cases hc
    · obtain ⟨d, hd, left'⟩ := k.after hc
      exact .inr ⟨a, d, ha, hd, left.trans left'⟩
  group i g hg := by
    obtain ⟨w, hw, keys, idle, split⟩ := h.group i g hg
    obtain ⟨v, hv, keys', idle', split'⟩ := k.group i _ hw
    refine ⟨v, hv, keys'.trans keys, fun none => ?_, fun ok n x hx => ?_⟩
    · have same := idle none
      rw [← same] at none
      exact (idle' none).trans same
    · obtain ⟨y, hy, how, wakes⟩ := split ok n x hx
      obtain ⟨z, hz, how', wakes'⟩ := split' (tableOk_keys keys ok) n y hy
      rcases how with rfl | ⟨b, q, wait, passed, woken⟩
      · refine ⟨z, hz, how'.imp_right fun ⟨b, q, wait, passed, woken⟩ => ⟨b, q, wait, passed.earlier h, h.now ▸ woken⟩, fun b a d life wait ha hd change => ?_⟩
        obtain ⟨c, hc, -⟩ := h.after ha
        by_cases same : c.phase = a.phase
        · exact wakes' b c d life (same ▸ wait) hc hd (same ▸ change)
        · have rests := wakes b a c life wait ha hc same
          rcases how' with rfl | ⟨b', q', wait', -⟩
          · exact rests
          · rw [rests] at wait'; cases wait'
      · have rests : y.wait = .none := by rw [show y = _ from woken]
        have stays : z = y := by
          rcases how' with same | ⟨b', q', wait', -⟩
          · exact same
          · rw [rests] at wait'; cases wait'
        subst stays
        exact ⟨z, hz, .inr ⟨b, q, wait, passed.later k, woken⟩, fun _ _ _ _ _ _ _ _ => rests⟩

theorem Dropping.foldl {α : Type} {gid : Nat} {f : State → α → State} (h : ∀ s x, Dropping s (f s x) gid) (l : List α) : ∀ s, Dropping s (l.foldl f s) gid := by
  induction l with
  | nil => exact fun s => .refl s gid
  | cons x l ih => exact fun s => (h s x).trans (ih _)

theorem setBarrier_dropping {s : State} {k : BarKey} {a b : Barrier} {gid : Nat} (ha : s.barrier k = some a) (left : a.LeftBy gid b) : Dropping s (s.setBarrier k b) gid := by
  have barring := setBarrier_barring s k b
  have frame : s.setBarrier k b = { s with groups := (s.setBarrier k b).groups, barriers := (s.setBarrier k b).barriers } := barring
  have barrier (j : BarKey) : (s.barrier j = none ∧ (s.setBarrier k b).barrier j = none)
      ∨ ∃ a c, s.barrier j = some a ∧ (s.setBarrier k b).barrier j = some c ∧ a.LeftBy gid c := by
    by_cases same : j = k
    · exact .inr ⟨a, b, same ▸ ha, same ▸ find_setBarrier ha b, left⟩
    · rw [barrier_setBarrier_ne same]
      cases h : s.barrier j with
      | none => exact .inl ⟨rfl, rfl⟩
      | some c => exact .inr ⟨c, c, rfl, rfl, .refl gid c⟩
  have stays {j : BarKey} {x c : Barrier} (hx : s.barrier j = some x) (hc : (s.setBarrier k b).barrier j = some c) (change : c.phase ≠ x.phase) : j = k ∧ x = a ∧ c = b := by
    by_cases same : j = k
    · subst same
      rw [ha] at hx
      rw [find_setBarrier ha b] at hc
      cases hx; cases hc
      exact ⟨rfl, rfl, rfl⟩
    · rw [barrier_setBarrier_ne same, hx] at hc
      cases hc
      exact absurd rfl change
  rcases left.2 with phase | ⟨member, gone, next⟩
  · have groups := setBarrier_groups_same ha phase
    refine ⟨by rw [frame], by rw [groups], by rw [groups]; exact fun p hp ready => ⟨p, hp, ready⟩, barrier, fun i h hg => ?_⟩
    refine ⟨h.splits, by rw [State.group?, groups]; exact hg, .refl s _ gid fun j x c hx hc => ?_⟩
    by_contra change
    obtain ⟨-, rfl, rfl⟩ := stays hx hc change
    exact change phase
  · have moved : b.phase ≠ a.phase := by rw [next]; simp
    have groups := setBarrier_groups_woken ha moved
    refine ⟨by rw [frame], ?_, fun p hp ready => ?_, barrier, fun i h hg => ?_⟩
    · rw [groups, List.map_map]
      refine List.map_congr_left fun p _ => Prod.ext rfl ?_
      obtain ⟨l, woken, -⟩ := wakeBar_splits p.2 k b.phase s.now
      simp only [Function.comp_apply, woken]
    · rw [groups] at hp
      obtain ⟨q, hq, rfl⟩ := List.mem_map.1 hp
      exact ⟨q, hq, wakeBar_atRegrp ready⟩
    · obtain ⟨l, woken, -⟩ := wakeBar_splits h k b.phase s.now
      have found : (s.setBarrier k b).group? i = some (h.wakeBar k b.phase s.now) := by
        rw [State.group?, groups, tget_map_values (fun g : Group => g.wakeBar k b.phase s.now), show tget i s.groups = some h from hg]
        rfl
      have splits : (h.wakeBar k b.phase s.now).splits = l := by rw [woken]
      refine ⟨l, by rw [found, woken], by rw [← splits]; exact wakeBar_keys .., fun idle => by rw [← splits, wakeBar_idle k b.phase s.now idle], fun ok n x hx => ?_⟩
      obtain ⟨y, hy, how⟩ := wakeBar_split k b.phase s.now ok hx
      rw [splits] at hy
      rcases how with ⟨rfl, waits⟩ | ⟨q, wait, other, woke⟩
      · refine ⟨y, hy, .inl rfl, fun j x c life wait hx hc change => ?_⟩
        obtain ⟨rfl, rfl, rfl⟩ := stays hx hc change
        exact absurd (waits _ life wait).symm change
      · exact ⟨y, hy, .inr ⟨k, q, wait, ⟨a, b, ha, find_setBarrier ha b, member, gone, other.symm⟩, woke⟩, fun _ _ _ _ _ _ _ _ => by rw [show y = _ from woke]⟩

theorem barStep_dropping (s : State) (k : BarKey) (gid v : Nat) : Dropping s (s.barStep k gid v true) gid := by
  unfold State.barStep
  cases ha : s.barrier k with
  | none => exact .refl s gid
  | some b =>
    simp only [if_true]
    split
    · split
      · exact .refl s gid
      · refine Dropping.trans ?_ (.sent (send_sending ..))
        exact setBarrier_dropping ha ⟨fun none listed => none (List.mem_filter.1 listed).1, .inl rfl⟩
    · exact setBarrier_dropping ha (dropMember_leaves ..)

theorem barrier_dropLate (s : State) (j k : BarKey) (gid v : Nat) :
    (s.dropLate k gid v).barrier j = (s.barrier j).map fun b => if j = k then { b with late := b.late ++ [(gid, v)] } else b := by
  have all (l : List (BarKey × Barrier)) : ((l.map fun b => if b.1 = k then (k, { b.2 with late := b.2.late ++ [(gid, v)] }) else b).find? fun b => b.1 == j).map (fun b => b.2)
      = ((l.find? fun b => b.1 == j).map fun b => b.2).map fun b => if j = k then { b with late := b.late ++ [(gid, v)] } else b := by
    induction l with
    | nil => rfl
    | cons x l ih =>
      have key : (if x.1 = k then (k, ({ x.2 with late := x.2.late ++ [(gid, v)] } : Barrier)) else x).1 = x.1 := by
        split
        · next same => exact same.symm
        · rfl
      rw [List.map_cons]
      by_cases here : x.1 = j
      · rw [List.find?_cons_of_pos (by rw [key]; simpa using here), List.find?_cons_of_pos (by simpa using here), Option.map_some, Option.map_some, Option.map_some, ← here]
        refine congrArg some ?_
        split <;> rfl
      · rw [List.find?_cons_of_neg (by rw [key]; simpa using here), List.find?_cons_of_neg (by simpa using here), ih]
  exact all s.barriers

theorem dropLate_dropping (s : State) (k : BarKey) (gid v : Nat) : Dropping s (s.dropLate k gid v) gid := by
  refine .quiet rfl fun j => ?_
  rw [barrier_dropLate]
  cases s.barrier j with
  | none => exact .inl ⟨rfl, rfl⟩
  | some a =>
    refine .inr ⟨a, _, rfl, rfl, ?_⟩
    split <;> exact ⟨rfl, id⟩

theorem dropAll_dropping (s : State) (gid : Nat) (g : Group) : Dropping s (s.dropAll gid g) gid := by
  refine Dropping.foldl (fun s x => ?_) s.barriers s
  split
  · exact .refl s gid
  · split
    · exact dropLate_dropping ..
    · exact barStep_dropping ..

end Sys2Proof.Machine
end

section
/-! SUPPORT. The other steps of a retirement: the sends of its ports, its closes, its block and what tasks end with it (R62, R201, R212). -/

namespace Sys2Proof.Machine

/-- `t` is `s` but for the values sent on ports. -/
def Forwarding (s t : State) : Prop := t = { s with fwds := t.fwds }

theorem fwdSend_forwarding (s : State) (g : Group) (target p : Nat) (v : PortVal) : Forwarding s (s.fwdSend g target p v) := by
  unfold State.fwdSend Forwarding
  split
  · rfl
  · split <;> rfl

theorem fwdSend_keeps {s : State} {f : Fwd} (h : f ∈ s.fwds) (g : Group) (target p : Nat) (v : PortVal) : f ∈ (s.fwdSend g target p v).fwds := by
  unfold State.fwdSend
  split
  · exact h
  · split
    · exact h
    · exact List.mem_append_left _ h

/-- One step of the sends of R62. -/
def State.sendPort (s : State) (g : Group) (poison : Bool) (p : Nat) : State :=
  match s.portDecl g p, g.item with
  | some d, some i => s.fwdSend g (i + d.k) p (if poison then .poisoned (lanes.map fun _ => 0) else .arrived (g.portSource d))
  | _, _ => s

theorem sendPort_forwarding (s : State) (g : Group) (poison : Bool) (p : Nat) : Forwarding s (s.sendPort g poison p) := by
  unfold State.sendPort
  split
  · exact fwdSend_forwarding ..
  · rfl

theorem sendPort_keeps {s : State} {f : Fwd} (h : f ∈ s.fwds) (g : Group) (poison : Bool) (p : Nat) : f ∈ (s.sendPort g poison p).fwds := by
  unfold State.sendPort
  split
  · exact fwdSend_keeps h ..
  · exact h

theorem Forwarding.trans {s t u : State} (h : Forwarding s t) (k : Forwarding t u) : Forwarding s u := by
  unfold Forwarding at *
  rw [h] at k
  exact k

theorem sendPorts_forwarding (g : Group) (poison : Bool) (l : List Nat) : ∀ s : State, Forwarding s (l.foldl (fun s p => s.sendPort g poison p) s) := by
  induction l with
  | nil => exact fun _ => rfl
  | cons p l ih => exact fun s => (sendPort_forwarding s g poison p).trans (ih _)

theorem sendPorts_keeps {f : Fwd} (g : Group) (poison : Bool) (l : List Nat) : ∀ s : State, f ∈ s.fwds → f ∈ (l.foldl (fun s p => s.sendPort g poison p) s).fwds := by
  induction l with
  | nil => exact fun _ h => h
  | cons p l ih => exact fun s h => ih _ (sendPort_keeps h g poison p)

theorem sendRest_forwarding (s : State) (g : Group) (poison : Bool) : Forwarding s (s.sendRest g poison) := sendPorts_forwarding g poison _ s

/-- `f` is the value of port `p` of item `n`, on its way to its receiver (R61). -/
def Fwd.SentBy (f : Fwd) (g : Group) (p n : Nat) (d : PortDecl) : Prop :=
  f.launch = g.launch ∧ f.item = n + d.k ∧ f.port = p ∧ f.val = .arrived (g.portSource d) ∧ f.arrived = false

theorem sendPort_sends {s : State} {g : Group} {l : Launch} {p n : Nat} {d : PortDecl} (hl : tget g.launch s.launches = some l) (item : g.item = some n)
    (decl : s.portDecl g p = some d) (within : n + d.k < l.kernel.grid) (runs : s.itemOver g.launch l (n + d.k) = false) : ∃ f ∈ (s.sendPort g false p).fwds, f.SentBy g p n d := by
  refine ⟨{ launch := g.launch, item := n + d.k, port := p, val := .arrived (g.portSource d), spilled := !s.coreEntry g.launch (n + d.k) }, ?_, rfl, rfl, rfl, rfl, rfl⟩
  simp only [State.sendPort, decl, item, State.fwdSend, hl]
  rw [if_neg (by simp [runs, within])]
  exact List.mem_append_right _ (List.mem_singleton.2 rfl)

theorem sendPorts_sends {g : Group} {l : Launch} {p n : Nat} {d : PortDecl} (item : g.item = some n) (within : n + d.k < l.kernel.grid) (ps : List Nat) (hp : p ∈ ps) :
    ∀ s : State, tget g.launch s.launches = some l → s.portDecl g p = some d → s.itemOver g.launch l (n + d.k) = false →
      ∃ f ∈ (ps.foldl (fun s p => s.sendPort g false p) s).fwds, f.SentBy g p n d := by
  induction ps with
  | nil => cases hp
  | cons q ps ih =>
    intro s hl decl runs
    rcases List.mem_cons.1 hp with rfl | hp
    · obtain ⟨f, hf, sent⟩ := sendPort_sends hl item decl within runs
      exact ⟨f, sendPorts_keeps g false ps _ hf, sent⟩
    · refine ih hp (s.sendPort g false q) ?_ ?_ ?_ <;> rw [show s.sendPort g false q = _ from sendPort_forwarding ..] <;> assumption

/-- The value that an unsent port sends to an item that is still to run (R62). -/
theorem sendRest_sends {s : State} {g : Group} {l : Launch} {p n : Nat} {d : PortDecl} (hl : tget g.launch s.launches = some l) (item : g.item = some n) (hp : p < 4)
    (unsent : p ∉ g.sent) (decl : s.portDecl g p = some d) (within : n + d.k < l.kernel.grid) (runs : s.itemOver g.launch l (n + d.k) = false) :
    ∃ f ∈ (s.sendRest g false).fwds, f.SentBy g p n d :=
  sendPorts_sends item within _ (List.mem_filter.2 ⟨List.mem_range.2 hp, by simp [decl, unsent]⟩) s hl decl runs

/-! ### Cairns -/

/-- `t` is `s` but for the directory, its write-backs and the ids that these take. -/
def Closing (s t : State) : Prop := t = { s with cairns := t.cairns, wbacks := t.wbacks, nextId := t.nextId }

theorem Closing.trans {s t u : State} (h : Closing s t) (k : Closing t u) : Closing s u := by
  unfold Closing at *
  rw [h] at k
  exact k

theorem Closing.foldl {α : Type} {f : State → α → State} (h : ∀ s x, Closing s (f s x)) (l : List α) : ∀ s, Closing s (l.foldl f s) := by
  induction l with
  | nil => exact fun _ => rfl
  | cons x l ih => exact fun s => (h s x).trans (ih _)

theorem afterClose_closing (s : State) (k : Cairn) : Closing s (s.afterClose k) := by
  have h := afterClose_directs s k
  unfold Closing
  rw [show s.afterClose k = _ from h]

theorem leaveCairn_closing (s : State) (k : Cairn) (l : Leaver) : Closing s (s.leaveCairn k l) := by
  unfold State.leaveCairn
  split
  · rfl
  · split
    · rfl
    · exact afterClose_closing ..

theorem closeOpens_closing (s : State) (gid : Nat) : Closing s (s.closeOpens gid) := Closing.foldl (fun s k => leaveCairn_closing s k _) _ s

theorem closing_ite {c : Prop} [Decidable c] {s t u : State} (h : Closing s t) (k : Closing s u) : Closing s (if c then t else u) := by
  split
  · exact h
  · exact k

theorem closeTask_closing (s : State) (uid : Nat) : Closing s (s.closeTask uid) :=
  Closing.foldl (fun s _ => (closing_ite (show Closing s s from rfl) (show Closing s (s.setCairn _) from rfl)).trans (leaveCairn_closing ..)) _ s

theorem cairn_setCairn_ne {s : State} {k : Cairn} {v : Nat} {name : DWord} (h : ¬ (k.vf = v ∧ k.name = name)) : (s.setCairn k).cairn v name = s.cairn v name := by
  have all (l : List Cairn) : (l.map fun x => if x.vf = k.vf ∧ x.name = k.name then k else x).find? (fun k => k.vf == v && k.name == name)
      = l.find? fun k => k.vf == v && k.name == name := by
    induction l with
    | nil => rfl
    | cons x l ih =>
      have miss : ¬ (k.vf == v && k.name == name) = true := by simpa using h
      rw [List.map_cons]
      by_cases same : x.vf = k.vf ∧ x.name = k.name
      · have miss' : ¬ (x.vf == v && x.name == name) = true := by rw [same.1, same.2]; exact miss
        rw [if_pos same, List.find?_cons_of_neg (p := fun k : Cairn => k.vf == v && k.name == name) miss,
          List.find?_cons_of_neg (p := fun k : Cairn => k.vf == v && k.name == name) miss', ih]
      · rw [if_neg same, List.find?_cons, List.find?_cons, ih]
  exact all s.cairns

theorem cairn_delCairn_ne {s : State} {k : Cairn} {v : Nat} {name : DWord} (h : ¬ (k.vf = v ∧ k.name = name)) : (s.delCairn k).cairn v name = s.cairn v name := by
  refine (List.find?_filter ..).trans (congrArg (fun p => s.cairns.find? p) (funext fun x => ?_))
  by_cases here : x.vf = v ∧ x.name = name
  · obtain ⟨rfl, rfl⟩ := here
    have other : (x.vf == k.vf && x.name == k.name) = false := by
      rw [Bool.eq_false_iff]
      intro same
      obtain ⟨vf, name⟩ := Bool.and_eq_true_iff.1 same
      exact h ⟨(beq_iff_eq.1 vf).symm, (beq_iff_eq.1 name).symm⟩
    simp [other]
  · have miss : (x.vf == v && x.name == name) = false := by simpa using here
    simp [miss]

/-- The directory's entry under a name and the write-backs under it, after steps that concern other names: they stay. -/
structure Elsewhere (s t : State) (v : Nat) (name : DWord) : Prop where
  cairn : t.cairn v name = s.cairn v name
  next : s.nextId ≤ t.nextId
  wback : ∀ w ∈ s.wbacks, w.1 < s.nextId → w.2.vf = v → w.2.name = name → w ∈ t.wbacks

theorem Elsewhere.trans {s t u : State} {v : Nat} {name : DWord} (h : Elsewhere s t v name) (k : Elsewhere t u v name) : Elsewhere s u v name where
  cairn := k.cairn.trans h.cairn
  next := h.next.trans k.next
  wback w hw old vf same := k.wback w (h.wback w hw old vf same) (old.trans_le h.next) vf same

theorem setCairn_elsewhere {s : State} {k : Cairn} {v : Nat} {name : DWord} (h : ¬ (k.vf = v ∧ k.name = name)) : Elsewhere s (s.setCairn k) v name :=
  ⟨cairn_setCairn_ne h, le_rfl, fun _ hw _ _ _ => hw⟩

theorem delCairn_elsewhere {s : State} {k : Cairn} {v : Nat} {name : DWord} (h : ¬ (k.vf = v ∧ k.name = name)) : Elsewhere s (s.delCairn k) v name := by
  refine ⟨cairn_delCairn_ne h, le_rfl, fun w hw _ vf same => List.mem_filter.2 ⟨hw, ?_⟩⟩
  have other : (w.2.vf == k.vf && w.2.name == k.name) = false := by
    rw [Bool.eq_false_iff, vf, same]
    intro both
    obtain ⟨vf, name⟩ := Bool.and_eq_true_iff.1 both
    exact h ⟨(beq_iff_eq.1 vf).symm, (beq_iff_eq.1 name).symm⟩
  rw [other]
  rfl

theorem afterClose_elsewhere {s : State} {k : Cairn} {v : Nat} {name : DWord} (h : ¬ (k.vf = v ∧ k.name = name)) : Elsewhere s (s.afterClose k) v name := by
  unfold State.afterClose
  simp only
  split
  · exact setCairn_elsewhere h
  · split
    · exact (setCairn_elsewhere h).trans (delCairn_elsewhere h)
    · split
      · split
        · exact (setCairn_elsewhere h).trans (setCairn_elsewhere h)
        · next c _ _ =>
          refine (setCairn_elsewhere h).trans ?_
          unfold State.beginMove
          cases (s.setCairn k).scratchRoom k.vf c k.size with
          | none => exact ⟨rfl, le_rfl, fun _ hw _ _ _ => hw⟩
          | some off => exact setCairn_elsewhere h
      · exact setCairn_elsewhere h

theorem mem_tset_of_ne {α : Type} {k : Nat} {x : α} {p : Nat × α} {t : Table α} (hp : p ∈ t) (h : p.1 ≠ k) : p ∈ tset k x t := by
  induction t with
  | nil => cases hp
  | cons q t ih =>
    rw [tset]
    split
    · rcases List.mem_cons.1 hp with rfl | hp
      · exact List.mem_cons_self
      · exact List.mem_cons_of_mem _ (ih hp)
    · split
      · next same =>
        rcases List.mem_cons.1 hp with rfl | hp
        · exact absurd same h
        · exact List.mem_cons_of_mem _ hp
      · exact List.mem_cons_of_mem _ hp

theorem mem_tset_self {α : Type} (k : Nat) (x : α) (t : Table α) : (k, x) ∈ tset k x t := by
  have found := mem_of_tget (tget_tset_self k x t)
  exact found

theorem writeBack_elsewhere (s : State) (k : Cairn) (leaver : Option Leaver) (v : Nat) (name : DWord) : Elsewhere s (s.writeBack k none none leaver) v name :=
  ⟨rfl, Nat.le_succ _, fun _ hw old _ _ => mem_tset_of_ne hw old.ne⟩

theorem leave_names (k : Cairn) (l : Leaver) (n : Nat) : ((List.range n).foldl (fun k _ => k.without l) k).vf = k.vf ∧ ((List.range n).foldl (fun k _ => k.without l) k).name = k.name := by
  have all (js : List Nat) : ∀ k : Cairn, (js.foldl (fun k _ => k.without l) k).vf = k.vf ∧ (js.foldl (fun k _ => k.without l) k).name = k.name := by
    induction js with
    | nil => exact fun _ => ⟨rfl, rfl⟩
    | cons j js ih =>
      intro k
      obtain ⟨vf, name⟩ := ih (k.without l)
      cases l <;> exact ⟨vf, name⟩
  exact all _ k

theorem leaveCairn_elsewhere {s : State} {k : Cairn} {l : Leaver} {v : Nat} {name : DWord} (h : ¬ (k.vf = v ∧ k.name = name)) : Elsewhere s (s.leaveCairn k l) v name := by
  unfold State.leaveCairn
  split
  · exact ⟨rfl, le_rfl, fun _ hw _ _ _ => hw⟩
  · split
    · exact writeBack_elsewhere ..
    · obtain ⟨vf, same⟩ := leave_names k l (k.heldBy l)
      exact afterClose_elsewhere (by rw [vf, same]; exact h)

theorem filter_erase_self (l : List Nat) (a : Nat) : (l.erase a).filter (· != a) = l.filter (· != a) := by
  induction l with
  | nil => rfl
  | cons b l ih =>
    by_cases same : b = a
    · rw [same, List.erase_cons_head, List.filter_cons_of_neg (by simp)]
    · rw [List.erase_cons_tail (by simpa using same), List.filter_cons, List.filter_cons, ih]

/-- The opens that a group leaves, one after the other, are all of its (R212). -/
theorem leave_group (k : Cairn) (gid : Nat) : (List.range (k.heldBy (.group gid))).foldl (fun k _ => k.without (.group gid)) k = { k with opens := k.opens.filter (· != gid) } := by
  have all (js : List Nat) : ∀ k : Cairn, k.opens.count gid = js.length → js.foldl (fun k _ => k.without (.group gid)) k = { k with opens := k.opens.filter (· != gid) } := by
    induction js with
    | nil =>
      intro k none
      have absent : gid ∉ k.opens := List.count_eq_zero.1 none
      rw [List.filter_eq_self.2 fun x hx => by simpa using fun same : x = gid => absent (same ▸ hx)]
      rfl
    | cons j js ih =>
      intro k some'
      refine (ih (k.without (.group gid)) ?_).trans ?_
      · exact (List.count_erase_self ..).trans (by rw [some']; rfl)
      · exact congrArg (fun l => ({ k with opens := l } : Cairn)) (filter_erase_self k.opens gid)
  exact all _ k List.length_range.symm

/-- The close of a cairn whose last close asks for no move changes its entry alone. -/
theorem afterClose_stays {k : Cairn} (s : State) (h : k.closed = false ∨ k.drop = false ∧ ∀ c, k.hand ≠ some (.core c)) : s.afterClose k = s.setCairn k := by
  unfold State.afterClose
  by_cases closed : k.closed = true
  · obtain ⟨kept, still⟩ := h.resolve_left (by rw [closed]; nofun)
    rw [if_neg (by rw [closed]; nofun), if_neg (by rw [kept]; nofun)]
    split
    · next c hand => exact absurd hand (still c)
    · rfl
  · exact if_pos (by simpa using closed)

theorem afterClose_frees {k : Cairn} (s : State) (closed : k.closed = true) (drop : k.drop = true) : s.afterClose k = (s.setCairn k).delCairn k := by
  unfold State.afterClose
  rw [if_neg (by rw [closed]; nofun), if_pos drop]

/-- A cairn has one entry under its name among those of a list. -/
def Cairn.Alone (a : Cairn) (l : List Cairn) : Prop := ∀ b ∈ l, b.vf = a.vf → b.name = a.name → b = a

/-- A property that a close of a cairn brings about, and that closes of others keep, holds once every cairn has been closed. -/
theorem closes_bring {P Q : State → Prop} {gid : Nat} {a : Cairn} (own : ∀ u, Q u → P (u.leaveCairn a (.group gid))) (again : ∀ u, P u → Q u)
    (otherP : ∀ u k, ¬ (k.vf = a.vf ∧ k.name = a.name) → P u → P (u.leaveCairn k (.group gid)))
    (otherQ : ∀ u k, ¬ (k.vf = a.vf ∧ k.name = a.name) → Q u → Q (u.leaveCairn k (.group gid))) (l : List Cairn) (alone : a.Alone l) :
    ∀ u, (P u → P (l.foldl (fun s k => s.leaveCairn k (.group gid)) u)) ∧ (a ∈ l → Q u → P (l.foldl (fun s k => s.leaveCairn k (.group gid)) u)) := by
  induction l with
  | nil => exact fun u => ⟨id, nofun⟩
  | cons k l ih =>
    intro u
    have ih := ih fun b hb => alone b (List.mem_cons_of_mem _ hb)
    by_cases here : k.vf = a.vf ∧ k.name = a.name
    · obtain rfl := alone k List.mem_cons_self here.1 here.2
      exact ⟨fun p => (ih _).1 (own u (again u p)), fun _ q => (ih _).1 (own u q)⟩
    · refine ⟨fun p => (ih _).1 (otherP u k here p), fun listed q => (ih _).2 ?_ (otherQ u k here q)⟩
      rcases List.mem_cons.1 listed with rfl | listed
      · exact absurd ⟨rfl, rfl⟩ here
      · exact listed

theorem cairn_of_alone {s : State} {a : Cairn} (ha : a ∈ s.cairns) (alone : a.Alone s.cairns) : s.cairn a.vf a.name = some a := by
  unfold State.cairn
  cases found : s.cairns.find? fun k => k.vf == a.vf && k.name == a.name with
  | none =>
    have miss := List.find?_eq_none.1 found a ha
    simp at miss
  | some b =>
    have same : b.vf = a.vf ∧ b.name = a.name := by simpa using List.find?_some found
    rw [alone b (List.mem_of_find?_eq_some found) same.1 same.2]

/-- A cairn still stands as it was, after closes of others. -/
def Stands (s u : State) (a : Cairn) : Prop := u.cairn a.vf a.name = some a ∧ Closing s u

/-- A write-back of a cairn has begun for the end of a group, with the bytes that the cairn had. -/
def BackedFor (s u : State) (gid : Nat) (a : Cairn) : Prop :=
  Stands s u a ∧ ∃ w ∈ u.wbacks, w.1 < u.nextId ∧ w.2 = ⟨a.vf, a.name, s.cairnBytes a, none, none, some (.group gid)⟩

theorem Stands.other {s u : State} {a k : Cairn} (h : Stands s u a) (other : ¬ (k.vf = a.vf ∧ k.name = a.name)) (l : Leaver) : Stands s (u.leaveCairn k l) a :=
  ⟨(leaveCairn_elsewhere other).cairn.trans h.1, h.2.trans (leaveCairn_closing ..)⟩

theorem BackedFor.other {s u : State} {gid : Nat} {a k : Cairn} (h : BackedFor s u gid a) (other : ¬ (k.vf = a.vf ∧ k.name = a.name)) (l : Leaver) :
    BackedFor s (u.leaveCairn k l) gid a := by
  obtain ⟨stands, w, hw, old, same⟩ := h
  have elsewhere := leaveCairn_elsewhere (s := u) (l := l) other
  exact ⟨stands.other other l, w, elsewhere.wback w hw old (by rw [same]) (by rw [same]), old.trans_le elsewhere.next, same⟩

theorem Stands.backs {s u : State} {gid : Nat} {a : Cairn} (h : Stands s u a) (held : gid ∈ a.opens) (mirrored : a.mir = true ∧ a.lost = false ∧ a.restorable = false) :
    BackedFor s (u.leaveCairn a (.group gid)) gid a := by
  obtain ⟨found, closing⟩ := h
  have run : u.leaveCairn a (.group gid) = u.writeBack a none none (some (.group gid)) := by
    unfold State.leaveCairn
    refine (if_neg fun none => List.count_eq_zero.1 none held).trans (if_pos ?_)
    obtain ⟨mir, lost, restorable⟩ := mirrored
    simp [mir, lost, restorable]
  have bytes : u.cairnBytes a = s.cairnBytes a := by
    rw [show u = _ from closing]
    rfl
  rw [run]
  refine ⟨⟨found, closing.trans rfl⟩, _, mem_tset_self .., Nat.lt_succ_self _, ?_⟩
  rw [bytes]

/-- What a retiring group leaves of a cairn that it holds open, alone under its name: one that is mirrored is written back first (R219, R292). -/
theorem closeOpens_cairn {s : State} {gid : Nat} {a : Cairn} (ha : a ∈ s.cairns) (held : gid ∈ a.opens) (alone : a.Alone s.cairns) :
    let z : Cairn := { a with opens := a.opens.filter (· != gid) }
    let written : Prop := a.mir = true ∧ a.lost = false ∧ a.restorable = false
    let t := s.closeOpens gid
    (written → t.cairn a.vf a.name = some a ∧ ∃ w ∈ t.wbacks, w.2 = ⟨a.vf, a.name, s.cairnBytes a, none, none, some (.group gid)⟩)
      ∧ (¬ written → z.closed = false ∨ z.drop = false ∧ (∀ c, z.hand ≠ some (.core c)) → t.cairn a.vf a.name = some z)
      ∧ (¬ written → z.closed = true → z.drop = true → t.cairn a.vf a.name = none) := by
  intro z written t
  have holds : ¬ a.heldBy (.group gid) = 0 := fun none => List.count_eq_zero.1 none held
  have found := cairn_of_alone ha alone
  have leaves (h : ¬ written) (u : State) : u.leaveCairn a (.group gid) = u.afterClose z := by
    unfold State.leaveCairn
    refine (if_neg holds).trans ((if_neg fun mirrored => h ?_).trans (congrArg u.afterClose (leave_group a gid)))
    simpa [and_assoc] using mirrored
  refine ⟨fun h => ?_, fun h stays => ?_, fun h closed drop => ?_⟩
  · have all := (closes_bring (P := fun u => BackedFor s u gid a) (Q := fun u => Stands s u a) (fun u q => q.backs held h) (fun u p => p.1)
      (fun u k other p => p.other other _) (fun u k other q => q.other other _) s.cairns alone s).2 ha ⟨found, rfl⟩
    obtain ⟨⟨found, -⟩, w, hw, -, same⟩ := all
    exact ⟨found, w, hw, same⟩
  · have all := (closes_bring (P := fun u => u.cairn a.vf a.name = some z) (Q := fun u => ∃ c, u.cairn a.vf a.name = some c) (gid := gid) (fun u q => ?_) (fun u p => ⟨_, p⟩)
      (fun u k other p => (leaveCairn_elsewhere other).cairn.trans p) (fun u k other ⟨c, q⟩ => ⟨c, (leaveCairn_elsewhere other).cairn.trans q⟩) s.cairns alone s).2 ha ⟨a, found⟩
    · exact all
    · obtain ⟨c, hc⟩ := q
      rw [leaves h, afterClose_stays u stays]
      exact cairn_setCairn hc rfl rfl
  · have all := (closes_bring (P := fun u => u.cairn a.vf a.name = none) (Q := fun _ => True) (gid := gid) (fun u _ => ?_) (fun _ _ => trivial)
      (fun u k other p => (leaveCairn_elsewhere other).cairn.trans p) (fun _ _ _ _ => trivial) s.cairns alone s).2 ha trivial
    · exact all
    · rw [leaves h, afterClose_frees u closed drop]
      exact cairn_delCairn (u.setCairn z) z

/-! ### The block, and the tasks that end -/

/-- The barriers of `t` are those of `s` with some keys. -/
def Trims (s t : State) (p : BarKey → Bool) : Prop := t.barriers = s.barriers.filter fun b => p b.1

theorem Trims.barrier {s t : State} {p : BarKey → Bool} (h : Trims s t p) (k : BarKey) : t.barrier k = if p k then s.barrier k else none := by
  rw [State.barrier, show t.barriers = _ from h, List.find?_filter, State.barrier]
  by_cases kept : p k = true
  · rw [if_pos kept]
    refine congrArg (Option.map _) (congrArg (fun q => s.barriers.find? q) (funext fun x => ?_))
    by_cases here : x.1 = k
    · simp [here, kept]
    · simp [here]
  · rw [if_neg kept]
    refine Option.map_eq_none_iff.2 (List.find?_eq_none.2 fun x _ both => kept ?_)
    have both : p x.1 = true ∧ x.1 = k := by simpa using both
    exact both.2 ▸ both.1

theorem Trims.trans {s t u : State} {p q : BarKey → Bool} (h : Trims s t p) (k : Trims t u q) : Trims s u fun b => p b && q b := by
  unfold Trims at *
  rw [k, h, List.filter_filter]
  exact List.filter_congr fun b _ => Bool.and_comm ..

/-- What a group that retires changes of its block: with others left, no barrier of it (R53, R133). -/
theorem leaveBlock_trims (s : State) (gid : Nat) (g : Group) : ∃ p, Trims s (s.leaveBlock gid g) p
    ∧ s.leaveBlock gid g = { s with blocks := (s.leaveBlock gid g).blocks, barriers := (s.leaveBlock gid g).barriers }
    ∧ ∀ k, p k = false → k.level = 1 ∧ ∀ bid blk, g.block = some bid → tget bid s.blocks = some blk → ∀ j ∈ blk.left, j = gid := by
  have all : Trims s s fun _ => true := (List.filter_eq_self.2 fun _ _ => rfl).symm
  unfold State.leaveBlock
  cases hb : g.block with
  | none => exact ⟨_, all, rfl, nofun⟩
  | some bid =>
    simp only
    cases ht : tget bid s.blocks with
    | none => exact ⟨_, all, rfl, nofun⟩
    | some blk =>
      simp only
      split
      · next empty =>
        refine ⟨fun k => !(k.level == 1 && k.owner == blockOwner (some bid)), rfl, rfl, fun k gone => ?_⟩
        have here : k.level = 1 ∧ k.owner = blockOwner (some bid) := by simpa using gone
        refine ⟨here.1, fun bid' blk' same found j hj => ?_⟩
        obtain rfl := Option.some.inj same
        rw [ht] at found
        obtain rfl := Option.some.inj found
        by_contra other
        have left : j ∈ blk.left.filter (· != gid) := List.mem_filter.2 ⟨hj, by simpa using other⟩
        rw [List.isEmpty_iff.1 empty] at left
        cases left
      · exact ⟨fun _ => true, (List.filter_eq_self.2 fun _ _ => rfl).symm, rfl, nofun⟩

/-- One step of the end of tasks (R201). -/
def State.settleTask (s : State) (x : Nat × Task) : State :=
  if s.taskOver x.1 x.2 then
    ({ s with tasks := tset x.1 { x.2 with held := [], place := .retired } s.tasks,
              barriers := s.barriers.filter fun b => !((b.1.level == 2 || b.1.level == 3) && b.1.owner == x.1) }).closeTask x.1
  else s

/-- What the end of tasks changes. -/
def Tasking (s t : State) : Prop := t = { s with tasks := t.tasks, barriers := t.barriers, cairns := t.cairns, wbacks := t.wbacks, nextId := t.nextId }

theorem Tasking.trans {s t u : State} (h : Tasking s t) (k : Tasking t u) : Tasking s u := by
  unfold Tasking at *
  rw [h] at k
  exact k

theorem settleTask_tasking (s : State) (x : Nat × Task) : Tasking s (s.settleTask x) ∧ ∃ p, Trims s (s.settleTask x) p := by
  unfold State.settleTask
  split
  · have h := closeTask_closing { s with tasks := tset x.1 { x.2 with held := [], place := .retired } s.tasks,
                                         barriers := s.barriers.filter fun b => !((b.1.level == 2 || b.1.level == 3) && b.1.owner == x.1) } x.1
    generalize State.closeTask _ x.1 = t at h ⊢
    refine ⟨?_, fun k => !((k.level == 2 || k.level == 3) && k.owner == x.1), ?_⟩
    · rw [show t = _ from h]
      rfl
    · rw [show t = _ from h]
      rfl
  · exact ⟨rfl, fun _ => true, (List.filter_eq_self.2 fun _ _ => rfl).symm⟩

theorem settleTasks_tasking (s : State) : Tasking s s.settleTasks ∧ ∃ p, Trims s s.settleTasks p := by
  have all (l : Table Task) : ∀ s : State, Tasking s (l.foldl State.settleTask s) ∧ ∃ p, Trims s (l.foldl State.settleTask s) p := by
    induction l with
    | nil => exact fun s => ⟨rfl, fun _ => true, (List.filter_eq_self.2 fun _ _ => rfl).symm⟩
    | cons x l ih =>
      intro s
      obtain ⟨first, p, trims⟩ := settleTask_tasking s x
      obtain ⟨rest, q, trims'⟩ := ih (s.settleTask x)
      exact ⟨first.trans rest, _, trims.trans trims'⟩
  exact all s.tasks s

theorem settleTasks_still {s : State} (h : ∀ u ∈ s.tasks, s.taskOver u.1 u.2 = false) : s.settleTasks = s := by
  have all (l : Table Task) (none : ∀ u ∈ l, s.taskOver u.1 u.2 = false) : l.foldl State.settleTask s = s := by
    induction l with
    | nil => rfl
    | cons x l ih =>
      rw [List.foldl_cons, show s.settleTask x = s from if_neg (by rw [none x List.mem_cons_self]; nofun)]
      exact ih fun u hu => none u (List.mem_cons_of_mem _ hu)
  exact all s.tasks h

theorem mem_tset_or_found {α : Type} {k : Nat} {x : α} {p : Nat × α} {t : Table α} (hp : p ∈ t) : p ∈ tset k x t ∨ tget k t = some p.2 := by
  induction t with
  | nil => cases hp
  | cons q t ih =>
    rw [tset, tget]
    rcases List.mem_cons.1 hp with rfl | hp
    · by_cases same : p.1 = k
      · exact .inr (if_pos same)
      · left
        rw [if_neg same]
        split <;> simp
    · by_cases same : q.1 = k
      · rw [if_neg (by omega), if_pos same]
        exact .inl (List.mem_cons_of_mem _ hp)
      · rw [if_neg same, if_neg same]
        split
        · exact (ih hp).imp_left (List.mem_cons_of_mem _)
        · exact .inl (List.mem_cons_of_mem _ (List.mem_cons_of_mem _ hp))

/-- The retirement of a group that runs no task ends none (R201). -/
theorem taskOver_retired {s t : State} {gid : Nat} {g : Group} (drops : Dropping s t gid) (found : s.group? gid = some g) (task : g.task = none) {u : Nat} {x : Task} {v : State}
    (groups : v.groups = tset gid g.retiredForm t.groups) (copies : v.copies = s.copies) (msgs : v.msgs = s.msgs) (pubs : v.pubs = s.pubs) (rops : v.rops = s.rops)
    (quads : v.quads = s.quads) (h : s.taskOver u x = false) : v.taskOver u x = false := by
  rw [Bool.eq_false_iff] at h ⊢
  refine fun ended => h ?_
  unfold State.taskOver at ended ⊢
  rw [groups, copies, msgs, pubs, rops, quads] at ended
  simp only [Bool.and_eq_true, List.all_eq_true] at ended ⊢
  obtain ⟨⟨⟨⟨⟨⟨⟨place, next⟩, all⟩, c⟩, m⟩, p⟩, r⟩, q⟩ := ended
  refine ⟨⟨⟨⟨⟨⟨⟨place, next⟩, fun y hy => ?_⟩, c⟩, m⟩, p⟩, r⟩, q⟩
  have bare : (y.1, { y.2 with splits := [] }) ∈ t.groups.map fun p => (p.1, ({ p.2 with splits := [] } : Group)) := drops.bare ▸ List.mem_map.2 ⟨y, hy, rfl⟩
  obtain ⟨z, hz, same⟩ := List.mem_map.1 bare
  have task' := congrArg (fun p : Nat × Group => p.2.task) same
  have life' := congrArg (fun p : Nat × Group => p.2.life) same
  simp only at task' life'
  rw [← task', ← life']
  rcases mem_tset_or_found (k := gid) (x := g.retiredForm) hz with hz | own
  · exact all z hz
  · obtain ⟨w, hw, -⟩ := drops.group gid g found
    rw [State.group?, own] at hw
    rw [Option.some.inj hw, task]
    rfl

end Sys2Proof.Machine
end

section
/-! OBLIGATIONS. EXIT (R44, R46, R48, R62, R252, R300). -/

namespace Sys2Proof.Machine

/-- One step of the drops of a retiring group. -/
def State.dropOne (s : State) (gid : Nat) (g : Group) (x : BarKey × Barrier) : State :=
  if !x.2.members.contains gid then s
  else if x.1.level == 4 && !s.podReady g.vf gid then s.dropLate x.1 gid g.vf
  else s.barStep x.1 gid g.vf true

theorem dropOne_dropping (s : State) (gid : Nat) (g : Group) (x : BarKey × Barrier) : Dropping s (s.dropOne gid g x) gid := by
  unfold State.dropOne
  split
  · exact .refl s gid
  · split
    · exact dropLate_dropping ..
    · exact barStep_dropping ..

theorem barrier_sending {s t : State} (h : Sending s t) (k : BarKey) : t.barrier k = s.barrier k := by
  rw [show t = _ from h]
  rfl

theorem dropOne_other (s : State) (gid : Nat) (g : Group) {x : BarKey × Barrier} {k : BarKey} (h : k ≠ x.1) : (s.dropOne gid g x).barrier k = s.barrier k := by
  unfold State.dropOne
  split
  · rfl
  · split
    · rw [barrier_dropLate]
      cases s.barrier k with
      | none => rfl
      | some b => exact congrArg some (if_neg h)
    · unfold State.barStep
      split
      · rfl
      · simp only
        split
        · split
          · rfl
          · rw [if_pos trivial, barrier_sending (send_sending ..), barrier_setBarrier_ne h]
        · exact barrier_setBarrier_ne h _

theorem dropOne_own {s : State} {gid : Nat} {g : Group} {x : BarKey × Barrier} {a : Barrier} (ha : s.barrier x.1 = some a) (same : x.2.members = a.members) (level : x.1.level ≠ 4) :
    (s.dropOne gid g x).barrier x.1 = some (a.dropMember gid s.now) := by
  unfold State.dropOne
  by_cases member : gid ∈ a.members
  · rw [if_neg (by simpa [same] using member), if_neg (by simp [level])]
    unfold State.barStep
    simp only [ha]
    rw [if_neg (fun h => level h.1), if_pos trivial]
    exact find_setBarrier ha _
  · rw [if_pos (by simpa [same] using member), ha, dropMember_absent s.now member]

theorem dropOnes_other (gid : Nat) (g : Group) {k : BarKey} (l : List (BarKey × Barrier)) (h : ∀ x ∈ l, k ≠ x.1) :
    ∀ s : State, (l.foldl (fun s x => s.dropOne gid g x) s).barrier k = s.barrier k := by
  induction l with
  | nil => exact fun _ => rfl
  | cons x l ih => exact fun s => (ih (fun y hy => h y (List.mem_cons_of_mem _ hy)) _).trans (dropOne_other s gid g (h x List.mem_cons_self))

/-- What a retiring group's drops leave of a barrier below pod level (R56). -/
theorem dropAll_barrier {s : State} {gid : Nat} {g : Group} {k : BarKey} {a : Barrier} (ha : s.barrier k = some a) (distinct : (s.barriers.map fun y => y.1).Nodup) (level : k.level ≠ 4) :
    (s.dropAll gid g).barrier k = some (a.dropMember gid s.now) := by
  obtain ⟨l1, l2, split⟩ := List.append_of_mem (barrier_mem ha)
  rw [split, List.map_append, List.map_cons] at distinct
  obtain ⟨-, tail, apart⟩ := List.nodup_append.1 distinct
  have before : ∀ x ∈ l1, k ≠ x.1 := fun x hx same => apart _ (List.mem_map.2 ⟨x, hx, rfl⟩) _ List.mem_cons_self same.symm
  have after : ∀ x ∈ l2, k ≠ x.1 := fun x hx same => (List.nodup_cons.1 tail).1 (List.mem_map.2 ⟨x, hx, same.symm⟩)
  have run : s.dropAll gid g = s.barriers.foldl (fun s x => s.dropOne gid g x) s := rfl
  rw [run, split, List.foldl_append, List.foldl_cons, dropOnes_other gid g l2 after]
  have now := (Dropping.foldl (fun s x => dropOne_dropping s gid g x) l1 s).now
  have found := (dropOnes_other gid g l1 before s).trans ha
  rw [dropOne_own (x := (k, a)) found rfl level, now]

/-- Phase, expected arrivals, arrivals and drops of a barrier. -/
def Barrier.Shows (b : Barrier) (phase : Word) (expected count drops : Nat) : Prop := b.phase = phase ∧ b.expected = expected ∧ b.count = count ∧ b.drops = drops

/-- Every expected arrival of a phase has come (R54, R261). -/
def Barrier.Full (b : Barrier) : Prop := b.expected ≠ 0 ∧ b.count = b.expected ∧ b.parts = 0 ∧ b.broken = false

theorem settle_shows (b : Barrier) (now : Nat) :
    (b.Full → (b.settle now).Shows (b.phase + 1) (b.expected - b.drops) 0 0) ∧ (¬ b.Full → (b.settle now).Shows b.phase b.expected b.count b.drops) := by
  refine ⟨fun h => ?_, fun h => ?_⟩
  · have run : b.settle now = b.complete now := if_pos (by simpa [Barrier.Full] using h)
    rw [run]
    exact ⟨rfl, rfl, rfl, rfl⟩
  · have run : b.settle now = b := if_neg (by simpa [Barrier.Full] using h)
    rw [run]
    exact ⟨rfl, rfl, rfl, rfl⟩

/-- A drop that belongs to the phase that a barrier is in, and one that comes in the clk in which a phase completed (R57). -/
def Barrier.left (a : Barrier) (gid now : Nat) : Barrier :=
  if a.doneAt = some now ∧ !a.arrived.contains gid then { a with expected := a.expected - 1, members := a.members.filter (· != gid) }
  else if a.arrived.contains gid then { a with drops := a.drops + 1, members := a.members.filter (· != gid) }
  else { a with count := a.count + 1, arrived := gid :: a.arrived, drops := a.drops + 1, members := a.members.filter (· != gid) }

theorem dropMember_left {a : Barrier} {gid now : Nat} (member : gid ∈ a.members) : a.dropMember gid now = (a.left gid now).settle now := by
  unfold Barrier.dropMember Barrier.left
  rw [if_neg (by simpa using member)]
  simp only
  split
  · rfl
  · split <;> rfl

/-- The barrier that a retiring member leaves behind (R56, R57). -/
theorem dropMember_shows {a : Barrier} {gid now : Nat} (member : gid ∈ a.members) :
    let c := a.dropMember gid now
    let n := if gid ∈ a.arrived then a.count else a.count + 1
    let late : Prop := a.doneAt = some now ∧ gid ∉ a.arrived
    let full (m e : Nat) : Prop := e ≠ 0 ∧ m = e ∧ a.parts = 0 ∧ a.broken = false
    c.members = a.members.filter (· != gid)
      ∧ (¬ late → (full n a.expected → c.Shows (a.phase + 1) (a.expected - (a.drops + 1)) 0 0) ∧ (¬ full n a.expected → c.Shows a.phase a.expected n (a.drops + 1)))
      ∧ (late → (full a.count (a.expected - 1) → c.Shows (a.phase + 1) (a.expected - 1 - a.drops) 0 0)
        ∧ (¬ full a.count (a.expected - 1) → c.Shows a.phase (a.expected - 1) a.count a.drops)) := by
  intro c n late full
  have shows := settle_shows (a.left gid now) now
  have run : c = (a.left gid now).settle now := dropMember_left member
  rw [run, settle_members]
  by_cases here : late
  · have left : a.left gid now = { a with expected := a.expected - 1, members := a.members.filter (· != gid) } := if_pos (by simpa [late] using here)
    rw [left] at shows ⊢
    exact ⟨rfl, fun h => absurd here h, fun _ => shows⟩
  · have past : ¬ (a.doneAt = some now ∧ (!a.arrived.contains gid) = true) := by simpa [late] using here
    by_cases came : gid ∈ a.arrived
    · have left : a.left gid now = { a with drops := a.drops + 1, members := a.members.filter (· != gid) } := (if_neg past).trans (if_pos (by simpa using came))
      have count : n = a.count := if_pos came
      rw [left] at shows ⊢
      rw [count]
      exact ⟨rfl, fun _ => shows, fun h => absurd h here⟩
    · have left : a.left gid now = { a with count := a.count + 1, arrived := gid :: a.arrived, drops := a.drops + 1, members := a.members.filter (· != gid) } :=
        (if_neg past).trans (if_neg (by simpa using came))
      have count : n = a.count + 1 := if_neg came
      rw [left] at shows ⊢
      rw [count]
      exact ⟨rfl, fun _ => shows, fun h => absurd h here⟩

/-- `t` is `s` after the retirement of a group: `s1` is the state once its ports have sent, `s2` once it has dropped out of its barriers, `s3` once its opens
are closed; then its own record, its block and counts change, and the tasks end that are over. -/
structure Stages (s : State) (gid : Nat) (g : Group) (s1 s2 s3 t : State) : Prop where
  sent : s1 = s.sendRest g false
  dropped : s2 = s1.dropAll gid g
  closed : s3 = s2.closeOpens gid
  groups : t.groups = tset gid g.retiredForm s2.groups
  barriers : ∃ p q : BarKey → Bool, (∀ k, t.barrier k = if p k && q k then s2.barrier k else none)
    ∧ (∀ k, p k = false → k.level = 1 ∧ ∀ bid blk, g.block = some bid → tget bid s.blocks = some blk → ∀ j ∈ blk.left, j = gid) ∧ (s.tasks = [] → ∀ k, q k = true)
  fwds : t.fwds = s1.fwds.filter fun f => !(f.launch == g.launch && some f.item == g.item)
  cairns : g.task = none → (∀ u ∈ s.tasks, s.taskOver u.1 u.2 = false) → t.cairns = s3.cairns ∧ t.wbacks = s3.wbacks

theorem retire_stages {s : State} {gid : Nat} {g : Group} (hg : s.group? gid = some g) (life : g.life ≠ .retired) :
    ∃ s1 s2 s3, Stages s gid g s1 s2 s3 (s.retire gid false) := by
  have run : s.retire gid false = (let u := ((((s.sendRest g false).dropAll gid g).closeOpens gid).setGroup gid g.retiredForm).leaveBlock gid g
      { u with launches := tmod g.launch (fun l => { l with sums := { l.sums with retired := l.sums.retired + 1 } }) u.launches,
               fwds := u.fwds.filter fun f => !(f.launch == g.launch && some f.item == g.item) }).settleTasks := by
    rw [State.retire, hg]
    exact if_neg life
  obtain ⟨s1, h1⟩ : ∃ s1, s.sendRest g false = s1 := ⟨_, rfl⟩
  obtain ⟨s2, h2⟩ : ∃ s2, s1.dropAll gid g = s2 := ⟨_, rfl⟩
  obtain ⟨s3, h3⟩ : ∃ s3, s2.closeOpens gid = s3 := ⟨_, rfl⟩
  obtain ⟨s5, h5⟩ : ∃ s5, (s3.setGroup gid g.retiredForm).leaveBlock gid g = s5 := ⟨_, rfl⟩
  rw [h1, h2, h3, h5] at run
  simp only at run
  obtain ⟨s6, h6⟩ : ∃ s6 : State, { s5 with
      launches := tmod g.launch (fun l => { l with sums := { l.sums with retired := l.sums.retired + 1 } }) s5.launches
      fwds := s5.fwds.filter fun f => !(f.launch == g.launch && some f.item == g.item) } = s6 := ⟨_, rfl⟩
  rw [h6] at run
  have f1 : Forwarding s s1 := h1 ▸ sendRest_forwarding s g false
  have d2 : Dropping s1 s2 gid := h2 ▸ dropAll_dropping s1 gid g
  have c3 : Closing s2 s3 := h3 ▸ closeOpens_closing s2 gid
  obtain ⟨p, trims, f5, block⟩ := leaveBlock_trims (s3.setGroup gid g.retiredForm) gid g
  rw [h5] at trims f5
  have same6 : s6 = { s5 with launches := s6.launches, fwds := s6.fwds } := by rw [← h6]
  have g3 : s3.groups = s2.groups := by rw [show s3 = _ from c3]
  have g6 : s6.groups = tset gid g.retiredForm s2.groups := by rw [same6, f5, ← g3]; rfl
  have kept : s6.tasks = s.tasks ∧ s6.copies = s.copies ∧ s6.msgs = s.msgs ∧ s6.pubs = s.pubs ∧ s6.rops = s.rops ∧ s6.quads = s.quads := by
    rw [same6, f5, show s3 = _ from c3, d2.frame, show s1 = _ from f1]
    exact ⟨rfl, rfl, rfl, rfl, rfl, rfl⟩
  obtain ⟨tasks, copies, msgs, pubs, rops, quads⟩ := kept
  obtain ⟨f7, q, trims', none⟩ : Tasking s6 s6.settleTasks ∧ ∃ q, Trims s6 s6.settleTasks q ∧ (s.tasks = [] → ∀ k, q k = true) := by
    obtain ⟨f7, q, trims'⟩ := settleTasks_tasking s6
    refine ⟨f7, ?_⟩
    by_cases none : s.tasks = []
    · refine ⟨fun _ => true, ?_, fun _ _ => rfl⟩
      rw [settleTasks_still (by rw [tasks, none]; nofun)]
      exact (List.filter_eq_self.2 fun _ _ => rfl).symm
    · exact ⟨q, trims', fun h => absurd h none⟩
  refine ⟨s1, s2, s3, h1.symm, h2.symm, h3.symm, ?_, ⟨p, q, fun k => ?_, fun k gone => ?_, none⟩, ?_, fun task still => ?_⟩
  · rw [run, show s6.settleTasks = _ from f7]
    exact g6
  · have b3 : (s3.setGroup gid g.retiredForm).barrier k = s2.barrier k := by rw [show s3 = _ from c3]; rfl
    have b6 : s6.barrier k = s5.barrier k := by rw [same6]; rfl
    rw [run, trims'.barrier, b6, trims.barrier, b3]
    by_cases hp : p k = true
    · by_cases hq : q k = true
      · simp [hp, hq]
      · simp [hq]
    · simp [hp]
  · obtain ⟨level, alone⟩ := block k gone
    refine ⟨level, fun bid blk hb ht => alone bid blk hb ?_⟩
    have blocks : (s3.setGroup gid g.retiredForm).blocks = s.blocks := by
      rw [show s3 = _ from c3, d2.frame, show s1 = _ from f1]
      rfl
    rw [blocks]
    exact ht
  · have f5' : s5.fwds = s1.fwds := by
      rw [f5, show s3 = _ from c3, d2.frame]
      rfl
    rw [run, show s6.settleTasks = _ from f7, ← f5', ← h6]
  · have idle : ∀ u ∈ s6.tasks, s6.taskOver u.1 u.2 = false := by
      rw [tasks]
      intro u hu
      have g1 : s1.group? gid = some g := by rw [show s1 = _ from f1]; exact hg
      have over1 : s1.taskOver u.1 u.2 = false := by rw [show s1 = _ from f1]; exact still u hu
      have kept1 : s1.copies = s.copies ∧ s1.msgs = s.msgs ∧ s1.pubs = s.pubs ∧ s1.rops = s.rops ∧ s1.quads = s.quads := by
        rw [show s1 = _ from f1]
        exact ⟨rfl, rfl, rfl, rfl, rfl⟩
      obtain ⟨copies1, msgs1, pubs1, rops1, quads1⟩ := kept1
      exact taskOver_retired d2 g1 task g6 (copies.trans copies1.symm) (msgs.trans msgs1.symm) (pubs.trans pubs1.symm) (rops.trans rops1.symm) (quads.trans quads1.symm) over1
    rw [run, settleTasks_still idle, same6, f5]
    exact ⟨rfl, rfl⟩

/-- No group of a block comes to its REGRP as another retires, unless one is there. -/
theorem settleRegrp_still {s : State} (h : ∀ p ∈ s.groups, p.2.life ≠ .retired → p.2.atRegrp = false) (block : Option Nat) (core : Nat) : s.settleRegrp block core = s := by
  unfold State.settleRegrp
  cases block with
  | none => rfl
  | some b =>
    refine if_neg fun both => ?_
    obtain ⟨some', all⟩ := Bool.and_eq_true_iff.1 both
    cases hl : sortBy (fun p : Nat × Group => p.2.gidx) (s.groups.filter fun p => p.2.block == some b && p.2.core == core && p.2.life != .retired) with
    | nil => rw [hl] at some'; cases some'
    | cons p l =>
      have listed : p ∈ sortBy (fun p : Nat × Group => p.2.gidx) (s.groups.filter fun p => p.2.block == some b && p.2.core == core && p.2.life != .retired) := hl ▸ List.mem_cons_self
      obtain ⟨hp, of⟩ := List.mem_filter.1 ((mem_sortBy _ _ _).1 listed)
      have away : p.2.life ≠ .retired := bne_iff_ne.1 (Bool.and_eq_true_iff.1 of).2
      rw [hl, List.all_cons, h p hp away] at all
      cases all

theorem retireGroup_still {s : State} {gid : Nat} {g : Group} (hg : s.group? gid = some g) (life : g.life ≠ .retired) (regrp : ∀ p ∈ s.groups, p.2.atRegrp = false) :
    s.retireGroup gid = s.retire gid false := by
  obtain ⟨s1, s2, s3, stages⟩ := retire_stages hg life
  unfold State.retireGroup
  rw [hg]
  refine settleRegrp_still (fun p hp away => ?_) _ _
  rw [stages.groups] at hp
  rcases eq_or_mem_of_mem_tset hp with rfl | hp
  · exact absurd rfl away
  · have drops := dropAll_dropping s1 gid g
    rw [← stages.dropped] at drops
    have groups : s1.groups = s.groups := by rw [stages.sent, show s.sendRest g false = _ from sendRest_forwarding ..]
    rw [Bool.eq_false_iff]
    intro ready
    obtain ⟨q, hq, there⟩ := drops.regrp p hp ready
    rw [groups] at hq
    rw [regrp q hq] at there
    cases there

/-- What EXIT of a group outside trap mode does, by the deferral stack and the other splits (R44, R46, R48). -/
theorem exit_run {s : State} {gid k : Nat} {g : Group} {sp : Split} (ready : Ready s gid k g sp .exit) (untrapped : g.trap = none) :
    exec .exit s = (groupCtx gid k g sp .exit).settle .exit s (match lastOwned k g.defer with
      | some (d, i) => .away (s.modGroup gid fun g =>
          { g with exited := g.exited ||| sp.mask, defer := g.defer.eraseIdx i, splits := tset k { pc := d.addr, mask := d.mask, since := s.now + 1 } g.splits })
      | none =>
        if g.splits.length ≤ 1 then exitGroup (groupCtx gid k g sp .exit) gid s
        else .away (((s.modGroup gid fun g => { g with exited := g.exited ||| sp.mask, splits := tdel k g.splits }).settleGrp gid).settleRegrp g.block g.core)) := by
  show execExit s = _
  rw [execExit, issue_ready ready rfl]
  refine congrArg (Ctx.settle _ _ s) ?_
  simp only [groupCtx_who, groupCtx_g, groupCtx_mask, untrapped]
  rfl

/-- A group whose splits are not at BAR.grp or REGRP completes neither. -/
theorem OnlyGroup.settles {s t : State} {gid : Nat} {g : Group} (h : OnlyGroup s t gid g) (life : g.life ≠ .retired) (free : ∀ p ∈ g.splits, p.2.free) (due : g.noStep) :
    OnlyGroup s ((t.settleGrp gid).settleRegrp g.block g.core) gid g := by
  have grp : OnlyGroup s (t.settleGrp gid) gid g := by
    unfold State.settleGrp
    simp only [h.group]
    split
    · next all =>
      have empty : g.splits = [] := by
        cases hs : g.splits with
        | nil => rfl
        | cons p l =>
          have first : p ∈ g.splits := hs ▸ List.mem_cons_self
          obtain ⟨grp, regrp⟩ := free p first
          have here := List.all_eq_true.1 (Bool.and_eq_true_iff.1 all).2 p first
          cases hw : p.2.wait with
          | regrp a n => exact absurd hw (regrp a n)
          | barGrp => exact absurd hw grp
          | _ => rw [hw] at here; exact nomatch here
      have only := h.modGroup fun g => (g.splits.filter fun p => p.2.wait == .barGrp).foldl (fun g p => g.complete p.1 p.2.pc p.2.cont (t.now + 1)) g
      rw [show (g.splits.filter fun p => p.2.wait == Wait.barGrp).foldl (fun g p => g.complete p.1 p.2.pc p.2.cont (t.now + 1)) g = g by rw [empty]; rfl] at only
      rw [stepDue_none only.group due]
      exact only
    · exact h
  have regrp : (t.settleGrp gid).settleRegrp g.block g.core = t.settleGrp gid := by
    unfold State.settleRegrp
    cases hb : g.block with
    | none => rfl
    | some b =>
      refine if_neg fun both => ?_
      have listed : (gid, g) ∈ sortBy (fun p : Nat × Group => p.2.gidx) ((t.settleGrp gid).groups.filter fun p => p.2.block == some b && p.2.core == g.core && p.2.life != .retired) := by
        refine (mem_sortBy _ _ _).2 (List.mem_filter.2 ⟨mem_of_tget grp.group, ?_⟩)
        simpa [hb] using life
      have there := List.all_eq_true.1 (Bool.and_eq_true_iff.1 both).2 _ listed
      simp only [Group.atRegrp, Bool.and_eq_true, Bool.not_eq_true', List.all_eq_true] at there
      obtain ⟨⟨-, some'⟩, all⟩ := there
      cases hs : g.splits with
      | nil => rw [hs] at some'; cases some'
      | cons p l =>
        have first : p ∈ g.splits := hs ▸ List.mem_cons_self
        have here := all p first
        cases hw : p.2.wait with
        | regrp a n => exact (free p first).2 a n hw
        | _ => rw [hw] at here; exact nomatch here
  rw [regrp]
  exact grp

/-- A group with one of its splits changed. -/
def Group.onSplit (g : Group) (k : Nat) (f : Split → Split) : Group := { g with splits := tmod k f g.splits }

/-- A split as it begins to wait with what it has read (R78). -/
def Split.holds (x : Split) (n : Nat) (why : Again) (cont : Word) : Split :=
  { x with wait := .again why, cont := cont, exempt := x.exempt && x.held.isSome, held := none, stamp := if x.held.isSome then x.stamp else n }

/-- The one split of a group waits with what it has read (R78). -/
theorem hold_holds {s : State} {gid k : Nat} {g : Group} {sp : Split} {i : Instr} {why : Again} (hg : s.group? gid = some g) (one : g.splits = [(k, sp)]) (unheld : sp.held = none)
    (late : (Wait.again why).early = false) (run : exec i s = (groupCtx gid k g sp i).settle i s (.hold why s)) : Holds i s gid k g sp why := by
  have kept : (groupCtx gid k g sp i).keep i (.again why) s
      = { (s.modGroup gid fun h => h.onSplit k fun x => x.holds s.nextId why (sp.after i)).modGroup gid fun h =>
            h.onSplit k fun x => { x with held := some ⟨s.nextId, i, g.sregs, g.vregs, sp.mask⟩ } with nextId := s.nextId + 1 } := by
    unfold Ctx.keep State.waitOn
    simp only [late, Bool.false_or, Bool.false_eq_true, if_false, groupCtx_who, groupCtx_g, groupCtx_mask, groupCtx_next]
    rfl
  have only := ((OnlyGroup.refl hg).modGroup fun h => h.onSplit k fun x => x.holds s.nextId why (sp.after i)).modGroup fun h =>
    h.onSplit k fun x => { x with held := some ⟨s.nextId, i, g.sregs, g.vregs, sp.mask⟩ }
  refine ⟨_, run.trans (congrArg _ kept), ?_⟩
  have group : (g.onSplit k fun x => x.holds s.nextId why (sp.after i)).onSplit k (fun x => { x with held := some ⟨s.nextId, i, g.sregs, g.vregs, sp.mask⟩ })
      = { g with splits := tmod k (fun x => { x with
        wait := .again why
        cont := sp.after i
        exempt := false
        stamp := s.nextId
        held := some ⟨s.nextId, i, g.sregs, g.vregs, sp.mask⟩ }) g.splits } := by
    simp [Group.onSplit, Split.holds, tmod, one, unheld]
  rw [group] at only
  exact only

theorem one_split {g : Group} {k : Nat} {sp : Split} (hs : tget k g.splits = some sp) (last : g.splits.length ≤ 1) : g.splits = [(k, sp)] := by
  have listed := mem_of_tget hs
  cases h : g.splits with
  | nil => rw [h] at listed; cases listed
  | cons p l =>
    rw [h] at listed last
    obtain rfl : l = [] := List.eq_nil_of_length_eq_zero (by simpa using last)
    rw [List.mem_singleton.1 listed]

/-- Proves O26: a split takes back its deferral entry, ends, or retires the group, whose sends, drops and closes follow (R44, R46, R48, R56, R62, R212). -/
theorem exits : Obligations.Exits := by
  intro s gid k g sp ready untrapped
  have run := exit_run ready untrapped
  have hg := ready.issues.group
  have same := OnlyGroup.refl hg
  refine ⟨fun l1 d l2 stack owner after => ?_, fun unowned => ⟨fun several life free => ?_, fun last waits => ?_, fun last acked full => ?_, fun last acked fits life regrp => ?_⟩⟩
  · rw [stack, lastOwned_some owner after] at run
    refine ⟨_, run, ?_⟩
    have only := same.modGroup fun g => { g with exited := g.exited ||| sp.mask, defer := g.defer.eraseIdx l1.length, splits := tset k { pc := d.addr, mask := d.mask, since := s.now + 1 } g.splits }
    have erased : g.defer.eraseIdx l1.length = l1 ++ l2 := by
      rw [stack, List.eraseIdx_append_of_length_le (Nat.le_refl _), Nat.sub_self]; rfl
    simp only [erased] at only
    exact only
  · rw [lastOwned_none unowned] at run
    simp only [if_neg (show ¬ g.splits.length ≤ 1 by omega)] at run
    have only := same.modGroup fun g => { g with exited := g.exited ||| sp.mask, splits := tdel k g.splits }
    exact ⟨_, run, only.settles (by rw [life]; nofun) (fun p hp => free p (List.mem_filter.1 hp).1) fun p hp => ready.quiet p (List.mem_filter.1 hp).1⟩
  · rw [lastOwned_none unowned] at run
    refine hold_holds hg (one_split ready.issues.split last) ready.issues.unheld rfl (run.trans (congrArg _ ((if_pos last).trans ?_)))
    exact if_pos waits
  · rw [lastOwned_none unowned] at run
    refine hold_holds hg (one_split ready.issues.split last) ready.issues.unheld rfl (run.trans (congrArg _ ((if_pos last).trans ?_)))
    exact (if_neg (not_not.2 acked)).trans (if_pos (by rw [groupCtx_g, full]; rfl))
  · rw [lastOwned_none unowned] at run
    have away : g.life ≠ .retired := by rw [life]; nofun
    have run' : exec .exit s = .next (s.retire gid false) := by
      refine run.trans ?_
      simp only [if_pos last]
      rw [exitGroup, if_neg (not_not.2 acked), if_neg (by rw [groupCtx_g, fits]; nofun), ← retireGroup_still hg away regrp]
      rfl
    have ends := retire_retiring false hg away
    obtain ⟨s1, s2, s3, stages⟩ := retire_stages hg away
    have f1 : Forwarding s s1 := stages.sent ▸ sendRest_forwarding s g false
    have d2 : Dropping s1 s2 gid := stages.dropped ▸ dropAll_dropping s1 gid g
    have c3 : Closing s2 s3 := stages.closed ▸ closeOpens_closing s2 gid
    obtain ⟨p, q, barrier, block, none⟩ := stages.barriers
    have trimmed {b : BarKey} {c : Barrier} (hc : (s.retire gid false).barrier b = some c) : s2.barrier b = some c := by
      rw [barrier] at hc
      split at hc
      · exact hc
      · cases hc
    have group1 (j : Nat) : s1.group? j = s.group? j := by rw [show s1 = _ from f1]; rfl
    have barrier1 (b : BarKey) : s1.barrier b = s.barrier b := by rw [show s1 = _ from f1]; rfl
    have now1 : s1.now = s.now := by rw [show s1 = _ from f1]
    refine ⟨_, run', ?_, fun j h other found => ?_, fun l p d n hl item hp unsent decl move within runs => ?_, fun a ha task still held alone => ?_,
      fun key a c ha hc distinct level => ⟨fun outside => ?_, fun member => ?_⟩, fun idle key declared stays => ?_, ?_, ?_, ?_⟩
    · have entries : g.entries g.splits.length = 1 := by
        simp only [Group.entries, life, untrapped]
        omega
      rw [ends.own, Group.retiredForm, entries]
    · obtain ⟨w, hw, woken⟩ := d2.group j h ((group1 j).trans found)
      have final : (s.retire gid false).group? j = some { h with splits := w } := by
        rw [State.group?, stages.groups, tget_tset_ne other]
        exact hw
      refine ⟨w, final, woken.idle, fun ok n x hx => ?_⟩
      obtain ⟨y, hy, how, wakes⟩ := woken.split ok n x hx
      refine ⟨y, hy, ?_, fun b a c resident wait ha hc change => wakes b a c resident wait ((barrier1 b).trans ha) (trimmed hc) change⟩
      rcases how with same | ⟨b, q, wait, ⟨_, c', -, hc', -, -, past⟩, woke⟩
      · exact .inl same
      · refine .inr ⟨b, q, wait, fun c hc => ?_, now1 ▸ woke⟩
        rw [trimmed hc] at hc'
        exact Option.some.inj hc' ▸ past
    · obtain ⟨f, hf, launch, item', port, val, arrived⟩ := sendRest_sends hl item hp unsent decl within runs
      refine ⟨f, ?_, launch, item', port, val, arrived⟩
      rw [stages.fwds, stages.sent]
      refine List.mem_filter.2 ⟨hf, ?_⟩
      have past : f.item ≠ n := by omega
      simp [item, past]
    · have cairns2 : s2.cairns = s.cairns ∧ s2.scratch = s.scratch := by
        rw [d2.frame, show s1 = _ from f1]
        exact ⟨rfl, rfl⟩
      obtain ⟨directory, scratch⟩ := cairns2
      have bytes : s2.cairnBytes a = s.cairnBytes a := by rw [State.cairnBytes, scratch]; rfl
      obtain ⟨cairns, wbacks⟩ := stages.cairns task still
      have lookup : (s.retire gid false).cairn a.vf a.name = s3.cairn a.vf a.name := by rw [State.cairn, cairns]; rfl
      have closes := closeOpens_cairn (s := s2) (directory ▸ ha) held (directory ▸ alone)
      rw [lookup, wbacks, stages.closed, ← bytes]
      exact closes
    · have left := dropAll_barrier (gid := gid) (g := g) ((barrier1 key).trans ha) (by rw [show s1 = _ from f1]; exact distinct) level
      rw [← stages.dropped, trimmed hc, dropMember_absent _ outside] at left
      exact Option.some.inj left
    · have left := dropAll_barrier (gid := gid) (g := g) ((barrier1 key).trans ha) (by rw [show s1 = _ from f1]; exact distinct) level
      rw [← stages.dropped, trimmed hc, now1] at left
      obtain rfl := Option.some.inj left
      exact dropMember_shows member
    · obtain ⟨a, ha⟩ := Option.isSome_iff_exists.1 declared
      obtain ⟨c, hc, -⟩ := d2.after ((barrier1 key).trans ha)
      have kept : p key = true := by
        by_contra gone
        obtain ⟨block', alone⟩ := block key (Bool.not_eq_true _ ▸ gone)
        rcases stays with other | ⟨bid, blk, hb, -, ht, j, hj, mate⟩
        · exact other block'
        · exact mate (alone bid blk hb ht j hj)
      rw [barrier, kept, none idle, hc]
      rfl
    · rw [ends.ending]
    · rw [ends.ending]
    · rw [ends.launches]
      exact tget_tmod_self ..

end Sys2Proof.Machine
end

section
/-! SUPPORT. The bytes of a completion record, and the end of a launch (R52, R53, R218, R222, R269). -/

namespace Sys2Proof.Machine

theorem putAll_append (as bs : List Byte) : ∀ (m : Mem) (a : Nat), m.putAll a (as ++ bs) = (m.putAll a as).putAll (a + as.length) bs := by
  induction as with
  | nil => exact fun _ _ => rfl
  | cons b as ih =>
    intro m a
    refine (ih (m.put a b) (a + 1)).trans ?_
    rw [List.length_cons, Nat.add_assoc, Nat.add_comm 1]
    rfl

/-- The bytes that the copies in flight are to write are those of another machine (R140). -/
def SameDsts (s t : State) : Prop := t.copies.map (fun c => (c.2.toScratch, c.2.dsts)) = s.copies.map fun c => (c.2.toScratch, c.2.dsts)

theorem SameDsts.inCopy {s t : State} (h : SameDsts s t) (scratch : Bool) (key n : Nat) : t.inCopy scratch key n = s.inCopy scratch key n := by
  have form (u : State) : u.inCopy scratch key n
      = (u.copies.map fun c => (c.2.toScratch, c.2.dsts)).flatMap fun c => if c.1 == scratch then (c.2.filter (keyHit key n)).filterMap id else [] := by
    rw [List.flatMap_map]
    rfl
  rw [form, form, show t.copies.map _ = _ from h]

theorem storeMem_sameDsts (s : State) (key : Nat) (bs : List Byte) : SameDsts s (s.storeMem key bs) := by
  have copies : (s.storeMem key bs).copies = s.copies.map fun c => (c.1, c.2.touch false true key bs.length) := by
    unfold State.storeMem
    split <;> rfl
  rw [SameDsts, copies, List.map_map]
  rfl

theorem inCopy_none_within {s : State} {scratch : Bool} {key n key' n' : Nat} (h : s.inCopy scratch key n = []) (lo : key ≤ key') (hi : key' + n' ≤ key + n) :
    s.inCopy scratch key' n' = [] := by
  refine List.eq_nil_iff_forall_not_mem.2 fun x hx => ?_
  have listed : x ∈ s.inCopy scratch key n := by
    obtain ⟨c, hc, hx⟩ := List.mem_flatMap.1 hx
    refine List.mem_flatMap.2 ⟨c, hc, ?_⟩
    split at hx
    · next here =>
      obtain ⟨y, hy, rfl⟩ := List.mem_filterMap.1 hx
      obtain ⟨listed, hit⟩ := List.mem_filter.1 hy
      rw [if_pos here]
      refine List.mem_filterMap.2 ⟨_, List.mem_filter.2 ⟨listed, ?_⟩, rfl⟩
      simp only [keyHit, Bool.and_eq_true, decide_eq_true_eq] at hit ⊢
      omega
    · cases hx
  rw [h] at listed
  cases listed

/-- A store of bytes that no copy in flight is to write leaves them in memory. -/
theorem storeMem_putAll {s : State} {key : Nat} {bs : List Byte} (none : s.inCopy false key bs.length = []) : (s.storeMem key bs).mem = s.mem.putAll key bs := by
  unfold State.storeMem
  split <;> exact congrArg ((s.mem.putAll key bs).undefAll s.fresh) none

/-- Where the front end's pages lie depends on what a store to device memory and the records of the quads do not change, but for the memory itself. -/
theorem vfKey_of_mem {s t : State} (h : Storing s t) (v : Nat) (a : DWord) (w : Bool) :
    t.vfKey v a w = ({ s with mem := t.mem } : State).vfKey v a w := by
  rw [show t = _ from h]
  rfl

/-- The bytes of a completion record (R269). -/
def State.recordBytes (s : State) (v status cause core : Nat) (pc : Word) : List Byte :=
  leBytes 4 (status + 256 * cause + 65536 * core) ++ leBytes 4 pc.toNat ++ leBytes 8 (s.timeBase (pkgOf v)).toNat

theorem recordBytes_length (s : State) (v status cause core : Nat) (pc : Word) : (s.recordBytes v status cause core pc).length = 16 := by
  simp only [State.recordBytes, List.length_append, leBytes_length]

/-- One byte of a record, stored through the page that holds it now. -/
def State.recordByte (s : State) (v : Nat) (done : DWord) (x : Byte × Nat) : State :=
  match s.vfKey v (done + BitVec.ofNat 64 x.2) true with
  | some k => s.storeMem k [x.1]
  | none => s

/-- A record whose bytes lie one behind the other, each through the page that holds it once those before it are stored. -/
theorem writeRecord_mem {s u : State} {v : Nat} {done : DWord} {status cause core : Nat} {pc : Word} {key : Nat} {bs : List Byte}
    (alike : Storing u s) (mem : s.mem = u.mem) (dsts : SameDsts u s)
    (hbs : bs = s.recordBytes v status cause core pc) (free : u.unclaimed false key 16)
    (reach : ∀ n, n < 16 → (u.storeMem key (bs.take n)).vfKey v (done + BitVec.ofNat 64 n) true = some (key + n)) :
    (s.writeRecord v done status cause core pc).mem = s.mem.putAll key bs := by
  have none : u.inCopy false key 16 = [] := (List.append_eq_nil_iff.1 free).1
  have length : bs.length = 16 := hbs ▸ recordBytes_length ..
  have prefixes (cs : List Byte) : ∀ (j : Nat) (t : State), bs.drop j = cs → j ≤ 16 →
      Storing u t → t.mem = u.mem.putAll key (bs.take j) → SameDsts u t →
      ((cs.zipIdx j).foldl (fun t x => t.recordByte v done x) t).mem = u.mem.putAll key bs := by
    induction cs with
    | nil =>
      intro j t rest hj _ mem _
      have all : bs.length ≤ j := List.drop_eq_nil_iff.1 rest
      rw [List.zipIdx_nil, List.foldl_nil, mem, List.take_of_length_le all]
    | cons b cs ih =>
      intro j t rest hj frame mem dsts
      have within : j < 16 := by
        by_contra past
        rw [List.drop_eq_nil_of_le (by omega)] at rest
        cases rest
      have byte : bs.take (j + 1) = bs.take j ++ [b] := by
        have here : bs[j]? = some b := by rw [← List.head?_drop, rest]; rfl
        rw [List.take_add_one, here]
        rfl
      have taken : (bs.take j).length = j := by rw [List.length_take]; omega
      have stored : (u.storeMem key (bs.take j)).mem = u.mem.putAll key (bs.take j) :=
        storeMem_putAll (inCopy_none_within none le_rfl (by omega))
      have found : t.vfKey v (done + BitVec.ofNat 64 j) true = some (key + j) := by
        rw [vfKey_of_mem frame, mem, ← stored, ← vfKey_of_mem (storeMem_storing u key (bs.take j))]
        exact reach j within
      have step : t.recordByte v done (b, j) = t.storeMem (key + j) [b] := by
        rw [State.recordByte, found]
      rw [List.zipIdx_cons, List.foldl_cons, step]
      have free' : t.inCopy false (key + j) 1 = [] := by
        rw [dsts.inCopy]
        exact inCopy_none_within none (Nat.le_add_right ..) (by omega)
      refine ih (j + 1) _ ?_ within ?_ ?_ ?_
      · rw [← List.drop_drop, rest]
        rfl
      · exact Storing.trans frame (storeMem_storing t (key + j) [b])
      · rw [storeMem_putAll free', mem, byte, putAll_append, taken]
      · exact (storeMem_sameDsts t (key + j) [b]).trans dsts
  have run : s.writeRecord v done status cause core pc = (bs.zipIdx.foldl (fun t x => t.recordByte v done x) s) := by
    rw [hbs]
    rfl
  rw [run, mem]
  exact prefixes bs 0 s rfl (by omega) alike mem dsts

/-! ### The end of a launch -/

/-- A cairn whose lifetime is over: closed, and not moving (R222). -/
def Cairn.Spent (k : Cairn) (p : Cairn → Bool) : Prop := p k = true ∧ k.closed = true ∧ k.moving = none

/-- One step of the end of cairns' lifetime. -/
def State.endCairn (s : State) (p : Cairn → Bool) (k : Cairn) : State :=
  if !p k then s else if k.closed && k.moving.isNone then s.delCairn k else s.setCairn { k with drop := true }

theorem endCairn_directs (s : State) (p : Cairn → Bool) (k : Cairn) : Directs s (s.endCairn p k) := by
  unfold State.endCairn
  split
  · rfl
  · split <;> rfl

theorem Directs.trans {s t u : State} (h : Directs s t) (k : Directs t u) : Directs s u := by
  unfold Directs at *
  rw [h] at k
  exact k

theorem endCairns_directs (s : State) (p : Cairn → Bool) : Directs s (s.endCairns p) := by
  have all (l : List Cairn) : ∀ s : State, Directs s (l.foldl (fun s k => s.endCairn p k) s) := by
    induction l with
    | nil => exact fun _ => rfl
    | cons k l ih => exact fun s => (endCairn_directs s p k).trans (ih _)
  exact all s.cairns s

/-- A step leaves no spent cairn but those that are still to come. -/
theorem endCairn_rest {s : State} {p : Cairn → Bool} {k : Cairn} {l : List Cairn} (h : ∀ c ∈ s.cairns, c.Spent p → c ∈ k :: l) :
    ∀ c ∈ (s.endCairn p k).cairns, c.Spent p → c ∈ l := by
  intro c hc spent
  obtain ⟨mine, closed, still⟩ := spent
  have later (listed : c ∈ s.cairns) (other : c ≠ k) : c ∈ l := (List.mem_cons.1 (h c listed ⟨mine, closed, still⟩)).resolve_left other
  unfold State.endCairn at hc
  split at hc
  · next foreign =>
    refine later hc fun same => ?_
    rw [← same, mine] at foreign
    cases foreign
  · split at hc
    · obtain ⟨listed, kept⟩ := List.mem_filter.1 hc
      refine later listed fun same => ?_
      rw [same] at kept
      simp at kept
    · next open' =>
      have lives : ¬ (k.closed = true ∧ k.moving = none) := fun both => open' (by simp [both.1, both.2])
      obtain ⟨x, hx, rfl⟩ := List.mem_map.1 hc
      split at closed
      · next same =>
        rw [if_pos same] at still
        exact absurd ⟨closed, still⟩ lives
      · next other =>
        rw [if_neg other] at later ⊢
        exact later hx fun same => other (same ▸ ⟨rfl, rfl⟩)

theorem endCairns_none (s : State) (p : Cairn → Bool) : ∀ c ∈ (s.endCairns p).cairns, ¬ c.Spent p := by
  have all (l : List Cairn) : ∀ s : State, (∀ c ∈ s.cairns, c.Spent p → c ∈ l) → ∀ c ∈ (l.foldl (fun s k => s.endCairn p k) s).cairns, ¬ c.Spent p := by
    induction l with
    | nil => exact fun s h c hc spent => nomatch h c hc spent
    | cons k l ih => exact fun s h => ih _ (endCairn_rest h)
  exact all s.cairns s fun c hc _ => hc

/-- The barriers and the pod of a launch that has ended (R53, R261). -/
def State.closePod (s : State) (lid : Nat) (l : Launch) : State :=
  let s : State := { s with barriers := s.barriers.filter fun b => !((b.1.level == 2 || b.1.level == 3) && b.1.owner == lid) }
  match tget l.podl s.pods with
  | none => s
  | some (ps, accepted) =>
    if ps.all accepted.contains && s.launches.all fun x => x.2.podl != l.podl || x.2.ended then
      { s with barriers := s.barriers.filter fun b => !(b.1.level == 4 && b.1.owner == l.podl), pods := tset l.podl (ps, []) s.pods,
               wins := s.wins.map fun w => (w.1, w.2.orphan l.podl),
               flights := s.flights.map fun f => (f.1, { f.2 with body := f.2.body.orphan l.podl }) }
    else s

theorem closePod_frame (s : State) (lid : Nat) (l : Launch) : let t := s.closePod lid l
    t = { s with barriers := t.barriers, pods := t.pods, wins := t.wins, flights := t.flights } := by
  intro t
  unfold t State.closePod
  simp only
  split
  · rfl
  · split <;> rfl

/-- What the end of a launch changes beside its own record. -/
theorem endLaunch_spec (s : State) (lid : Nat) (l : Launch) : let t := s.endLaunch lid l
    t = { s with launches := tset lid { l with ended := true } s.launches, cairns := t.cairns, wbacks := t.wbacks, fwds := t.fwds, barriers := t.barriers, pods := t.pods,
                 wins := t.wins, flights := t.flights }
      ∧ ∀ c ∈ t.cairns, ¬ (c.vf = l.vf ∧ c.life = .launch ∧ c.launch = lid ∧ c.opens = [] ∧ c.topens = [] ∧ c.moving = none) := by
  intro t
  obtain ⟨r, hr⟩ : ∃ r : State, { s with
    launches := tset lid { l with ended := true } s.launches,
    cairns := s.cairns.map fun k => k.launchEnds lid,
    fwds := s.fwds.filter fun f => f.launch != lid } = r := ⟨_, rfl⟩
  obtain ⟨u, hu⟩ : ∃ u, r.endCairns (fun k => k.vf == l.vf && k.life == .launch && k.launch == lid) = u := ⟨_, rfl⟩
  have frame : Directs r u := hu ▸ endCairns_directs _ _
  have none := endCairns_none r fun k => k.vf == l.vf && k.life == .launch && k.launch == lid
  have run : t = u.closePod lid l := by
    rw [← hu, ← hr]
    rfl
  have closed := closePod_frame u lid l
  refine ⟨?_, fun c hc ⟨vf, life, launch, opens, topens, still⟩ => ?_⟩
  · rw [run, closed, show u = _ from frame, ← hr]
  · rw [run, closed] at hc
    refine none c (hu ▸ hc) ⟨?_, ?_, still⟩
    · simp [vf, life, launch]
    · simp [Cairn.closed, opens, topens]

/-- With no fate of the launch left, its record gets none (R177). -/
theorem undelivered_frame {s : State} {lid : Nat} (h : ∀ q ∈ s.quads, ∀ x ∈ q.2.fates, x.launch ≠ lid) : s.undelivered lid = { s with quads := (s.undelivered lid).quads } := by
  have all (l : Table Quad) (h : ∀ q ∈ l, ∀ x ∈ q.2.fates, x.launch ≠ lid) : ∀ s : State, let t := l.foldl (fun (s : State) q =>
      let s := (q.2.fates.filter fun f => f.launch == lid).foldl State.fateToLaunch s
      s.setQuad q.1 { s.quad q.1 with fates := (s.quad q.1).fates.map fun f => if f.launch = lid then { f with told := true } else f }) s
      t = { s with quads := t.quads } := by
    induction l with
    | nil => exact fun _ => rfl
    | cons q l ih =>
      intro s
      have none : (q.2.fates.filter fun f => f.launch == lid) = [] := List.filter_eq_nil_iff.2 fun f hf => by simpa using h q List.mem_cons_self f hf
      have rest := ih (fun r hr => h r (List.mem_cons_of_mem _ hr)) (s.setQuad q.1 { s.quad q.1 with fates := (s.quad q.1).fates.map fun f => if f.launch = lid then { f with told := true } else f })
      intro t
      have run : t = l.foldl (fun (s : State) q =>
          let s := (q.2.fates.filter fun f => f.launch == lid).foldl State.fateToLaunch s
          s.setQuad q.1 { s.quad q.1 with fates := (s.quad q.1).fates.map fun f => if f.launch = lid then { f with told := true } else f })
          (s.setQuad q.1 { s.quad q.1 with fates := (s.quad q.1).fates.map fun f => if f.launch = lid then { f with told := true } else f }) := by
        simp only [t, List.foldl_cons, none, List.foldl_nil]
      rw [run, rest]
      rfl
  exact all s.quads h s

/-- A launch that completes leaves its record (R269) and ends. -/
theorem complete_spec {s : State} {lid : Nat} {l : Launch} (hl : tget lid s.launches = some l) (fates : ∀ q ∈ s.quads, ∀ x ∈ q.2.fates, x.launch ≠ lid)
    (near : s.vfFar l.vf (recordEnds l.done) = false) :
    let f := l.fault.getD ⟨0, 0, 0, false⟩
    s.complete lid false = ((s.undelivered lid).writeRecord l.vf l.done (if l.fablost then 5 else if l.killed then 4 else 0) f.cause f.core f.pc).endLaunch lid l := by
  have frame := undelivered_frame fates
  have same : tget lid (s.undelivered lid).launches = some l := by rw [frame]; exact hl
  unfold State.complete
  simp only [hl, near, same, Bool.false_eq_true, if_false, Bool.and_false, Option.getD_some]
  cases l.fault <;> rfl

theorem complete_far {s : State} {lid : Nat} {l : Launch} (hl : tget lid s.launches = some l) (far : s.vfFar l.vf (recordEnds l.done) = true) : s.complete lid false = s := by
  unfold State.complete
  simp only [hl, far]
  rfl

end Sys2Proof.Machine
end

section
/-! SUPPORT. Images of a launch, free contexts and the placing of one group (R34, R39, R51, R76). -/

namespace Sys2Proof.Machine

/-- The groups but for their reservations. -/
def State.unreserved (s : State) : Table Group := s.groups.map fun p => (p.1, { p.2 with reserv := none })

theorem clearLines_unreserved (s : State) (a n : Nat) : (s.clearLines a n).unreserved = s.unreserved := by
  refine (List.map_map ..).trans (List.map_congr_left fun p _ => ?_)
  rw [Function.comp]
  split
  · split <;> rfl
  · rfl

theorem storeMem_unreserved (s : State) (key : Nat) (bs : List Byte) : (s.storeMem key bs).unreserved = s.unreserved := by
  rw [storeMem_eq]
  unfold State.unreserved
  simp only
  split
  · rfl
  · exact clearLines_unreserved ..

/-- A group's place in its table, by its number. -/
theorem group_isSome_unreserved (s : State) (j : Nat) : (s.group? j).isSome = (tget j s.unreserved).isSome := by
  rw [State.unreserved, tget_map_values (fun g : Group => ({ g with reserv := none } : Group))]
  exact (Option.isSome_map ..).symm

/-- The room of a partition, by the groups (R41, R76). -/
def roomOf (l : Table Group) (core part bytes n : Nat) : Bool :=
  let gs := l.filter fun p => p.2.holds core part
  gs.length < Config.slotsPerPartition && gs.foldl (fun n p => n + grant p.2.budget p.2.count) bytes ≤ Config.partitionRegisterBytes
    && gs.foldl (fun n p => n + p.2.entries p.2.splits.length) n ≤ Config.splitEntriesPerPartition

theorem roomOf_unreserved (l : Table Group) (core part bytes n : Nat) : roomOf (l.map fun p => (p.1, { p.2 with reserv := none })) core part bytes n = roomOf l core part bytes n := by
  unfold roomOf
  rw [List.filter_map]
  simp only [List.length_map, List.foldl_map]
  rfl

theorem slotFree_unreserved (s : State) (core part slot : Nat) : s.slotFree core part slot = s.unreserved.all fun p => !(p.2.holds core part && p.2.slot == slot) := by
  rw [State.unreserved, List.all_map]
  rfl

theorem freeContext_unreserved {s t : State} (h : t.unreserved = s.unreserved) (core bytes : Nat) : t.freeContext core bytes = s.freeContext core bytes := by
  have room (p : Nat) : t.ctxRoom core p bytes 1 = s.ctxRoom core p bytes 1 := by
    refine (roomOf_unreserved t.groups core p bytes 1).symm.trans (Eq.trans ?_ (roomOf_unreserved s.groups core p bytes 1))
    exact congrArg (fun l => roomOf l core p bytes 1) h
  have free (p : Nat) : t.slotFree core p = s.slotFree core p := funext fun i => by rw [slotFree_unreserved, slotFree_unreserved, h]
  unfold State.freeContext
  simp only [room, free]

/-- `t` is `s` after images were loaded: their bytes, and where the launch finds them. -/
structure Loading (s t : State) : Prop where
  frame : t = { s with nextId := t.nextId, mem := t.mem, written := t.written, groups := t.groups, bad := t.bad, copies := t.copies, quads := t.quads, cores := t.cores, vfs := t.vfs,
                       launches := t.launches }
  groups : t.unreserved = s.unreserved
  vfs : ∀ v, ∃ ms, t.vf v = { s.vf v with images := ms }

theorem Loading.refl (s : State) : Loading s s := ⟨rfl, rfl, fun v => ⟨(s.vf v).images, rfl⟩⟩

theorem Loading.trans {s t u : State} (h : Loading s t) (k : Loading t u) : Loading s u where
  frame := by
    have kf := k.frame
    rw [h.frame] at kf
    exact kf
  groups := k.groups.trans h.groups
  vfs v := by
    obtain ⟨ms, hm⟩ := h.vfs v
    obtain ⟨ns, hn⟩ := k.vfs v
    exact ⟨ns, by rw [hn, hm]⟩

theorem loadByte_loading (s : State) (key : Nat) (b : Byte) : Loading s (s.loadByte key b) where
  frame := by
    unfold State.loadByte
    rw [storeMem_eq]
  groups := by
    have same : (s.loadByte key b).groups = (s.storeMem key [b]).groups := rfl
    rw [State.unreserved, same]
    exact storeMem_unreserved ..
  vfs v := ⟨(s.vf v).images, by
    have same : (s.loadByte key b).vfs = s.vfs := by unfold State.loadByte; rw [storeMem_eq]
    rw [State.vf, same]
    rfl⟩

theorem putCoords_loading (v : Nat) (m : Image) (copy : Option Nat) (s : State) (bytes : List Byte) : Loading s (s.putCoords v m copy bytes) := by
  have all (l : List ((Nat × Nat) × Byte)) : ∀ s : State, Loading s (l.foldl (fun (s : State) x => match s.imageKey v m copy x.1.1 with
      | some k => s.loadByte k x.2
      | none => s) s) := by
    induction l with
    | nil => exact .refl
    | cons x l ih =>
      intro s
      refine Loading.trans ?_ (ih _)
      simp only
      split
      · exact loadByte_loading ..
      · exact .refl s
  exact all _ s

theorem setImage_loading (s : State) (v : Nat) (m : Image) : Loading s (s.setImage v m) := by
  refine ⟨rfl, rfl, fun w => ?_⟩
  by_cases same : w = v
  · subst same
    exact ⟨_, State.vf_setVf_self ..⟩
  · exact ⟨(s.vf w).images, State.vf_setVf_ne _ same _⟩

theorem copyImage_loading (s : State) (v : Nat) (m : Image) (bytes coords : List Byte) : Loading s (s.copyImage v m bytes coords).1 := by
  refine Loading.trans ?_ ((putCoords_loading v m (some s.nextId) _ coords).trans (setImage_loading ..))
  exact ⟨rfl, rfl, fun w => ⟨(s.vf w).images, rfl⟩⟩

theorem loadImage_loading (s : State) (v : Nat) (m : Image) : Loading s (s.loadImage v m).1 := by
  unfold State.loadImage
  simp only
  split
  · exact .refl s
  · split
    · exact (putCoords_loading ..).trans (setImage_loading ..)
    · exact copyImage_loading ..

theorem loadImages_loading (s : State) (lid : Nat) (l : Launch) : Loading s (s.loadImages lid l) := by
  have all (ms : List Image) : ∀ r : State × List ImageUse,
      Loading r.1 (ms.foldl (fun (r : State × List ImageUse) m => let x := r.1.loadImage l.vf m; (x.1, r.2 ++ [x.2])) r).1 := by
    induction ms with
    | nil => exact fun r => .refl r.1
    | cons m ms ih => exact fun r => (loadImage_loading r.1 l.vf m).trans (ih ((r.1.loadImage l.vf m).1, r.2 ++ [(r.1.loadImage l.vf m).2]))
  refine (all (s.launchImages l) (s, [])).trans ⟨rfl, rfl, fun v => ⟨_, rfl⟩⟩

end Sys2Proof.Machine
end

section
/-! OBLIGATIONS. The end of a launch (R52, R177, R210, R269). -/

namespace Sys2Proof.Machine

/-- The status of a launch's completion record, unless a reset ends it (R269). -/
def Launch.endStatus (l : Launch) : Nat := if l.fablost then 5 else if l.killed then 4 else 0

/-- The fault of a launch's completion record. -/
def Launch.endFault (l : Launch) : FaultRec := l.fault.getD ⟨0, 0, 0, false⟩

theorem complete_ends {s : State} {lid : Nat} {l : Launch} (hl : tget lid s.launches = some l) (fates : ∀ q ∈ s.quads, ∀ x ∈ q.2.fates, x.launch ≠ lid)
    (near : s.vfFar l.vf (recordEnds l.done) = false) (key : Nat) :
    let f := l.endFault
    let bs := leBytes 4 (l.endStatus + 2 ^ 8 * f.cause + 2 ^ 16 * f.core) ++ leBytes 4 f.pc.toNat ++ leBytes 8 (s.timeBase (pkgOf l.vf)).toNat
    let t := s.complete lid false
    tget lid t.launches = some { l with ended := true } ∧ (∀ j, j ≠ lid → tget j t.launches = tget j s.launches)
      ∧ t.tasks = s.tasks ∧ t.scratch = s.scratch ∧ t.vfs = s.vfs
      ∧ (∀ c ∈ t.cairns, ¬ (c.vf = l.vf ∧ c.life = .launch ∧ c.launch = lid ∧ c.opens = [] ∧ c.topens = [] ∧ c.moving = none))
      ∧ (s.unclaimed false key 16 → (∀ n, n < 16 → (s.storeMem key (bs.take n)).vfKey l.vf (l.done + BitVec.ofNat 64 n) true = some (key + n)) → s.mem.wf = true →
          (∀ n, n < 16 → t.mem.get (key + n) = bs.getD n 0) ∧ ∀ a, apart a 1 key 16 → t.mem.get a = s.mem.get a) := by
  intro f bs t
  have frame := undelivered_frame fates
  obtain ⟨u, hu⟩ : ∃ u, s.undelivered lid = u := ⟨_, rfl⟩
  obtain ⟨w, hw⟩ : ∃ w, u.writeRecord l.vf l.done l.endStatus f.cause f.core f.pc = w := ⟨_, rfl⟩
  rw [hu] at frame
  have run : t = w.endLaunch lid l := by
    rw [← hw, ← hu]
    exact complete_spec hl fates near
  have storing : Storing u w := hw ▸ writeRecord_storing u l.vf l.done l.endStatus f.cause f.core f.pc
  obtain ⟨ends, cairns⟩ := endLaunch_spec w lid l
  rw [← run] at ends cairns
  have launches : t.launches = tset lid { l with ended := true } s.launches := by rw [ends, show w = _ from storing, frame]
  refine ⟨by rw [launches, tget_tset_self], fun j other => by rw [launches, tget_tset_ne other], ?_, ?_, ?_, cairns, fun free reach wf => ?_⟩
  · rw [ends, show w = _ from storing, frame]
  · rw [ends, show w = _ from storing, frame]
  · rw [ends, show w = _ from storing, frame]
  · have alike : Storing s u := by
      unfold Storing
      rw [frame]
    have mem : u.mem = s.mem := by rw [frame]
    have dsts : SameDsts s u := by unfold SameDsts; rw [frame]
    have bytes : bs = u.recordBytes l.vf l.endStatus f.cause f.core f.pc := by rw [frame]; rfl
    have stored : t.mem = s.mem.putAll key bs := by
      rw [← mem, ← writeRecord_mem alike mem dsts bytes free reach, hw, ends]
    have length : bs.length = 16 := bytes ▸ recordBytes_length ..
    refine ⟨fun n hn => ?_, fun a away => ?_⟩
    · rw [stored, Mem.get_putAll _ wf, if_pos (by omega), Nat.add_sub_cancel_left]
    · rw [stored, Mem.get_putAll _ wf, if_neg (by unfold apart at away; omega)]

end Sys2Proof.Machine
end

section
/-! SUPPORT. One image loaded, and one group placed (R34, R39, R51). -/

namespace Sys2Proof.Machine

theorem loadByte_mem {s : State} {key : Nat} {b : Byte} (free : s.unclaimed false key 1) : (s.loadByte key b).mem = s.mem.put key b :=
  (storeMem_mem (bs := [b]) free).trans rfl

theorem copyKey_add (n base off : Nat) : copyKey n (base + off) = copyKey n base + off := by
  simp only [copyKey, memKey, Nat.add_assoc]

/-- The core set's coordinate that the one COORD8 entry of an image names (R34). -/
theorem coordBytes_one {s : State} {v off idx : Nat} {m : Image} (coords : m.coords = [(off, idx)]) (within : idx < (s.coreSet v).length) (old : List Byte) :
    s.coordBytes v m old = [BitVec.ofNat 8 (coordOf ((sortBy id (s.coreSet v)).getD idx 0))] := by
  have inside : idx < (sortBy id (s.coreSet v)).length := by rw [(sortBy_perm id _).length_eq]; exact within
  simp only [State.coordBytes, coords, List.zipIdx_cons, List.zipIdx_nil, List.map_cons, List.map_nil, List.getElem?_eq_getElem inside, List.getD_eq_getElem?_getD, Option.getD_some]

theorem launchImages_one {s : State} {l : Launch} {m : Image} {off idx : Nat} (images : (s.vf l.vf).images = [m]) (coords : m.coords = [(off, idx)])
    (used : ∃ d ∈ m.descs, l.first ≤ d ∧ d < l.first + max 1 l.nodes.length) : s.launchImages l = [m] := by
  obtain ⟨d, hd, lo, hi⟩ := used
  rw [State.launchImages, Vf.imagesOf, images, List.filter_cons_of_pos, List.filter_nil]
  rw [Bool.and_eq_true_iff]
  exact ⟨by rw [coords]; rfl, List.any_eq_true.2 ⟨d, hd, by simp [lo, hi]⟩⟩

theorem loadImages_one {s : State} {lid : Nat} {l : Launch} {m : Image} (one : s.launchImages l = [m]) :
    s.loadImages lid l = { (s.loadImage l.vf m).1 with launches := tmod lid (fun x => { x with images := [(s.loadImage l.vf m).2] }) (s.loadImage l.vf m).1.launches } := by
  rw [State.loadImages, State.useImages, one]
  rfl

theorem putCoords_one {s : State} {v : Nat} {m : Image} {copy : Option Nat} {off idx : Nat} {b : Byte} (coords : m.coords = [(off, idx)]) :
    s.putCoords v m copy [b] = match s.imageKey v m copy off with | some k => s.loadByte k b | none => s := by
  rw [State.putCoords, coords]
  rfl

theorem putCoords_launches (s : State) (v : Nat) (m : Image) (copy : Option Nat) (bytes : List Byte) : (s.putCoords v m copy bytes).launches = s.launches := by
  have all (l : List ((Nat × Nat) × Byte)) : ∀ s : State, (l.foldl (fun (s : State) x => match s.imageKey v m copy x.1.1 with
      | some k => s.loadByte k x.2
      | none => s) s).launches = s.launches := by
    induction l with
    | nil => exact fun _ => rfl
    | cons x l ih =>
      intro s
      refine (ih _).trans ?_
      simp only
      split
      · unfold State.loadByte
        rw [storeMem_eq]
      · rfl
  exact all _ s

theorem loadImage_launches (s : State) (v : Nat) (m : Image) : (s.loadImage v m).1.launches = s.launches := by
  unfold State.loadImage
  simp only
  split
  · rfl
  · split
    · exact putCoords_launches ..
    · exact putCoords_launches ..

/-- An image loaded for a placement: one that is loaded already, the first, into memory, and a further one, into a copy (R34). -/
theorem loadImage_one {s : State} {v off idx : Nat} {m : Image} {coord : Byte} (coords : m.coords = [(off, idx)]) (bytes : s.coordBytes v m [] = [coord]) (wf : s.mem.wf = true)
    (inside : off < m.size) :
    let t := (s.loadImage v m).1
    let uses (y : Option Nat) : Prop := (s.loadImage v m).2 = ⟨m.base, m.size, y⟩
    let base := copyKey s.nextId m.base
    (∀ y, m.loaded.find? (fun z => z.1 == [coord]) = some ([coord], y) → t.mem = s.mem ∧ uses y)
      ∧ (∀ key, m.loaded = [] → s.imageKey v m none off = some key → s.unclaimed false key 1 → uses none ∧ t.mem.get key = coord ∧ ∀ a, a ≠ key → t.mem.get a = s.mem.get a)
      ∧ (m.loaded = [] → s.imageKey v m none off = none → uses none ∧ t.mem = s.mem)
      ∧ (m.loaded ≠ [] → (∀ y ∈ m.loaded, y.1 ≠ [coord]) → m.file.length = m.size → s.unclaimed false (base + off) 1 →
        uses (some s.nextId) ∧ (∀ x, x < m.size → t.mem.get (base + x) = if x = off then coord else m.file.getD x 0) ∧ ∀ a, apart a 1 base m.size → t.mem.get a = s.mem.get a) := by
  intro t uses base
  have first (none' : m.loaded = []) : s.loadImage v m = ((s.putCoords v m none [coord]).setImage v { m with file := s.imageBytes v m none, loaded := [([coord], none)] }, ⟨m.base, m.size, none⟩) := by
    unfold State.loadImage
    simp only [bytes, none']
    rfl
  refine ⟨fun y found => ?_, fun key none' there free => ?_, fun none' gone => ?_, fun some' new length free => ?_⟩
  · have run : s.loadImage v m = (s, ⟨m.base, m.size, y⟩) := by
      unfold State.loadImage
      simp only [bytes, found]
    simp only [t, uses, run, and_self]
  · have run := first none'
    have mem : t.mem = s.mem.put key coord := by
      simp only [t, run]
      rw [putCoords_one coords, there]
      exact loadByte_mem free
    refine ⟨by simp only [uses, run], ?_, fun a other => ?_⟩
    · rw [mem, Mem.get_put wf, if_pos rfl]
    · rw [mem, Mem.get_put wf, if_neg other]
  · have run := first none'
    refine ⟨by simp only [uses, run], ?_⟩
    simp only [t, run]
    rw [putCoords_one coords, gone]
    rfl
  · have absent : m.loaded.find? (fun z => z.1 == [coord]) = none := List.find?_eq_none.2 fun y hy => by simpa using new y hy
    have run : s.loadImage v m = s.copyImage v m m.file [coord] := by
      unfold State.loadImage
      simp only [bytes, absent]
      exact if_neg (by simpa using some')
    have free' : ({ s with mem := s.mem.putAll base m.file, nextId := s.nextId + 1 } : State).unclaimed false (base + off) 1 := free
    have mem : t.mem = (s.mem.putAll base m.file).put (base + off) coord := by
      simp only [t, run]
      show (State.putCoords { s with mem := s.mem.putAll base m.file, nextId := s.nextId + 1 } v m (some s.nextId) [coord]).mem = _
      rw [putCoords_one coords]
      simp only [State.imageKey, copyKey_add]
      exact loadByte_mem free'
    have wf' := Mem.wf_putAll m.file (a := base) wf
    refine ⟨by simp only [uses, run]; rfl, fun x hx => ?_, fun a away => ?_⟩
    · rw [mem, Mem.get_put wf', Mem.get_putAll _ wf]
      by_cases here : x = off
      · rw [if_pos (by omega), if_pos here]
      · rw [if_neg (by omega), if_pos (by omega), if_neg here, Nat.add_sub_cancel_left]
    · unfold apart at away
      rw [mem, Mem.get_put wf', if_neg (by omega), Mem.get_putAll _ wf, if_neg (by omega)]

/-! ### One group on a core -/

theorem coreChoices_one (c : Nat) : coreChoices [c] = [[c]] := by
  have sorted : sortBy id [c] = [c] := rfl
  have quads : ([c].map quadOf).eraseDups = [quadOf c] := rfl
  have mine : [c].filter (fun x => quadOf x == quadOf c) = [c] := List.filter_cons_of_pos (beq_self_eq_true _)
  unfold coreChoices
  simp only [sorted, quads, List.flatMap_cons, List.flatMap_nil, mine]
  rfl

theorem coresFor_one {k : Kernel} {n : Nat} (lo : 1 ≤ n) (hi : n ≤ 96) : coresFor k n = if coreCapacity (grant k.budget k.count) = 0 then 5 else 1 := by
  have one : (n + 95) / 96 = 1 := by omega
  unfold coresFor
  simp only [one]
  split
  · rfl
  · next some' => rw [Nat.add_sub_cancel_left, Nat.div_self (Nat.pos_of_ne_zero some')]

theorem le_foldl_add {α : Type} (f : α → Nat) (l : List α) : ∀ n, n ≤ l.foldl (fun n x => n + f x) n := by
  induction l with
  | nil => exact fun n => le_rfl
  | cons x l ih => exact fun n => (Nat.le_add_right n (f x)).trans (ih _)

/-- A core with a free context for a grant has the capacity for one (R76). -/
theorem capacity_of_free {s : State} {c bytes part slot : Nat} (h : s.freeContext c bytes = some (part, slot)) : coreCapacity bytes ≠ 0 := by
  obtain ⟨p, -, found⟩ := List.exists_of_findSome?_eq_some h
  have room : s.ctxRoom c p bytes 1 = true := by
    by_contra full
    rw [if_neg full] at found
    cases found
  simp only [State.ctxRoom, Bool.and_eq_true, decide_eq_true_eq] at room
  obtain ⟨⟨-, fits⟩, -⟩ := room
  have small := (le_foldl_add (fun p : Nat × Group => grant p.2.budget p.2.count) _ bytes).trans fits
  unfold coreCapacity
  split
  · decide
  · next some' =>
    have one : 1 ≤ Config.partitionRegisterBytes / bytes := (Nat.one_le_div_iff (by omega)).2 small
    have slots : 1 ≤ Config.slotsPerPartition := by decide
    have parts : 1 ≤ Config.partitionsPerCore := by decide
    exact (Nat.mul_pos parts (Nat.lt_min.2 ⟨slots, one⟩)).ne'

theorem allocScratch_none (s : State) (v c : Nat) : s.allocScratch v 0 [c] = some [(c, 0, 0)] := rfl

/-- The one group of a block that a free context takes (R39, R51). -/
theorem placeGroups_one {r : State} {w : Work} {bid index n c part slot f : Nat} (lo : 1 ≤ n) (hi : n ≤ 96)
    (free : r.freeContext c (grant w.kernel.budget w.kernel.count) = some (part, slot)) :
    placeGroups w bid index n (f + 2) [c] 0 [] r
      = some ({ r with groups := tset r.nextId (w.group r c part slot bid index 0 n) r.groups, nextId := r.nextId + 1 }, [r.nextId]) := by
  rw [placeGroups, if_neg (by omega)]
  simp only [free]
  rw [placeGroups, if_pos (by omega), show min 96 (n - 96 * 0) = n by omega]
  rfl

theorem placeGroups_full {r : State} {w : Work} {bid index n c f : Nat} (lo : 1 ≤ n) (full : r.freeContext c (grant w.kernel.budget w.kernel.count) = none) :
    placeGroups w bid index n f [c] 0 [] r = none := by
  cases f with
  | zero => rfl
  | succ f =>
    rw [placeGroups, if_neg (by omega)]
    simp only [full]
    cases f with
    | zero => rfl
    | succ f => rw [placeGroups, if_neg (by omega)]

theorem placeBlock_full {r : State} {w : Work} {index n c : Nat} (lo : 1 ≤ n) (scratch : w.kernel.scratch = 0) (full : r.freeContext c (grant w.kernel.budget w.kernel.count) = none) :
    r.placeBlock w index n [c] = none := by
  unfold State.placeBlock
  rw [scratch, allocScratch_none]
  simp only [placeGroups_full (r := { r with nextId := r.nextId + 1 }) lo full]

/-- A block of one group is placed (R39, R51-R53). -/
theorem placeBlock_one {r : State} {w : Work} {index n c part slot : Nat} (lo : 1 ≤ n) (hi : n ≤ 96) (scratch : w.kernel.scratch = 0) (plain : w.kernel.kind = 0)
    (free : r.freeContext c (grant w.kernel.budget w.kernel.count) = some (part, slot)) :
    ∃ t, r.placeBlock w index n [c] = some t
      ∧ t = { r with nextId := r.nextId + 2, fresh := t.fresh, copies := t.copies, blocks := t.blocks, barriers := t.barriers, groups := t.groups, launches := t.launches }
      ∧ t.groups = tset (r.nextId + 1) (w.group r c part slot r.nextId index 0 n) r.groups
      ∧ t.launches = tmod w.launch (fun l => { l with sums := { l.sums with started := l.sums.started + 1 } }) r.launches := by
  obtain ⟨u, hu⟩ : ∃ u : State, { r with groups := tset (r.nextId + 1) (w.group r c part slot r.nextId index 0 n) r.groups, nextId := r.nextId + 2 } = u := ⟨_, rfl⟩
  have groups : placeGroups w r.nextId index n ((n + 95) / 96 + [c].length + 1) [c] 0 [] { r with nextId := r.nextId + 1 } = some (u, [r.nextId + 1]) := by
    rw [show (n + 95) / 96 + [c].length + 1 = 1 + 2 by simp; omega, ← hu]
    exact placeGroups_one (r := { r with nextId := r.nextId + 1 }) lo hi free
  have core : ([c].all fun c => [r.nextId + 1].any fun i => (tget i u.groups).any fun g => g.core == c) = true := by
    rw [← hu]
    simp [tget_tset_self, Work.group]
  obtain ⟨t, ht⟩ : ∃ t, State.joinPod { (u.undefScratch (scratchKey c 0) 0) with
      blocks := tset r.nextId ⟨w.launch, w.task, w.vf, index, [(c, 0, 0)], [r.nextId + 1], decide (1 < [c].length), [c]⟩ u.blocks
      barriers := u.barriers ++ newBarriers 1 (blockOwner (some r.nextId)) 0 w.kernel.bars [r.nextId + 1]
      launches := tmod w.launch (fun l => { l with sums := { l.sums with started := l.sums.started + [r.nextId + 1].length } }) u.launches } w [r.nextId + 1] = t := ⟨_, rfl⟩
  have run : r.placeBlock w index n [c] = some t := by
    unfold State.placeBlock
    rw [scratch, allocScratch_none]
    simp only [groups, core, if_true, plain]
    exact congrArg some ht
  have join : t = { u with fresh := t.fresh, copies := t.copies, blocks := t.blocks, barriers := t.barriers, launches := t.launches }
      ∧ t.launches = tmod w.launch (fun l => { l with sums := { l.sums with started := l.sums.started + 1 } }) u.launches := by
    rw [← ht]
    unfold State.joinPod
    split <;> exact ⟨rfl, rfl⟩
  obtain ⟨frame, launches⟩ := join
  refine ⟨t, run, ?_, ?_, ?_⟩
  · rw [frame, ← hu]
  · rw [frame, ← hu]
  · rw [launches, ← hu]

/-- A block of at most one group finds its place on the one core given, or none (R51). -/
theorem placeAny_one {r : State} {w : Work} {index n c : Nat} (lo : 1 ≤ n) (hi : n ≤ 96) :
    r.placeAny w index n [c] = if coreCapacity (grant w.kernel.budget w.kernel.count) = 0 then none else r.placeBlock w index n [c] := by
  unfold State.placeAny State.placeFewest
  rw [coreChoices_one, coresFor_one lo hi]
  split
  · rw [List.filter_cons_of_neg (by simp)]
    rfl
  · rw [List.filter_cons_of_pos (by simp)]
    simp only [List.filter_nil, List.findSome?_cons, List.findSome?_nil]
    cases r.placeBlock w index n [c] <;> rfl

end Sys2Proof.Machine
end

section
/-! OBLIGATIONS. Dispatch, images and completion (R34, R37-R39, R51, R52, R203, R209, R210). -/

namespace Sys2Proof.Machine

/-- A launch whose blocks are placed and whose groups, tasks and operations are over (R52, R199). -/
def State.finished (s : State) (lid : Nat) (l : Launch) : Prop :=
  l.next = l.kernel.grid ∧ s.tasksOver lid = true ∧ s.opsOf lid = 0 ∧ ∀ p ∈ s.groups, p.2.launch = lid → p.2.life = .retired

theorem launchComplete_run {s : State} {lid : Nat} {l : Launch} (hl : tget lid s.launches = some l) (live : l.ended = false) (plain : l.graph = false) :
    (s.finished lid l → exec (.launchComplete lid) s = .next (s.complete lid false)) ∧ (¬ s.finished lid l → exec (.launchComplete lid) s = .next s) := by
  have groups : s.groups.any (fun p => p.2.launch == lid && p.2.life != .retired) = true ↔ ¬ ∀ p ∈ s.groups, p.2.launch = lid → p.2.life = .retired := by
    simp [List.any_eq_true]
  have waits : (l.ended || l.graph || l.next != l.kernel.grid || !s.tasksOver lid || s.opsOf lid != 0 || s.groups.any (fun p => p.2.launch == lid && p.2.life != .retired)) = true
      ↔ ¬ s.finished lid l := by
    rw [live, plain, Bool.or_eq_true, groups, State.finished]
    simp only [Bool.or_eq_true, bne_iff_ne, Bool.not_eq_true', Bool.false_eq_true, false_or, not_and_or, Bool.not_eq_true, or_assoc]
  have run : exec (.launchComplete lid) s = .next (if (l.ended || l.graph || l.next != l.kernel.grid || !s.tasksOver lid || s.opsOf lid != 0
      || s.groups.any (fun p => p.2.launch == lid && p.2.life != .retired)) = true then s else s.complete lid false) := by
    show execLaunchComplete lid s = _
    rw [execLaunchComplete, hl]
  exact ⟨fun h => run.trans (congrArg _ (if_neg (waits.not.2 (not_not.2 h)))), fun h => run.trans (congrArg _ (if_pos (waits.2 h)))⟩

theorem wave_run {s : State} {lid : Nat} {l : Launch} (hl : tget lid s.launches = some l) (live : l.ended = false) (graph : l.graph = true) (some' : l.sums.appended ≠ 0) :
    exec (.terminationWave lid) s = .next (match l.wave with
      | none => { s with launches := tset lid { l with wave := some { l.sums with ops := s.opsOf lid } } s.launches }
      | some w => if s.graphIdle lid l && w == { l.sums with ops := s.opsOf lid } then s.complete lid false
        else { s with launches := tset lid { l with wave := none } s.launches }) := by
  show execTerminationWave lid s = _
  rw [execTerminationWave, hl]
  refine congrArg _ ((if_neg ?_).trans rfl)
  simp [live, graph, some']

/-! ### Where a launch finds the bytes of an image -/

/-- A check that a global access passes gives the page of memory, or the launch's copy of the image (R34). -/
theorem checkGlobal_image {s : State} {core v lid size : Nat} {a : DWord} {need : Need} {lf : Leaf} (h : s.checkGlobal core v lid a size need = .ok lf) :
    lf.copy = s.imageCopy v lid (va57 a) ∧ (lf.copy ≠ none → lf.pa = va57 a ∧ lf.home = pkgOf v) := by
  have page : s.checkPage core v lid a need false = .ok lf := by
    unfold State.checkGlobal at h
    split at h
    · cases h
    · split at h
      · cases h
      · exact h
  unfold State.checkPage at page
  cases ht : s.translate core v (va57 a) with
  | none => rw [ht] at page; cases page
  | some l =>
    have own : l.copy = none := by
      obtain ⟨e, -, rfl⟩ := Option.map_eq_some_iff.1 ht
      rfl
    rw [ht] at page
    simp only [Bool.false_and, Bool.false_eq_true, if_false] at page
    rcases ite_eq_iff.1 page with ⟨-, denied⟩ | ⟨-, page⟩
    · cases denied
    · cases hc : s.imageCopy v lid (va57 a) with
      | some n =>
        rw [hc] at page
        cases page
        exact ⟨rfl, fun _ => ⟨rfl, rfl⟩⟩
      | none =>
        rw [hc] at page
        simp only at page
        rcases ite_eq_iff.1 page with ⟨-, denied⟩ | ⟨-, page⟩
        · cases denied
        · rcases ite_eq_iff.1 page with ⟨-, denied⟩ | ⟨-, page⟩
          · cases denied
          · cases page
            exact ⟨own, fun some' => absurd own some'⟩

theorem leafKey_image {s : State} {core v lid size : Nat} {a : DWord} {need : Need} {lf : Leaf} {l : Launch} (hl : tget lid s.launches = some l)
    (h : s.checkGlobal core v lid a size need = .ok lf) :
    (l.images = [] → s.leafKey core v lf = memKey (s.homeDev core v lf.home) lf.pa)
      ∧ ∀ (m : ImageUse) (n : Nat), l.images = [m] → m.copy = some n → s.region v (va57 a) = none → m.base ≤ va57 a → va57 a < m.base + m.size →
        s.leafKey core v lf = copyKey n (va57 a) ∧ lf.home = pkgOf v := by
  obtain ⟨copy, own⟩ := checkGlobal_image h
  refine ⟨fun none' => ?_, fun m n one loaded region lo hi => ?_⟩
  · have memory : lf.copy = none := by
      rw [copy, State.imageCopy, hl]
      split
      · rfl
      · simp [none']
    rw [State.leafKey, memory]
  · have copied : lf.copy = some n := by
      rw [copy, State.imageCopy, region, hl, if_neg (by nofun)]
      simp [one, lo, hi, loaded]
    obtain ⟨pa, home⟩ := own (by rw [copied]; nofun)
    rw [State.leafKey, copied]
    exact ⟨congrArg _ pa, home⟩

/-! ### Dispatch -/

theorem beginPlacing_ok {s : State} {lid : Nat} {l : Launch}
    (h : l.begun = true ∨ (s.coordRange l.vf l.first (max 1 l.nodes.length) = false ∧ s.imagesFar l = false)) :
    s.beginPlacing lid l = .ok (if l.begun then s else s.loadImages lid l) := by
  unfold State.beginPlacing
  by_cases begun : l.begun = true
  · rw [if_pos begun, if_pos begun]
  · obtain ⟨range, near⟩ := h.resolve_left begun
    rw [if_neg begun, if_neg (by rw [range]; nofun), if_neg (by rw [near]; nofun), if_neg begun]

/-- A placing that does not begin leaves what `beginPlacing` says. -/
theorem dispatchLaunch_error {s t : State} {lid : Nat} {l : Launch} (cores : List Nat) (h : s.beginPlacing lid l = .error t) : s.dispatchLaunch lid l cores = t := by
  unfold State.dispatchLaunch
  simp only [h]

theorem beginPlacing_range {s : State} {lid : Nat} {l : Launch} (fresh : l.begun = false) (range : s.coordRange l.vf l.first (max 1 l.nodes.length) = true) :
    s.beginPlacing lid l = .error (if s.vfFar l.vf (recordEnds l.done) then s else (s.writeRecord l.vf l.done stCOORDRANGE 0 0 0).endLaunch lid l) := by
  unfold State.beginPlacing
  rw [if_neg (by rw [fresh]; nofun), if_pos range]

theorem beginPlacing_far {s : State} {lid : Nat} {l : Launch} (fresh : l.begun = false) (range : s.coordRange l.vf l.first (max 1 l.nodes.length) = false) (far : s.imagesFar l = true) :
    s.beginPlacing lid l = .error s := by
  unfold State.beginPlacing
  rw [if_neg (by rw [fresh]; nofun), if_neg (by rw [range]; nofun), if_pos far]

theorem writeRecord_unreserved (s : State) (v : Nat) (done : DWord) (status cause core : Nat) (pc : Word) : (s.writeRecord v done status cause core pc).unreserved = s.unreserved := by
  have all (l : List (Byte × Nat)) : ∀ s : State, (l.foldl (fun s x => s.recordByte v done x) s).unreserved = s.unreserved := by
    induction l with
    | nil => exact fun _ => rfl
    | cons x l ih =>
      intro s
      refine (ih _).trans ?_
      simp only [State.recordByte]
      split
      · exact storeMem_unreserved ..
      · rfl
  exact all _ s

theorem begun_loading (s : State) (lid : Nat) (l : Launch) : Loading s (if l.begun then s else s.loadImages lid l) := by
  split
  · exact .refl s
  · exact loadImages_loading ..

/-- What a block of a launch shares with the others (R39). -/
def Launch.work (l : Launch) (lid : Nat) : Work :=
  { vf := l.vf, launch := lid, task := none, node := none, kernel := l.kernel, payload := l.payload, blocks := l.kernel.grid, succ := [] }

theorem dispatchLaunch_run {s : State} {lid c : Nat} {l : Launch} (hl : tget lid s.launches = some l) (plain : l.graph = false) (live : l.ended = false) (more : l.next < l.kernel.grid)
    (accepts : (s.pkg (pkgOf l.vf)).accepts = true) : exec (.blockDispatch (.launch lid) [c]) s = .next (s.dispatchLaunch lid l ([c].filter fun c => (s.coreSet l.vf).contains c)) := by
  show execBlockDispatch (.launch lid) [c] s = _
  rw [execBlockDispatch]
  simp only [hl]
  exact congrArg _ (if_neg (by simp [plain, live, accepts, more]))

theorem dispatchLaunch_over {s : State} {lid c : Nat} {l : Launch} (hl : tget lid s.launches = some l) (over' : l.ended = true ∨ l.kernel.grid ≤ l.next) :
    exec (.blockDispatch (.launch lid) [c]) s = .next s := by
  show execBlockDispatch (.launch lid) [c] s = _
  rw [execBlockDispatch]
  simp only [hl]
  exact congrArg _ (if_pos (by rcases over' with h | h <;> simp [h]))

/-- One core of the core set is given, and the launch's block takes a context of it, or none (R51). -/
theorem dispatchLaunch_one {s : State} {lid c : Nat} {l : Launch} (single : l.kernel.qbars = 0 ∧ l.kernel.gbars = 0)
    (begun : l.begun = true ∨ (s.coordRange l.vf l.first (max 1 l.nodes.length) = false ∧ s.imagesFar l = false)) :
    s.dispatchLaunch lid l [c] = match State.placeAny (if l.begun then s else s.loadImages lid l) (l.work lid) l.next l.kernel.lanes [c] with
      | none => if l.begun then s else s.loadImages lid l
      | some u => { u with launches := tmod lid (fun x => { x with next := l.next + 1 }) u.launches } := by
  unfold State.dispatchLaunch
  rw [beginPlacing_ok begun]
  simp only [single.1, single.2]
  rfl

theorem padWords_getD (ws : List Word) (n i : Nat) : (padWords ws n).getD i 0 = if i < n then ws.getD i 0 else 0 := by
  rw [padWords, List.getD_eq_getElem?_getD, List.getElem?_map]
  split
  · next h => rw [List.getElem?_range h]; rfl
  · next h => rw [List.getElem?_eq_none (by simpa using h)]; rfl

/-- The scalar registers of a group that starts (R39). -/
theorem startSregs_spec (payload : List Word) (a b c d e : Word) :
    let r := padWords payload 56 ++ List.replicate 64 0 ++ [a, b, c, d, e]
    (∀ n, n < 56 → r.getD n 0 = payload.getD n 0) ∧ (∀ n, 56 ≤ n → n < 120 → r.getD n 0 = 0)
      ∧ r.getD 120 0 = a ∧ r.getD 121 0 = b ∧ r.getD 122 0 = c ∧ r.getD 123 0 = d ∧ r.getD 124 0 = e := by
  intro r
  have length : (padWords payload 56).length = 56 := by simp [padWords]
  have first (n : Nat) (h : n < 56) : r.getD n 0 = (padWords payload 56).getD n 0 := by
    rw [List.getD_append _ _ _ _ (by simp [length]; omega), List.getD_append _ _ _ _ (by omega)]
  have last (n : Nat) (h : 120 ≤ n) : r.getD n 0 = [a, b, c, d, e].getD (n - 120) 0 := by
    rw [List.getD_append_right _ _ _ _ (by simp [length]; omega)]
    simp [length]
  refine ⟨fun n h => ?_, fun n lo hi => ?_, last 120 le_rfl, last 121 (by omega), last 122 (by omega), last 123 (by omega), last 124 (by omega)⟩
  · rw [first n h, padWords_getD, if_pos h]
  · rw [List.getD_append _ _ _ _ (by simp [length]; omega), List.getD_append_right _ _ _ _ (by omega)]
    rw [length, List.getD_eq_getElem?_getD, List.getElem?_replicate]
    split <;> rfl

theorem startRegs_none (count : Nat) : startRegs count [] = List.replicate count (.u 0) := by
  simp [startRegs, List.map_const']

/-- The lanes below a bound. -/
theorem maskWhere_below {held n : Nat} (h : n < 96) : (maskWhere (· < held)).getLsbD n = decide (n < held) := maskWhere_lane _ h

/-- The core with the fewest is one of those compared. -/
theorem leastBy_mem {α : Type} {f : α → Nat} {l : List α} : ∀ {x : α}, leastBy f l = some x → x ∈ l := by
  induction l with
  | nil => nofun
  | cons y l ih =>
    intro x h
    rw [leastBy] at h
    split at h
    · exact Option.some.inj h ▸ .head _
    · next z least =>
      split at h
      · exact Option.some.inj h ▸ .head _
      · exact .tail _ (ih (least.trans h))

theorem loadImages_lost (s : State) (lid : Nat) (l : Launch) : SameLost s (s.loadImages lid l) :=
  useImages_lost _ _ _ fun s m => loadImage_lost s _ m

/-- Loading images leaves the cores that a VF may use. -/
theorem loaded_coreSet {s t : State} (h : Loading s t) (lost : SameLost s t) (v : Nat) : t.coreSet v = s.coreSet v := by
  obtain ⟨ms, hv⟩ := h.vfs v
  have pkg (p : Nat) : t.pkg p = s.pkg p := by rw [h.frame]; rfl
  have own : (t.vf v).coreSet = (s.vf v).coreSet := by rw [hv]
  have dev (c : Nat) : t.devOf c = s.devOf c := by rw [State.devOf, pkg]; rfl
  have device : t.vfDev v = s.vfDev v := by
    unfold State.vfDev
    rw [own]
    split
    · exact dev _
    · rfl
  have ex (c : Nat) : t.coreExists c = s.coreExists c := by
    unfold State.coreExists
    rw [pkg, lost c]
  unfold State.coreSet
  rw [own, device]
  refine List.filter_congr fun c _ => ?_
  rw [ex, dev]

/-- A task without a cairn takes the context that its core has for its next block (R203). -/
theorem dispatchTask_one {s : State} {uid c : Nat} {x : Task} (aff : x.aff = none) (cairn : s.taskCairn uid x = none) (single : x.kernel.qbars = 0 ∧ x.kernel.gbars = 0) :
    s.dispatchTask uid x c [c] = match s.placeNear (x.work uid) x.next c false [c] with
      | none => s
      | some u => { u with tasks := tset uid { x with
          next := x.next + 1
          opened := true
          place := if x.next + 1 = (if x.kind = 0 then 1 else x.kernel.grid) then .running else x.place } u.tasks } := by
  have opens (u : State) : (if x.opened then u else u.taskOpen uid x) = u := by
    split
    · rfl
    · rw [State.taskOpen, aff]; rfl
  unfold State.dispatchTask
  simp only [cairn, single.1, single.2, Option.isSome_none]
  show State.dispatchTask.place s uid x (s.placeNear (x.work uid) x.next c false [c]) (x.next + 1) = _
  unfold State.dispatchTask.place
  simp only [opens]
  rfl

/-- What a group of a node works on with the records it takes (R209). -/
def Launch.nodeWork (l : Launch) (lid i n : Nat) (nd : Node) : Work :=
  { vf := l.vf, launch := lid, task := none, node := some i, kernel := nd.kernel, payload := l.payload, blocks := l.nodes.length
    succ := nd.kernel.succ.map (nodeHandle l.slot), records := (nd.queue.take n).map fun y => y.2 }

/-- A node without a cairn handed to it takes the context of the core with the shallowest queue (R209). -/
theorem dispatchNode_one {s u : State} {lid i n c : Nat} {l : Launch} {nd : Node} (hn : l.nodes[i]? = some nd) (cairns : s.cairns = []) (shallow : s.shallowest l.vf = some c) (some' : 1 ≤ n)
    (placed : s.placeAny (l.nodeWork lid i n nd) i n [c] = some u) :
    s.dispatchNode lid l i n [c] = { u with launches := tmod lid (fun x =>
            { x with nodes := x.nodes.set i { nd with queue := nd.queue.drop n },
                     sums := { x.sums with taken := x.sums.taken + n } }) u.launches } := by
  unfold Launch.nodeWork at placed
  unfold State.dispatchNode
  simp only [hn, cairns, List.find?_nil, Option.map_none, Option.orElse_none, shallow, Option.bind_none, placed]
  refine if_neg ?_
  simp
  omega

/-- Proves O46: a launch completes once it is over; its images are loaded, and a block, a task or a node's group takes the context of a core. -/
theorem dispatchAndCompletion : Obligations.DispatchAndCompletion := by
  refine ⟨fun s lid key l w => ?_, fun s u lid c part slot uid i off idx key l x nd m a n size core need lf => ?_⟩
  · intro sums done status f bs ends far hl live fates
    have completes (i : Instr) (near : ¬ far) (run : exec i s = .next (s.complete lid false)) : ends i := by
      have h := complete_ends hl fates (Bool.eq_false_iff.2 near) key
      exact ⟨_, run, h⟩
    have stays (i : Instr) (away : far) (run : exec i s = .next (s.complete lid false)) : exec i s = .next s := run.trans (congrArg _ (complete_far hl away))
    refine ⟨fun plain over' near => completes _ near ((launchComplete_run hl live plain).1 over'), fun plain waits => ?_, fun graph some' => ?_⟩
    · by_cases over' : done
      · exact stays _ (waits.resolve_left (not_not.2 over')) ((launchComplete_run hl live plain).1 over')
      · exact (launchComplete_run hl live plain).2 over'
    · have run := wave_run hl live graph some'
      refine ⟨fun first => ?_, fun second idle same => ?_, fun second other => ?_⟩
      · rw [run, first]
      · have run' : exec (.terminationWave lid) s = .next (s.complete lid false) := by
          rw [run, second]
          exact congrArg _ (if_pos (by rw [idle, same]; exact beq_self_eq_true sums))
        exact ⟨fun near => completes _ near run', fun away => stays _ away run'⟩
      · rw [run, second]
        refine congrArg _ (if_neg fun both => other ?_)
        obtain ⟨idle, same⟩ := Bool.and_eq_true_iff.1 both
        exact ⟨idle, beq_iff_eq.1 same⟩
  · intro s0 begins
    have loading : Loading s s0 := begun_loading s lid l
    refine ⟨fun hl images coords used within inside wf => ?_, fun hl checked => ⟨(leafKey_image hl checked).1, fun y => (leafKey_image hl checked).2 y n⟩, fun hl plain => ⟨fun live more lo hi kind scratch bars qbars gbars pbars payload new begun mine accepts => ?_,
      fun over' => dispatchLaunch_over hl over', fun live more fresh accepts => ?_⟩, fun hx place aff cairn qbars gbars accepts first mine => ?_, fun hl hn live begun accepts cairns shallow => ?_⟩
    · intro t coord uses base
      have one := launchImages_one images coords used
      have loads := loadImage_one coords (coordBytes_one coords within []) wf inside
      have run : t = _ := loadImages_one one
      have uses' (y : Option Nat) (h : (s.loadImage l.vf m).2 = ⟨m.base, m.size, y⟩) : uses y := by
        simp only [uses, run, tget_tmod_self, loadImage_launches, hl, h, Option.map_some]
      have mem : t.mem = (s.loadImage l.vf m).1.mem := by rw [run]
      obtain ⟨again, first, unmapped, further⟩ := loads
      rw [mem]
      refine ⟨fun y found => ?_, fun none' there free => ?_, fun none' gone => ?_, fun some' new' length free => ?_⟩
      · exact ⟨(again y found).1, uses' y (again y found).2⟩
      · exact ⟨uses' none (first key none' there free).1, (first key none' there free).2⟩
      · exact ⟨uses' none (unmapped none' gone).1, (unmapped none' gone).2⟩
      · exact ⟨uses' _ (further some' new' length free).1, (further some' new' length free).2⟩
    · have cores : ([c].filter fun c => (s.coreSet l.vf).contains c) = [c] := List.filter_cons_of_pos (by simpa using mine)
      have run := dispatchLaunch_run (c := c) hl plain live more accepts
      rw [cores, dispatchLaunch_one ⟨qbars, gbars⟩ begun] at run
      have context := freeContext_unreserved loading.groups c (grant l.kernel.budget l.kernel.count)
      have now : s0.now = s.now := by rw [loading.frame]
      obtain ⟨ms, hv⟩ := loading.vfs l.vf
      refine ⟨fun free => ?_, fun full => ?_⟩
      · obtain ⟨t, placed, frame, groups, launches⟩ := placeBlock_one (r := s0) (w := l.work lid) (index := l.next) lo hi scratch kind (context.trans free)
        have any : s0.placeAny (l.work lid) l.next l.kernel.lanes [c] = some t := (placeAny_one lo hi).trans ((if_neg (capacity_of_free free)).trans placed)
        have run' : exec (.blockDispatch (.launch lid) [c]) s = .next { t with launches := tmod lid (fun x => { x with next := l.next + 1 }) t.launches } := by
          rw [run, show State.placeAny (if l.begun then s else s.loadImages lid l) (l.work lid) l.next l.kernel.lanes [c] = some t from any]
        obtain ⟨low, zero, index, gidx, blocks, coordinate, held⟩ := startSregs_spec l.payload (BitVec.ofNat 32 l.next) 0 (BitVec.ofNat 32 l.kernel.grid) (BitVec.ofNat 32 (coordOf c)) (BitVec.ofNat 32 l.kernel.lanes)
        refine ⟨_, (l.work lid).group s0 c part slot s0.nextId l.next 0 l.kernel.lanes, run', ?_, fun j other => ?_, ?_, ?_, ?_, ?_, rfl, rfl, rfl, rfl, rfl, rfl, rfl, rfl, ?_, rfl, rfl, rfl, rfl, rfl, rfl, ?_,
          ⟨maskWhere (· < l.kernel.lanes), ?_, rfl, fun n hn => maskWhere_below hn⟩, startRegs_none _, low, zero, index, gidx, blocks, coordinate, held⟩
        · show tget _ t.groups = _
          rw [groups, tget_tset_self]
        · show tget j t.groups = _
          rw [groups, tget_tset_ne other]
          rfl
        · show t.mem = _
          rw [frame]
        · show t.scratch = _
          rw [frame, loading.frame]
        · show t.vfs = _
          rw [frame]
        · simp only [launches, show (l.work lid).launch = lid from rfl, tget_tmod_self, Option.map_map]
          rfl
        · exact if_neg (by show ¬ l.kernel.kind = 1; rw [kind]; decide)
        · show (s0.vf l.vf).debug = _
          rw [hv]
        · show [(0, _)] = _
          rw [← now]
          rfl
      · have any : s0.placeAny (l.work lid) l.next l.kernel.lanes [c] = none := by
          rw [placeAny_one lo hi]
          split
          · rfl
          · exact placeBlock_full lo scratch (context.trans full)
        rw [run, show State.placeAny (if l.begun then s else s.loadImages lid l) (l.work lid) l.next l.kernel.lanes [c] = none from any]
    · have run := dispatchLaunch_run (c := c) hl plain live more accepts
      refine ⟨fun range far => ?_, fun range near => ?_, fun range far => ?_⟩
      · rw [run, dispatchLaunch_error _ (beginPlacing_range fresh range)]
        exact congrArg _ (if_pos far)
      · refine ⟨_, run.trans (congrArg _ ((dispatchLaunch_error _ (beginPlacing_range fresh range)).trans (if_neg (by rw [near]; nofun)))), ?_⟩
        obtain ⟨ends, -⟩ := endLaunch_spec (s.writeRecord l.vf l.done stCOORDRANGE 0 0 0) lid l
        have storing := writeRecord_storing s l.vf l.done stCOORDRANGE 0 0 0
        have groups : ((s.writeRecord l.vf l.done stCOORDRANGE 0 0 0).endLaunch lid l).groups = (s.writeRecord l.vf l.done stCOORDRANGE 0 0 0).groups := by rw [ends]
        refine ⟨by rw [ends, tget_tset_self], ?_, ?_, fun j => ?_⟩
        · rw [ends, storing]
        · rw [ends, storing]
        · rw [State.group?, groups]
          exact (group_isSome_unreserved _ j).trans (by rw [writeRecord_unreserved, ← group_isSome_unreserved])
      · rw [run, dispatchLaunch_error _ (beginPlacing_far fresh range far)]
    · have run : exec (.blockDispatch (.task uid) [c]) s = .next (s.dispatchTask uid x c [c]) := by
        have cores : ([c].filter fun c => (s.coreSet x.vf).contains c) = [c] := List.filter_cons_of_pos (by simpa using mine)
        show execBlockDispatch (.task uid) [c] s = _
        rw [execBlockDispatch]
        simp only [hx, place, cores]
        exact congrArg _ (if_pos (by simp [accepts, first]))
      rw [run, dispatchTask_one aff cairn ⟨qbars, gbars⟩, place]
      exact ⟨fun placed => by rw [placed], fun none' => by rw [none']⟩
    · refine ⟨fun some' enough placed => ?_, fun few => ?_⟩
      · have lost : SameLost s s0 := by
          simp only [s0]
          split
          · exact fun _ => rfl
          · exact loadImages_lost s lid l
        have mine : c ∈ s.coreSet l.vf := loaded_coreSet loading lost l.vf ▸ leastBy_mem shallow
        have cores : ([c].filter fun c => (s.coreSet l.vf).contains c) = [c] := List.filter_cons_of_pos (by simpa using mine)
        have run : exec (.blockDispatch (.node lid i) [c]) s = .next (s0.dispatchNode lid l i nd.kernel.coalesce [c]) := by
          show execBlockDispatch (.node lid i) [c] s = _
          rw [execBlockDispatch]
          simp only [hl, hn, cores, beginPlacing_ok begun]
          exact congrArg _ (if_neg (by simp [live, accepts]; omega))
        have none' : s0.cairns = [] := by rw [loading.frame]; exact cairns
        refine ⟨_, run.trans (congrArg _ (dispatchNode_one hn none' shallow some' placed)), rfl, fun m hm => ?_⟩
        simp only [tget_tmod_self, hm, Option.map_some]
      · show execBlockDispatch (.node lid i) [c] s = _
        rw [execBlockDispatch]
        simp only [hl, hn]
        exact congrArg _ (if_pos (by simp [few]))

end Sys2Proof.Machine
end

section
/-! SUPPORT. Ports, windows and packets (R254-R258): what losing a port and sending leave. -/

namespace Sys2Proof.Machine

/-! ### Sending -/

theorem Sending.refl (s : State) : Sending s s := rfl

theorem Sending.foldl {α : Type} {f : State → α → State} (h : ∀ s x, Sending s (f s x)) (l : List α) : ∀ s, Sending s (l.foldl f s) := by
  induction l with
  | nil => exact fun s => rfl
  | cons x l ih => exact fun s => (h s x).trans (ih _)

theorem replayWin_sending (n id : Nat) : ∀ s : State, Sending s (s.replayWin id n) := by
  induction n with
  | zero => exact fun s => rfl
  | succ n ih =>
    intro s
    unfold State.replayWin
    split
    · rfl
    · split
      · split
        · rfl
        · refine Sending.trans ?_ (ih _)
          rfl
      · rfl

theorem pumpAll_sending (s : State) (pkg : Nat) : Sending s (s.pumpAll pkg) := by
  refine Sending.foldl (fun s w => ?_) _ s
  split
  · exact (replayWin_sending ..).trans (pump_sending ..)
  · rfl

theorem pumpEvery_sending (s : State) : Sending s s.pumpEvery := Sending.foldl pumpAll_sending _ s

theorem replay_sending (s : State) (id : Nat) : Sending s (s.replay id) := by
  unfold State.replay
  split
  · rfl
  · split
    · rfl
    · refine Sending.trans ?_ (replayWin_sending ..)
      rfl

theorem replayPort_sending (s : State) (pkg port : Nat) (dst : Option Nat) : Sending s (s.replayPort pkg port dst) :=
  (Sending.foldl (fun s (w : Nat × Win) => replay_sending s w.1) _ s).trans (pumpAll_sending ..)

theorem sendLoose_sending (s : State) (from' to' : Nat) (t : Triple) (b : Body) : Sending s (s.sendLoose from' to' t b) := by
  unfold State.sendLoose
  split <;> rfl

theorem ackWin_sending (s : State) (id : Nat) : Sending s (s.ackWin id) := by
  unfold State.ackWin
  split
  · rfl
  · exact sendLoose_sending ..

theorem resendReply_sending (s : State) (t : Triple) (b : Body) : Sending s (s.resendReply t b) := by
  unfold State.resendReply
  split
  · split
    · split
      · split <;> rfl
      · rfl
    · rfl
  · rfl

theorem Sending.pkg {s t : State} (h : Sending s t) (p : Nat) : t.pkg p = s.pkg p := by
  rw [show t = _ from h]
  rfl

theorem Sending.group {s t : State} (h : Sending s t) (j : Nat) : t.group? j = s.group? j := by
  rw [show t = _ from h]
  rfl

/-! ### Ports -/

/-- The port of a package is out of service (R254). -/
def State.portLost (s : State) (e : Nat × Nat) : Bool := (tgetD e.2 {} (s.pkg e.1).ports).lost

theorem Sending.portLost {s t : State} (h : Sending s t) (e : Nat × Nat) : t.portLost e = s.portLost e := by rw [State.portLost, h.pkg, State.portLost]

/-- `t` is `s` but for the records of packages and the packets on the way. -/
def Porting (s t : State) : Prop := t = { s with pkgs := t.pkgs, flights := t.flights }

theorem Porting.trans {s t u : State} (h : Porting s t) (k : Porting t u) : Porting s u := by
  unfold Porting at *
  rw [h] at k
  exact k

theorem Porting.foldl {α : Type} {f : State → α → State} (h : ∀ s x, Porting s (f s x)) (l : List α) : ∀ s, Porting s (l.foldl f s) := by
  induction l with
  | nil => exact fun s => rfl
  | cons x l ih => exact fun s => (h s x).trans (ih _)

theorem noteCuts_pkg (s old : State) (p j : Nat) : ∃ c, (s.noteCuts old p).pkg j = { s.pkg j with cut := c } := by
  unfold State.noteCuts
  by_cases h : j = p
  · rw [h, State.pkg_setPkg_self]
    exact ⟨_, rfl⟩
  · rw [State.pkg_setPkg_ne _ h]
    exact ⟨_, rfl⟩

theorem noteCuts_portLost (s old : State) (p : Nat) (e : Nat × Nat) : (s.noteCuts old p).portLost e = s.portLost e := by
  obtain ⟨c, h⟩ := noteCuts_pkg s old p e.1
  rw [State.portLost, h, State.portLost]

/-- A port's record replaced: the others' stay. -/
theorem setPort_portLost (s : State) (p n : Nat) (y : Port) (e : Nat × Nat) :
    (s.setPkg p { s.pkg p with ports := tset n y (s.pkg p).ports }).portLost e = if e = (p, n) then y.lost else s.portLost e := by
  obtain ⟨q, m⟩ := e
  unfold State.portLost
  by_cases h : q = p
  · subst h
    rw [State.pkg_setPkg_self]
    by_cases k : m = n
    · rw [k, tgetD_tset_self, if_pos rfl]
    · rw [tgetD_tset_ne k, if_neg fun both => k (Prod.mk.inj both).2]
  · rw [State.pkg_setPkg_ne _ h, if_neg fun both => h (Prod.mk.inj both).1]

theorem losePort_portLost (s : State) (p n : Nat) (e : Nat × Nat) : (s.losePort p n).portLost e = if e = (p, n) then true else s.portLost e :=
  (noteCuts_portLost ..).trans (setPort_portLost ..)

theorem losePort_porting (s : State) (p n : Nat) : Porting s (s.losePort p n) := rfl

theorem returnPort_portLost (s : State) (p n : Nat) (e : Nat × Nat) : (s.returnPort p n).portLost e = if e = (p, n) then false else s.portLost e :=
  (noteCuts_portLost ..).trans (setPort_portLost ..)

theorem returnPort_porting (s : State) (p n : Nat) : Porting s (s.returnPort p n) := rfl

theorem failRoutes_portLost (s : State) (p n : Nat) (dst : Option Nat) (e : Nat × Nat) : (s.failRoutes p n dst).portLost e = s.portLost e := by
  refine (noteCuts_portLost ..).trans ?_
  unfold State.portLost
  by_cases h : e.1 = p
  · rw [h, State.pkg_setPkg_self]
  · rw [State.pkg_setPkg_ne _ h]

theorem failRoutes_porting (s : State) (p n : Nat) (dst : Option Nat) : Porting s (s.failRoutes p n dst) := rfl

/-- A step that sets one port's record after the other: those of the list hold the value, whatever was there. -/
theorem foldl_portLost {f : State → Nat × Nat → State} {v : Bool} (h : ∀ s x e, (f s x).portLost e = if e = x then v else s.portLost e) (l : List (Nat × Nat)) :
    ∀ s e, e ∈ l ∨ s.portLost e = v → (l.foldl f s).portLost e = v := by
  induction l with
  | nil => exact fun s e he => he.resolve_left List.not_mem_nil
  | cons x l ih =>
    intro s e he
    refine ih _ e ?_
    by_cases here : e = x
    · exact .inr ((h s x e).trans (if_pos here))
    · exact (he.imp_left fun hm => (List.mem_cons.1 hm).resolve_left here).imp_right fun k => (h s x e).trans ((if_neg here).trans k)

theorem mem_linkEnds {s : State} {p n : Nat} {e : Nat × Nat} (h : e = (p, n) ∨ (tgetD n {} (s.pkg p).ports).peer = some e) : e ∈ s.linkEnds p n := by
  rcases h with rfl | h
  · exact .head _
  · exact .tail _ (by rw [h]; exact .head _)

theorem loseLink_portLost {s : State} {p n : Nat} {e : Nat × Nat} (h : e ∈ s.linkEnds p n) : (s.loseLink p n).portLost e = true := by
  have replays (l : List (Nat × Nat)) (s : State) : Sending s (l.foldl (fun s e => s.replayPort e.1 e.2 none) s) := Sending.foldl (fun s e => replayPort_sending ..) l s
  unfold State.loseLink
  simp only
  rw [(replays _ _).portLost]
  exact foldl_portLost (fun s x e => (failRoutes_portLost ..).trans (losePort_portLost ..)) _ _ _ (.inl h)

/-- A link comes back: both its ends are in service, and nothing else but windows and packets changes. -/
theorem linkReturn_run (s : State) (p n : Nat) : ∃ t, exec (.linkReturn p n) s = .next t ∧ (∀ e ∈ s.linkEnds p n, t.portLost e = false) ∧ t.groups = s.groups ∧ t.mem = s.mem := by
  obtain ⟨u, hu⟩ : ∃ u : State, (s.linkEnds p n).foldl (fun s e => s.returnPort e.1 e.2) s = u := ⟨_, rfl⟩
  have ports : Porting s u := hu ▸ Porting.foldl (fun s e => returnPort_porting ..) _ _
  have sends : Sending u ((s.linkEnds p n).foldl (fun s e => s.pumpAll e.1) u) := Sending.foldl (fun s e => pumpAll_sending ..) _ _
  have run : exec (.linkReturn p n) s = .next ((s.linkEnds p n).foldl (fun s e => s.pumpAll e.1) u) := by
    rw [← hu]
    rfl
  refine ⟨_, run, fun e he => ?_, ?_, ?_⟩
  · rw [sends.portLost, ← hu]
    exact foldl_portLost (fun s x e => returnPort_portLost ..) _ _ _ (.inl he)
  · rw [show _ = _ from sends, show u = _ from ports]
  · rw [show _ = _ from sends, show u = _ from ports]

end Sys2Proof.Machine
end

section
/-! SUPPORT. A packet's arrival, and what a reply completes (R252, R256, R257). -/

namespace Sys2Proof.Machine

/-! ### Arrival -/

theorem settleLate_none {s : State} (h : ∀ y ∈ s.barriers, y.2.late = []) : s.settleLate = s := by
  have all (l : List (BarKey × Barrier)) (late : ∀ y ∈ l, y.2.late = []) :
      l.foldl (fun (s : State) x => (x.2.late.filter fun d => s.podReady d.2 d.1).foldl (fun s d => (s.notLate x.1 d).barStep x.1 d.1 d.2 true) s) s = s := by
    induction l with
    | nil => rfl
    | cons y l ih =>
      rw [List.foldl_cons, late y (.head _), List.filter_nil, List.foldl_nil]
      exact ih fun z hz => late z (.tail _ hz)
  exact all _ h

/-- A packet of a triple, other than an acknowledgement or a reset, arrives at a package that takes it, whose window holds nothing early. -/
structure Arrives (s : State) (fid : Nat) (f : Flight) (wid : Nat) (w : Win) : Prop where
  flight : tget fid s.flights = some f
  win : s.winOf f.triple = some (wid, w)
  takes : (s.pkg f.triple.dstPkg).takes = true
  active : (s.pkg f.triple.dstPkg).power = .active
  live : w.closed = false
  early : w.early = []
  packet : (∀ h, f.body ≠ .ack h) ∧ ∀ p v, f.body ≠ .ctl p v

/-- What such a packet does: by its distance from the last number delivered (R256). -/
theorem arrival_run {s : State} {fid wid : Nat} {f : Flight} {w : Win} (h : Arrives s fid f wid w) :
    exec (.packetArrival fid) s = .next (if (f.seq + 65536 - w.h) % 65536 = 0 ∨ 1024 < (f.seq + 65536 - w.h) % 65536
      then (State.resendReply { s with flights := tdel fid s.flights } f.triple f.body).ackWin wid
      else (State.deliverNext { s with flights := tdel fid s.flights, wins := tset wid { w with early := [(f.seq, f.body)] } s.wins } wid 1).ackWin wid) := by
  obtain ⟨flight, win, takes, active, live, early, ⟨noAck, noCtl⟩⟩ := h
  have exit : State.startExit { s with flights := tdel fid s.flights } f.triple.dstPkg = { s with flights := tdel fid s.flights } := startExit_active active
  have win' : State.winOf { s with flights := tdel fid s.flights } f.triple = some (wid, w) := win
  have takes' : (State.pkg { s with flights := tdel fid s.flights } f.triple.dstPkg).takes = true := takes
  show execPacketArrival fid s = _
  rw [execPacketArrival, flight]
  simp only
  refine congrArg _ ?_
  rw [if_neg (by rw [takes']; nofun), win']
  simp only [exit, live, early, Bool.false_eq_true, if_false, List.any_nil, List.nil_append, List.length_nil, Nat.zero_add]

/-- A packet in order is delivered, and acknowledged. -/
theorem arrival_inOrder {s : State} {fid wid : Nat} {f : Flight} {w : Win} (h : Arrives s fid f wid w) (bound : w.h < 65536) (next : f.seq = (w.h + 1) % 65536) :
    ∃ r t, Sending s r ∧ Sending (r.deliver f.triple f.body) t ∧ exec (.packetArrival fid) s = .next t := by
  have one : (f.seq + 65536 - w.h) % 65536 = 1 := by omega
  have triple : w.triple = f.triple := beq_iff_eq.1 (List.find?_some (p := fun x : Nat × Win => x.2.triple == f.triple) h.win)
  obtain ⟨r, sends, delivers⟩ : ∃ r, Sending s r
      ∧ State.deliverNext { s with flights := tdel fid s.flights, wins := tset wid { w with early := [(f.seq, f.body)] } s.wins } wid 1 = r.deliver f.triple f.body := by
    refine ⟨{ s with flights := tdel fid s.flights, wins := tset wid { w with h := f.seq, early := [] } (tset wid { w with early := [(f.seq, f.body)] } s.wins) }, rfl, ?_⟩
    rw [State.deliverNext]
    simp [tget_tset_self, ← next, triple, State.deliverNext]
  refine ⟨r, _, sends, ?_, (arrival_run h).trans (congrArg _ (if_neg (by rw [one]; decide)))⟩
  rw [delivers]
  exact ackWin_sending ..

/-- One that was delivered before is only answered again. -/
theorem arrival_seen {s : State} {fid wid : Nat} {f : Flight} {w : Win} (h : Arrives s fid f wid w)
    (seen : (f.seq + 65536 - w.h) % 65536 = 0 ∨ 1024 < (f.seq + 65536 - w.h) % 65536) : ∃ t, exec (.packetArrival fid) s = .next t ∧ Sending s t := by
  refine ⟨_, (arrival_run h).trans (congrArg _ (if_pos seen)), ?_⟩
  have frees : Sending s { s with flights := tdel fid s.flights } := rfl
  exact (frees.trans (resendReply_sending ..)).trans (ackWin_sending ..)

/-- A request not yet applied is applied, and its reply kept and sent. -/
theorem deliver_request {s : State} {id : Nat} {r : ROp} {rl : RLane} (t : Triple) (hr : tget id s.rops = some r) (fresh : r.applied = false)
    (late : ∀ y ∈ (s.applyOp id r).1.barriers, y.2.late = []) :
    Sending { (s.applyOp id r).1 with rops := tmod id (fun x => { x with applied := true, reply := (s.applyOp id r).2 }) (s.applyOp id r).1.rops } (s.deliver t (.req id rl)) := by
  have still := settleLate_none (s := { (s.applyOp id r).1 with rops := tmod id (fun x => { x with applied := true, reply := (s.applyOp id r).2 }) (s.applyOp id r).1.rops }) late
  unfold State.deliver
  simp only [hr, fresh, Bool.false_eq_true, if_false]
  rw [still]
  split
  · rfl
  · exact send_sending ..

theorem readOnce_fresh (s : State) (n : Nat) : ∀ key, bytesVal ((s.readOnce key [] n).map fun b => b.2) = s.mem.read key n := by
  induction n with
  | zero => exact fun key => rfl
  | succ n ih =>
    intro key
    rw [State.readOnce, Mem.read, ← ih]
    rfl

/-- A remote read takes its bytes from memory; only the record of what its instruction has read changes. -/
theorem applyOp_read {s : State} {id : Nat} {r : ROp} (kind : r.lane.kind = 0) (good : s.badAt r.lane.pa r.lane.size = false)
    (first : ∀ y, s.group? r.gid = some y → ∀ z ∈ y.rinstr, z.waiting.contains id = true → z.seen = []) :
    ∃ z : Group → List RInstr, s.applyOp id r = (s.modGroup r.gid fun y => { y with rinstr := z y }, s.mem.read r.lane.pa r.lane.size) := by
  have seen : (((s.group? r.gid).bind fun g => g.rinstr.find? fun x => x.waiting.contains id).map RInstr.seen).getD [] = [] := by
    cases hg : s.group? r.gid with
    | none => rfl
    | some g =>
      rw [Option.bind_some]
      cases hf : g.rinstr.find? fun x => x.waiting.contains id with
      | none => rfl
      | some x => exact first g hg x (List.mem_of_find?_eq_some hf) (List.find?_some (p := fun x : RInstr => x.waiting.contains id) hf)
  refine ⟨fun y => y.rinstr.map fun x => if x.waiting.contains id then { x with seen := s.readOnce r.lane.pa [] r.lane.size ++ x.seen } else x, ?_⟩
  unfold State.applyOp
  simp only [good, kind, Bool.false_eq_true, and_false, if_false]
  unfold State.remoteRead
  simp only [seen, readOnce_fresh]

/-- A remote write stores its bytes. -/
theorem applyOp_write {s : State} {id : Nat} {r : ROp} (kind : r.lane.kind = 1) (wf : s.mem.wf = true) (free : s.unclaimed false r.lane.pa r.lane.size) :
    (s.applyOp id r).2 = 0 ∧ (s.applyOp id r).1.barriers = s.barriers ∧ (s.applyOp id r).1.rops = s.rops
      ∧ (∀ j, j < r.lane.size → (s.applyOp id r).1.mem.get (r.lane.pa + j) = BitVec.ofNat 8 (r.lane.d / 256 ^ j))
      ∧ ∀ a, apart a 1 r.lane.pa r.lane.size → (s.applyOp id r).1.mem.get a = s.mem.get a := by
  have run : s.applyOp id r = (s.remoteWrite r r.lane.d, 0) := by
    unfold State.applyOp
    simp only [kind, ne_eq, not_true_eq_false, false_and, if_false]
  have stores := storeMem_storing s r.lane.pa (leBytes r.lane.size r.lane.d)
  have kept : (s.remoteWrite r r.lane.d).barriers = s.barriers ∧ (s.remoteWrite r r.lane.d).rops = s.rops
      ∧ (s.remoteWrite r r.lane.d).mem = (s.storeMem r.lane.pa (leBytes r.lane.size r.lane.d)).mem := by
    unfold State.remoteWrite
    rw [show s.storeMem r.lane.pa (leBytes r.lane.size r.lane.d) = _ from stores]
    split <;> exact ⟨rfl, rfl, rfl⟩
  obtain ⟨barriers, rops, mem⟩ := kept
  have length : (leBytes r.lane.size r.lane.d).length = r.lane.size := leBytes_length ..
  rw [storeMem_mem (by rw [length]; exact free)] at mem
  rw [run]
  refine ⟨rfl, barriers, rops, fun j hj => ?_, fun a away => ?_⟩
  · show (s.remoteWrite r r.lane.d).mem.get _ = _
    rw [mem, Mem.get_putAll _ wf, if_pos (by omega), Nat.add_sub_cancel_left]
    exact leBytes_getD _ _ _ hj
  · unfold apart at away
    show (s.remoteWrite r r.lane.d).mem.get _ = _
    rw [mem, Mem.get_putAll _ wf, if_neg (by omega)]

/-! ### Replies -/

theorem eraseDups_same {α : Type} [BEq α] [LawfulBEq α] {x : α} {l : List α} (h : ∀ y ∈ l, y = x) : (x :: l).eraseDups = [x] := by
  have none : l.filter (fun b => !b == x) = [] := List.filter_eq_nil_iff.2 fun y hy => by simp [h y hy]
  rw [List.eraseDups_cons, none]
  rfl

/-- No group of a block fuses while one of its groups is not at its REGRP. -/
theorem settleRegrp_apart {s : State} {gid : Nat} {g : Group} (hg : s.group? gid = some g) (life : g.life ≠ .retired) (away : g.atRegrp = false) :
    s.settleRegrp g.block g.core = s := by
  unfold State.settleRegrp
  split
  · rfl
  · next b hb =>
    refine if_neg fun both => ?_
    obtain ⟨-, all⟩ := Bool.and_eq_true_iff.1 both
    have listed : (gid, g) ∈ sortBy (fun p : Nat × Group => p.2.gidx) (s.groups.filter fun p => p.2.block == some b && p.2.core == g.core && p.2.life != .retired) :=
      (mem_sortBy _ _ _).2 (List.mem_filter.2 ⟨mem_of_tget hg, by simp [hb, life]⟩)
    have here := List.all_eq_true.1 all _ listed
    rw [away] at here
    cases here

theorem complete_atRegrp {g : Group} {k : Nat} {sp : Split} (hs : tget k g.splits = some sp) (own pc : Word) (now : Nat) : (g.complete k own pc now).atRegrp = false := by
  have listed := mem_of_tget ((tget_tmod_self k (fun sp : Split => { sp.rest pc with since := now, due := if g.stepped k then some (sp.stamp, own) else none }) g.splits).trans (congrArg _ hs))
  unfold Group.atRegrp
  rw [Bool.and_eq_false_iff]
  refine .inr (Bool.eq_false_iff.2 fun all => ?_)
  cases List.all_eq_true.1 all _ listed

/-- The instruction of a split whose one operation is answered with `v` for a scalar register: its group after it. -/
def Group.answered (g : Group) (k sd : Nat) (v : Nat) (sp : Split) (now : Nat) : Group :=
  Group.complete { g with rinstr := [], sregs := g.sregs.set sd (BitVec.ofNat 32 v) } k sp.pc sp.cont now

theorem remoteDone_scalar {s t : State} {gid lane v sd : Nat} {g : Group} {r : RInstr} {sp : Split} (only : OnlyGroup s t gid g) (mine : ∀ x ∈ g.rinstr, x.split = r.split)
    (values : r.values = [(lane, v)]) (dest : r.dest = .scal sd false) (hsd : sd < 125) (hs : tget r.split g.splits = some sp) (unstepped : g.stepped r.split = false) (due : g.noStep) :
    OnlyGroup s (t.remoteDone gid r) gid (g.answered r.split sd v sp s.now) := by
  have none : g.rinstr.filter (fun x => x.split != r.split) = [] := List.filter_eq_nil_iff.2 fun x hx => by simp [mine x hx]
  have written := only.setGroup { g with rinstr := [], sregs := g.sregs.set sd (BitVec.ofNat 32 v) }
  have done := finish_only written hs unstepped due sp.cont (t.setGroup gid { g with rinstr := [], sregs := g.sregs.set sd (BitVec.ofNat 32 v) }).now
  rw [written.now] at done
  unfold State.remoteDone
  simp only [only.group, Option.bind_some, hs, Option.map_some, values, List.head?_cons, Option.getD_some, dest, none, Bool.false_eq_true, if_false, Group.setS, if_pos hsd]
  unfold State.finish
  rw [written.now]
  exact done

theorem remoteProgress_answer {s t : State} {gid lane v : Nat} {g : Group} {ri : RInstr} {sp : Split} {sd : Nat} (only : OnlyGroup s t gid { g with rinstr := [{ ri with values := [(lane, v)] }] })
    (over' : ∀ i ∈ ri.waiting, tget i s.rops = none) (unsent : ri.unsent = []) (found : ri.lost = false) (dest : ri.dest = .scal sd false) (hsd : sd < 125)
    (hs : tget ri.split g.splits = some sp) (unstepped : g.stepped ri.split = false) (due : g.noStep) :
    OnlyGroup s (t.remoteProgress gid) gid (g.answered ri.split sd v sp s.now) := by
  have rops : t.rops = s.rops := by rw [only.rest]
  have waits : ri.waiting.filter (fun i => (tget i t.rops).isSome) = [] := List.filter_eq_nil_iff.2 fun i hi => by rw [rops, over' i hi]; nofun
  have marked := only.modGroup fun g => { g with rinstr := g.rinstr.map fun x => if x.split = ri.split then { ri with unsent := [], waiting := [], values := [(lane, v)] } else x }
  have done := remoteDone_scalar (r := { ri with unsent := [], waiting := [], values := [(lane, v)] }) marked (by simp) rfl dest hsd hs unstepped due
  have run : t.remoteProgress gid = (t.modGroup gid fun g => { g with rinstr := g.rinstr.map fun x => if x.split = ri.split then { ri with unsent := [], waiting := [], values := [(lane, v)] } else x }).remoteDone gid
      { ri with unsent := [], waiting := [], values := [(lane, v)] } := by
    unfold State.remoteProgress
    rw [only.group]
    simp only [List.foldl_cons, List.foldl_nil, unsent, State.sendLanes, waits, found]
    rfl
  rw [run]
  exact done

/-- The reply of the one operation of a remote scalar load: its group goes on behind it, and tasks that are over retire. -/
theorem acknowledge_load {s : State} {id gid v sd : Nat} {r : ROp} {g : Group} {ri : RInstr} {sp : Split} (late : ∀ y ∈ s.barriers, y.2.late = []) (hr : tget id s.rops = some r) (own : r.gid = gid)
    (hg : s.group? gid = some g) (one : g.rinstr = [ri]) (waits : ri.waiting = [id]) (unsent : ri.unsent = []) (values : ri.values = []) (found : ri.lost = false) (life : g.life = .resident)
    (others : ∀ y ∈ s.groups, y.1 = gid ∨ y.2.rinstr = []) (due : g.noStep) (dest : ri.dest = .scal sd false) (hsd : sd < 125) (hs : tget ri.split g.splits = some sp) (unstepped : g.stepped ri.split = false) :
    ∃ u, OnlyGroup { s with rops := tdel id s.rops } u gid (g.answered ri.split sd v sp s.now) ∧ Tasking u (s.acknowledge id v) := by
  subst own
  obtain ⟨s1, h1⟩ : ∃ s1 : State, { s with rops := tdel id s.rops } = s1 := ⟨_, rfl⟩
  have group1 : s1.group? r.gid = some g := by rw [← h1]; exact hg
  have gone : ∀ i ∈ ri.waiting, tget i s1.rops = none := fun i hi => by
    rw [waits, List.mem_singleton] at hi
    rw [hi, ← h1]
    exact (tget_tdel ..).trans (if_pos rfl)
  have only := (OnlyGroup.refl group1).modGroup fun g => { g with rinstr := g.rinstr.map fun x => if x.waiting.contains id then { x with values := tset r.lane.lane v x.values } else x }
  obtain ⟨s2, h2⟩ : ∃ s2 : State, (s1.modGroup r.gid fun g => { g with rinstr := g.rinstr.map fun x => if x.waiting.contains id then { x with values := tset r.lane.lane v x.values } else x }) = s2 := ⟨_, rfl⟩
  have answer : g.rinstr.map (fun x => if x.waiting.contains id then { x with values := tset r.lane.lane v x.values } else x) = [{ ri with values := [(r.lane.lane, v)] }] := by
    rw [one, List.map_cons, List.map_nil, if_pos (by simp [waits]), values]
    rfl
  rw [h2] at only
  simp only [answer] at only
  have progress := remoteProgress_answer only gone unsent found dest hsd hs unstepped due
  have waiting : ∀ y ∈ (s2.groups.filter fun g => g.2.rinstr.any fun r => r.waiting.any fun i => (tget i s2.rops).isNone).map (fun g => g.1), y = r.gid := by
    intro y hy
    obtain ⟨p, hp, rfl⟩ := List.mem_map.1 hy
    obtain ⟨hp, some'⟩ := List.mem_filter.1 hp
    rw [← h2] at hp
    obtain ⟨q, hq, rfl⟩ := List.mem_map.1 hp
    rw [← h1] at hq
    by_contra away
    split at some'
    · next here => exact away (by simp [here])
    · next there =>
      rw [(others q hq).resolve_left there] at some'
      cases some'
  have grouped : s.acknowledge id v = ((s2.remoteProgress r.gid).settleTasks).settleLate := by
    unfold State.acknowledge
    simp only [hr, h1, h2]
    unfold State.opsOver
    simp only [List.singleton_append, eraseDups_same waiting, List.foldl_cons, List.foldl_nil, progress.group]
    rw [settleRegrp_apart progress.group (by show g.life ≠ _; rw [life]; decide) (complete_atRegrp hs _ _ _)]
  obtain ⟨tasking, p, trims⟩ := settleTasks_tasking (s2.remoteProgress r.gid)
  have late' : ∀ y ∈ (s2.remoteProgress r.gid).settleTasks.barriers, y.2.late = [] := by
    intro y hy
    rw [show _ = _ from trims] at hy
    have hy := (List.mem_filter.1 hy).1
    rw [progress.rest, ← h1] at hy
    exact late y hy
  refine ⟨_, ?_, grouped ▸ (settleLate_none late').symm ▸ tasking⟩
  rw [h1]
  have now : s1.now = s.now := by rw [← h1]
  rw [← now]
  exact progress

end Sys2Proof.Machine
end

section
/-! OBLIGATIONS. Packets and links (R252, R254, R256-R260). -/

namespace Sys2Proof.Machine

/-- What a link retry that succeeds leaves (R254). -/
theorem flitGood_run {s : State} {pkg port n : Nat} (live : s.portLost (pkg, port) = false) :
    exec (.flitCheckFail pkg port (.goodAt n)) s = .next (
      let p := tgetD port {} (s.pkg pkg).ports
      let recent := p.degradeAt.filter fun t => decide (ticksOf s.now < t + Config.degradeTicks)
      let put (y : Port) : State := s.setPkg pkg { s.pkg pkg with ports := tset port y (s.pkg pkg).ports }
      if n ≤ 1 then put { p with transient := p.transient + 1 }
      else if 16 ≤ (recent ++ [ticksOf s.now]).length then (put { p with degraded := p.degraded + 1, degradeAt := recent ++ [ticksOf s.now] }).loseLink pkg port
      else put { p with degraded := p.degraded + 1, degradeAt := recent ++ [ticksOf s.now] }) :=
  congrArg _ (if_neg (by rw [show (tgetD port {} (s.pkg pkg).ports).lost = false from live]; nofun))

/-- Proves O48: a packet in order is applied once, with its reply kept; a reply completes the instruction that waits; links count their errors. -/
theorem packetsAndLinks : Obligations.PacketsAndLinks := by
  intro s pkg port fid wid id gid n f w rl r g ri sp sd v x p put tick recent here
  refine ⟨fun live once => ?_, fun live more few => ?_, ?_, fun live more many => ?_, ?_, fun arrives body hr fresh bound next => ⟨fun kind good first => ?_, fun kind wf free => ?_⟩,
    fun arrives body seen => ?_, fun arrives body hr own hg one waits unsent values found life others due dest hsd hs unstepped bound next => ?_⟩
  · exact (flitGood_run live).trans (congrArg _ (if_pos once))
  · have short : ¬ 16 ≤ (recent ++ [tick]).length := by
      rw [List.length_append, List.length_singleton]
      omega
    exact (flitGood_run live).trans (congrArg _ ((if_neg (by omega)).trans (if_neg short)))
  · exact ⟨_, rfl, loseLink_portLost (e := (pkg, port)) (mem_linkEnds (.inl rfl)), fun e peer => loseLink_portLost (mem_linkEnds (.inr peer))⟩
  · have long : 16 ≤ (recent ++ [tick]).length := by
      rw [List.length_append, List.length_singleton]
      omega
    exact ⟨_, (flitGood_run live).trans (congrArg _ ((if_neg (by omega)).trans (if_pos long))), loseLink_portLost (e := (pkg, port)) (mem_linkEnds (.inl rfl))⟩
  · obtain ⟨t, run, back, groups, mem⟩ := linkReturn_run s pkg port
    exact ⟨t, run, back (pkg, port) (mem_linkEnds (.inl rfl)), groups, mem, fun e peer => back e (mem_linkEnds (.inr peer))⟩
  · obtain ⟨flight, win, takes, active, open', early, late⟩ := arrives
    obtain ⟨u, t, sent, acked, run⟩ := arrival_inOrder ⟨flight, win, takes, active, open', early, by rw [body]; exact ⟨nofun, nofun⟩⟩ bound next
    rw [body] at acked
    have same : u.rops = s.rops ∧ u.mem = s.mem ∧ u.barriers = s.barriers ∧ u.bad = s.bad := by
      rw [show u = _ from sent]
      exact ⟨rfl, rfl, rfl, rfl⟩
    obtain ⟨rops, mem, barriers, bad⟩ := same
    have good' : u.badAt r.lane.pa r.lane.size = false := by rw [State.badAt, bad]; exact good
    obtain ⟨z, applies⟩ := applyOp_read kind good' (fun y hy => first y (sent.group r.gid ▸ hy))
    have delivers := deliver_request (s := u) (rl := rl) f.triple (rops ▸ hr) fresh (by rw [applies]; exact fun y hy => late y (barriers ▸ hy))
    rw [applies] at delivers
    have whole := delivers.trans acked
    refine ⟨t, run, ?_, fun j => ⟨fun y => if j = r.gid then z y else y.rinstr, ?_⟩, ?_⟩
    · rw [show t = _ from whole]
      exact mem
    · rw [whole.group]
      show (u.modGroup r.gid fun y => { y with rinstr := z y }).group? j = _
      by_cases own : j = r.gid
      · rw [own, State.group_modGroup_self, sent.group]
        simp only [if_true]
      · rw [State.group_modGroup_ne _ own, sent.group]
        simp only [if_neg own, Option.map_id']
    · have kept : t.rops = tmod id (fun x => { x with applied := true, reply := u.mem.read r.lane.pa r.lane.size }) u.rops := by rw [show t = _ from whole]; rfl
      rw [kept, tget_tmod_self, rops, hr, mem]
      rfl
  · obtain ⟨flight, win, takes, active, open', early, late⟩ := arrives
    obtain ⟨u, t, sent, acked, run⟩ := arrival_inOrder ⟨flight, win, takes, active, open', early, by rw [body]; exact ⟨nofun, nofun⟩⟩ bound next
    rw [body] at acked
    have same : u.rops = s.rops ∧ u.mem = s.mem ∧ u.barriers = s.barriers := by
      rw [show u = _ from sent]
      exact ⟨rfl, rfl, rfl⟩
    obtain ⟨rops, mem, barriers⟩ := same
    have free' : u.unclaimed false r.lane.pa r.lane.size := by
      rw [show u = _ from sent]
      exact free
    obtain ⟨reply, barriers', rops', bytes, rest⟩ := applyOp_write (id := id) kind (mem ▸ wf) free'
    have whole := (deliver_request (s := u) (rl := rl) f.triple (rops ▸ hr) fresh (by rw [barriers', barriers]; exact late)).trans acked
    refine ⟨t, run, ?_, fun j hj => ?_, fun a away => ?_⟩
    · have kept : t.rops = tmod id (fun x => { x with applied := true, reply := (u.applyOp id r).2 }) (u.applyOp id r).1.rops := by rw [show t = _ from whole]
      rw [kept, tget_tmod_self, rops', rops, hr, reply]
      rfl
    · rw [show t = _ from whole]
      exact bytes j hj
    · rw [show t = _ from whole, ← mem]
      exact rest a away
  · obtain ⟨flight, win, takes, active, open', early, -⟩ := arrives
    obtain ⟨t, run, sent⟩ := arrival_seen ⟨flight, win, takes, active, open', early, by rw [body]; exact ⟨nofun, nofun⟩⟩ seen
    refine ⟨t, run, ?_⟩
    rw [show t = _ from sent]
    exact ⟨rfl, rfl, rfl⟩
  · obtain ⟨flight, win, takes, active, open', early, late⟩ := arrives
    obtain ⟨u, t, sent, acked, run⟩ := arrival_inOrder ⟨flight, win, takes, active, open', early, by rw [body]; exact ⟨nofun, nofun⟩⟩ bound next
    rw [body] at acked
    have same : u.rops = s.rops ∧ u.mem = s.mem ∧ u.barriers = s.barriers ∧ u.groups = s.groups := by
      rw [show u = _ from sent]
      exact ⟨rfl, rfl, rfl, rfl⟩
    obtain ⟨rops, mem, barriers, groups⟩ := same
    obtain ⟨t1, only, tasking⟩ := acknowledge_load (s := u) (v := v) (by rw [barriers]; exact late) (rops ▸ hr) own ((sent.group gid).trans hg) one waits unsent values found life (by rw [groups]; exact others)
      due dest hsd hs unstepped
    have acked : Sending (u.acknowledge id v) t := acked
    have group : t.group? gid = t1.group? gid := by
      rw [acked.group, show u.acknowledge id v = _ from tasking]
      rfl
    have kept : t.mem = t1.mem ∧ t.rops = t1.rops := by
      rw [show t = _ from acked, show u.acknowledge id v = _ from tasking]
      exact ⟨rfl, rfl⟩
    refine ⟨t, _, run, ?_, ?_, group.trans only.group, rfl, rfl, ?_, rfl⟩
    · rw [kept.1, only.rest]
      exact mem
    · rw [kept.2, only.rest]
      exact (tget_tdel ..).trans (if_pos rfl)
    · unfold Group.answered Group.complete
      rw [tget_tmod_self, hs]
      rfl

end Sys2Proof.Machine
end

section
/-! OBLIGATIONS. Routes and resets (R255, R258-R263): a table of groups with two records of one number refutes the report of a stranded operation. -/

namespace Sys2Proof.Machine

/-- An outcome that was reported before. -/
def knownOutcome : FlEntry := ⟨3, true, 1, false, 1, 0, 0, 127⟩

/-- The group whose operation is stranded: in trap mode, its third nested trap taken, with one outcome reported. -/
def strandedGroup : Group :=
  { probeGroup 0 1 with
    block := some 1
    splits := [(0, twin)]
    trap := some { info := { cause := 8 }, nest := 3, frame := [], tvalid := [0], exited := 0, splits := [] }
    fl := [knownOutcome] }

/-- A second record of the group's number, at the REGRP of the block. -/
def shadowGroup : Group :=
  { probeGroup 0 1 with
    block := some 1
    splits := [(0, { twin with wait := .regrp 0 0 })] }

/-- The stranded operation, a write that was applied. -/
def strandedOp : ROp := { gid := 0, task := none, launch := 1, vf := 0, split := 0, lane := { lane := 127, kind := 1, size := 4, va := 0, pa := 0, home := 1 }, applied := true }

/-- The window of the operation, stranded and closed. -/
def strandedWin : Win := { triple := ⟨0, 0, 1, 256, 0⟩, stranded := true, closed := true }

def strandedState : State :=
  { State.reset with
    groups := [(0, strandedGroup), (0, shadowGroup)]
    vfs := [(0, { (State.reset.vf 0) with thandler := 4 })]
    wins := [(5, strandedWin)]
    rops := [(9, strandedOp)]
    nextId := 10 }

/-- How many outcomes the group holds after the resolution. -/
def outcomesAfter (s : State) (win gid : Nat) : Option Nat :=
  match exec (.strandResolution win true) s with
  | .next t => (t.group? gid).map fun h => h.fl.length
  | _ => none

/-- Refutes O49: the report is the group's fourth nested trap, which kills it; the second record of its number then completes the block's REGRP and stands
in its place, without the outcome reported before. -/
theorem not_routesAndResets : ¬ Obligations.RoutesAndResets := by
  intro holds
  obtain ⟨-, -, -, -, -, -, report, -⟩ := holds strandedState 0 0 5 0 0 0 9 0 0 0 0 [] [] strandedWin (.ack 0) [] [] strandedOp strandedGroup 0 [] plainLaunch
  obtain ⟨t, h, run, -, hg, perm, -⟩ := report rfl rfl rfl (by decide +kernel) rfl rfl (by decide +kernel) (by decide +kernel) (by decide +kernel)
  have two : outcomesAfter strandedState 5 0 = some 2 := by
    have length := perm.length_eq
    rw [outcomesAfter, run]
    exact (congrArg (Option.map fun h : Group => h.fl.length) hg).trans (congrArg some length)
  exact absurd two (by decide +kernel)

end Sys2Proof.Machine
end

section
/-! SUPPORT. Exact values as real numbers (R104-R108): the order, the sum, the unit in the last place and one rounding. -/

namespace Sys2Proof.Machine

/-- The real number of a finite value; of the others, 0. -/
noncomputable def ExactVal.real : ExactVal → ℝ
  | .fin n k q => (if n then -1 else 1) * (k : ℝ) * (2 : ℝ) ^ q
  | _ => 0

/-- The sign of a value. -/
def signInt (n : Bool) : Int := if n then -1 else 1

theorem real_fin (n : Bool) (k : Nat) (q : Int) : (ExactVal.fin n k q).real = (signInt n : ℝ) * (k : ℝ) * (2 : ℝ) ^ q := by
  cases n <;> simp [ExactVal.real, signInt]

theorem abs_signInt (n : Bool) : |(signInt n : ℝ)| = 1 := by cases n <;> simp [signInt]

theorem abs_real_fin (n : Bool) (k : Nat) (q : Int) : |(ExactVal.fin n k q).real| = (k : ℝ) * (2 : ℝ) ^ q := by
  rw [real_fin, abs_mul, abs_mul, abs_signInt, one_mul, Nat.abs_cast, abs_of_pos (by positivity)]

theorem real_neg (v : ExactVal) : v.neg.real = -v.real := by
  cases v with
  | nan => simp [ExactVal.neg, ExactVal.real]
  | inf a => simp [ExactVal.neg, ExactVal.real]
  | fin a m e => cases a <;> simp [ExactVal.neg, ExactVal.real]

theorem pow2_cast {e : Int} (h : 0 ≤ e) : ((pow2 e : Nat) : ℝ) = (2 : ℝ) ^ e := by
  obtain ⟨n, rfl⟩ := Int.eq_ofNat_of_zero_le h
  simp [pow2]

/-- A value counted in units of a power of two at most its own. -/
theorem real_at {n : Bool} {k : Nat} {q r : Int} (h : r ≤ q) : (ExactVal.fin n k q).real = ((signInt n * ((k * pow2 (q - r) : Nat) : Int) : Int) : ℝ) * (2 : ℝ) ^ r := by
  have split : (2 : ℝ) ^ q = (2 : ℝ) ^ (q - r) * (2 : ℝ) ^ r := by rw [← zpow_add₀ (by norm_num), sub_add_cancel]
  rw [real_fin, split, ← pow2_cast (by omega : 0 ≤ q - r)]
  push_cast
  ring

theorem lt_real (a b : Bool) (m n : Nat) (e f : Int) :
    (ExactVal.fin a m e).lt (.fin b n f) = true ↔ (ExactVal.fin a m e).real < (ExactVal.fin b n f).real := by
  rw [real_at (min_le_left e f), real_at (min_le_right e f), mul_lt_mul_iff_left₀ (by positivity), Int.cast_lt]
  simp only [ExactVal.lt, decide_eq_true_eq, signInt]

theorem add_real (rd a b : Bool) (m n : Nat) (e f : Int) : ∃ c k, (ExactVal.fin a m e).add rd (.fin b n f) = .fin c k (min e f)
    ∧ (ExactVal.fin c k (min e f)).real = (ExactVal.fin a m e).real + (ExactVal.fin b n f).real := by
  rw [real_at (min_le_left e f), real_at (min_le_right e f), ← add_mul, ← Int.cast_add]
  have unfolded : (ExactVal.fin a m e).add rd (.fin b n f) =
      (let z := signInt a * ((m * pow2 (e - min e f) : Nat) : Int) + signInt b * ((n * pow2 (f - min e f) : Nat) : Int)
       if z = 0 then .fin (if m = 0 ∧ n = 0 ∧ a = b then a else rd) 0 (min e f) else .fin (z < 0) z.natAbs (min e f)) := by
    simp only [ExactVal.add, signInt]
    push_cast
    rfl
  rw [unfolded]
  generalize signInt a * ((m * pow2 (e - min e f) : Nat) : Int) + signInt b * ((n * pow2 (f - min e f) : Nat) : Int) = z
  simp only
  by_cases hz : z = 0
  · rw [if_pos hz]
    exact ⟨_, _, rfl, by simp [hz, ExactVal.real]⟩
  · rw [if_neg hz]
    refine ⟨_, _, rfl, ?_⟩
    rw [real_fin]
    congr 1
    rcases lt_or_gt_of_ne hz with neg | pos
    · rw [decide_eq_true neg, signInt, if_pos rfl, Nat.cast_natAbs, abs_of_neg neg]
      push_cast
      ring
    · rw [decide_eq_false (by omega), signInt, if_neg (by decide), Nat.cast_natAbs, abs_of_pos pos]
      push_cast
      ring

theorem ofInt_real (i : Int) : (ExactVal.ofInt i).real = (i : ℝ) := by
  unfold ExactVal.ofInt
  rw [real_fin]
  rcases lt_or_ge i 0 with neg | pos
  · rw [decide_eq_true neg, signInt, if_pos rfl, Nat.cast_natAbs, abs_of_neg neg]
    push_cast
    ring
  · rw [decide_eq_false (by omega), signInt, if_neg (by decide), Nat.cast_natAbs, abs_of_nonneg pos]
    push_cast
    ring

/-! ### The unit in the last place -/

/-- `u` is the exponent of FP32's unit in the last place at `y`. -/
def LastPlace (y : ℝ) (u : Int) : Prop := -149 ≤ u ∧ |y| < (2 : ℝ) ^ (u + 24) ∧ (u = -149 ∨ (2 : ℝ) ^ (u + 23) ≤ |y|)

theorem LastPlace.mono {x y : ℝ} {u w : Int} (hx : LastPlace x u) (hy : LastPlace y w) (h : |x| ≤ |y|) : u ≤ w := by
  rcases hx.2.2 with least | low
  · rw [least]; exact hy.1
  · have := (zpow_lt_zpow_iff_right₀ (by norm_num : (1 : ℝ) < 2)).1 (low.trans_lt (h.trans_lt hy.2.1))
    omega

theorem exists_lastPlace (y : ℝ) : ∃ u, LastPlace y u := by
  by_cases zero : |y| < (2 : ℝ) ^ (-125 : Int)
  · exact ⟨-149, le_rfl, by simpa using zero, .inl rfl⟩
  · have pos : 0 < |y| := (by positivity : (0 : ℝ) < (2 : ℝ) ^ (-125 : Int)).trans_le (not_lt.1 zero)
    have low := Int.zpow_log_le_self (b := 2) (by norm_num) pos
    have high := Int.lt_zpow_succ_log_self (b := 2) (by norm_num) |y|
    push_cast at low high
    have big : -125 < Int.log 2 |y| + 1 := (zpow_lt_zpow_iff_right₀ (by norm_num : (1 : ℝ) < 2)).1 ((not_lt.1 zero).trans_lt high)
    refine ⟨Int.log 2 |y| - 23, by omega, ?_, .inr ?_⟩
    · rwa [show Int.log 2 |y| - 23 + 24 = Int.log 2 |y| + 1 by ring]
    · rwa [show Int.log 2 |y| - 23 + 23 = Int.log 2 |y| by ring]

theorem log2_bounds {m : Nat} (h : m ≠ 0) : (2 : ℝ) ^ (Nat.log2 m : Int) ≤ m ∧ (m : ℝ) < (2 : ℝ) ^ ((Nat.log2 m : Int) + 1) := by
  have low := Nat.log2_self_le h
  have high : m < 2 ^ (Nat.log2 m + 1) := Nat.lt_log2_self
  constructor
  · rw [zpow_natCast]
    exact_mod_cast low
  · have : (2 : ℝ) ^ ((Nat.log2 m : Int) + 1) = (2 : ℝ) ^ (Nat.log2 m + 1 : Nat) := by rw [← zpow_natCast]; push_cast; rfl
    rw [this]
    exact_mod_cast high

theorem ulpExp_lastPlace (n : Bool) (m : Nat) (e : Int) : LastPlace (ExactVal.fin n m e).real (ulpExp (.fin n m e)) := by
  unfold LastPlace
  rw [abs_real_fin]
  rw [show ulpExp (.fin n m e) = if m = 0 then -149 else unitExp 24 (-149) m e from rfl]
  by_cases zero : m = 0
  · rw [if_pos zero, zero]
    exact ⟨le_rfl, by simp, .inl rfl⟩
  · rw [if_neg zero]
    obtain ⟨low, high⟩ := log2_bounds zero
    unfold unitExp
    have scale (k : Int) : (2 : ℝ) ^ (k + e) = (2 : ℝ) ^ k * (2 : ℝ) ^ e := zpow_add₀ (by norm_num) _ _
    refine ⟨le_max_right _ _, ?_, ?_⟩
    · calc (m : ℝ) * (2 : ℝ) ^ e < (2 : ℝ) ^ ((Nat.log2 m : Int) + 1) * (2 : ℝ) ^ e := by gcongr
        _ = (2 : ℝ) ^ ((Nat.log2 m : Int) + 1 + e) := (scale _).symm
        _ ≤ _ := zpow_le_zpow_right₀ (by norm_num) (by omega)
    · rcases max_choice ((Nat.log2 m : Int) + 1 - (24 : Nat) + e) (-149) with h | h <;> rw [h]
      · refine .inr ?_
        rw [show (Nat.log2 m : Int) + 1 - (24 : Nat) + e + 23 = Nat.log2 m + e by push_cast; ring, scale]
        gcongr
      · exact .inl rfl

/-! ### One rounding -/

/-- The integer nearest to a quotient is within half of it. -/
theorem roundAt_near (q : Int) (neg : Bool) (m : Nat) (e : Int) :
    |(roundAt q .rn neg m e : ℝ) * (2 : ℝ) ^ q - m * (2 : ℝ) ^ e| ≤ (2 : ℝ) ^ q / 2 ∧ (q ≤ e → (roundAt q .rn neg m e : ℝ) * (2 : ℝ) ^ q = m * (2 : ℝ) ^ e) := by
  unfold roundAt
  by_cases h : q ≤ e
  · have exact' : ((m * pow2 (e - q) : Nat) : ℝ) * (2 : ℝ) ^ q = m * (2 : ℝ) ^ e := by
      push_cast
      rw [pow2_cast (by omega), mul_assoc, ← zpow_add₀ (by norm_num), sub_add_cancel]
    rw [if_pos h]
    exact ⟨by rw [exact', sub_self, abs_zero]; positivity, fun _ => exact'⟩
  · rw [if_neg h]
    refine ⟨?_, fun k => absurd k h⟩
    have hd : ((pow2 (q - e) : Nat) : ℝ) * (2 : ℝ) ^ e = (2 : ℝ) ^ q := by rw [pow2_cast (by omega), ← zpow_add₀ (by norm_num), sub_add_cancel]
    have pos : 0 < pow2 (q - e) := Nat.two_pow_pos _
    have euclid : m % pow2 (q - e) + pow2 (q - e) * (m / pow2 (q - e)) = m := Nat.mod_add_div ..
    have small : m % pow2 (q - e) < pow2 (q - e) := Nat.mod_lt _ pos
    simp only
    generalize pow2 (q - e) = d at *
    generalize hk : (if 2 * (m % d) < d then m / d else if 2 * (m % d) = d then m / d + m / d % 2 else m / d + 1) = k
    have near : |(k : ℝ) * d - m| ≤ (d : ℝ) / 2 := by
      have ints : 2 * (k * d) ≤ 2 * m + d ∧ 2 * m ≤ 2 * (k * d) + d := by
        generalize m / d = n at *
        generalize m % d = r at *
        have comm : d * n = n * d := Nat.mul_comm ..
        split_ifs at hk
        · subst hk; omega
        · rcases Nat.mod_two_eq_zero_or_one n with even | odd
          · rw [even, Nat.add_zero] at hk; subst hk; omega
          · rw [odd] at hk; subst hk
            rw [Nat.add_mul]; omega
        · subst hk
          rw [Nat.add_mul]; omega
      obtain ⟨high, low⟩ := ints
      have high' : 2 * ((k : ℝ) * d) ≤ 2 * m + d := by exact_mod_cast high
      have low' : 2 * (m : ℝ) ≤ 2 * (k * d) + d := by exact_mod_cast low
      rw [abs_le]
      constructor <;> linarith
    have scaled : (k : ℝ) * (2 : ℝ) ^ q - m * (2 : ℝ) ^ e = ((k : ℝ) * d - m) * (2 : ℝ) ^ e := by rw [← hd]; ring
    rw [scaled, abs_mul, abs_of_pos (by positivity : (0 : ℝ) < (2 : ℝ) ^ e), ← hd]
    calc |(k : ℝ) * d - m| * (2 : ℝ) ^ e ≤ (d : ℝ) / 2 * (2 : ℝ) ^ e := by gcongr
      _ = _ := by ring

theorem ofF32_bits (neg : Bool) {b : Nat} (hb : b ≤ 0x7F800000) : ofF32 (BitVec.ofNat 32 (neg.toNat * 2 ^ 31 + b)) =
    if b = 0x7F800000 then .inf neg else .fin neg (mantOf b) (-149 + expOf b) := by
  have sign : neg.toNat ≤ 1 := Bool.toNat_le neg
  have mag : magBits (BitVec.ofNat 32 (neg.toNat * 2 ^ 31 + b)) = b := by
    rw [magBits, BitVec.toNat_ofNat]
    omega
  have msb : (BitVec.ofNat 32 (neg.toNat * 2 ^ 31 + b)).msb = neg := by
    rw [BitVec.msb_eq_decide, BitVec.toNat_ofNat]
    cases neg <;> simp <;> omega
  rw [ofF32_eq, mag, msb, if_neg (by omega)]

/-- A count of units of a power of two in the form that `packFin` packs: below 2^24. -/
theorem packFin_spec {n : Nat} {q : Int} (hn : n < 2 ^ 24) (hq : -149 ≤ q) (norm : q = -149 ∨ 2 ^ 23 ≤ n) :
    (q ≤ 104 → packFin 24 8 (-149) n q < 0x7F800000 ∧ mantOf (packFin 24 8 (-149) n q) = n ∧ -149 + (expOf (packFin 24 8 (-149) n q) : Int) = q)
      ∧ (105 ≤ q → packFin 24 8 (-149) n q = 0x7F800000) := by
  have packed : packFin 24 8 (-149) n q = if n < 2 ^ 23 then n else if 255 ≤ (q + 149).toNat + 1 then 255 * 2 ^ 23 else ((q + 149).toNat + 1) * 2 ^ 23 + (n - 2 ^ 23) := by
    unfold packFin
    rw [if_neg hn.ne]
    rfl
  rw [packed]
  refine ⟨fun small => ?_, fun large => ?_⟩
  · by_cases sub : n < 2 ^ 23
    · rw [if_pos sub, mantOf, if_pos sub, expOf]
      omega
    · rw [if_neg sub, if_neg (by omega), mantOf, expOf, if_neg (by omega)]
      omega
  · rw [if_neg (by omega), if_pos (by omega)]
    norm_num

/-- The bits of n × 2^q read back (R104): a whole number of units below 2^24, at its own unit, is itself, and one beyond the range an infinity. -/
theorem ofF32_packFin (neg : Bool) {n : Nat} {q : Int} (hn : n ≤ 2 ^ 24) (hq : -149 ≤ q) (norm : q = -149 ∨ 2 ^ 23 ≤ n) :
    ((n : ℝ) * (2 : ℝ) ^ q < (2 : ℝ) ^ (128 : Int) →
        ∃ k r, ofF32 (BitVec.ofNat 32 (neg.toNat * 2 ^ 31 + packFin 24 8 (-149) n q)) = .fin neg k r ∧ (k : ℝ) * (2 : ℝ) ^ r = n * (2 : ℝ) ^ q)
      ∧ ((2 : ℝ) ^ (128 : Int) ≤ n * (2 : ℝ) ^ q → ofF32 (BitVec.ofNat 32 (neg.toNat * 2 ^ 31 + packFin 24 8 (-149) n q)) = .inf neg) := by
  obtain ⟨n', q', same, value, hn', hq', norm'⟩ : ∃ n' q', packFin 24 8 (-149) n q = packFin 24 8 (-149) n' q' ∧ (n : ℝ) * (2 : ℝ) ^ q = n' * (2 : ℝ) ^ q'
      ∧ n' < 2 ^ 24 ∧ -149 ≤ q' ∧ (q' = -149 ∨ 2 ^ 23 ≤ n') := by
    by_cases carry : n = 2 ^ 24
    · refine ⟨2 ^ 23, q + 1, ?_, ?_, by decide, by omega, .inr le_rfl⟩
      · rw [carry]; rfl
      · rw [carry, zpow_add₀ (by norm_num)]; push_cast; ring
    · exact ⟨n, q, rfl, rfl, by omega, hq, norm⟩
  obtain ⟨within, beyond'⟩ := packFin_spec hn' hq' norm'
  rw [same, value]
  by_cases small : q' ≤ 104
  · obtain ⟨bits, mant, exp⟩ := within small
    have read : ofF32 (BitVec.ofNat 32 (neg.toNat * 2 ^ 31 + packFin 24 8 (-149) n' q')) = .fin neg n' q' := by
      rw [ofF32_bits neg bits.le, if_neg bits.ne, mant, exp]
    refine ⟨fun _ => ⟨n', q', read, rfl⟩, fun large => absurd large (not_le.2 ?_)⟩
    calc (n' : ℝ) * (2 : ℝ) ^ q' < (2 : ℝ) ^ (24 : Int) * (2 : ℝ) ^ q' := by
          gcongr
          exact_mod_cast hn'
      _ ≤ (2 : ℝ) ^ (24 : Int) * (2 : ℝ) ^ (104 : Int) := by
          gcongr
          norm_num
      _ = _ := by rw [← zpow_add₀ (by norm_num)]; norm_num
  · have bits := beyond' (by omega)
    refine ⟨fun within => absurd within (not_lt.2 ?_), fun _ => by rw [ofF32_bits neg bits.le, if_pos bits]⟩
    have big : 2 ^ 23 ≤ n' := norm'.resolve_left (by omega)
    calc (2 : ℝ) ^ (128 : Int) = (2 : ℝ) ^ (23 : Int) * (2 : ℝ) ^ (105 : Int) := by rw [← zpow_add₀ (by norm_num)]; norm_num
      _ ≤ (2 : ℝ) ^ (23 : Int) * (2 : ℝ) ^ q' := by
          gcongr
          · norm_num
          · omega
      _ ≤ n' * (2 : ℝ) ^ q' := by
          gcongr
          exact_mod_cast big

/-- A value rounded to FP32 (R105): within half a unit in its last place, exact where it is a whole number of units, or the infinity of its sign. -/
theorem roundRne_spec (neg : Bool) (m : Nat) (e : Int) :
    (|(ExactVal.fin neg m e).real| + (2 : ℝ) ^ ulpExp (.fin neg m e) / 2 < (2 : ℝ) ^ (128 : Int) →
        ∃ k r, ofF32 (roundRne (.fin neg m e)) = .fin neg k r ∧ |(ExactVal.fin neg k r).real - (ExactVal.fin neg m e).real| ≤ (2 : ℝ) ^ ulpExp (.fin neg m e) / 2
          ∧ (ulpExp (.fin neg m e) ≤ e → (ExactVal.fin neg k r).real = (ExactVal.fin neg m e).real))
      ∧ ((2 : ℝ) ^ (128 : Int) ≤ |(ExactVal.fin neg m e).real| - (2 : ℝ) ^ ulpExp (.fin neg m e) / 2 → ofF32 (roundRne (.fin neg m e)) = .inf neg) := by
  by_cases zero : m = 0
  · have ulp : ulpExp (.fin neg m e) = -149 := if_pos zero
    have bits : roundRne (.fin neg m e) = BitVec.ofNat 32 (neg.toNat * 2 ^ 31 + 0) := by
      simp only [roundRne, toF32, packBin, if_pos zero, Nat.add_zero]
    have value : (ExactVal.fin neg m e).real = 0 := by simp [zero, ExactVal.real]
    rw [bits, ofF32_bits neg (by decide), value]
    refine ⟨fun _ => ⟨_, _, rfl, ?_, fun _ => ?_⟩, fun large => absurd large (not_le.2 ?_)⟩
    · have none : (ExactVal.fin neg (mantOf 0) (-149 + (expOf 0 : Nat))).real = 0 := by simp [mantOf, ExactVal.real]
      rw [none, sub_zero, abs_zero]
      positivity
    · simp [mantOf, ExactVal.real]
    · rw [abs_zero]
      have : (0 : ℝ) < (2 : ℝ) ^ ulpExp (.fin neg m e) / 2 := by positivity
      have : (0 : ℝ) < (2 : ℝ) ^ (128 : Int) := by positivity
      linarith
  · have ulp : ulpExp (.fin neg m e) = unitExp 24 (-149) m e := if_neg zero
    obtain ⟨least, high, low⟩ := ulpExp_lastPlace neg m e
    have near := roundAt_near (ulpExp (.fin neg m e)) neg m e
    have top : roundAt (ulpExp (.fin neg m e)) .rn neg m e ≤ 2 ^ 24 := by
      rw [ulp]
      exact roundAt_le
    have bits : roundRne (.fin neg m e) = BitVec.ofNat 32 (neg.toNat * 2 ^ 31 + packFin 24 8 (-149) (roundAt (ulpExp (.fin neg m e)) .rn neg m e) (ulpExp (.fin neg m e))) := by
      simp only [roundRne, toF32, packBin, if_neg zero, ulp, Bool.not_true, Bool.false_eq_true, and_false, if_false]
    rw [abs_real_fin] at *
    generalize ulpExp (.fin neg m e) = u at *
    generalize roundAt u .rn neg m e = n at *
    obtain ⟨near, exact'⟩ := near
    have norm : u = -149 ∨ 2 ^ 23 ≤ n := by
      refine low.imp_right fun low => ?_
      have scale : (2 : ℝ) ^ (u + 23) = (2 : ℝ) ^ (23 : Nat) * (2 : ℝ) ^ u := by rw [zpow_add₀ (by norm_num), mul_comm]; norm_cast
      have pos : (0 : ℝ) < (2 : ℝ) ^ u := by positivity
      have below : ((2 : ℝ) ^ (23 : Nat) - 1) * (2 : ℝ) ^ u < n * (2 : ℝ) ^ u := by
        have := (abs_le.1 near).1
        rw [scale] at low
        linarith
      have close : (2 : ℝ) ^ (23 : Nat) < n + 1 := sub_lt_iff_lt_add.1 ((mul_lt_mul_iff_left₀ pos).1 below)
      have : 2 ^ 23 < n + 1 := by exact_mod_cast close
      omega
    obtain ⟨within, beyond'⟩ := ofF32_packFin neg top least norm
    have bounds := abs_le.1 near
    rw [bits]
    refine ⟨fun small => ?_, fun large => beyond' (by linarith)⟩
    obtain ⟨k, r, read, value⟩ := within (by linarith)
    refine ⟨k, r, read, ?_, fun whole => ?_⟩
    · rw [real_fin, real_fin, mul_assoc, mul_assoc, value, ← mul_sub, abs_mul, abs_signInt, one_mul]
      exact near
    · rw [real_fin, real_fin, mul_assoc, mul_assoc, value, exact' whole]

end Sys2Proof.Machine
end

section
/-! SUPPORT. What the bound of R108 says of a result as a real number, and that every result keeps it where two values enclose the true one. -/

namespace Sys2Proof.Machine

/-- How many units in the last place a special function may be off (R108). -/
def unitsOff : Config.SpecialFn → Nat
  | .rcp | .rsq => 1
  | .ex2 | .lg2 => 2

/-- An operand in [0.5, 2]. -/
def ExactVal.near (x : ExactVal) : Bool := !x.lt (.fin false 1 (-1)) && !(ExactVal.fin false 2 0).lt x

/-- The tolerance of R108 at a unit of 2^u. -/
def tolerance (f : Config.SpecialFn) (x : ExactVal) (u : Int) : ExactVal :=
  if f = .lg2 ∧ x.near = true then .fin false 1 (-22) else .fin false (unitsOff f) u

theorem tolerance_real (f : Config.SpecialFn) (x : ExactVal) (u : Int) :
    (tolerance f x u).real = if f = .lg2 ∧ x.near = true then (2 : ℝ) ^ (-22 : Int) else unitsOff f * (2 : ℝ) ^ u := by
  unfold tolerance
  split <;> simp [ExactVal.real]

theorem withinBound_eq (f : Config.SpecialFn) (x lo hi : ExactVal) (r : Word) : withinBound f x lo hi r =
    (let v := beyond (ofF32 r)
     let tol := tolerance f x (max (ulpExp v) (min (ulpExp lo) (ulpExp hi)))
     !v.isNan && !(if lo.lt hi then lo else hi).lt (v.add false tol.neg) && !(v.add false tol).lt (if lo.lt hi then hi else lo)) := by
  have split : (if lo.lt hi then (lo, hi) else (hi, lo)) = (if lo.lt hi then lo else hi, if lo.lt hi then hi else lo) := by
    cases lo.lt hi <;> rfl
  unfold withinBound
  simp only [split]
  cases f <;> simp [tolerance, unitsOff, ExactVal.near]

/-- A result that keeps the bound is no NaN, and within the tolerance of every number between the two values. -/
theorem withinBound_real {f : Config.SpecialFn} {x : ExactVal} {r : Word} {a b : Bool} {m n : Nat} {e g : Int} (h : withinBound f x (.fin a m e) (.fin b n g) r = true) :
    ∃ c k q, beyond (ofF32 r) = .fin c k q ∧ ∀ y ∈ Set.uIcc (ExactVal.fin a m e).real (ExactVal.fin b n g).real,
      |(ExactVal.fin c k q).real - y| ≤ (tolerance f x (max (ulpExp (.fin c k q)) (min (ulpExp (.fin a m e)) (ulpExp (.fin b n g))))).real := by
  rw [withinBound_eq] at h
  simp only [Bool.and_eq_true, Bool.not_eq_true'] at h
  obtain ⟨⟨number, low⟩, high⟩ := h
  obtain ⟨c, k, q, hv⟩ : ∃ c k q, beyond (ofF32 r) = .fin c k q := by
    cases hr : ofF32 r with
    | nan => rw [hr] at number; cases number
    | inf c => exact ⟨c, 1, 128, rfl⟩
    | fin c k q => exact ⟨c, k, q, rfl⟩
  refine ⟨c, k, q, hv, fun y hy => ?_⟩
  rw [hv] at low high
  obtain ⟨t, w, ht⟩ : ∃ t w, tolerance f x (max (ulpExp (.fin c k q)) (min (ulpExp (.fin a m e)) (ulpExp (.fin b n g)))) = .fin false t w := by
    unfold tolerance
    split
    · exact ⟨_, _, rfl⟩
    · exact ⟨_, _, rfl⟩
  rw [ht] at low high ⊢
  obtain ⟨c1, k1, sub, subReal⟩ := add_real false c (!false) k t q w
  obtain ⟨c2, k2, sum, sumReal⟩ := add_real false c false k t q w
  rw [show (ExactVal.fin false t w).neg = .fin (!false) t w from rfl, sub] at low
  rw [sum] at high
  have negReal : (ExactVal.fin (!false) t w).real = -(ExactVal.fin false t w).real := real_neg (.fin false t w)
  rw [negReal] at subReal
  rw [Set.mem_uIcc] at hy
  have ordered := lt_real a b m n e g
  rw [abs_le]
  by_cases up : (ExactVal.fin a m e).lt (.fin b n g) = true
  · rw [if_pos up, ← Bool.not_eq_true, lt_real] at low high
    have := ordered.1 up
    constructor <;> rcases hy with hy | hy <;> linarith [hy.1, hy.2]
  · rw [if_neg up, ← Bool.not_eq_true, lt_real] at low high
    have := not_lt.1 (ordered.not.1 up)
    constructor <;> rcases hy with hy | hy <;> linarith [hy.1, hy.2]

/-- A special function outside the exact results: the free bits where they keep the bound, else the nearer value rounded. -/
theorem special_of_none {f : Config.SpecialFn} {x : Word} {neg : Bool} {m : Nat} {e : Int} (hx : ofF32 x = .fin neg m e) (none : specialExact f (.fin neg m e) = none) :
    special f x = if withinBound f (.fin neg m e) (specialRange f neg m e).1 (specialRange f neg m e).2 (Config.specialBits f x) then Config.specialBits f x
      else roundRne (specialRange f neg m e).1 := by
  unfold special
  simp only [hx, none]

/-- Two values enclose a number, closer together than a 2^30th of the first. -/
structure Encloses (lo hi : ExactVal) (y : ℝ) : Prop where
  first : ∃ n k q, lo = .fin n k q
  second : ∃ n k q, hi = .fin n k q
  mem : y ∈ Set.uIcc lo.real hi.real
  close : |hi.real - lo.real| * 2 ^ 30 ≤ |lo.real|

theorem Encloses.near {lo hi : ExactVal} {y : ℝ} (h : Encloses lo hi y) : |y - lo.real| * 2 ^ 30 ≤ |lo.real| := by
  refine le_trans ?_ h.close
  exact mul_le_mul_of_nonneg_right (Set.abs_sub_left_of_mem_uIcc h.mem) (by positivity)

/-- The number is not smaller than both values. -/
theorem Encloses.least {lo hi : ExactVal} {y : ℝ} (h : Encloses lo hi y) : |lo.real| ≤ |y| ∨ |hi.real| ≤ |y| := by
  have mem := Set.mem_uIcc.1 h.mem
  have close := h.close
  have small : |hi.real - lo.real| ≤ |lo.real| := by nlinarith [abs_nonneg (hi.real - lo.real)]
  generalize lo.real = a at *
  generalize hi.real = b at *
  rcases le_total 0 a with pos | neg
  · rw [abs_of_nonneg pos] at small ⊢
    have hb : 0 ≤ b := by linarith [(abs_le.1 small).1]
    rw [abs_of_nonneg hb]
    rcases mem with mem | mem
    · exact .inl (mem.1.trans (le_abs_self y))
    · exact .inr (mem.1.trans (le_abs_self y))
  · rw [abs_of_nonpos neg] at small ⊢
    have hb : b ≤ 0 := by linarith [(abs_le.1 small).2]
    rw [abs_of_nonpos hb]
    rcases mem with mem | mem
    · exact .inr ((neg_le_neg mem.2).trans (neg_le_abs y))
    · exact .inl ((neg_le_neg mem.2).trans (neg_le_abs y))

/-- A result is finite, and within so many units in its last place, or in that of the true value. -/
def WithinUnits (r : ExactVal) (y : ℝ) (n : Nat) : Prop :=
  ∃ c k q, r = .fin c k q ∧ ∃ u, (LastPlace (ExactVal.fin c k q).real u ∨ LastPlace y u) ∧ |(ExactVal.fin c k q).real - y| ≤ (n : ℝ) * (2 : ℝ) ^ u

/-- The first value below 2^128 is 2^104 below it. -/
theorem lastPlace_le {y : ℝ} {u : Int} (h : LastPlace y u) (hy : |y| < (2 : ℝ) ^ (128 : Int)) : u ≤ 104 := by
  rcases h.2.2 with least | low
  · omega
  · have := (zpow_lt_zpow_iff_right₀ (by norm_num : (1 : ℝ) < 2)).1 (low.trans_lt hy)
    omega

theorem units_bounds (f : Config.SpecialFn) : (1 : ℝ) ≤ unitsOff f ∧ (unitsOff f : ℝ) ≤ 2 := by
  cases f <;> norm_num [unitsOff]

/-- The free bits that keep the bound at a true value well within the format. -/
theorem keeps_of_withinBound {f : Config.SpecialFn} {x lo hi : ExactVal} {r : Word} {y : ℝ} (h : withinBound f x lo hi r = true) (encloses : Encloses lo hi y)
    (far : ¬ (f = .lg2 ∧ x.near = true)) (top : |y| + 3 * (2 : ℝ) ^ (105 : Int) ≤ (2 : ℝ) ^ (128 : Int)) : WithinUnits (ofF32 r) y (unitsOff f) := by
  obtain ⟨a, m, e, rfl⟩ := encloses.first
  obtain ⟨b, n, g, rfl⟩ := encloses.second
  obtain ⟨c, k, q, hv, within⟩ := withinBound_real h
  have near := within y encloses.mem
  rw [tolerance_real, if_neg far] at near
  obtain ⟨w, hw⟩ := exists_lastPlace y
  have least : min (ulpExp (.fin a m e)) (ulpExp (.fin b n g)) ≤ w := by
    rcases encloses.least with small | small
    · exact (min_le_left _ _).trans ((ulpExp_lastPlace a m e).mono hw small)
    · exact (min_le_right _ _).trans ((ulpExp_lastPlace b n g).mono hw small)
  have pos : (0 : ℝ) < (2 : ℝ) ^ (105 : Int) := by positivity
  cases hr : ofF32 r with
  | nan => rw [hr] at hv; cases hv
  | inf d =>
    rw [hr] at hv
    obtain ⟨rfl, rfl, rfl⟩ := ExactVal.fin.inj hv
    have small : max (ulpExp (.fin d 1 128)) (min (ulpExp (.fin a m e)) (ulpExp (.fin b n g))) ≤ 105 := by
      have ulp : ulpExp (.fin d 1 128) = 105 := by cases d <;> decide
      have := lastPlace_le hw (by linarith)
      rw [ulp]
      omega
    have bound : (2 : ℝ) ^ max (ulpExp (.fin d 1 128)) (min (ulpExp (.fin a m e)) (ulpExp (.fin b n g))) ≤ (2 : ℝ) ^ (105 : Int) := zpow_le_zpow_right₀ (by norm_num) small
    have magnitude : |(ExactVal.fin d 1 128).real| = (2 : ℝ) ^ (128 : Int) := by rw [abs_real_fin]; norm_num
    have apart := abs_sub_abs_le_abs_sub (ExactVal.fin d 1 128).real y
    rw [magnitude] at apart
    nlinarith [(units_bounds f).2]
  | fin d k' q' =>
    rw [hr] at hv
    obtain ⟨rfl, rfl, rfl⟩ := ExactVal.fin.inj hv
    refine ⟨_, _, _, rfl, ?_⟩
    rcases le_total (min (ulpExp (.fin a m e)) (ulpExp (.fin b n g))) (ulpExp (.fin d k' q')) with own | other
    · rw [max_eq_left own] at near
      exact ⟨_, .inl (ulpExp_lastPlace ..), near⟩
    · rw [max_eq_right other] at near
      refine ⟨w, .inr hw, near.trans ?_⟩
      gcongr
      norm_num

/-- The first of the two values rounded keeps the bound, too. -/
theorem keeps_of_rounded {f : Config.SpecialFn} {lo hi : ExactVal} {y : ℝ} (encloses : Encloses lo hi y) (below : unitsOff f = 2 ∨ |lo.real| ≤ |y|)
    (top : |y| + 3 * (2 : ℝ) ^ (105 : Int) ≤ (2 : ℝ) ^ (128 : Int)) : WithinUnits (ofF32 (roundRne lo)) y (unitsOff f) := by
  have near := encloses.near
  obtain ⟨a, m, e, rfl⟩ := encloses.first
  have unit := ulpExp_lastPlace a m e
  obtain ⟨w, hw⟩ := exists_lastPlace y
  have triangle := abs_sub_abs_le_abs_sub (ExactVal.fin a m e).real y
  rw [abs_sub_comm] at triangle
  have small : |y - (ExactVal.fin a m e).real| ≤ (2 : ℝ) ^ ulpExp (.fin a m e) / 64 := by
    have scale : (2 : ℝ) ^ (ulpExp (.fin a m e) + 24) = (2 : ℝ) ^ ulpExp (.fin a m e) * 2 ^ 24 := by rw [zpow_add₀ (by norm_num)]; norm_cast
    have := unit.2.1
    rw [scale] at this
    linarith
  have p105 : (2 : ℝ) ^ (128 : Int) = (2 : ℝ) ^ (105 : Int) * 2 ^ 23 := by rw [show (128 : Int) = 105 + 23 by norm_num, zpow_add₀ (by norm_num)]; norm_cast
  have p104 : (2 : ℝ) ^ (105 : Int) = (2 : ℝ) ^ (104 : Int) * 2 := by rw [show (105 : Int) = 104 + 1 by norm_num, zpow_add₀ (by norm_num)]; norm_num
  have pos : (0 : ℝ) < (2 : ℝ) ^ (104 : Int) := by positivity
  have inside : |(ExactVal.fin a m e).real| < (2 : ℝ) ^ (128 : Int) := by
    rw [p105, p104] at *
    nlinarith
  have ulp : (2 : ℝ) ^ ulpExp (.fin a m e) ≤ (2 : ℝ) ^ (104 : Int) := zpow_le_zpow_right₀ (by norm_num) (lastPlace_le unit inside)
  obtain ⟨k, r, read, rounds, -⟩ := (roundRne_spec a m e).1 (by linarith)
  refine ⟨_, _, _, read, w, .inr hw, ?_⟩
  have off := abs_sub_le (ExactVal.fin a k r).real (ExactVal.fin a m e).real y
  rw [abs_sub_comm (ExactVal.fin a m e).real y] at off
  have upos : (0 : ℝ) < (2 : ℝ) ^ ulpExp (.fin a m e) := by positivity
  have wpos : (0 : ℝ) < (2 : ℝ) ^ w := by positivity
  rcases le_or_gt |(ExactVal.fin a m e).real| |y| with le | lt
  · have : (2 : ℝ) ^ ulpExp (.fin a m e) ≤ (2 : ℝ) ^ w := zpow_le_zpow_right₀ (by norm_num) (unit.mono hw le)
    nlinarith [(units_bounds f).1]
  · rw [below.resolve_right (not_le.2 lt)]
    have half : ulpExp (.fin a m e) ≤ w + 1 := by
      rcases unit.2.2 with least | low
      · rw [least]
        linarith [hw.1]
      · have scale : (2 : ℝ) ^ (ulpExp (.fin a m e) + 23) = (2 : ℝ) ^ (ulpExp (.fin a m e) + 22) * 2 := by
          rw [show ulpExp (.fin a m e) + 23 = ulpExp (.fin a m e) + 22 + 1 by ring, zpow_add₀ (by norm_num : (2 : ℝ) ≠ 0) _ 1, zpow_one]
        have big : (2 : ℝ) ^ (ulpExp (.fin a m e) + 22) ≤ |y| := by
          rw [scale] at low
          linarith
        have := (zpow_lt_zpow_iff_right₀ (by norm_num : (1 : ℝ) < 2)).1 (big.trans_lt hw.2.1)
        omega
    have : (2 : ℝ) ^ ulpExp (.fin a m e) ≤ (2 : ℝ) ^ w * 2 := by
      calc (2 : ℝ) ^ ulpExp (.fin a m e) ≤ (2 : ℝ) ^ (w + 1) := zpow_le_zpow_right₀ (by norm_num) half
        _ = _ := by rw [zpow_add₀ (by norm_num), zpow_one]
    push_cast
    linarith

/-- A special function keeps its bound where its two values enclose the true one. -/
theorem special_keeps {f : Config.SpecialFn} {x : Word} {neg : Bool} {m : Nat} {e : Int} {y : ℝ} (hx : ofF32 x = .fin neg m e) (none : specialExact f (.fin neg m e) = none)
    (encloses : Encloses (specialRange f neg m e).1 (specialRange f neg m e).2 y) (far : ¬ (f = .lg2 ∧ (ExactVal.fin neg m e).near = true))
    (below : unitsOff f = 2 ∨ |(specialRange f neg m e).1.real| ≤ |y|) (top : |y| + 3 * (2 : ℝ) ^ (105 : Int) ≤ (2 : ℝ) ^ (128 : Int)) :
    WithinUnits (ofF32 (special f x)) y (unitsOff f) := by
  rw [special_of_none hx none]
  split
  · next h => exact keeps_of_withinBound h encloses far top
  · exact keeps_of_rounded encloses below top

end Sys2Proof.Machine
end

section
/-! SUPPORT. The numbers that the device's tables of R108 start from: the whole square root, 2^f and the logarithm bit by bit, with their errors. -/

namespace Sys2Proof.Machine

/-! ### The whole square root -/

theorem isqrtFrom_spec (n : Nat) (b : Nat) : ∀ r, r * r ≤ n → n < (r + 2 ^ b) * (r + 2 ^ b) →
    isqrtFrom n b r * isqrtFrom n b r ≤ n ∧ n < (isqrtFrom n b r + 1) * (isqrtFrom n b r + 1) := by
  induction b with
  | zero => exact fun r low high => ⟨low, high⟩
  | succ b ih =>
    intro r low high
    rw [isqrtFrom]
    split
    · next le => exact ih _ le (by rwa [Nat.add_assoc, ← Nat.two_mul, ← Nat.pow_succ'])
    · next gt => exact ih _ low (Nat.lt_of_not_le gt)

theorem isqrt_spec {n : Nat} (h : n < 2 ^ 256) : isqrt n * isqrt n ≤ n ∧ n < (isqrt n + 1) * (isqrt n + 1) :=
  isqrtFrom_spec n 128 0 (Nat.zero_le _) (by rw [Nat.zero_add, ← pow_add]; exact h)

/-- The whole square root is the real one from below, within 1. -/
theorem isqrt_real {n : Nat} (h : n < 2 ^ 256) {x : ℝ} (pos : 0 ≤ x) (low : (n : ℝ) ≤ x * x) (high : x * x < n + 1) : (isqrt n : ℝ) ≤ x ∧ x < isqrt n + 1 := by
  obtain ⟨le, lt⟩ := isqrt_spec h
  have le' : (isqrt n : ℝ) * isqrt n ≤ n := by exact_mod_cast le
  have lt' : (n : ℝ) + 1 ≤ (isqrt n + 1) * (isqrt n + 1) := by exact_mod_cast lt
  constructor
  · exact (mul_self_le_mul_self_iff (by positivity) pos).2 (le'.trans low)
  · exact (mul_self_lt_mul_self_iff pos (by positivity)).2 (high.trans_le lt')

/-! ### Powers of two -/

/-- 2^(n / 2^80). -/
noncomputable def frac2 (n : Nat) : ℝ := (2 : ℝ) ^ ((n : ℝ) / 2 ^ 80)

theorem frac2_add (m n : Nat) : frac2 (m + n) = frac2 m * frac2 n := by
  unfold frac2
  rw [← Real.rpow_add (by norm_num)]
  congr 1
  push_cast
  ring

theorem one_le_frac2 (n : Nat) : 1 ≤ frac2 n := Real.one_le_rpow (by norm_num) (by positivity)

theorem frac2_zero : frac2 0 = 1 := by simp [frac2]

theorem frac2_top : frac2 (2 ^ 80) = 2 := by
  rw [frac2, show ((2 ^ 80 : Nat) : ℝ) / 2 ^ 80 = 1 by norm_num, Real.rpow_one]

theorem frac2_le {n : Nat} (h : n ≤ 2 ^ 80) : frac2 n ≤ 2 := by
  rw [← frac2_top]
  refine Real.rpow_le_rpow_of_exponent_le (by norm_num) ?_
  gcongr

/-- A root of the table, a square root of the one before: below the power by less than 3. -/
theorem root_step {b root : Nat} (hb : b < 80) (low : (root : ℝ) ≤ frac2 (2 ^ (b + 1)) * 2 ^ 80) (high : frac2 (2 ^ (b + 1)) * 2 ^ 80 - 3 ≤ root) :
    (isqrt (root * 2 ^ 80) : ℝ) ≤ frac2 (2 ^ b) * 2 ^ 80 ∧ frac2 (2 ^ b) * 2 ^ 80 - 3 ≤ isqrt (root * 2 ^ 80) := by
  have square : frac2 (2 ^ (b + 1)) = frac2 (2 ^ b) * frac2 (2 ^ b) := by rw [← frac2_add, pow_succ, Nat.mul_two]
  have one := one_le_frac2 (2 ^ b)
  have two : frac2 (2 ^ (b + 1)) ≤ 2 := frac2_le (Nat.pow_le_pow_right (by decide) hb)
  have range : root * 2 ^ 80 < 2 ^ 256 := by
    have : (root : ℝ) ≤ 2 * 2 ^ 80 := low.trans (by gcongr)
    have : root ≤ 2 * 2 ^ 80 := by exact_mod_cast this
    omega
  obtain ⟨le, lt⟩ := isqrt_spec range
  have le' : (isqrt (root * 2 ^ 80) : ℝ) * isqrt (root * 2 ^ 80) ≤ root * 2 ^ 80 := by exact_mod_cast le
  have lt' : (root : ℝ) * 2 ^ 80 < (isqrt (root * 2 ^ 80) + 1) * (isqrt (root * 2 ^ 80) + 1) := by exact_mod_cast lt
  have pos : (0 : ℝ) ≤ isqrt (root * 2 ^ 80) := by positivity
  rw [square] at low high
  generalize (isqrt (root * 2 ^ 80) : ℝ) = s at *
  generalize frac2 (2 ^ b) = T at *
  constructor
  · refine (mul_self_le_mul_self_iff pos (by positivity)).2 (le'.trans ?_)
    calc (root : ℝ) * 2 ^ 80 ≤ T * T * 2 ^ 80 * 2 ^ 80 := by gcongr
      _ = _ := by ring
  · by_contra below
    have less : s + 1 < T * 2 ^ 80 - 2 := by linarith
    have squares : (s + 1) * (s + 1) < (T * 2 ^ 80 - 2) * (T * 2 ^ 80 - 2) := mul_self_lt_mul_self (by positivity) less
    nlinarith

/-- The product of the roots of the bits: from below, with an error of less than 4 for each bit. -/
theorem exp2From_spec (f b : Nat) : ∀ (root acc : Nat) (A η : ℝ), b ≤ 80 → (root : ℝ) ≤ frac2 (2 ^ b) * 2 ^ 80 → frac2 (2 ^ b) * 2 ^ 80 - 3 ≤ root →
    1 ≤ A → 0 ≤ η → (acc : ℝ) ≤ A * 2 ^ 80 → A * (1 - η) * 2 ^ 80 ≤ acc →
    (exp2From f b root acc : ℝ) ≤ A * frac2 (f % 2 ^ b) * 2 ^ 80 ∧ A * frac2 (f % 2 ^ b) * (1 - η - 4 * b / 2 ^ 80) * 2 ^ 80 ≤ exp2From f b root acc := by
  induction b with
  | zero =>
    intro root acc A η _ _ _ _ _ low high
    rw [pow_zero, Nat.mod_one, frac2_zero]
    simpa [exp2From] using ⟨low, high⟩
  | succ b ih =>
    intro root acc A η hb rlow rhigh hA hη alow ahigh
    obtain ⟨low, high⟩ := root_step (by omega) rlow rhigh
    have bits : f % 2 ^ (b + 1) = f % 2 ^ b + 2 ^ b * (f / 2 ^ b % 2) := Nat.mod_pow_succ
    have one := one_le_frac2 (2 ^ b)
    rw [exp2From]
    by_cases bit : f / 2 ^ b % 2 = 1
    · have floor : ((acc * isqrt (root * 2 ^ 80) / 2 ^ 80 : Nat) : ℝ) * 2 ^ 80 ≤ acc * isqrt (root * 2 ^ 80)
          ∧ (acc : ℝ) * isqrt (root * 2 ^ 80) ≤ ((acc * isqrt (root * 2 ^ 80) / 2 ^ 80 : Nat) : ℝ) * 2 ^ 80 + 2 ^ 80 := by
        have lower : acc * isqrt (root * 2 ^ 80) / 2 ^ 80 * 2 ^ 80 ≤ acc * isqrt (root * 2 ^ 80) := Nat.div_mul_le_self ..
        have upper : acc * isqrt (root * 2 ^ 80) ≤ acc * isqrt (root * 2 ^ 80) / 2 ^ 80 * 2 ^ 80 + 2 ^ 80 := by omega
        exact ⟨by exact_mod_cast lower, by exact_mod_cast upper⟩
      obtain ⟨lower, upper⟩ := floor
      rw [if_pos bit]
      have step := ih (isqrt (root * 2 ^ 80)) (acc * isqrt (root * 2 ^ 80) / 2 ^ 80) (A * frac2 (2 ^ b)) (η + 4 / 2 ^ 80) (by omega) low high (one_le_mul_of_one_le_of_one_le hA one) (by positivity) ?_ ?_
      · rw [bits, bit, Nat.mul_one, Nat.add_comm, frac2_add, ← mul_assoc]
        refine ⟨step.1, le_trans (le_of_eq ?_) step.2⟩
        push_cast
        ring
      · generalize ((acc * isqrt (root * 2 ^ 80) / 2 ^ 80 : Nat) : ℝ) = q at *
        have : (acc : ℝ) * isqrt (root * 2 ^ 80) ≤ A * 2 ^ 80 * (frac2 (2 ^ b) * 2 ^ 80) := by gcongr
        nlinarith
      · generalize ((acc * isqrt (root * 2 ^ 80) / 2 ^ 80 : Nat) : ℝ) = q at *
        generalize frac2 (2 ^ b) = T at *
        have root0 : 0 ≤ T * 2 ^ 80 - 3 := by linarith
        have product : A * (1 - η) * 2 ^ 80 * (T * 2 ^ 80 - 3) ≤ acc * isqrt (root * 2 ^ 80) :=
          (mul_le_mul_of_nonneg_right ahigh root0).trans (mul_le_mul_of_nonneg_left high (by positivity))
        have loss : A * (1 - η) * 3 + 1 ≤ A * T * 4 := by
          have : A * η ≥ 0 := by positivity
          have : A ≤ A * T := le_mul_of_one_le_right (by positivity) one
          nlinarith
        have : A * T * (1 - (η + 4 / 2 ^ 80)) * 2 ^ 80 = A * T * (1 - η) * 2 ^ 80 - A * T * 4 := by ring
        rw [this]
        nlinarith
    · have zero : f / 2 ^ b % 2 = 0 := by omega
      rw [if_neg bit, bits, zero, Nat.mul_zero, Nat.add_zero]
      obtain ⟨le, ge⟩ := ih _ _ A η (by omega) low high hA hη alow ahigh
      refine ⟨le, le_trans ?_ ge⟩
      have := one_le_frac2 (f % 2 ^ b)
      push_cast
      gcongr
      linarith

/-! ### The logarithm -/

/-- The logarithm of z / 2^240. -/
noncomputable def logAt (z : Nat) : ℝ := Real.logb 2 ((z : ℝ) / 2 ^ 240)

theorem logAt_nonneg {z : Nat} (h : 2 ^ 240 ≤ z) : 0 ≤ logAt z := by
  refine Real.logb_nonneg (by norm_num) ((one_le_div (by positivity)).2 ?_)
  exact_mod_cast h

theorem logAt_le_one {z : Nat} (h : z ≤ 2 ^ 241) : logAt z ≤ 1 := by
  by_cases pos : z = 0
  · simp [logAt, pos]
  · have : ((z : ℝ) / 2 ^ 240) ≤ 2 := by
      rw [div_le_iff₀ (by positivity)]
      have : (z : ℝ) ≤ ((2 ^ 241 : Nat) : ℝ) := by exact_mod_cast h
      rw [show (2 : ℝ) * 2 ^ 240 = ((2 ^ 241 : Nat) : ℝ) by norm_num]
      exact this
    calc logAt z ≤ Real.logb 2 2 := Real.logb_le_logb_of_le (by norm_num) (by positivity) this
      _ = 1 := Real.logb_self_eq_one (by norm_num)

/-- A quotient cut off to a whole number of at least 2^240 has a logarithm below the true one by at most 2^-239. -/
theorem logAt_cut {z : Nat} {x : ℝ} (big : 2 ^ 240 ≤ z) (low : (z : ℝ) ≤ x) (high : x ≤ z + 1) :
    logAt z ≤ Real.logb 2 (x / 2 ^ 240) ∧ Real.logb 2 (x / 2 ^ 240) ≤ logAt z + 2 / 2 ^ 240 := by
  have zpos : (2 : ℝ) ^ 240 ≤ z := by exact_mod_cast big
  have pos : (0 : ℝ) < z := lt_of_lt_of_le (by positivity) zpos
  have xpos : 0 < x := pos.trans_le low
  constructor
  · exact Real.logb_le_logb_of_le (by norm_num) (by positivity) (by gcongr)
  · have split : Real.logb 2 (x / 2 ^ 240) = logAt z + Real.logb 2 (x / z) := by
      rw [logAt, ← Real.logb_mul (by positivity) (by positivity)]
      congr 1
      field_simp
    have ratio : x / z - 1 ≤ 1 / 2 ^ 240 := by
      rw [div_sub_one pos.ne', div_le_div_iff₀ pos (by positivity)]
      nlinarith
    have log : Real.log (x / z) ≤ 1 / 2 ^ 240 := (Real.log_le_sub_one_of_pos (by positivity)).trans ratio
    have half : (1 : ℝ) / 2 < Real.log 2 := by linarith [Real.log_two_gt_d9]
    rw [split, add_le_add_iff_left, Real.logb, div_le_iff₀ (by linarith)]
    nlinarith

/-- The bits of a logarithm: from below, with an error of less than 2 in the last one. -/
theorem log2From_spec (b : Nat) : ∀ z acc : Nat, 2 ^ 240 ≤ z → z < 2 ^ 241 →
    (log2From b z acc : ℝ) ≤ 2 ^ b * (acc + logAt z) ∧ 2 ^ b * (acc + logAt z) ≤ log2From b z acc + 1 + 2 ^ b * (8 / 2 ^ 240) := by
  induction b with
  | zero =>
    intro z acc low high
    have := logAt_nonneg low
    have := logAt_le_one high.le
    rw [log2From, pow_zero, one_mul]
    constructor
    · linarith
    · have : (0 : ℝ) ≤ 1 * (8 / 2 ^ 240) := by positivity
      linarith
  | succ b ih =>
    intro z acc low high
    have square : 2 ^ 240 ≤ z * z / 2 ^ 240 ∧ z * z / 2 ^ 240 < 2 ^ 242 := by
      constructor
      · rw [Nat.le_div_iff_mul_le (by positivity)]
        exact Nat.mul_le_mul low low
      · rw [Nat.div_lt_iff_lt_mul (by positivity)]
        calc z * z < 2 ^ 241 * 2 ^ 241 := Nat.mul_lt_mul'' high high
          _ = _ := by norm_num
    have floor : ((z * z / 2 ^ 240 : Nat) : ℝ) ≤ (z : ℝ) * z / 2 ^ 240 ∧ (z : ℝ) * z / 2 ^ 240 ≤ ((z * z / 2 ^ 240 : Nat) : ℝ) + 1 := by
      have lower : z * z / 2 ^ 240 * 2 ^ 240 ≤ z * z := Nat.div_mul_le_self ..
      have upper : z * z ≤ (z * z / 2 ^ 240 + 1) * 2 ^ 240 := by omega
      constructor
      · rw [le_div_iff₀ (by positivity)]
        exact_mod_cast lower
      · rw [div_le_iff₀ (by positivity)]
        exact_mod_cast upper
    have twice : Real.logb 2 ((z : ℝ) * z / 2 ^ 240 / 2 ^ 240) = 2 * logAt z := by
      have pos : (0 : ℝ) < z := by
        have : (2 : ℝ) ^ 240 ≤ z := by exact_mod_cast low
        exact lt_of_lt_of_le (by positivity) this
      rw [logAt, show (z : ℝ) * z / 2 ^ 240 / 2 ^ 240 = (z / 2 ^ 240) ^ 2 by ring, Real.logb_pow]
      norm_num
    obtain ⟨below, above⟩ := logAt_cut square.1 floor.1 floor.2
    rw [twice] at below above
    rw [log2From]
    generalize z * z / 2 ^ 240 = y at *
    have scale : (2 : ℝ) ^ (b + 1) = 2 ^ b * 2 := pow_succ ..
    have pos : (0 : ℝ) < 2 ^ b := by positivity
    by_cases top : 2 ^ 241 ≤ y
    · rw [if_pos top]
      have lo : 2 ^ 240 ≤ y / 2 := by omega
      have cut : ((y / 2 : Nat) : ℝ) ≤ (y : ℝ) / 2 ∧ (y : ℝ) / 2 ≤ ((y / 2 : Nat) : ℝ) + 1 := by
        have lower : y / 2 * 2 ≤ y := Nat.div_mul_le_self ..
        have upper : y ≤ (y / 2 + 1) * 2 := by omega
        constructor
        · rw [le_div_iff₀ (by norm_num)]
          exact_mod_cast lower
        · rw [div_le_iff₀ (by norm_num)]
          exact_mod_cast upper
      obtain ⟨below', above'⟩ := logAt_cut lo cut.1 cut.2
      have halved : Real.logb 2 ((y : ℝ) / 2 / 2 ^ 240) = logAt y - 1 := by
        have : (0 : ℝ) < y := by
          have : (2 : ℝ) ^ 240 ≤ y := by exact_mod_cast square.1
          exact lt_of_lt_of_le (by positivity) this
        rw [logAt, show (y : ℝ) / 2 / 2 ^ 240 = y / 2 ^ 240 / 2 by ring, Real.logb_div (by positivity) (by norm_num), Real.logb_self_eq_one (by norm_num)]
      rw [halved] at below' above'
      obtain ⟨le, ge⟩ := ih (y / 2) (2 * acc + 1) lo (by omega)
      push_cast at le ge
      rw [scale]
      constructor <;> nlinarith
    · rw [if_neg top]
      obtain ⟨le, ge⟩ := ih y (2 * acc) square.1 (by omega)
      push_cast at le ge
      rw [scale]
      constructor <;> nlinarith

end Sys2Proof.Machine
end

section
/-! SUPPORT. The two values that enclose the true result of each special function (R108). -/

namespace Sys2Proof.Machine

/-- A finite FP32 value: at most 24 bits, at the least exponent or with the highest bit set (R104). -/
theorem ofF32_fin {x : Word} {neg : Bool} {m : Nat} {e : Int} (h : ofF32 x = .fin neg m e) : m < 2 ^ 24 ∧ -149 ≤ e ∧ e ≤ 104 := by
  rw [ofF32_eq] at h
  split at h
  · cases h
  · split at h
    · cases h
    · obtain ⟨-, rfl, rfl⟩ := ExactVal.fin.inj h
      unfold mantOf expOf
      split <;> omega

/-- Counts of one unit enclose a number that lies between them. -/
theorem encloses_counts {n : Bool} {k l : Nat} {p : Int} {X : ℝ} (low : (k : ℝ) ≤ X) (high : X ≤ l) (close : (l - k) * 2 ^ 30 ≤ (k : ℝ)) :
    Encloses (.fin n k p) (.fin n l p) ((signInt n : ℝ) * X * (2 : ℝ) ^ p) where
  first := ⟨_, _, _, rfl⟩
  second := ⟨_, _, _, rfl⟩
  mem := by
    have pos : (0 : ℝ) < (2 : ℝ) ^ p := by positivity
    rw [real_fin, real_fin, Set.mem_uIcc]
    cases n
    · left
      simp only [signInt, Bool.false_eq_true, if_false, Int.cast_one, one_mul]
      constructor <;> gcongr
    · right
      simp only [signInt, if_true, Int.cast_neg, Int.cast_one, neg_mul, one_mul, neg_le_neg_iff]
      constructor <;> gcongr
  close := by
    have order : (k : ℝ) ≤ l := low.trans high
    rw [abs_real_fin, real_fin, real_fin, ← sub_mul, ← mul_sub, abs_mul, abs_mul, abs_signInt, one_mul, abs_of_nonneg (by linarith), abs_of_pos (by positivity)]
    calc ((l : ℝ) - k) * (2 : ℝ) ^ p * 2 ^ 30 = ((l : ℝ) - k) * 2 ^ 30 * (2 : ℝ) ^ p := by ring
      _ ≤ k * (2 : ℝ) ^ p := by gcongr

/-- The whole part of a quotient. -/
theorem div_real (n m : Nat) (h : m ≠ 0) : ((n / m : Nat) : ℝ) ≤ (n : ℝ) / m ∧ (n : ℝ) / m < ((n / m : Nat) : ℝ) + 1 := by
  have pos : (0 : ℝ) < m := by exact_mod_cast Nat.pos_of_ne_zero h
  have lower : n / m * m ≤ n := Nat.div_mul_le_self ..
  have upper : n < (n / m + 1) * m := by
    rw [Nat.mul_comm]
    exact Nat.lt_mul_div_succ _ (Nat.pos_of_ne_zero h)
  constructor
  · rw [le_div_iff₀ pos]
    exact_mod_cast lower
  · rw [div_lt_iff₀ pos]
    exact_mod_cast upper

/-! ### The reciprocal -/

theorem rcp_encloses (neg : Bool) {m : Nat} {e : Int} (h : m ≠ 0) (small : m < 2 ^ 24) :
    Encloses (specialRange .rcp neg m e).1 (specialRange .rcp neg m e).2 (1 / (ExactVal.fin neg m e).real) ∧ |(specialRange .rcp neg m e).1.real| ≤ |1 / (ExactVal.fin neg m e).real| := by
  obtain ⟨low, high⟩ := div_real (2 ^ 160) m h
  have big : 2 ^ 136 ≤ 2 ^ 160 / m := by
    rw [Nat.le_div_iff_mul_le (by omega)]
    calc 2 ^ 136 * m ≤ 2 ^ 136 * 2 ^ 24 := Nat.mul_le_mul_left _ small.le
      _ = _ := by norm_num
  have pos : (0 : ℝ) < m := by exact_mod_cast Nat.pos_of_ne_zero h
  have value : 1 / (ExactVal.fin neg m e).real = (signInt neg : ℝ) * (((2 ^ 160 : Nat) : ℝ) / m) * (2 : ℝ) ^ (-160 - e) := by
    have scale : (2 : ℝ) ^ (-160 - e) = ((2 : ℝ) ^ e)⁻¹ / 2 ^ 160 := by
      rw [zpow_sub₀ (by norm_num), zpow_neg, div_eq_mul_inv]
      norm_cast
      ring
    have sign : (signInt neg : ℝ) * signInt neg = 1 := by cases neg <;> simp [signInt]
    have signPos : (signInt neg : ℝ) ≠ 0 := fun zero => by rw [zero] at sign; simp at sign
    rw [real_fin, scale, div_eq_iff (by positivity)]
    push_cast
    field_simp
    linarith [sign, sq (signInt neg : ℝ)]
  have count : (2 : ℝ) ^ 136 ≤ ((2 ^ 160 / m : Nat) : ℝ) := by exact_mod_cast big
  have encloses := encloses_counts (n := neg) (k := 2 ^ 160 / m) (l := 2 ^ 160 / m + 1) (p := -160 - e) low (by push_cast at high ⊢; exact high.le) (by push_cast at count ⊢; linarith)
  rw [value]
  refine ⟨encloses, ?_⟩
  show |(ExactVal.fin neg (2 ^ 160 / m) (-160 - e)).real| ≤ _
  rw [abs_real_fin, abs_mul, abs_mul, abs_signInt, one_mul, abs_of_pos (by positivity), abs_of_pos (by positivity)]
  gcongr

/-! ### The reciprocal square root -/

theorem rsq_encloses {m : Nat} {e : Int} (h : m ≠ 0) (small : m < 2 ^ 24) :
    Encloses (specialRange .rsq false m e).1 (specialRange .rsq false m e).2 (1 / Real.sqrt (ExactVal.fin false m e).real)
      ∧ |(specialRange .rsq false m e).1.real| ≤ |1 / Real.sqrt (ExactVal.fin false m e).real| := by
  obtain ⟨n, g, range, same, hn, hs⟩ : ∃ (n : Nat) (g : Int), specialRange .rsq false m e = (.fin false (isqrt (2 ^ 200 / n)) (-100 - g), .fin false (isqrt (2 ^ 200 / n) + 1) (-100 - g))
      ∧ (ExactVal.fin false m e).real = n * ((2 : ℝ) ^ g * (2 : ℝ) ^ g) ∧ n ≠ 0 ∧ n < 2 ^ 25 := by
    unfold specialRange
    by_cases even : e % 2 = 0
    · refine ⟨m, e / 2, ?_, ?_, h, by omega⟩
      · simp only [even, if_true]
      · rw [← zpow_add₀ (by norm_num), show e / 2 + e / 2 = e by omega]
        simp [ExactVal.real]
    · refine ⟨2 * m, (e - 1) / 2, ?_, ?_, by omega, by omega⟩
      · simp only [even, if_false]
      · rw [← zpow_add₀ (by norm_num), show (e - 1) / 2 + (e - 1) / 2 = e - 1 by omega, zpow_sub_one₀ (by norm_num)]
        simp [ExactVal.real]
        ring
  have pos : (0 : ℝ) < n := by exact_mod_cast Nat.pos_of_ne_zero hn
  obtain ⟨X, hX⟩ : ∃ X, (2 : ℝ) ^ 100 / Real.sqrt n = X := ⟨_, rfl⟩
  have root : 0 < Real.sqrt n := Real.sqrt_pos.2 pos
  have Xpos : 0 < X := by rw [← hX]; positivity
  have square : X * X = ((2 ^ 200 : Nat) : ℝ) / n := by
    rw [← hX, div_mul_div_comm, Real.mul_self_sqrt pos.le]
    norm_num
  obtain ⟨low, high⟩ := div_real (2 ^ 200) n hn
  have fits : 2 ^ 200 / n < 2 ^ 256 := (Nat.div_le_self _ _).trans_lt (by norm_num)
  obtain ⟨le, lt⟩ := isqrt_real fits Xpos.le (by rw [square]; exact low) (by rw [square]; exact high)
  have big : (2 : ℝ) ^ 30 + 1 ≤ X := by
    have bound : (n : ℝ) ≤ 2 ^ 25 := by exact_mod_cast hs.le
    refine (mul_self_le_mul_self_iff (by positivity) Xpos.le).2 ?_
    rw [square, le_div_iff₀ pos]
    calc ((2 : ℝ) ^ 30 + 1) * (2 ^ 30 + 1) * n ≤ (2 ^ 30 + 1) * (2 ^ 30 + 1) * 2 ^ 25 := by gcongr
      _ ≤ _ := by norm_num
  have value : 1 / Real.sqrt (ExactVal.fin false m e).real = (signInt false : ℝ) * X * (2 : ℝ) ^ (-100 - g) := by
    have scale : (2 : ℝ) ^ (-100 - g) = ((2 : ℝ) ^ g)⁻¹ / 2 ^ 100 := by
      rw [zpow_sub₀ (by norm_num), zpow_neg, div_eq_mul_inv]
      norm_cast
      ring
    rw [same, Real.sqrt_mul pos.le, Real.sqrt_mul_self (by positivity), scale, ← hX]
    simp only [signInt, Bool.false_eq_true, if_false, Int.cast_one]
    field_simp
  have encloses := encloses_counts (n := false) (k := isqrt (2 ^ 200 / n)) (l := isqrt (2 ^ 200 / n) + 1) (p := -100 - g) le (by push_cast; exact lt.le) (by push_cast; linarith)
  rw [range, value]
  refine ⟨encloses, ?_⟩
  rw [abs_real_fin, abs_mul, abs_mul, abs_signInt, one_mul, abs_of_pos Xpos, abs_of_pos (by positivity)]
  gcongr

end Sys2Proof.Machine
end

section
/-! SUPPORT. The two values that enclose a power of two and a logarithm (R108). -/

namespace Sys2Proof.Machine

/-! ### The power of two -/

theorem rpow_le_linear {x : ℝ} (low : 0 ≤ x) (high : x ≤ 1) : (2 : ℝ) ^ x ≤ 1 + x := by
  have := rpow_one_add_le_one_add_mul_self (s := 1) (by norm_num) low high
  norm_num at this
  linarith

theorem one_add_le_rpow {x : ℝ} (h : x ≤ 0) : 1 + x ≤ (2 : ℝ) ^ x := by
  have log := Real.add_one_le_exp (x * Real.log 2)
  have two : (2 : ℝ) ^ x = Real.exp (x * Real.log 2) := by rw [Real.rpow_def_of_pos (by norm_num), mul_comm]
  have small : Real.log 2 < 1 := by linarith [Real.log_two_lt_d9]
  rw [two]
  nlinarith

/-- An operand so small that its power is 1 but for 2^-40. -/
theorem ex2_encloses_tiny {neg : Bool} {m : Nat} {e : Int} (h : m ≠ 0) (tiny : (Nat.log2 m : Int) + e < -40) :
    Encloses (specialRange .ex2 neg m e).1 (specialRange .ex2 neg m e).2 ((2 : ℝ) ^ (ExactVal.fin neg m e).real) := by
  have magnitude : |(ExactVal.fin neg m e).real| ≤ 1 / 2 ^ 40 := by
    rw [abs_real_fin]
    obtain ⟨-, high⟩ := log2_bounds h
    calc (m : ℝ) * (2 : ℝ) ^ e ≤ (2 : ℝ) ^ ((Nat.log2 m : Int) + 1) * (2 : ℝ) ^ e := by gcongr
      _ = (2 : ℝ) ^ ((Nat.log2 m : Int) + 1 + e) := by rw [← zpow_add₀ (by norm_num)]
      _ ≤ (2 : ℝ) ^ (-40 : Int) := zpow_le_zpow_right₀ (by norm_num) (by omega)
      _ = _ := by norm_num
  have positive : 0 ≤ (m : ℝ) * (2 : ℝ) ^ e := by positivity
  unfold specialRange
  simp only [tiny, if_true]
  cases neg
  · have value : (ExactVal.fin false m e).real = m * (2 : ℝ) ^ e := by simp [ExactVal.real]
    rw [value] at magnitude ⊢
    rw [abs_of_nonneg positive] at magnitude
    have lower : 1 ≤ (2 : ℝ) ^ ((m : ℝ) * (2 : ℝ) ^ e) := Real.one_le_rpow (by norm_num) positive
    have upper := rpow_le_linear positive (magnitude.trans (by norm_num))
    refine ⟨⟨_, _, _, rfl⟩, ⟨_, _, _, rfl⟩, ?_, ?_⟩
    · refine Set.mem_uIcc.2 (.inl ⟨?_, ?_⟩)
      · simpa [ExactVal.real] using lower
      · norm_num [ExactVal.real]
        linarith
    · norm_num [ExactVal.real]
  · have value : (ExactVal.fin true m e).real = -(m * (2 : ℝ) ^ e) := by simp [ExactVal.real]
    rw [value] at magnitude ⊢
    rw [abs_neg, abs_of_nonneg positive] at magnitude
    have upper : (2 : ℝ) ^ (-((m : ℝ) * (2 : ℝ) ^ e)) ≤ 1 := Real.rpow_le_one_of_one_le_of_nonpos (by norm_num) (by linarith)
    have lower := one_add_le_rpow (x := -((m : ℝ) * (2 : ℝ) ^ e)) (by linarith)
    refine ⟨⟨_, _, _, rfl⟩, ⟨_, _, _, rfl⟩, ?_, ?_⟩
    · refine Set.mem_uIcc.2 (.inl ⟨?_, ?_⟩)
      · norm_num [ExactVal.real]
        linarith
      · simpa [ExactVal.real] using upper
    · norm_num [ExactVal.real]

/-- The whole part of a value that is no whole number. -/
theorem floorInt_real {neg : Bool} {m : Nat} {e : Int} (he : e < 0) (part : m % pow2 (-e) ≠ 0) :
    0 ≤ (ExactVal.fin neg m e).real - floorInt neg m e ∧ (ExactVal.fin neg m e).real - floorInt neg m e < 1 := by
  have pos : 0 < pow2 (-e) := Nat.two_pow_pos _
  have rposD : (0 : ℝ) < (pow2 (-e) : Nat) := by exact_mod_cast pos
  have scale : (2 : ℝ) ^ e = 1 / (pow2 (-e) : Nat) := by rw [pow2_cast (by omega : 0 ≤ -e), zpow_neg]; simp
  have euclid : (m : ℝ) = ((m / pow2 (-e) : Nat) : ℝ) * (pow2 (-e) : Nat) + ((m % pow2 (-e) : Nat) : ℝ) := by
    have := Nat.div_add_mod m (pow2 (-e))
    rw [Nat.mul_comm] at this
    exact_mod_cast this.symm
  have rlt : ((m % pow2 (-e) : Nat) : ℝ) < (pow2 (-e) : Nat) := by exact_mod_cast Nat.mod_lt m pos
  have rpos : (0 : ℝ) < ((m % pow2 (-e) : Nat) : ℝ) := by exact_mod_cast Nat.pos_of_ne_zero part
  have whole : floorInt neg m e = if neg then -(((m / pow2 (-e) : Nat) : Int) + 1) else ((m / pow2 (-e) : Nat) : Int) := by
    unfold floorInt roundAt
    rw [if_neg (not_le.2 he)]
    simp only [zero_sub, ne_eq, part, not_false_eq_true, true_and]
    cases neg <;> simp
  have quotient : (m : ℝ) * (2 : ℝ) ^ e = ((m / pow2 (-e) : Nat) : ℝ) + ((m % pow2 (-e) : Nat) : ℝ) / (pow2 (-e) : Nat) := by
    rw [scale]
    nth_rewrite 1 [euclid]
    field_simp
  have fraction : 0 < ((m % pow2 (-e) : Nat) : ℝ) / (pow2 (-e) : Nat) ∧ ((m % pow2 (-e) : Nat) : ℝ) / (pow2 (-e) : Nat) < 1 := ⟨by positivity, (div_lt_one rposD).2 rlt⟩
  rw [whole, real_fin, mul_assoc, quotient]
  clear whole quotient euclid
  generalize ((m % pow2 (-e) : Nat) : ℝ) / (pow2 (-e) : Nat) = d at *
  generalize m / pow2 (-e) = n
  cases neg
  · simp only [signInt, Bool.false_eq_true, if_false]
    push_cast
    constructor <;> linarith [fraction.1, fraction.2]
  · simp only [signInt, if_true]
    push_cast
    constructor <;> linarith [fraction.1, fraction.2]

/-- The power's bits: counted in units of 2^(i - 80), i the whole part. -/
theorem exp2_count {F : Nat} (h : F < 2 ^ 80) : (exp2From F 80 (2 ^ 81) (2 ^ 80) : ℝ) ≤ frac2 F * 2 ^ 80 ∧ frac2 F * 2 ^ 80 ≤ exp2From F 80 (2 ^ 81) (2 ^ 80) + 1024 := by
  have two := frac2_le h.le
  have pos := one_le_frac2 F
  have top : frac2 (2 ^ 80) * 2 ^ 80 = ((2 ^ 81 : Nat) : ℝ) := by rw [frac2_top]; norm_num
  obtain ⟨low, high⟩ := exp2From_spec F 80 (2 ^ 81) (2 ^ 80) 1 0 le_rfl top.ge (by linarith) le_rfl le_rfl (by norm_num) (by norm_num)
  rw [Nat.mod_eq_of_lt h, one_mul] at low high
  refine ⟨low, ?_⟩
  have : frac2 F * (1 - 0 - 4 * ((80 : Nat) : ℝ) / 2 ^ 80) * 2 ^ 80 = frac2 F * 2 ^ 80 - 320 * frac2 F := by push_cast; ring
  rw [this] at high
  linarith

theorem ex2_encloses_bits {neg : Bool} {m : Nat} {e : Int} (small : m < 2 ^ 24) (he : e < 0) (part : m % pow2 (-e) ≠ 0) (tiny : ¬ (Nat.log2 m : Int) + e < -40) :
    Encloses (specialRange .ex2 neg m e).1 (specialRange .ex2 neg m e).2 ((2 : ℝ) ^ (ExactVal.fin neg m e).real) := by
  have nonzero : m ≠ 0 := fun zero => part (by rw [zero, Nat.zero_mod])
  have least : -64 ≤ e := by
    have : Nat.log2 m < 24 := (Nat.log2_lt nonzero).2 small
    omega
  obtain ⟨fracLow, fracHigh⟩ := floorInt_real (neg := neg) he part
  obtain ⟨c, k, sum, sumReal⟩ := add_real false neg (decide (-floorInt neg m e < 0)) m (-floorInt neg m e).natAbs e 0
  have intReal : (ExactVal.fin (decide (-floorInt neg m e < 0)) (-floorInt neg m e).natAbs 0).real = ((-floorInt neg m e : Int) : ℝ) := ofInt_real _
  rw [min_eq_left he.le] at sum sumReal
  rw [intReal] at sumReal
  have diff : (ExactVal.fin c k e).real = (ExactVal.fin neg m e).real - floorInt neg m e := by rw [sumReal]; push_cast; ring
  have count : ((roundAt (-80) .rz false k e : Nat) : ℝ) = ((ExactVal.fin neg m e).real - floorInt neg m e) * 2 ^ 80 := by
    have abs : (k : ℝ) * (2 : ℝ) ^ e = (ExactVal.fin neg m e).real - floorInt neg m e := by
      rw [← abs_real_fin c k e, diff, abs_of_nonneg fracLow]
    rw [← abs]
    unfold roundAt
    rw [if_pos (by omega)]
    push_cast
    rw [pow2_cast (by omega), sub_neg_eq_add, zpow_add₀ (by norm_num)]
    norm_cast
    ring
  have range : specialRange .ex2 neg m e = (.fin false (exp2From (roundAt (-80) .rz false k e) 80 (2 ^ 81) (2 ^ 80)) (floorInt neg m e - 80),
      .fin false (exp2From (roundAt (-80) .rz false k e) 80 (2 ^ 81) (2 ^ 80) + 1024) (floorInt neg m e - 80)) := by
    have sum' : ExactVal.add false (.fin neg m e) (ExactVal.ofInt (-floorInt neg m e)) = .fin c k e := sum
    unfold specialRange
    simp only [tiny, if_false, sum']
  have below : roundAt (-80) .rz false k e < 2 ^ 80 := by
    have : ((roundAt (-80) .rz false k e : Nat) : ℝ) < ((2 ^ 80 : Nat) : ℝ) := by
      rw [count]
      push_cast
      nlinarith
    exact_mod_cast this
  obtain ⟨low, high⟩ := exp2_count below
  have one := one_le_frac2 (roundAt (-80) .rz false k e)
  have power : (2 : ℝ) ^ (ExactVal.fin neg m e).real = (signInt false : ℝ) * (frac2 (roundAt (-80) .rz false k e) * 2 ^ 80) * (2 : ℝ) ^ (floorInt neg m e - 80) := by
    have fraction : frac2 (roundAt (-80) .rz false k e) = (2 : ℝ) ^ ((ExactVal.fin neg m e).real - floorInt neg m e) := by
      rw [frac2, count, mul_div_assoc, div_self (by positivity), mul_one]
    have whole : (2 : ℝ) ^ (floorInt neg m e - 80) = (2 : ℝ) ^ (floorInt neg m e : ℝ) / 2 ^ 80 := by
      rw [zpow_sub₀ (by norm_num), Real.rpow_intCast]
      norm_cast
    rw [fraction, whole, Real.rpow_sub (by norm_num)]
    simp only [signInt, Bool.false_eq_true, if_false, Int.cast_one]
    have : (2 : ℝ) ^ (floorInt neg m e : ℝ) ≠ 0 := by positivity
    field_simp
  rw [range, power]
  generalize exp2From (roundAt (-80) .rz false k e) 80 (2 ^ 81) (2 ^ 80) = l at *
  have large : (2 : ℝ) ^ 80 ≤ l + 1024 := le_trans (by linarith) high
  exact encloses_counts low (by push_cast; exact high) (by push_cast; linarith)

/-! ### The logarithm -/

/-- An integer counted in units of 2^p. -/
theorem count_real (v p : Int) : (ExactVal.fin (decide (v < 0)) v.natAbs p).real = (v : ℝ) * (2 : ℝ) ^ p := by
  have := ofInt_real v
  unfold ExactVal.ofInt at this
  rw [real_fin] at this ⊢
  rw [← this, zpow_zero, mul_one]

/-- The logarithm's bits: its integer count and the next 32 enclose the true one. -/
theorem lg2_range {m : Nat} {e : Int} (h : m ≠ 0) (small : m < 2 ^ 24) : ∃ v : Int, specialRange .lg2 false m e = (.fin (v < 0) v.natAbs (-110), .fin (v + 32 < 0) (v + 32).natAbs (-110))
    ∧ (v : ℝ) ≤ Real.logb 2 (ExactVal.fin false m e).real * 2 ^ 110 ∧ Real.logb 2 (ExactVal.fin false m e).real * 2 ^ 110 ≤ v + 32 := by
  refine ⟨_, rfl, ?_⟩
  have log : Nat.log2 m < 24 := (Nat.log2_lt h).2 small
  have low : 2 ^ Nat.log2 m ≤ m := Nat.log2_self_le h
  have high : m < 2 ^ (Nat.log2 m + 1) := Nat.lt_log2_self
  have pos : (0 : ℝ) < m := by exact_mod_cast Nat.pos_of_ne_zero h
  generalize Nat.log2 m = k at *
  have split : 2 ^ 240 = 2 ^ k * 2 ^ (240 - k) := by rw [← pow_add]; congr 1; omega
  have whole : m * 2 ^ 240 / 2 ^ k = m * 2 ^ (240 - k) := by
    rw [split, ← Nat.mul_assoc, Nat.mul_comm m, Nat.mul_assoc, Nat.mul_div_cancel_left _ (Nat.two_pow_pos k)]
  have zlow : 2 ^ 240 ≤ m * 2 ^ (240 - k) := by
    rw [split]
    exact Nat.mul_le_mul_right _ low
  have zhigh : m * 2 ^ (240 - k) < 2 ^ 241 := by
    calc m * 2 ^ (240 - k) < 2 ^ (k + 1) * 2 ^ (240 - k) := Nat.mul_lt_mul_of_pos_right high (Nat.two_pow_pos _)
      _ = 2 ^ 241 := by rw [← pow_add]; congr 1; omega
  have value : Real.logb 2 (ExactVal.fin false m e).real = k + e + logAt (m * 2 ^ (240 - k)) := by
    have quotient : ((m * 2 ^ (240 - k) : Nat) : ℝ) / 2 ^ 240 = m / 2 ^ k := by
      have : (2 : ℝ) ^ 240 = 2 ^ k * 2 ^ (240 - k) := by exact_mod_cast split
      rw [this]
      push_cast
      field_simp
    have real : (ExactVal.fin false m e).real = m / 2 ^ k * (2 : ℝ) ^ ((k : Int) + e) := by
      rw [zpow_add₀ (by norm_num), zpow_natCast]
      simp only [ExactVal.real, Bool.false_eq_true, if_false, one_mul]
      field_simp
    rw [logAt, quotient, real, Real.logb_mul (by positivity) (by positivity), ← Real.rpow_intCast, Real.logb_rpow (by norm_num) (by norm_num)]
    push_cast
    ring
  obtain ⟨below, above⟩ := log2From_spec 110 (m * 2 ^ (240 - k)) 0 zlow zhigh
  rw [whole, value]
  generalize log2From 110 (m * 2 ^ (240 - k)) 0 = t at *
  generalize logAt (m * 2 ^ (240 - k)) = L at *
  push_cast at below above ⊢
  have slack : (2 : ℝ) ^ 110 * (8 / 2 ^ 240) ≤ 1 := by norm_num
  constructor <;> nlinarith

theorem lg2_mem {m : Nat} {e : Int} (h : m ≠ 0) (small : m < 2 ^ 24) :
    Real.logb 2 (ExactVal.fin false m e).real ∈ Set.uIcc (specialRange .lg2 false m e).1.real (specialRange .lg2 false m e).2.real
      ∧ |(specialRange .lg2 false m e).2.real - (specialRange .lg2 false m e).1.real| = 32 / 2 ^ 110 := by
  obtain ⟨v, range, low, high⟩ := lg2_range (e := e) h small
  have scale : (2 : ℝ) ^ (-110 : Int) = 1 / 2 ^ 110 := by norm_num
  rw [range]
  simp only [count_real, scale]
  push_cast
  constructor
  · refine Set.mem_uIcc.2 (.inl ⟨?_, ?_⟩)
    · rw [mul_one_div, div_le_iff₀ (by positivity)]
      exact low
    · rw [mul_one_div, le_div_iff₀ (by positivity)]
      exact high
  · rw [← sub_mul, add_sub_cancel_left, mul_one_div, abs_of_pos (by positivity)]

/-- Away from 1 the logarithm is large against the error of its bits. -/
theorem lg2_encloses {m : Nat} {e : Int} (h : m ≠ 0) (small : m < 2 ^ 24) (far : 1 ≤ |Real.logb 2 (ExactVal.fin false m e).real|) :
    Encloses (specialRange .lg2 false m e).1 (specialRange .lg2 false m e).2 (Real.logb 2 (ExactVal.fin false m e).real) := by
  obtain ⟨mem, gap⟩ := lg2_mem (e := e) h small
  obtain ⟨v, range, -⟩ := lg2_range (e := e) h small
  refine ⟨⟨_, _, _, by rw [range]⟩, ⟨_, _, _, by rw [range]⟩, mem, ?_⟩
  have near := Set.abs_sub_left_of_mem_uIcc mem
  have triangle := abs_sub_abs_le_abs_sub (Real.logb 2 (ExactVal.fin false m e).real) (specialRange .lg2 false m e).1.real
  rw [gap] at near ⊢
  norm_num at near ⊢
  linarith

end Sys2Proof.Machine
end

section
/-! SUPPORT. The exact results of R108 as real numbers, and how far true results lie within the format. -/

namespace Sys2Proof.Machine

/-! ### Exact results -/

/-- A value of the format is rounded to itself. -/
theorem roundRne_exact {neg : Bool} {m : Nat} {e : Int} (whole : ulpExp (.fin neg m e) ≤ e) (small : |(ExactVal.fin neg m e).real| ≤ (2 : ℝ) ^ (127 : Int)) :
    ∃ k r, ofF32 (roundRne (.fin neg m e)) = .fin neg k r ∧ (ExactVal.fin neg k r).real = (ExactVal.fin neg m e).real := by
  have p128 : (2 : ℝ) ^ (128 : Int) = (2 : ℝ) ^ (127 : Int) * 2 := by rw [show (128 : Int) = 127 + 1 by norm_num, zpow_add₀ (by norm_num), zpow_one]
  have pos : (0 : ℝ) < (2 : ℝ) ^ (127 : Int) := by positivity
  have unit : (2 : ℝ) ^ ulpExp (.fin neg m e) ≤ (2 : ℝ) ^ (127 : Int) :=
    zpow_le_zpow_right₀ (by norm_num) ((lastPlace_le (ulpExp_lastPlace neg m e) (by rw [p128]; linarith)).trans (by norm_num))
  obtain ⟨k, r, read, -, exact'⟩ := (roundRne_spec neg m e).1 (by linarith)
  exact ⟨k, r, read, exact' whole⟩

theorem pow2F32_exact (neg : Bool) {k : Int} (low : -149 ≤ k) (high : k ≤ 127) : ∃ j r, ofF32 (pow2F32 neg k) = .fin neg j r ∧ (ExactVal.fin neg j r).real = (signInt neg : ℝ) * (2 : ℝ) ^ k := by
  have value : (ExactVal.fin neg 1 k).real = (signInt neg : ℝ) * (2 : ℝ) ^ k := by rw [real_fin, Nat.cast_one, mul_one]
  have unit : ulpExp (.fin neg 1 k) ≤ k := max_le (by rw [show Nat.log2 1 = 0 from rfl]; omega) low
  obtain ⟨j, r, read, same⟩ := roundRne_exact unit (by rw [abs_real_fin, Nat.cast_one, one_mul]; exact zpow_le_zpow_right₀ (by norm_num) high)
  exact ⟨j, r, read, same.trans value⟩

theorem roundInt_exact {k : Int} (small : |k| ≤ 149) : ∃ n j r, ofF32 (roundRne (ExactVal.ofInt k)) = .fin n j r ∧ (ExactVal.fin n j r).real = (k : ℝ) := by
  have value := ofInt_real k
  have bound : |(k : ℝ)| ≤ 149 := by exact_mod_cast small
  unfold ExactVal.ofInt at value ⊢
  have place := ulpExp_lastPlace (k < 0) k.natAbs 0
  have unit : ulpExp (.fin (k < 0) k.natAbs 0) ≤ 0 := by
    rcases place.2.2 with least | low
    · omega
    · rw [value] at low
      have := (zpow_lt_zpow_iff_right₀ (by norm_num : (1 : ℝ) < 2)).1 (low.trans_lt (bound.trans_lt (by norm_num : (149 : ℝ) < (2 : ℝ) ^ (8 : Int))))
      omega
  obtain ⟨j, r, read, same⟩ := roundRne_exact unit (by rw [value]; exact bound.trans (by norm_num))
  exact ⟨_, j, r, read, same.trans value⟩

theorem withinUnits_exact {r : ExactVal} {c : Bool} {k : Nat} {q : Int} {y : ℝ} (n : Nat) (h : r = .fin c k q) (same : (ExactVal.fin c k q).real = y) : WithinUnits r y n :=
  ⟨c, k, q, h, _, .inl (ulpExp_lastPlace c k q), by rw [same, sub_self, abs_zero]; positivity⟩

/-- A power of two and its exponent. -/
theorem powerOf_real {m : Nat} {e k : Int} (h : powerOf m e = some k) (neg : Bool) : (ExactVal.fin neg m e).real = (signInt neg : ℝ) * (2 : ℝ) ^ k ∧ e ≤ k := by
  unfold powerOf at h
  split at h
  · next power =>
    cases h
    rw [real_fin, zpow_add₀ (by norm_num), zpow_natCast, ← mul_assoc]
    refine ⟨?_, by omega⟩
    congr 2
    exact_mod_cast power
  · cases h

/-! ### Magnitudes -/

/-- Finite values are counted in units of 2^-149. -/
theorem exists_count {x : Word} {neg : Bool} {m : Nat} {e : Int} (h : ofF32 x = .fin neg m e) (nonzero : m ≠ 0) :
    ∃ c : Nat, c ≠ 0 ∧ |(ExactVal.fin neg m e).real| = (c : ℝ) * (2 : ℝ) ^ (-149 : Int) := by
  obtain ⟨-, low, -⟩ := ofF32_fin h
  refine ⟨m * pow2 (e + 149), Nat.mul_ne_zero nonzero (Nat.two_pow_pos _).ne', ?_⟩
  rw [abs_real_fin]
  push_cast
  rw [pow2_cast (by omega), mul_assoc, ← zpow_add₀ (by norm_num)]
  congr 2
  omega

theorem ofF32_below {x : Word} {neg : Bool} {m : Nat} {e : Int} (h : ofF32 x = .fin neg m e) : |(ExactVal.fin neg m e).real| < (2 : ℝ) ^ (128 : Int) := by
  obtain ⟨small, -, high⟩ := ofF32_fin h
  have bits : (m : ℝ) < (2 : ℝ) ^ (24 : Int) := by
    have : (m : ℝ) < ((2 ^ 24 : Nat) : ℝ) := by exact_mod_cast small
    norm_num at this ⊢
    exact this
  rw [abs_real_fin]
  calc (m : ℝ) * (2 : ℝ) ^ e < (2 : ℝ) ^ (24 : Int) * (2 : ℝ) ^ e := by gcongr
    _ ≤ (2 : ℝ) ^ (24 : Int) * (2 : ℝ) ^ (104 : Int) := by gcongr; norm_num
    _ = _ := by rw [← zpow_add₀ (by norm_num)]; norm_num

theorem ofF32_above {x : Word} {neg : Bool} {m : Nat} {e : Int} (h : ofF32 x = .fin neg m e) (nonzero : m ≠ 0) : (2 : ℝ) ^ (-149 : Int) ≤ |(ExactVal.fin neg m e).real| := by
  obtain ⟨c, some', value⟩ := exists_count h nonzero
  have : (1 : ℝ) ≤ c := by exact_mod_cast Nat.one_le_iff_ne_zero.2 some'
  rw [value]
  nlinarith [(by positivity : (0 : ℝ) < (2 : ℝ) ^ (-149 : Int))]

/-- An operand's quotient by a power of two, in whole numbers. -/
theorem count_scaled (m : Nat) (e : Int) : ((m * pow2 e : Nat) : ℝ) = m * (2 : ℝ) ^ e * (pow2 (-e) : Nat) := by
  rcases le_total 0 e with pos | neg
  · rw [pow2_of_nonpos (e := -e) (by omega)]
    push_cast
    rw [pow2_cast pos, mul_one]
  · rw [pow2_of_nonpos neg, pow2_cast (by omega), mul_assoc, ← zpow_add₀ (by norm_num)]
    simp

theorem floorInt_whole {neg : Bool} {m : Nat} {e : Int} (whole : 0 ≤ e ∨ m % pow2 (-e) = 0) : (floorInt neg m e : ℝ) = (ExactVal.fin neg m e).real := by
  have count : ((roundAt 0 .rd neg m e : Nat) : ℝ) = m * (2 : ℝ) ^ e := by
    unfold roundAt
    by_cases pos : 0 ≤ e
    · rw [if_pos pos, sub_zero]
      push_cast
      rw [pow2_cast pos]
    · have rest := whole.resolve_left pos
      have exact' : m / pow2 (-e) * pow2 (-e) = m := Nat.div_mul_cancel (Nat.dvd_of_mod_eq_zero rest)
      have posD : (0 : ℝ) < (pow2 (-e) : Nat) := by exact_mod_cast Nat.two_pow_pos _
      rw [if_neg pos]
      simp only [zero_sub, rest, ne_eq, not_true_eq_false, false_and, if_false]
      have scale : (2 : ℝ) ^ e * (pow2 (-e) : Nat) = 1 := by rw [pow2_cast (by omega), ← zpow_add₀ (by norm_num)]; simp
      calc ((m / pow2 (-e) : Nat) : ℝ) = ((m / pow2 (-e) : Nat) : ℝ) * ((2 : ℝ) ^ e * (pow2 (-e) : Nat)) := by rw [scale, mul_one]
        _ = ((m / pow2 (-e) * pow2 (-e) : Nat) : ℝ) * (2 : ℝ) ^ e := by push_cast; ring
        _ = _ := by rw [exact']
  unfold floorInt
  rw [real_fin, mul_assoc, ← count]
  cases neg <;> simp [signInt]

end Sys2Proof.Machine
end

section
/-! OBLIGATIONS. The error bounds of the special functions (R108). -/

namespace Sys2Proof.Machine

/-! ### VFRCP -/

theorem rcp_exact {neg : Bool} {m : Nat} {e : Int} {w : Word} (h : m ≠ 0) (exact' : specialExact .rcp (.fin neg m e) = some w) :
    ∃ k, powerOf m e = some k ∧ -127 ≤ k ∧ w = pow2F32 neg (-k) := by
  unfold specialExact at exact'
  simp only [h, if_false] at exact'
  cases hp : powerOf m e with
  | none => rw [hp] at exact'; cases exact'
  | some k =>
    rw [hp] at exact'
    simp only at exact'
    split at exact'
    · next low => exact ⟨k, rfl, low, (Option.some.inj exact').symm⟩
    · cases exact'

theorem rcp_keeps {x : Word} {neg : Bool} {m : Nat} {e : Int} (hx : ofF32 x = .fin neg m e) (h : m ≠ 0) (large : (2 : ℝ) ^ (-128 : Int) < |(ExactVal.fin neg m e).real|) :
    WithinUnits (ofF32 (special .rcp x)) (1 / (ExactVal.fin neg m e).real) 1 := by
  obtain ⟨small, -, -⟩ := ofF32_fin hx
  cases hs : specialExact .rcp (.fin neg m e) with
  | some w =>
    obtain ⟨k, power, low, rfl⟩ := rcp_exact h hs
    obtain ⟨value, -⟩ := powerOf_real power neg
    have high : k < 128 := by
      have below := ofF32_below hx
      rw [value, abs_mul, abs_signInt, one_mul, abs_of_pos (by positivity)] at below
      exact (zpow_lt_zpow_iff_right₀ (by norm_num)).1 below
    obtain ⟨j, r, read, same⟩ := pow2F32_exact neg (k := -k) (by omega) (by omega)
    rw [special_of_exact (hx ▸ hs)]
    refine withinUnits_exact 1 read ?_
    rw [same, value, zpow_neg]
    have sign : (signInt neg : ℝ) = 1 ∨ (signInt neg : ℝ) = -1 := by cases neg <;> simp [signInt]
    rcases sign with sign | sign <;> rw [sign] <;> field_simp
  | none =>
    obtain ⟨encloses, below⟩ := rcp_encloses neg (e := e) h small
    refine special_keeps hx hs encloses (by rintro ⟨hf, -⟩; cases hf) (.inr below) ?_
    obtain ⟨c, -, count⟩ := exists_count hx h
    have units : (2 : ℝ) ^ (-128 : Int) = 2 ^ 21 * (2 : ℝ) ^ (-149 : Int) := by rw [show (-128 : Int) = 21 + -149 by norm_num, zpow_add₀ (by norm_num)]; norm_cast
    have pos : (0 : ℝ) < (2 : ℝ) ^ (-149 : Int) := by positivity
    rw [count, units, mul_lt_mul_iff_left₀ pos] at large
    have next : (2 : ℝ) ^ 21 + 1 ≤ c := by
      have : 2 ^ 21 < c := by exact_mod_cast large
      exact_mod_cast this
    have bound : |1 / (ExactVal.fin neg m e).real| ≤ 1 / ((2 ^ 21 + 1) * (2 : ℝ) ^ (-149 : Int)) := by
      rw [abs_div, abs_one, count]
      gcongr
    refine (add_le_add_left bound _).trans ?_
    norm_num

/-- A reciprocal beyond the format is an infinity. -/
theorem rcp_beyond {x : Word} {neg : Bool} {m : Nat} {e : Int} (hx : ofF32 x = .fin neg m e) (h : m ≠ 0) (tiny : |(ExactVal.fin neg m e).real| < (2 : ℝ) ^ (-128 : Int)) :
    ofF32 (special .rcp x) = .inf neg := by
  obtain ⟨small, -, -⟩ := ofF32_fin hx
  obtain ⟨encloses, -⟩ := rcp_encloses neg (e := e) h small
  have hs : specialExact .rcp (.fin neg m e) = none := by
    by_contra some'
    obtain ⟨w, hw⟩ := Option.ne_none_iff_exists'.1 some'
    obtain ⟨k, power, low, -⟩ := rcp_exact h hw
    rw [(powerOf_real power neg).1, abs_mul, abs_signInt, one_mul, abs_of_pos (by positivity)] at tiny
    have := (zpow_lt_zpow_iff_right₀ (by norm_num : (1 : ℝ) < 2)).1 tiny
    omega
  have p128 : (2 : ℝ) ^ (128 : Int) = 2 ^ 128 := by norm_num
  have far : (2 : ℝ) ^ 128 + 2 ^ 107 ≤ |1 / (ExactVal.fin neg m e).real| := by
    obtain ⟨c, some', count⟩ := exists_count hx h
    have units : (2 : ℝ) ^ (-128 : Int) = 2 ^ 21 * (2 : ℝ) ^ (-149 : Int) := by rw [show (-128 : Int) = 21 + -149 by norm_num, zpow_add₀ (by norm_num)]; norm_cast
    have pos : (0 : ℝ) < (2 : ℝ) ^ (-149 : Int) := by positivity
    have cpos : (0 : ℝ) < c := by exact_mod_cast Nat.pos_of_ne_zero some'
    rw [count, units, mul_lt_mul_iff_left₀ pos] at tiny
    have next : (c : ℝ) ≤ 2 ^ 21 - 1 := by
      have : c < 2 ^ 21 := by exact_mod_cast tiny
      have : c + 1 ≤ 2 ^ 21 := this
      have : (c : ℝ) + 1 ≤ 2 ^ 21 := by exact_mod_cast this
      linarith
    have bound : 1 / ((2 ^ 21 - 1) * (2 : ℝ) ^ (-149 : Int)) ≤ |1 / (ExactVal.fin neg m e).real| := by
      rw [abs_div, abs_one, count]
      gcongr
    refine le_trans ?_ bound
    norm_num
  have near := encloses.near
  have range : specialRange .rcp neg m e = (.fin neg (2 ^ 160 / m) (-160 - e), .fin neg (2 ^ 160 / m + 1) (-160 - e)) := rfl
  rw [special_of_none hx hs]
  rw [range] at near ⊢
  generalize 2 ^ 160 / m + 1 = q'
  generalize 2 ^ 160 / m = q at *
  generalize -160 - e = g at *
  have place := ulpExp_lastPlace neg q g
  have triangle := abs_sub_abs_le_abs_sub (1 / (ExactVal.fin neg m e).real) (ExactVal.fin neg q g).real
  have large : (2 : ℝ) ^ 128 + 2 ^ 106 ≤ |(ExactVal.fin neg q g).real| := by
    norm_num at near far triangle ⊢
    linarith
  have unit : (2 : ℝ) ^ ulpExp (.fin neg q g) * 2 ^ 23 ≤ |(ExactVal.fin neg q g).real| := by
    rcases place.2.2 with least | low
    · rw [least]
      refine le_trans ?_ large
      norm_num
    · rw [zpow_add₀ (by norm_num)] at low
      exact_mod_cast low
  simp only
  split
  · next within =>
    obtain ⟨c, k, r, hv, bound⟩ := withinBound_real within
    have off := bound _ Set.left_mem_uIcc
    rw [tolerance_real, if_neg (by rintro ⟨hf, -⟩; cases hf), show unitsOff .rcp = 1 from rfl, Nat.cast_one, one_mul] at off
    have apart := abs_sub_abs_le_abs_sub (ExactVal.fin neg q g).real (ExactVal.fin c k r).real
    rw [abs_sub_comm] at apart
    have tol (u : Int) (hu : ulpExp (.fin c k r) ≤ u) : (2 : ℝ) ^ max (ulpExp (.fin c k r)) (min (ulpExp (.fin neg q g)) (ulpExp (.fin neg q' g))) ≤ (2 : ℝ) ^ u
        ∨ (2 : ℝ) ^ max (ulpExp (.fin c k r)) (min (ulpExp (.fin neg q g)) (ulpExp (.fin neg q' g))) * 2 ^ 23 ≤ |(ExactVal.fin neg q g).real| := by
      rcases le_total (min (ulpExp (.fin neg q g)) (ulpExp (.fin neg q' g))) (ulpExp (.fin c k r)) with own | other
      · rw [max_eq_left own]
        exact .inl (zpow_le_zpow_right₀ (by norm_num) hu)
      · rw [max_eq_right other]
        refine .inr (le_trans ?_ unit)
        gcongr
        · norm_num
        · exact min_le_left ..
    cases hr : ofF32 (Config.specialBits .rcp x) with
    | nan => rw [hr] at hv; cases hv
    | fin d i z =>
      rw [hr] at hv
      obtain ⟨rfl, rfl, rfl⟩ := ExactVal.fin.inj hv
      have below := ofF32_below hr
      rw [p128] at below
      rcases tol 104 (lastPlace_le (ulpExp_lastPlace ..) (ofF32_below hr)) with t | t
      · norm_num at t below large off apart
        linarith
      · norm_num at t below large off apart
        linarith
    | inf d =>
      rw [hr] at hv
      obtain ⟨rfl, rfl, rfl⟩ := ExactVal.fin.inj hv
      congr 1
      by_contra other
      have opposite : |(ExactVal.fin d 1 128).real - (ExactVal.fin neg q g).real| = 2 ^ 128 + |(ExactVal.fin neg q g).real| := by
        have pos : (0 : ℝ) ≤ (q : ℝ) * (2 : ℝ) ^ g := by positivity
        rw [abs_real_fin, real_fin, real_fin, mul_assoc _ (q : ℝ), Nat.cast_one, mul_one, p128]
        generalize (q : ℝ) * (2 : ℝ) ^ g = L at *
        cases d <;> cases neg
        · exact absurd rfl other
        · simp only [signInt, Bool.false_eq_true, if_false, if_true, Int.cast_one, Int.cast_neg, one_mul, neg_mul]
          rw [sub_neg_eq_add, abs_of_nonneg (by positivity)]
        · simp only [signInt, Bool.false_eq_true, if_false, if_true, Int.cast_one, Int.cast_neg, one_mul, neg_mul]
          rw [abs_of_nonpos (by linarith [(by positivity : (0 : ℝ) ≤ 2 ^ 128)])]
          ring
        · exact absurd rfl other
      rw [opposite] at off
      rcases tol 105 (by cases d <;> decide) with t | t
      · norm_num at t large off
        linarith
      · norm_num at t large off
        linarith
  · refine (roundRne_spec neg q g).2 ?_
    rw [p128]
    norm_num at unit large ⊢
    linarith

/-! ### VFRSQ -/

theorem rsq_keeps {x : Word} {m : Nat} {e : Int} (hx : ofF32 x = .fin false m e) (h : m ≠ 0) :
    WithinUnits (ofF32 (special .rsq x)) (1 / Real.sqrt (ExactVal.fin false m e).real) 1 := by
  obtain ⟨small, low, -⟩ := ofF32_fin hx
  have above := ofF32_above hx h
  have positive : 0 < (ExactVal.fin false m e).real := by
    have : (0 : ℝ) < m := by exact_mod_cast Nat.pos_of_ne_zero h
    simp only [ExactVal.real, Bool.false_eq_true, if_false, one_mul]
    positivity
  cases hs : specialExact .rsq (.fin false m e) with
  | some w =>
    obtain ⟨k, power, even, rfl⟩ : ∃ k, powerOf m e = some k ∧ k % 2 = 0 ∧ w = pow2F32 false (-(k / 2)) := by
      unfold specialExact at hs
      simp only [h, if_false, Bool.false_eq_true] at hs
      cases hp : powerOf m e with
      | none => rw [hp] at hs; cases hs
      | some k =>
        rw [hp] at hs
        simp only at hs
        split at hs
        · next even => exact ⟨k, rfl, even, (Option.some.inj hs).symm⟩
        · cases hs
    obtain ⟨value, least⟩ := powerOf_real power false
    have value : (ExactVal.fin false m e).real = (2 : ℝ) ^ k := by rw [value]; simp [signInt]
    have high : k < 128 := by
      have below := ofF32_below hx
      rw [value, abs_of_pos (by positivity)] at below
      exact (zpow_lt_zpow_iff_right₀ (by norm_num)).1 below
    obtain ⟨j, r, read, same⟩ := pow2F32_exact false (k := -(k / 2)) (by omega) (by omega)
    rw [special_of_exact (hx ▸ hs)]
    refine withinUnits_exact 1 read ?_
    have root : (2 : ℝ) ^ k = (2 : ℝ) ^ (k / 2) * (2 : ℝ) ^ (k / 2) := by
      rw [← zpow_add₀ (by norm_num)]
      congr 1
      omega
    rw [same, value, root, Real.sqrt_mul_self (by positivity), zpow_neg]
    simp [signInt]
  | none =>
    obtain ⟨encloses, below⟩ := rsq_encloses (e := e) h small
    refine special_keeps hx hs encloses (by rintro ⟨hf, -⟩; cases hf) (.inr below) ?_
    have root : (2 : ℝ) ^ (-75 : Int) ≤ Real.sqrt (ExactVal.fin false m e).real := by
      rw [abs_of_pos positive] at above
      refine Real.le_sqrt_of_sq_le (le_trans ?_ above)
      norm_num
    have bound : |1 / Real.sqrt (ExactVal.fin false m e).real| ≤ 1 / (2 : ℝ) ^ (-75 : Int) := by
      rw [abs_of_pos (by positivity)]
      gcongr
    refine (add_le_add_left bound _).trans ?_
    norm_num

/-! ### VFEX2 -/

/-- The greatest value of the format below 128 is 2^-17 below it. -/
theorem below_128 {x : Word} {neg : Bool} {m : Nat} {e : Int} (hx : ofF32 x = .fin neg m e) (high : (ExactVal.fin neg m e).real < 128) : (ExactVal.fin neg m e).real ≤ 128 - 1 / 2 ^ 17 := by
  obtain ⟨small, -, -⟩ := ofF32_fin hx
  by_contra close
  have positive : (ExactVal.fin neg m e).real = m * (2 : ℝ) ^ e := by
    rw [real_fin] at close ⊢
    cases neg
    · simp [signInt]
    · have : 0 ≤ (m : ℝ) * (2 : ℝ) ^ e := by positivity
      norm_num [signInt] at close
      linarith
  rw [positive] at high close
  have bits : (m : ℝ) < (2 : ℝ) ^ (24 : Int) := by
    have : (m : ℝ) < ((2 ^ 24 : Nat) : ℝ) := by exact_mod_cast small
    norm_num at this ⊢
    exact this
  have exponent : -17 ≤ e := by
    have big : (2 : ℝ) ^ (6 : Int) < (2 : ℝ) ^ (24 + e) := by
      calc (2 : ℝ) ^ (6 : Int) < m * (2 : ℝ) ^ e := by norm_num at close ⊢; linarith
        _ < (2 : ℝ) ^ (24 : Int) * (2 : ℝ) ^ e := by gcongr
        _ = _ := by rw [← zpow_add₀ (by norm_num)]
    have := (zpow_lt_zpow_iff_right₀ (by norm_num : (1 : ℝ) < 2)).1 big
    omega
  have count : (m : ℝ) * (2 : ℝ) ^ e = ((m * pow2 (e + 17) : Nat) : ℝ) / 2 ^ 17 := by
    push_cast
    rw [pow2_cast (by omega), zpow_add₀ (by norm_num)]
    norm_num
    ring
  rw [count] at high close
  have less : ((m * pow2 (e + 17) : Nat) : ℝ) < ((128 * 2 ^ 17 : Nat) : ℝ) := by
    rw [show ((128 * 2 ^ 17 : Nat) : ℝ) = 128 * 2 ^ 17 by norm_num]
    exact (div_lt_iff₀ (by positivity)).1 high
  have less : m * pow2 (e + 17) + 1 ≤ 128 * 2 ^ 17 := by exact_mod_cast less
  have less : ((m * pow2 (e + 17) : Nat) : ℝ) + 1 ≤ 128 * 2 ^ 17 := by exact_mod_cast less
  refine close ?_
  rw [div_le_iff₀ (by positivity)]
  norm_num at less ⊢
  linarith

theorem ex2_top {y : ℝ} (h : y ≤ 128 - 1 / 2 ^ 17) : |(2 : ℝ) ^ y| + 3 * (2 : ℝ) ^ (105 : Int) ≤ (2 : ℝ) ^ (128 : Int) := by
  have fraction : (2 : ℝ) ^ (-(1 / 2 ^ 17) : ℝ) ≤ 1 - 1 / 2 ^ 18 := by
    have := rpow_one_add_le_one_add_mul_self (s := -1 / 2) (by norm_num) (p := 1 / 2 ^ 17) (by norm_num) (by norm_num)
    rw [Real.rpow_neg (by norm_num), ← Real.inv_rpow (by norm_num)]
    norm_num at this ⊢
    linarith
  have bound : (2 : ℝ) ^ y ≤ 2 ^ 128 * (1 - 1 / 2 ^ 18) := by
    calc (2 : ℝ) ^ y ≤ (2 : ℝ) ^ ((128 : Nat) + -(1 / 2 ^ 17) : ℝ) := Real.rpow_le_rpow_of_exponent_le (by norm_num) (by push_cast; linarith)
      _ = 2 ^ 128 * (2 : ℝ) ^ (-(1 / 2 ^ 17) : ℝ) := by rw [Real.rpow_add (by norm_num), Real.rpow_natCast]
      _ ≤ _ := by gcongr
  rw [abs_of_pos (by positivity)]
  norm_num at bound ⊢
  linarith

theorem ex2_keeps {x : Word} {neg : Bool} {m : Nat} {e : Int} (hx : ofF32 x = .fin neg m e) (h : m ≠ 0) (low : -150 < (ExactVal.fin neg m e).real) (high : (ExactVal.fin neg m e).real < 128) :
    WithinUnits (ofF32 (special .ex2 x)) ((2 : ℝ) ^ (ExactVal.fin neg m e).real) 2 := by
  obtain ⟨small, -, -⟩ := ofF32_fin hx
  have posD : (0 : ℝ) < (pow2 (-e) : Nat) := by exact_mod_cast Nat.two_pow_pos _
  have scaled := count_scaled m e
  have one : (1 : ℝ) ≤ m := by exact_mod_cast Nat.one_le_iff_ne_zero.2 h
  have exponent : 8 < e → (256 : ℝ) < m * (2 : ℝ) ^ e := fun big => by
    have : (2 : ℝ) ^ (8 : Int) < (2 : ℝ) ^ e := zpow_lt_zpow_right₀ (by norm_num) big
    norm_num at this
    nlinarith
  have notLarge : ¬ ((!neg) = true ∧ (8 < e ∨ 128 ≤ m * pow2 e / pow2 (-e))) := by
    rintro ⟨positive, large⟩
    obtain rfl : neg = false := by simpa using positive
    have value : (ExactVal.fin false m e).real = m * (2 : ℝ) ^ e := by simp [ExactVal.real]
    rw [value] at high
    rcases large with big | big
    · linarith [exponent big]
    · have : ((128 * pow2 (-e) : Nat) : ℝ) ≤ ((m * pow2 e : Nat) : ℝ) := by exact_mod_cast (Nat.le_div_iff_mul_le (Nat.two_pow_pos _)).1 big
      rw [scaled] at this
      push_cast at this
      nlinarith
  have notSmall : ¬ (neg = true ∧ (8 < e ∨ 150 * pow2 (-e) ≤ m * pow2 e)) := by
    rintro ⟨rfl, large⟩
    have value : (ExactVal.fin true m e).real = -(m * (2 : ℝ) ^ e) := by simp [ExactVal.real]
    rw [value] at low
    rcases large with big | big
    · linarith [exponent big]
    · have : ((150 * pow2 (-e) : Nat) : ℝ) ≤ ((m * pow2 e : Nat) : ℝ) := by exact_mod_cast big
      rw [scaled] at this
      push_cast at this
      nlinarith
  have table : specialExact .ex2 (.fin neg m e) = if 0 ≤ e ∨ m % pow2 (-e) = 0 then some (pow2F32 false (floorInt neg m e)) else none := by
    unfold specialExact
    simp only [if_neg h, if_neg notLarge, if_neg notSmall]
  by_cases whole : 0 ≤ e ∨ m % pow2 (-e) = 0
  · rw [if_pos whole] at table
    have value := floorInt_whole (neg := neg) whole
    rw [← value] at low high ⊢
    have low' : -150 < floorInt neg m e := by exact_mod_cast low
    have high' : floorInt neg m e < 128 := by exact_mod_cast high
    obtain ⟨j, r, read, same⟩ := pow2F32_exact false (k := floorInt neg m e) (by omega) (by omega)
    rw [special_of_exact (hx ▸ table)]
    refine withinUnits_exact 2 read ?_
    rw [same, Real.rpow_intCast]
    simp [signInt]
  · rw [if_neg whole] at table
    obtain ⟨negative, part⟩ := not_or.1 whole
    refine special_keeps (f := .ex2) hx table ?_ (by rintro ⟨hf, -⟩; cases hf) (.inl rfl) (ex2_top (below_128 hx high))
    by_cases tiny : (Nat.log2 m : Int) + e < -40
    · exact ex2_encloses_tiny h tiny
    · exact ex2_encloses_bits small (not_le.1 negative) part tiny

/-! ### VFLG2 -/

theorem lg2_exact {m : Nat} {e : Int} {x w : Word} (hx : ofF32 x = .fin false m e) (h : m ≠ 0) (exact' : specialExact .lg2 (.fin false m e) = some w) :
    ∃ n j r, ofF32 w = .fin n j r ∧ (ExactVal.fin n j r).real = Real.logb 2 (ExactVal.fin false m e).real := by
  unfold specialExact at exact'
  simp only [h, if_false, Bool.false_eq_true] at exact'
  obtain ⟨k, power, rfl⟩ := Option.map_eq_some_iff.1 exact'
  obtain ⟨value, least⟩ := powerOf_real power false
  have value : (ExactVal.fin false m e).real = (2 : ℝ) ^ k := by rw [value]; simp [signInt]
  obtain ⟨-, low, -⟩ := ofF32_fin hx
  have high : k < 128 := by
    have below := ofF32_below hx
    rw [value, abs_of_pos (by positivity)] at below
    exact (zpow_lt_zpow_iff_right₀ (by norm_num)).1 below
  obtain ⟨n, j, r, read, same⟩ := roundInt_exact (k := k) (abs_le.2 ⟨by omega, by omega⟩)
  refine ⟨n, j, r, read, ?_⟩
  rw [same, value, ← Real.rpow_intCast, Real.logb_rpow (by norm_num) (by norm_num)]

theorem near_iff (m : Nat) (e : Int) : (ExactVal.fin false m e).near = true ↔ 1 / 2 ≤ (ExactVal.fin false m e).real ∧ (ExactVal.fin false m e).real ≤ 2 := by
  have half : (ExactVal.fin false 1 (-1)).real = 1 / 2 := by norm_num [ExactVal.real]
  have two : (ExactVal.fin false 2 0).real = 2 := by norm_num [ExactVal.real]
  simp only [ExactVal.near, Bool.and_eq_true, Bool.not_eq_true', ← Bool.not_eq_true, lt_real, half, two, not_lt]

theorem lg2_near {x : Word} {m : Nat} {e : Int} (hx : ofF32 x = .fin false m e) (h : m ≠ 0) (low : 1 / 2 ≤ (ExactVal.fin false m e).real) (high : (ExactVal.fin false m e).real ≤ 2) :
    ∃ n j r, ofF32 (special .lg2 x) = .fin n j r ∧ |(ExactVal.fin n j r).real - Real.logb 2 (ExactVal.fin false m e).real| ≤ (2 : ℝ) ^ (-22 : Int) := by
  obtain ⟨small, -, -⟩ := ofF32_fin hx
  have log : |Real.logb 2 (ExactVal.fin false m e).real| ≤ 1 := by
    rw [abs_le]
    constructor
    · calc (-1 : ℝ) = Real.logb 2 (1 / 2) := by rw [one_div, Real.logb_inv, Real.logb_self_eq_one (by norm_num)]
        _ ≤ _ := Real.logb_le_logb_of_le (by norm_num) (by norm_num) low
    · calc Real.logb 2 (ExactVal.fin false m e).real ≤ Real.logb 2 2 := Real.logb_le_logb_of_le (by norm_num) (by linarith) high
        _ = 1 := Real.logb_self_eq_one (by norm_num)
  cases hs : specialExact .lg2 (.fin false m e) with
  | some w =>
    obtain ⟨n, j, r, read, same⟩ := lg2_exact hx h hs
    rw [special_of_exact (hx ▸ hs)]
    exact ⟨n, j, r, read, by rw [same, sub_self, abs_zero]; positivity⟩
  | none =>
    obtain ⟨mem, gap⟩ := lg2_mem (e := e) h small
    obtain ⟨v, range, -⟩ := lg2_range (e := e) h small
    rw [special_of_none hx hs]
    rw [range] at mem gap ⊢
    simp only at mem gap ⊢
    split
    · next within =>
      obtain ⟨c, k, q, hv, bound⟩ := withinBound_real within
      have off := bound _ mem
      rw [tolerance_real, if_pos ⟨rfl, (near_iff m e).2 ⟨low, high⟩⟩] at off
      cases hr : ofF32 (Config.specialBits .lg2 x) with
      | nan => rw [hr] at hv; cases hv
      | inf d =>
        rw [hr] at hv
        obtain ⟨rfl, rfl, rfl⟩ := ExactVal.fin.inj hv
        have apart := abs_sub_abs_le_abs_sub (ExactVal.fin d 1 128).real (Real.logb 2 (ExactVal.fin false m e).real)
        rw [abs_real_fin] at apart
        norm_num at apart off
        linarith
      | fin d i z =>
        rw [hr] at hv
        obtain ⟨rfl, rfl, rfl⟩ := ExactVal.fin.inj hv
        exact ⟨_, _, _, rfl, off⟩
    · have near := Set.abs_sub_left_of_mem_uIcc mem
      rw [gap] at near
      have triangle := abs_sub_abs_le_abs_sub (ExactVal.fin (decide (v < 0)) v.natAbs (-110)).real (Real.logb 2 (ExactVal.fin false m e).real)
      rw [abs_sub_comm] at triangle
      have inside : |(ExactVal.fin (decide (v < 0)) v.natAbs (-110)).real| < (2 : ℝ) ^ (1 : Int) := by
        norm_num at near triangle ⊢
        linarith
      have place := ulpExp_lastPlace (v < 0) v.natAbs (-110)
      have unit : ulpExp (.fin (v < 0) v.natAbs (-110)) ≤ -23 := by
        rcases place.2.2 with least | low'
        · omega
        · have := (zpow_lt_zpow_iff_right₀ (by norm_num : (1 : ℝ) < 2)).1 (low'.trans_lt inside)
          omega
      have ulp : (2 : ℝ) ^ ulpExp (.fin (v < 0) v.natAbs (-110)) ≤ (2 : ℝ) ^ (-23 : Int) := zpow_le_zpow_right₀ (by norm_num) unit
      obtain ⟨k, r, read, rounds, -⟩ := (roundRne_spec (v < 0) v.natAbs (-110)).1 (by norm_num at inside ulp ⊢; linarith)
      refine ⟨_, _, _, read, ?_⟩
      have off := abs_sub_le (ExactVal.fin (decide (v < 0)) k r).real (ExactVal.fin (decide (v < 0)) v.natAbs (-110)).real (Real.logb 2 (ExactVal.fin false m e).real)
      rw [abs_sub_comm (ExactVal.fin (decide (v < 0)) v.natAbs (-110)).real (Real.logb 2 _)] at off
      norm_num at near ulp rounds off ⊢
      linarith

theorem lg2_keeps {x : Word} {m : Nat} {e : Int} (hx : ofF32 x = .fin false m e) (h : m ≠ 0) (far : (ExactVal.fin false m e).real < 1 / 2 ∨ 2 < (ExactVal.fin false m e).real) :
    WithinUnits (ofF32 (special .lg2 x)) (Real.logb 2 (ExactVal.fin false m e).real) 2 := by
  obtain ⟨small, -, -⟩ := ofF32_fin hx
  have above := ofF32_above hx h
  have below := ofF32_below hx
  have positive : 0 < (ExactVal.fin false m e).real := by
    have : (0 : ℝ) < m := by exact_mod_cast Nat.pos_of_ne_zero h
    simp only [ExactVal.real, Bool.false_eq_true, if_false, one_mul]
    positivity
  rw [abs_of_pos positive] at above below
  cases hs : specialExact .lg2 (.fin false m e) with
  | some w =>
    obtain ⟨n, j, r, read, same⟩ := lg2_exact hx h hs
    rw [special_of_exact (hx ▸ hs)]
    exact withinUnits_exact 2 read same
  | none =>
    have power (k : Int) : Real.logb 2 ((2 : ℝ) ^ k) = k := by rw [← Real.rpow_intCast, Real.logb_rpow (by norm_num) (by norm_num)]
    have large : 1 ≤ |Real.logb 2 (ExactVal.fin false m e).real| := by
      rcases far with low | high
      · have : Real.logb 2 (ExactVal.fin false m e).real ≤ Real.logb 2 ((2 : ℝ) ^ (-1 : Int)) := Real.logb_le_logb_of_le (by norm_num) positive (by norm_num at low ⊢; exact low.le)
        rw [power] at this
        push_cast at this
        exact le_abs.2 (.inr (by linarith))
      · have : Real.logb 2 ((2 : ℝ) ^ (1 : Int)) ≤ Real.logb 2 (ExactVal.fin false m e).real := Real.logb_le_logb_of_le (by norm_num) (by norm_num) (by norm_num; exact high.le)
        rw [power] at this
        push_cast at this
        exact le_abs.2 (.inl this)
    have bounded : |Real.logb 2 (ExactVal.fin false m e).real| ≤ 149 := by
      have lower := Real.logb_le_logb_of_le (b := 2) (by norm_num) (by positivity) above
      have upper := Real.logb_le_logb_of_le (b := 2) (by norm_num) positive below.le
      rw [power] at lower upper
      push_cast at lower upper
      exact abs_le.2 ⟨by linarith, by linarith⟩
    refine special_keeps (f := .lg2) hx hs (lg2_encloses h small large) ?_ (.inl rfl) ?_
    · rintro ⟨-, near⟩
      obtain ⟨low, high⟩ := (near_iff m e).1 near
      rcases far with far | far <;> linarith
    · refine (add_le_add_left bounded _).trans ?_
      norm_num

/-- Proves O60: two values enclose each true result, and the result returned is within the bound of every number between them. -/
theorem specialFunctionBounds : Obligations.SpecialFunctionBounds := by
  intro x neg m e hx nonzero val unit a r finite keeps
  have read (v : ExactVal) : val v = v.real := by cases v <;> rfl
  have operand : a = (ExactVal.fin neg m e).real := (read _).trans (by rw [hx])
  have kept {fn : Config.SpecialFn} {y : ℝ} {n : Nat} (h : WithinUnits (ofF32 (special fn x)) y n) : keeps fn y n := by
    obtain ⟨c, k, q, result, u, place, off⟩ := h
    have value : val (r fn) = (ExactVal.fin c k q).real := (read _).trans (congrArg ExactVal.real result)
    refine ⟨⟨c, k, q, result⟩, u, ?_, ?_⟩
    · rw [value]
      exact place
    · rw [value]
      exact off
  rw [operand]
  refine ⟨fun large => kept (rcp_keeps hx nonzero large), fun tiny => rcp_beyond hx nonzero tiny, fun positive => ?_, fun low high => kept (ex2_keeps hx nonzero low high), fun positive low high => ?_, fun positive far => ?_⟩
  · subst positive
    exact kept (rsq_keeps hx nonzero)
  · subst positive
    obtain ⟨c, k, q, result, off⟩ := lg2_near hx nonzero low high
    have value : val (r .lg2) = (ExactVal.fin c k q).real := (read _).trans (congrArg ExactVal.real result)
    rw [value]
    exact ⟨⟨c, k, q, result⟩, off⟩
  · subst positive
    exact kept (lg2_keeps hx nonzero far)

end Sys2Proof.Machine
end
